-- ==== Sys2Proof/Word.lean ====
section
/-!
DEFINITION. The word types of the model and their plainest arithmetic.
-/

namespace Sys2Proof

/-- A byte. -/
abbrev Byte := BitVec 8
/-- A 32-bit lane value, scalar or register word (spec R95, R150). -/
abbrev W32 := BitVec 32
/-- A 64-bit value: a VA, a PC or a 64-bit register (R7, R197). -/
abbrev W64 := BitVec 64
/-- A 52-bit chip-wide intermediate address (R14). -/
abbrev IA := BitVec 52
/-- A set of lanes, bit l for lane l (R147). -/
abbrev Lanes := BitVec 64
/-- A 96-bit instruction word (R197). -/
abbrev IWord := BitVec 96
/-- An owner or a context number (R127). -/
abbrev Id12 := BitVec 12

end Sys2Proof
end

