-- ==== Sys2Proof/Syntax.lean ====
section
/-!
DEFINITION. The syntax: operands, modifiers and the one inductive of all steps of the machine. Every row of
the opcode table is a constructor: the 149 instructions, with the fields of their words already taken
apart, and the 90 events of the device, with what they are about.
-/

namespace Sys2Proof

/-- The two instruction streams of a group (R150). -/
inductive Slice | a | c
  deriving DecidableEq, Repr

/-- TYPE codes 0 to 14 of Table 9-6 (R212). -/
inductive Ty
  | b32 | s32 | b16 | s16 | b8 | s8 | b64 | f32 | f16 | bf16 | e4m3 | e5m2 | e2m1 | f16x2 | bf16x2
  deriving DecidableEq, Repr

/-- Rounding modes (R98). -/
inductive Rnd | rne | rz | rup | rdn | rna
  deriving DecidableEq, Repr

/-- Scopes (R62). -/
inductive Scope | grp | core | pair | clu | die | dev | sys
  deriving DecidableEq, Repr

/-- Orders (R63). -/
inductive Order | rlx | acq | rel | ar | sc
  deriving DecidableEq, Repr

/-- Cross-lane modifiers (R214). -/
inductive Xlm | none | bc | xor | up | dn | rot
  deriving DecidableEq, Repr

/-- Operand fields (R201). A field that an instruction does not use, all zeros, reads as `vec 0`. -/
inductive Opnd
  | vec  (n : BitVec 8)
  | sca  (n : BitVec 6)
  | ind  (base : BitVec 8) (ix : BitVec 2)
  | pred (n : BitVec 3)
  | que  (q : BitVec 3)
  | imm  (i : BitVec 13)
  | spc  (n : BitVec 4)
  | long (i : W32)
  deriving DecidableEq, Repr

/-- Third source of layout MF (R208). -/
inductive Src3
  | vec  (n : BitVec 8)
  | sca  (n : BitVec 6)
  | que  (q : BitVec 3)
  | pred (n : BitVec 3)
  deriving DecidableEq, Repr

/-- Guard and hint bits (R198 to R200). -/
structure Hdr where
  gp  : BitVec 3
  gn  : Bool
  sw  : Bool
  yld : Bool
  ru  : BitVec 3
  deriving DecidableEq, Repr

/-- Layout MA (R207). -/
structure MA where
  ty  : Ty
  rnd : Rnd
  sat : Bool
  xlm : Xlm
  xls : BitVec 6
  na  : Bool
  nb  : Bool
  aa  : Bool
  ab  : Bool
  sub : BitVec 4
  deriving DecidableEq, Repr

/-- Layout MF (R207, R208). -/
structure MF where
  ty    : Ty
  rnd   : Rnd
  sat   : Bool
  c     : Src3
  nprod : Bool
  nc    : Bool
  sub   : BitVec 2
  deriving DecidableEq, Repr

/-- Layout MM (R207, R210). `aop` is AOP or NVEC; `hint` is CHINT or MODE. -/
structure MM where
  ty     : Ty
  scope  : Scope
  ord    : Order
  iscale : BitVec 2
  hint   : BitVec 2
  aop    : BitVec 4
  ofs    : BitVec 8
  deriving DecidableEq, Repr

/-- Layout MB: target offset of MOD and join offset of OPD (R211). -/
structure MB where
  tgt  : BitVec 26
  join : BitVec 16
  deriving DecidableEq, Repr

/-- Layout MX (R207, R304). -/
structure MX where
  aty   : Ty
  bty   : Ty
  shape : BitVec 2
  acc   : Bool
  nega  : Bool
  band  : BitVec 6
  sub   : BitVec 4
  deriving DecidableEq, Repr

/-- The fields of LOP3 (R246). -/
structure MLop where
  ty    : Ty
  c     : Src3
  truth : BitVec 8
  deriving DecidableEq, Repr

/-- The fields of SMP and SLD (R290). -/
structure MSmp where
  ty    : Ty
  scope : Scope
  ssi   : BitVec 8
  nch   : BitVec 2
  deriving DecidableEq, Repr

/-- The MOD fields of the engines (R294, Table 12-7); CMD is the constructor's. -/
structure MEng where
  bar  : BitVec 6
  ssp  : Bool
  dsp  : Bool
  hint : BitVec 2
  deriving DecidableEq, Repr

/-- What every Vanar message carries (R360): the endpoint slot it is exchanged with, its number in its
stream, its tag and its ADDR field. -/
structure MsgHdr where
  slot : Nat
  seq  : W32
  tag  : W32
  addr : W64
  deriving DecidableEq, Repr

/-- A kick of a context: of LAUNCH (R317), or the message of an endpoint (R359). -/
inductive Kick
  | own (ctx : Nat)
  | message (h : MsgHdr) (ctx : Nat)
  deriving DecidableEq, Repr

/-- A frame that a port receives, from its destination MAC to the end of its payload (R360). -/
structure PortFrame where
  port  : Nat
  bytes : List Byte
  deriving DecidableEq, Repr

/-- The caches that hold dirty lines (R36). -/
inductive CacheId | l1 (core : Nat) | rdc (die : Nat) | l2 (die : Nat) | mdc (die : Nat)
  deriving DecidableEq, Repr

/-- The time sources of R365: IEEE 802.1AS, or IEEE 1588 with SMPTE ST 2059-2. -/
inductive TimeSource | gptp | ptp
  deriving DecidableEq, Repr

/-- The time that a source reports, in nanoseconds (R365). -/
structure TimeReport where
  source : TimeSource
  time   : W64
  deriving DecidableEq, Repr

/-- The units that wear monitors watch (Table 16-6); links 0 to 5 join the pairs of C-dies, links 6 to 9 a C-die and the I/O die. -/
inductive WearUnit
  | cluster (die clu : Nat)
  | sram (die : Nat)
  | dieLink (link : Nat)
  | ethernet (port : Nat)
  | memRow (ia : IA)
  deriving DecidableEq, Repr

/-- The steps of the machine, one constructor per row of the opcode table. -/
inductive Instr
  /-- NOP (R242). -/
  | nop (h : Hdr)
  /-- BRA (R225). -/
  | bra (h : Hdr) (m : MB)
  /-- BRX (R226). -/
  | brx (h : Hdr) (a : Opnd) (m : MB)
  /-- CALL (R225). -/
  | call (h : Hdr) (b : Opnd) (m : MB)
  /-- CALLX (R227). -/
  | callx (h : Hdr) (a : Opnd) (b : Opnd) (m : MB)
  /-- RET (R227). -/
  | ret (h : Hdr) (a : Opnd)
  /-- EXIT (R229). -/
  | exitL (h : Hdr)
  /-- BRQ (R231). -/
  | brq (h : Hdr) (a : Opnd) (b : Opnd) (m : MB)
  /-- PUSHB (R230). -/
  | pushb (h : Hdr) (d : Opnd) (a : Opnd) (tag : BitVec 4)
  /-- QPUSH (R233). -/
  | qpush (h : Hdr) (d : Opnd) (a : Opnd)
  /-- QPOP (R233). -/
  | qpop (h : Hdr) (d : Opnd) (a : Opnd) (disc : Bool)
  /-- QSYNC (R234). -/
  | qsync (h : Hdr) (qmask : BitVec 8)
  /-- SLIP (R235). -/
  | slip (h : Hdr) (a : Opnd)
  /-- WAITC (R236). -/
  | waitc (h : Hdr) (a : Opnd) (path : BitVec 2)
  /-- WAITALL (R237). -/
  | waitall (h : Hdr) (mem : Bool)
  /-- TRAP (R238). -/
  | trap (h : Hdr) (code : BitVec 12)
  /-- BKPT (R238). -/
  | bkpt (h : Hdr) (code : BitVec 12)
  /-- RACQ (R240). -/
  | racq (h : Hdr) (d : Opnd) (a : Opnd) (tryIt : Bool)
  /-- RREL (R241). -/
  | rrel (h : Hdr) (a : Opnd)
  /-- IADD (R245). -/
  | iadd (h : Hdr) (d : Opnd) (a : Opnd) (b : Opnd) (m : MA)
  /-- ISUB (R245). -/
  | isub (h : Hdr) (d : Opnd) (a : Opnd) (b : Opnd) (m : MA)
  /-- IMUL (R245). -/
  | imul (h : Hdr) (d : Opnd) (a : Opnd) (b : Opnd) (m : MA)
  /-- IMULH (R245). -/
  | imulh (h : Hdr) (d : Opnd) (a : Opnd) (b : Opnd) (m : MA)
  /-- IMAD (R245). -/
  | imad (h : Hdr) (d : Opnd) (a : Opnd) (b : Opnd) (m : MF)
  /-- IMIN (R245). -/
  | imin (h : Hdr) (d : Opnd) (a : Opnd) (b : Opnd) (m : MA)
  /-- IMAX (R245). -/
  | imax (h : Hdr) (d : Opnd) (a : Opnd) (b : Opnd) (m : MA)
  /-- IABS (R245). -/
  | iabs (h : Hdr) (d : Opnd) (b : Opnd) (m : MA)
  /-- INEG (R245). -/
  | ineg (h : Hdr) (d : Opnd) (b : Opnd) (m : MA)
  /-- AND (R245). -/
  | andB (h : Hdr) (d : Opnd) (a : Opnd) (b : Opnd) (m : MA)
  /-- OR (R245). -/
  | orB (h : Hdr) (d : Opnd) (a : Opnd) (b : Opnd) (m : MA)
  /-- XOR (R245). -/
  | xorB (h : Hdr) (d : Opnd) (a : Opnd) (b : Opnd) (m : MA)
  /-- NOT (R245). -/
  | notB (h : Hdr) (d : Opnd) (b : Opnd) (m : MA)
  /-- LOP3 (R246). -/
  | lop3 (h : Hdr) (d : Opnd) (a : Opnd) (b : Opnd) (lop : MLop)
  /-- SHL (R247). -/
  | shl (h : Hdr) (d : Opnd) (a : Opnd) (b : Opnd) (m : MA)
  /-- SHR (R247). -/
  | shr (h : Hdr) (d : Opnd) (a : Opnd) (b : Opnd) (m : MA)
  /-- SAR (R247). -/
  | sar (h : Hdr) (d : Opnd) (a : Opnd) (b : Opnd) (m : MA)
  /-- ROT (R247). -/
  | rot (h : Hdr) (d : Opnd) (a : Opnd) (b : Opnd) (m : MA)
  /-- BFE (R248). -/
  | bfe (h : Hdr) (d : Opnd) (a : Opnd) (b : Opnd) (m : MA)
  /-- BFI (R248). -/
  | bfi (h : Hdr) (d : Opnd) (a : Opnd) (b : Opnd) (m : MF)
  /-- POPC (R245). -/
  | popc (h : Hdr) (d : Opnd) (b : Opnd) (m : MA)
  /-- CLZ (R245). -/
  | clz (h : Hdr) (d : Opnd) (b : Opnd) (m : MA)
  /-- BREV (R245). -/
  | brev (h : Hdr) (d : Opnd) (b : Opnd) (m : MA)
  /-- ISETP (R249). -/
  | isetp (h : Hdr) (d : Opnd) (a : Opnd) (b : Opnd) (m : MA)
  /-- SEL (R249). -/
  | sel (h : Hdr) (d : Opnd) (a : Opnd) (b : Opnd) (m : MF)
  /-- MOV (R245). -/
  | mov (h : Hdr) (d : Opnd) (b : Opnd) (m : MA)
  /-- MOVI (R245). -/
  | movi (h : Hdr) (d : Opnd) (imm : W32)
  /-- LEA (R250). -/
  | lea (h : Hdr) (d : Opnd) (a : Opnd) (b : Opnd) (m : MA)
  /-- AADD (R250). -/
  | aadd (h : Hdr) (d : Opnd) (a : Opnd) (b : Opnd) (m : MA)
  /-- PLOP (R251). -/
  | plop (h : Hdr) (d : Opnd) (a : Opnd) (b : Opnd) (m : MA)
  /-- PMOV (R251). -/
  | pmov (h : Hdr) (d : Opnd) (b : Opnd) (m : MA)
  /-- FADD (R257). -/
  | fadd (h : Hdr) (d : Opnd) (a : Opnd) (b : Opnd) (m : MA)
  /-- FSUB (R257). -/
  | fsub (h : Hdr) (d : Opnd) (a : Opnd) (b : Opnd) (m : MA)
  /-- FMUL (R257). -/
  | fmul (h : Hdr) (d : Opnd) (a : Opnd) (b : Opnd) (m : MA)
  /-- FFMA (R257). -/
  | ffma (h : Hdr) (d : Opnd) (a : Opnd) (b : Opnd) (m : MF)
  /-- FMIN (R258). -/
  | fmin (h : Hdr) (d : Opnd) (a : Opnd) (b : Opnd) (m : MA)
  /-- FMAX (R258). -/
  | fmax (h : Hdr) (d : Opnd) (a : Opnd) (b : Opnd) (m : MA)
  /-- FSETP (R259). -/
  | fsetp (h : Hdr) (d : Opnd) (a : Opnd) (b : Opnd) (m : MA)
  /-- FCLASS (R260). -/
  | fclass (h : Hdr) (d : Opnd) (b : Opnd) (m : MA)
  /-- FRND (R257). -/
  | frnd (h : Hdr) (d : Opnd) (b : Opnd) (m : MA)
  /-- FFRC (R261). -/
  | ffrc (h : Hdr) (d : Opnd) (b : Opnd) (m : MA)
  /-- FDIV (R257). -/
  | fdiv (h : Hdr) (d : Opnd) (a : Opnd) (b : Opnd) (m : MA)
  /-- FSQRT (R257). -/
  | fsqrt (h : Hdr) (d : Opnd) (b : Opnd) (m : MA)
  /-- FRCP (R263). -/
  | frcp (h : Hdr) (d : Opnd) (b : Opnd) (m : MA)
  /-- FRSQ (R263). -/
  | frsq (h : Hdr) (d : Opnd) (b : Opnd) (m : MA)
  /-- FEX2 (R263). -/
  | fex2 (h : Hdr) (d : Opnd) (b : Opnd) (m : MA)
  /-- FLG2 (R263). -/
  | flg2 (h : Hdr) (d : Opnd) (b : Opnd) (m : MA)
  /-- FSIN (R263). -/
  | fsin (h : Hdr) (d : Opnd) (b : Opnd) (m : MA)
  /-- FCOS (R263). -/
  | fcos (h : Hdr) (d : Opnd) (b : Opnd) (m : MA)
  /-- FTANH (R263). -/
  | ftanh (h : Hdr) (d : Opnd) (b : Opnd) (m : MA)
  /-- HADD2 (R257). -/
  | hadd2 (h : Hdr) (d : Opnd) (a : Opnd) (b : Opnd) (m : MA)
  /-- HMUL2 (R257). -/
  | hmul2 (h : Hdr) (d : Opnd) (a : Opnd) (b : Opnd) (m : MA)
  /-- HFMA2 (R257). -/
  | hfma2 (h : Hdr) (d : Opnd) (a : Opnd) (b : Opnd) (m : MF)
  /-- HMIN2 (R258). -/
  | hmin2 (h : Hdr) (d : Opnd) (a : Opnd) (b : Opnd) (m : MA)
  /-- HMAX2 (R258). -/
  | hmax2 (h : Hdr) (d : Opnd) (a : Opnd) (b : Opnd) (m : MA)
  /-- FDOT2 (R262). -/
  | fdot2 (h : Hdr) (d : Opnd) (a : Opnd) (b : Opnd) (m : MF)
  /-- IDOT4 (R262). -/
  | idot4 (h : Hdr) (d : Opnd) (a : Opnd) (b : Opnd) (m : MF)
  /-- CVT (R265). -/
  | cvt (h : Hdr) (d : Opnd) (b : Opnd) (m : MA)
  /-- PACK (R266). -/
  | pack (h : Hdr) (d : Opnd) (a : Opnd) (b : Opnd) (m : MA)
  /-- PRMT (R267). -/
  | prmt (h : Hdr) (d : Opnd) (a : Opnd) (b : Opnd) (m : MF)
  /-- VOTE (R268). -/
  | vote (h : Hdr) (d : Opnd) (b : Opnd) (m : MA)
  /-- REDX (R270). -/
  | redx (h : Hdr) (d : Opnd) (b : Opnd) (m : MA)
  /-- SCAN (R270). -/
  | scan (h : Hdr) (d : Opnd) (b : Opnd) (m : MA)
  /-- ELECT (R269). -/
  | elect (h : Hdr) (d : Opnd)
  /-- MATCH (R271). -/
  | matchL (h : Hdr) (d : Opnd) (b : Opnd) (m : MA)
  /-- LDQ (R281). -/
  | ldq (h : Hdr) (d : Opnd) (a : Opnd) (b : Opnd) (m : MM)
  /-- LDR (R281). -/
  | ldr (h : Hdr) (d : Opnd) (a : Opnd) (b : Opnd) (m : MM)
  /-- ST (R281). -/
  | st (h : Hdr) (d : Opnd) (a : Opnd) (b : Opnd) (m : MM)
  /-- LDK (R281). -/
  | ldk (h : Hdr) (d : Opnd) (a : Opnd) (b : Opnd) (m : MM)
  /-- LDT (R282). -/
  | ldt (h : Hdr) (d : Opnd) (a : Opnd) (b : Opnd) (m : MM)
  /-- STT (R282). -/
  | stt (h : Hdr) (d : Opnd) (a : Opnd) (b : Opnd) (m : MM)
  /-- LDSP (R283). -/
  | ldsp (h : Hdr) (d : Opnd) (a : Opnd) (b : Opnd) (m : MM)
  /-- STSP (R283). -/
  | stsp (h : Hdr) (d : Opnd) (a : Opnd) (b : Opnd) (m : MM)
  /-- ATOM (R286). -/
  | atom (h : Hdr) (d : Opnd) (a : Opnd) (b : Opnd) (m : MM)
  /-- RED (R286). -/
  | red (h : Hdr) (a : Opnd) (b : Opnd) (m : MM)
  /-- ATSP (R286). -/
  | atsp (h : Hdr) (d : Opnd) (a : Opnd) (b : Opnd) (m : MM)
  /-- PFX (R287). -/
  | pfx (h : Hdr) (a : Opnd) (b : Opnd) (m : MM)
  /-- FENCE (R288). -/
  | fence (h : Hdr) (m : MM)
  /-- PFENCE (R75). -/
  | pfence (h : Hdr) (scope : Scope) (src : BitVec 4) (dst : BitVec 4)
  /-- SMP (R291). -/
  | smp (h : Hdr) (d : Opnd) (a : Opnd) (b : Opnd) (smp : MSmp)
  /-- SLD (R291). -/
  | sld (h : Hdr) (d : Opnd) (a : Opnd) (b : Opnd) (sld : MSmp)
  /-- XFORM_ZERO (R57). -/
  | xformZero (h : Hdr) (a : Opnd) (eng : MEng)
  /-- XFORM_FILL (R57). -/
  | xformFill (h : Hdr) (a : Opnd) (eng : MEng)
  /-- XFORM_TRANSPOSE (R57). -/
  | xformTranspose (h : Hdr) (a : Opnd) (eng : MEng)
  /-- SYNCT (R169). -/
  | synct (h : Hdr)
  /-- MBINIT (R293). -/
  | mbinit (h : Hdr) (a : Opnd) (b : Opnd)
  /-- MBARV (R293). -/
  | mbarv (h : Hdr) (d : Opnd) (a : Opnd) (b : Opnd) (rlx : Bool)
  /-- MBEXP (R293). -/
  | mbexp (h : Hdr) (d : Opnd) (a : Opnd) (b : Opnd) (rlx : Bool) (arv : Bool)
  /-- MBWAIT (R293). -/
  | mbwait (h : Hdr) (a : Opnd) (b : Opnd)
  /-- MBTEST (R293). -/
  | mbtest (h : Hdr) (d : Opnd) (a : Opnd) (b : Opnd)
  /-- BCOPY (R295). -/
  | bcopy (h : Hdr) (a : Opnd) (eng : MEng)
  /-- BCOPY2 (R295). -/
  | bcopy2 (h : Hdr) (a : Opnd) (eng : MEng)
  /-- BGATH (R295). -/
  | bgath (h : Hdr) (a : Opnd) (b : Opnd) (eng : MEng)
  /-- WLPUSH (R298). -/
  | wlpush (h : Hdr) (d : Opnd) (a : Opnd) (b : Opnd)
  /-- WLPOP (R298). -/
  | wlpop (h : Hdr) (d : Opnd) (a : Opnd) (b : Opnd)
  /-- WLQUIET (R298). -/
  | wlquiet (h : Hdr) (d : Opnd) (a : Opnd) (b : Opnd)
  /-- FILLDONE (R119). -/
  | filldone (h : Hdr) (d : Opnd)
  /-- FILLFAIL (R299). -/
  | fillfail (h : Hdr) (d : Opnd) (a : Opnd)
  /-- PREVICT (R124). -/
  | previct (h : Hdr) (d : Opnd) (a : Opnd)
  /-- FILLQ (R299). -/
  | fillq (h : Hdr) (d : Opnd) (a : Opnd)
  /-- CSTEP (R300). -/
  | cstep (h : Hdr) (a : Opnd) (b : Opnd) (bar : BitVec 6)
  /-- CABORT (R301). -/
  | cabort (h : Hdr) (a : Opnd)
  /-- MMA (R306). -/
  | mma (h : Hdr) (d : Opnd) (a : Opnd) (b : Opnd) (m : MX)
  /-- MMD (R306). -/
  | mmd (h : Hdr) (d : Opnd) (a : Opnd) (b : Opnd) (m : MX)
  /-- HAD (R307). -/
  | had (h : Hdr) (d : Opnd) (a : Opnd) (hadn : BitVec 2) (hadk : BitVec 5)
  /-- QNT (R308). -/
  | qnt (h : Hdr) (d : Opnd) (a : Opnd) (b : Opnd)
  /-- CBLD (R307). -/
  | cbld (h : Hdr) (a : Opnd)
  /-- SPL (R310). -/
  | spl (h : Hdr) (d : Opnd) (a : Opnd)
  /-- GPL (R310). -/
  | gpl (h : Hdr) (d : Opnd) (wait : Bool)
  /-- GRANT (R312). -/
  | grant (h : Hdr) (d : Opnd) (a : Opnd)
  /-- REVOKE (R143). -/
  | revoke (h : Hdr) (d : Opnd) (a : Opnd)
  /-- PASSQ (R312). -/
  | passq (h : Hdr) (d : Opnd) (a : Opnd)
  /-- EMITV (R314). -/
  | emitv (h : Hdr) (a : Opnd) (b : Opnd) (cnt : BitVec 2) (word : BitVec 4)
  /-- EMITP (R314). -/
  | emitp (h : Hdr) (a : Opnd) (b : Opnd)
  /-- MESHEND (R314). -/
  | meshend (h : Hdr) (a : Opnd) (b : Opnd)
  /-- TLD (R315). -/
  | tld (h : Hdr) (d : Opnd) (a : Opnd) (ty : Ty) (nvec : BitVec 4)
  /-- TSTO (R315). -/
  | tsto (h : Hdr) (d : Opnd) (a : Opnd) (ty : Ty) (nvec : BitVec 4)
  /-- DISC (R316). -/
  | disc (h : Hdr)
  /-- OWNQ (R313). -/
  | ownq (h : Hdr) (d : Opnd) (a : Opnd) (b : Opnd)
  /-- LAUNCH (R317). -/
  | launch (h : Hdr) (d : Opnd) (a : Opnd)
  /-- GETS (R318). -/
  | gets (h : Hdr) (d : Opnd) (idx : BitVec 9) (w64 : Bool)
  /-- SETS (R318). -/
  | sets (h : Hdr) (a : Opnd) (idx : BitVec 9) (w64 : Bool)
  /-- TRET (R320). -/
  | tret (h : Hdr)
  /-- PREEMPT (R322). -/
  | preempt (h : Hdr) (d : Opnd) (a : Opnd) (b : Opnd)
  /-- PREEMPT_REL (R322). -/
  | preemptRel (h : Hdr) (d : Opnd) (a : Opnd)
  /-- CSAVE (R323). -/
  | csave (h : Hdr) (d : Opnd) (a : Opnd)
  /-- CREST (R325). -/
  | crest (h : Hdr) (d : Opnd) (a : Opnd)
  /-- IAINV (R34). -/
  | iainv (h : Hdr) (a : Opnd) (b : Opnd)
  /-- IAINV_ALL (R34). -/
  | iainvAll (h : Hdr) (a : Opnd)
  /-- PRESENT (R326). -/
  | present (h : Hdr) (d : Opnd) (a : Opnd) (b : Opnd)
  /-- TEAM_HALT_COMPLETE (R191). -/
  | teamHaltComplete (team : Nat)
  /-- DEFERRED_TRAP (R400). -/
  | deferredTrap (acc : Nat)
  /-- ERROR_RING_RETRY (R192). -/
  | errorRingRetry (ctx : Nat)
  /-- HOME_ACCESS (R129). -/
  | homeAccess (acc lane : Nat)
  /-- WALK_SLOT_FREE (R18). -/
  | walkSlotFree (acc : Nat)
  /-- FAULT_BATCH_RETRY (R24). -/
  | faultBatchRetry (ctx : Nat)
  /-- REPLAY_REISSUE (R28). -/
  | replayReissue (acc lane : Nat)
  /-- LOAD_DATA_RETURN (R278). -/
  | loadDataReturn (acc : Nat) (lanes : Lanes)
  /-- VARLAT_RESULT_WRITE (R165). -/
  | varlatResultWrite (gid : Nat) (sl : Slice) (res : Nat) (lanes : Lanes)
  /-- QS_STORE_DATA (R69). -/
  | qsStoreData (acc : Nat)
  /-- DIRTY_WRITE_DROPPED (R399). -/
  | dirtyWriteDropped (cache : CacheId) (line : Nat)
  /-- LAYOUT_T_WRITE (R50). -/
  | layoutTWrite (acc lane : Nat)
  /-- TRANSFORM_BANK_PART (R58). -/
  | transformBankPart (eng part : Nat)
  /-- ENGINE_UNIT_DONE (R296). -/
  | engineUnitDone (eng unit : Nat)
  /-- MIGPROD_WRITE (R30). -/
  | migprodWrite (home : Nat) (value : W32)
  /-- MIGRATION_COMMAND_START (R29). -/
  | migrationCommandStart (home : Nat)
  /-- MIGRATION_ROUND_END (R31). -/
  | migrationRoundEnd (home cmd : Nat)
  /-- MIGRATION_FREEZE_DONE (R31). -/
  | migrationFreezeDone (home cmd : Nat)
  /-- PRT_ENTRY_WRITE (R110). -/
  | prtEntryWrite (die entry : Nat)
  /-- FILL_REQUEST_RETRY (R116). -/
  | fillRequestRetry (acc lane : Nat)
  /-- HOST_FILL_RETRY (R115). -/
  | hostFillRetry (slot : Nat) (tag : W32)
  /-- FILL_TIMEOUT (R122). -/
  | fillTimeout (die entry block : Nat)
  /-- SURFACE_DESCRIPTOR_WRITE (R133). -/
  | surfaceDescriptorWrite (index : Nat)
  /-- CONTEXT_DESCRIPTOR_WRITE (R172). -/
  | contextDescriptorWrite (ctx : Nat)
  /-- KICK (R178). -/
  | kick (k : Kick)
  /-- TEAM_PLACE (R180). -/
  | teamPlace
  /-- LEVEL_AGING (R179). -/
  | levelAging (launch : Nat)
  /-- PLACEMENT_RESERVE (R181). -/
  | placementReserve (launch : Nat)
  /-- DEADLINE_HOLD (R187). -/
  | deadlineHold (launch : Nat)
  /-- TEAM_RESTORE (R194). -/
  | teamRestore (team : Nat)
  /-- GROUP_CLEARED (R166). -/
  | groupCleared (gid : Nat)
  /-- GROUP_RETIRE (R167). -/
  | groupRetire (gid : Nat)
  /-- QDEADLOCK (R157). -/
  | qdeadlock (team : Nat)
  /-- BARRIER_STALL (R169). -/
  | barrierStall (team : Nat) (sl : Slice)
  /-- EMERGENCY_RESERVE_GRANT (R151). -/
  | emergencyReserveGrant (core : Nat)
  /-- RACQ_GRANT (R240). -/
  | racqGrant (gid : Nat)
  /-- ISSUE_CYCLE (R182). -/
  | issueCycle (core : Nat)
  /-- FETCH_SLOT_SWITCH (R163). -/
  | fetchSlotSwitch (gid : Nat) (sl : Slice)
  /-- ICACHE_FILL (R164). -/
  | icacheFill (gid : Nat) (sl : Slice)
  /-- GRAPHICS_CONTEXT_ENTRY_WRITE (R336). -/
  | graphicsContextEntryWrite (ctx : Nat)
  /-- GRAPHICS_PACKET_START (R338). -/
  | graphicsPacketStart (ctx : Nat)
  /-- BINNING (R340). -/
  | binning (draw : Nat)
  /-- TILE_PASS_START (R342). -/
  | tilePassStart (draw tile core : Nat)
  /-- TILE_INVOCATION_START (R344). -/
  | tileInvocationStart (draw : Nat)
  /-- TILE_WRITE_OUT (R346). -/
  | tileWriteOut (draw : Nat)
  /-- TILE_PASS_ABANDON (R345). -/
  | tilePassAbandon (draw : Nat)
  /-- FIELD_START (R353). -/
  | fieldStart (view : Nat)
  /-- OUTPUT_ENABLE (R351). -/
  | outputEnable (view : Nat) (value : W32)
  /-- HDCP_STATE_CHANGE (R146). -/
  | hdcpStateChange (view : Nat) (active : Bool)
  /-- VANAR_READ (R360). -/
  | vanarRead (h : MsgHdr) (count : Nat) (scope : Scope) (ord : Order)
  /-- VANAR_WRITE (R360). -/
  | vanarWrite (h : MsgHdr) (scope : Scope) (ord : Order) (data : List Byte)
  /-- VANAR_ATOMIC (R360). -/
  | vanarAtomic (h : MsgHdr) (aop : BitVec 4) (ty : Ty) (scope : Scope) (ord : Order) (v new : W64)
  /-- CFGREAD (R360). -/
  | cfgread (h : MsgHdr) (size : Nat)
  /-- CFGWRITE (R360). -/
  | cfgwrite (h : MsgHdr) (size : Nat) (value : W64)
  /-- RECOVERY: its LEN, and the bytes after the header, of which LEN are its payload (R360, R380). -/
  | recovery (h : MsgHdr) (len : Nat) (data : List Byte)
  /-- VANAR_ABORT (R367). -/
  | vanarAbort (h : MsgHdr) (cgid code : BitVec 16)
  /-- VANAR_STEP (R367). -/
  | vanarStep (h : MsgHdr) (cgid : BitVec 16) (committed : W32)
  /-- VANAR_RESPONSE (R362). -/
  | vanarResponse (h : MsgHdr) (status : W32) (data : List Byte)
  /-- ACK (R362). -/
  | ack (slot : Nat) (e : W32) (accepted : W64)
  /-- ACK_DUE (R360). -/
  | ackDue (slot : Nat)
  /-- COLLECTIVE_STEP_TIMEOUT (R367). -/
  | collectiveStepTimeout (cgid : BitVec 16) (member : Nat)
  /-- RESEND_TIMEOUT (R363). -/
  | resendTimeout (slot : Nat) (seq : W32)
  /-- PATH_FAILURE_TIMEOUT (R363). -/
  | pathFailureTimeout (slot : Nat) (seq : W32)
  /-- LINK_DOWN (R363). -/
  | linkDown (port : Nat)
  /-- PORT_PROBE (R363). -/
  | portProbe (port : Nat) (answered : Bool)
  /-- VOLTAGE_RAMP_DONE (R369). -/
  | voltageRampDone (cl : Nat)
  /-- FCLK_CHANGE_DONE (R369). -/
  | fclkChangeDone (cl : Nat)
  /-- CLOCK_CROSSING_DONE (R369). -/
  | clockCrossingDone (cl : Nat)
  /-- POWER_SAMPLE (R370). -/
  | powerSample (watts : Nat)
  /-- STALL_SAMPLE (R371). -/
  | stallSample (cl : Nat) (memStall issStall : BitVec 16)
  /-- TIMING_ERROR_ENCORE (R378). -/
  | timingErrorEncore (cl : Nat)
  /-- COMMIT (R372). -/
  | commit
  /-- COOL_REPORT_MISSING (R372). -/
  | coolReportMissing
  /-- GHOST_LIGHT_ENTER (R375). -/
  | ghostLightEnter (value : W32)
  /-- WAKE_PHRASE_DETECT (R376). -/
  | wakePhraseDetect
  /-- GHOST_LIGHT_TIMEOUT (R376). -/
  | ghostLightTimeout
  /-- WAKEACK (R376). -/
  | wakeack
  /-- WAKE (R376). -/
  | wake (value : Byte)
  /-- WEAR_THRESHOLD (R379). -/
  | wearThreshold (unit : WearUnit)
  /-- START_UP (R383). -/
  | startUp (ok : Bool)
  /-- ATTEST (R381). -/
  | attest
  /-- CERT (R382). -/
  | cert
  /-- KEYGEN (R382). -/
  | keygen
  /-- KEYCLR (R382). -/
  | keyclr
  /-- RASLOST_CLEAR (R358). -/
  | raslostClear
  /-- REGISTER_WRITE (R357). -/
  | registerWrite (die off size : Nat) (value : W64)
  /-- PEER_PAGE_RESOLVED (R19). -/
  | peerPageResolved (slot : Nat) (ia : IA)
  /-- VANAR_FRAME_DISCARD (R360). -/
  | vanarFrameDiscard (frame : PortFrame)
  /-- PRIORITY_PAUSE (R364). -/
  | priorityPause (port prio : Nat) (stop : Bool)
  /-- TIME_SYNC (R365). -/
  | timeSync (r : TimeReport)
  deriving DecidableEq, Repr

end Sys2Proof
end

