-- ==== Sys2Proof/Machine/Encoding.lean ====
section
/-!
DEFINITION. What the entries of the instructions refuse in a word whose fields are well formed: operand kinds, types,
modifiers and immediates (check 5 of R220). Written from the operand tables of the entries.
-/

namespace Sys2Proof

/-- TRAPINFO of ILLEGAL_ENCODING: field [11:8] and detail [7:0] (Table 9-9). -/
structure EncFault where
  field  : BitVec 4
  detail : BitVec 8
  deriving DecidableEq, Repr

/-- What check 5 knows beside the word: the slice, the group's width and its block limits (R239). -/
structure EncCtx where
  slice : Slice
  width : Nat
  cmin  : Nat
  cmax  : Nat
  deriving DecidableEq, Repr

namespace Encoding

def bad (field detail : Nat) : Option EncFault := some { field := .ofNat 4 field, detail := .ofNat 8 detail }

/-- A requirement: when it fails, the fault names the field and the detail. -/
def need (b : Bool) (field detail : Nat) : Option EncFault := if b then none else bad field detail

/-- The first fault of a list of checks. -/
def first (l : List (Option EncFault)) : Option EncFault := l.findSome? id

end Encoding

/-- TYPE codes (Table 9-6). -/
def Ty.code : Ty → BitVec 4
  | .b32 => 0 | .s32 => 1 | .b16 => 2 | .s16 => 3 | .b8 => 4 | .s8 => 5 | .b64 => 6 | .f32 => 7 | .f16 => 8
  | .bf16 => 9 | .e4m3 => 10 | .e5m2 => 11 | .e2m1 => 12 | .f16x2 => 13 | .bf16x2 => 14

/-- Memory size of a TYPE in bytes, 0 for E2M1 (R212). -/
def Ty.size : Ty → Nat
  | .b8 | .s8 | .e4m3 | .e5m2 => 1
  | .b16 | .s16 | .f16 | .bf16 => 2
  | .b32 | .s32 | .f32 | .f16x2 | .bf16x2 => 4
  | .b64 => 8
  | .e2m1 => 0

/-- Bits of an integer TYPE (R244); 32 for the others. -/
def Ty.bits : Ty → Nat
  | .b8 | .s8 => 8
  | .b16 | .s16 => 16
  | .b64 => 64
  | _ => 32

/-- Integer TYPEs of group 1 (R245). -/
def Ty.isInt : Ty → Bool
  | .b32 | .s32 | .b16 | .s16 | .b8 | .s8 | .b64 => true
  | _ => false

/-- Signed integer TYPEs (R244). -/
def Ty.signed : Ty → Bool
  | .s32 | .s16 | .s8 => true
  | _ => false

/-- F of Table 11-1. -/
def Ty.isF : Ty → Bool
  | .f32 | .f16 | .bf16 => true
  | _ => false

/-- H of Table 11-1. -/
def Ty.isH : Ty → Bool
  | .f16x2 | .bf16x2 => true
  | _ => false

/-- A floating code of CVT and PACK (R264). -/
def Ty.isFloat : Ty → Bool
  | .f32 | .f16 | .bf16 | .e4m3 | .e5m2 | .e2m1 | .f16x2 | .bf16x2 => true
  | _ => false

/-- KIND of an operand (Table 9-2). -/
def Opnd.kind : Opnd → Nat
  | .vec _ => 0 | .sca _ => 1 | .ind _ _ => 2 | .pred _ => 3 | .que _ => 4 | .imm _ => 5 | .spc _ => 6 | .long _ => 7

/-- The all-zero field of an absent operand (R201). -/
def Opnd.isZero (o : Opnd) : Bool := decide (o = .vec 0)

/-- CKIND (R208). -/
def Src3.kind : Src3 → Nat
  | .vec _ => 0 | .sca _ => 1 | .que _ => 2 | .pred _ => 3

/-- The operand that a third source stands for. -/
def Src3.opnd : Src3 → Opnd
  | .vec n => .vec n | .sca n => .sca n | .que q => .que q | .pred p => .pred p

/-- KIND of a third source as TRAPINFO gives it (Table 9-9, DEDUCED, log 21). -/
def Src3.opndKind (c : Src3) : Nat := c.opnd.kind

/-- Element count of NVEC, 0 for a reserved code (R210). -/
def nvecCount (n : BitVec 4) : Nat :=
  match n.toNat with
  | 0 => 1 | 1 => 2 | 2 => 4 | _ => 0

namespace Encoding

/-- The operand has one of the KINDs (R201). -/
def kinds (pos : Nat) (o : Opnd) (l : List Nat) : Option EncFault := need (l.contains o.kind) pos o.kind

/-- As `kinds`, or absent. -/
def kindsOr0 (pos : Nat) (o : Opnd) (l : List Nat) : Option EncFault := need (o.isZero || l.contains o.kind) pos o.kind

/-- A direct operand that holds a two-register value names its even register (R202). -/
def evenReg (pos : Nat) (o : Opnd) : Option EncFault :=
  match o with
  | .vec n => need (n.toNat % 2 == 0) pos 0
  | .sca n => need (n.toNat % 2 == 0) pos 1
  | _ => none

/-- Queues a slice may pop as a plain source (Table 9-3). -/
def popOk (sl : Slice) (q : BitVec 3) : Bool :=
  match sl with
  | .a => q.toNat == 5
  | .c => q.toNat < 4

/-- Queues a slice may push as a plain destination (Table 9-3). -/
def pushOk (sl : Slice) (q : BitVec 3) : Bool :=
  match sl with
  | .a => q.toNat < 4
  | .c => q.toNat == 4 || q.toNat == 5

def srcQueue (sl : Slice) (pos : Nat) (o : Opnd) : Option EncFault :=
  match o with
  | .que q => need (popOk sl q) pos 4
  | _ => none

def dstQueue (sl : Slice) (pos : Nat) (o : Opnd) : Option EncFault :=
  match o with
  | .que q => need (pushOk sl q) pos 4
  | _ => none

/-- q0 to q3 as the destination of a load or atomic (R280). -/
def loadQueue (sl : Slice) (o : Opnd) : Option EncFault :=
  match o with
  | .que q => need (sl == .a && decide (q.toNat < 4)) 1 4
  | _ => none

/-- A register span of a scalar operand that would pass s63 (DEDUCED, log 21). -/
def scalarSpan (pos : Nat) (o : Opnd) (n : Nat) : Option EncFault :=
  match o with
  | .sca r => need (decide (r.toNat + n ≤ 64)) pos 1
  | _ => none

/-- A KIND 5 value, read as the unsigned 32-bit value it is sign-extended to, of at least `lo` (R239). -/
def immFrom (o : Opnd) (lo : Nat) : Option EncFault :=
  match o with
  | .imm i => need (decide (lo ≤ (i.signExtend 32).toNat)) 8 (i.toNat % 256)
  | _ => none

/-- A KIND 5 value in a range; a breach is field 8 with the low byte of the value (R220). -/
def immIn (o : Opnd) (lo hi : Int) : Option EncFault :=
  match o with
  | .imm i => need (decide (lo ≤ i.toInt ∧ i.toInt ≤ hi)) 8 (i.toNat % 256)
  | _ => none

/-- What an MA instruction accepts (R213, R244, R255). -/
structure MaSpec where
  rnd  : Bool := false
  sat  : Bool := false
  na   : Bool := false
  nb   : Bool := false
  aa   : Bool := false
  ab   : Bool := false
  xlm  : Bool := true
  subs : Nat := 1

/-- The MOD of an MA instruction against what it accepts; details as R244 and R255 give. -/
def maCheck (m : MA) (b : Opnd) (tyOk : Bool) (s : MaSpec) : Option EncFault := first [
  need tyOk 6 22,
  need (s.rnd || m.rnd == .rne) 6 19,
  need (s.sat || !m.sat) 6 18,
  need (m.xlm == .none || (s.xlm && (b.kind == 0 || b.kind == 2))) 6 14,
  need (m.xlm != .none || m.xls == 0) 6 8,
  need (s.na || !m.na) 6 7,
  need (s.nb || !m.nb) 6 6,
  need (s.aa || !m.aa) 6 5,
  need (s.ab || !m.ab) 6 4,
  need (decide (m.sub.toNat < s.subs)) 6 0]

/-- Operands of group 1 and of most of group 2 (R243, R255): destination and one source position. -/
def dstKinds (sl : Slice) (d : Opnd) (pair : Bool) : Option EncFault := first [
  kinds 1 d (if pair then [0, 1, 2] else [0, 1, 2, 4]), if pair then evenReg 1 d else none, dstQueue sl 1 d]

def srcKinds (sl : Slice) (pos : Nat) (o : Opnd) (pair : Bool) (long : Bool) : Option EncFault := first [
  kinds pos o ((if pair then [0, 1, 2, 5, 6] else [0, 1, 2, 4, 5, 6]) ++ (if long then [7] else [])),
  if pair then evenReg pos o else none, srcQueue sl pos o]

/-- Third source of layout MF (R208): its CKIND, its queue and its pair. -/
def src3 (sl : Slice) (c : Src3) (ok : List Nat) (pair : Bool) : Option EncFault := first [
  need (ok.contains c.kind) 4 c.opndKind,
  match c with
  | .que q => need (popOk sl q && !pair) 4 4
  | .vec n => need (!pair || n.toNat % 2 == 0) 4 0
  | .sca n => need (!pair || n.toNat % 2 == 0) 4 1
  | .pred _ => none]

/-- A two-source integer instruction (R243 to R245). -/
def int2 (e : EncCtx) (d a b : Opnd) (m : MA) (tyOk : Bool) (s : MaSpec) : Option EncFault :=
  let p := tyOk && m.ty == .b64
  first [dstKinds e.slice d p, srcKinds e.slice 2 a p false, srcKinds e.slice 3 b p true, maCheck m b tyOk s]

/-- A single-source integer instruction: it reads OPB (R243). -/
def int1 (e : EncCtx) (d b : Opnd) (m : MA) (tyOk : Bool) (s : MaSpec) : Option EncFault :=
  let p := tyOk && m.ty == .b64
  first [dstKinds e.slice d p, srcKinds e.slice 3 b p true, maCheck m b tyOk s]

/-- A shift: OPB is a 32-bit count (R247). -/
def shift (e : EncCtx) (d a b : Opnd) (m : MA) : Option EncFault :=
  let p := m.ty == .b64
  first [dstKinds e.slice d p, srcKinds e.slice 2 a p false, srcKinds e.slice 3 b false true,
    maCheck m b (m.ty == .b32 || m.ty == .b64) {}]

def mods : MaSpec := { na := true, nb := true, aa := true, ab := true }
def logicTy (m : MA) : Bool := m.ty == .b32 || m.ty == .b64

/-- A two-source floating instruction (R255). -/
def flt2 (e : EncCtx) (d a b : Opnd) (m : MA) (tyOk : Bool) (s : MaSpec) (long : Bool := true) : Option EncFault :=
  first [dstKinds e.slice d false, srcKinds e.slice 2 a false false, srcKinds e.slice 3 b false long,
    maCheck m b tyOk s]

/-- A single-source floating instruction: only NB and AB are accepted (R255). -/
def flt1 (e : EncCtx) (d b : Opnd) (m : MA) (tyOk : Bool) (s : MaSpec) : Option EncFault :=
  first [dstKinds e.slice d false, srcKinds e.slice 3 b false true, maCheck m b tyOk { s with nb := true, ab := true, xlm := false }]

/-- An instruction of layout MF (R208, R256): the rules of pairs hold where TYPE B64 is accepted. A bad SUB has detail 0 in groups
1 and 2 (R244, R255), and else the lowest bit
of the field (R220). -/
def mf (e : EncCtx) (d a b : Opnd) (m : MF) (tyOk rndOk satOk negOk : Bool) (subOk : Bool) (c : List Nat)
    (subBit : Nat := 0) : Option EncFault :=
  let p := tyOk && m.ty == .b64
  first [dstKinds e.slice d p, srcKinds e.slice 2 a p false, srcKinds e.slice 3 b p false, src3 e.slice m.c c p,
    need tyOk 6 22, need (rndOk || m.rnd == .rne) 6 19, need (satOk || !m.sat) 6 18,
    need (negOk || !m.nprod) 6 9, need (negOk || !m.nc) 6 8, need subOk 6 subBit]

/-- The orders of Table 3-2. -/
def loadOrder (o : Order) : Bool := o == .rlx || o == .acq || o == .sc
def storeOrder (o : Order) : Bool := o == .rlx || o == .rel || o == .sc

/-- Address operands of a memory access (Table 12-1): base pair and index. -/
def memAddr (a b : Opnd) : Option EncFault := first [kinds 2 a [0, 1, 2], evenReg 2 a, kinds 3 b [0, 1, 2, 5, 6]]

/-- Element type, count and size of an access (R210, R212, R276). -/
def accSize (ty : Ty) (nvec : BitVec 4) : Option EncFault := first [
  need (ty != .e2m1) 6 22, need (nvecCount nvec != 0) 6 8, need (decide (ty.size * nvecCount nvec ≤ 16)) 6 8]

/-- Registers that the elements of an access occupy (R277). -/
def accRegs (ty : Ty) (nvec : BitVec 4) : Nat := (if ty == .b64 then 2 else 1) * nvecCount nvec

/-- A load's size and destination (R210, R277, R278). The size comes first: the destination's registers depend on it. -/
def loadDst (sl : Slice) (d : Opnd) (ks : List Nat) (ty : Ty) (nvec : BitVec 4) : Option EncFault := first [
  accSize ty nvec, kinds 1 d ks, loadQueue sl d, if ty == .b64 then evenReg 1 d else none,
  scalarSpan 1 d (accRegs ty nvec),
  match d with
  | .que q => need (decide (q.toNat + accRegs ty nvec ≤ 4)) 1 4
  | _ => none]

/-- A store's size and data (R210, R280). -/
def storeData (sl : Slice) (d : Opnd) (queue : Bool) (ty : Ty) (nvec : BitVec 4) : Option EncFault := first [
  accSize ty nvec, kinds 1 d (if queue then [0, 1, 2, 4, 5] else [0, 1, 2, 5]), if ty == .b64 then evenReg 1 d else none,
  scalarSpan 1 d (accRegs ty nvec),
  match d with
  | .que q => need (sl == .a && q.toNat == 4 && decide (ty.size * nvecCount nvec ≤ 4)) 1 4
  | _ => none]

def load (e : EncCtx) (d a b : Opnd) (m : MM) (ks : List Nat) (ords : Order → Bool) : Option EncFault := first [
  loadDst e.slice d ks m.ty m.aop, memAddr a b, need (ords m.ord) 6 16]

def store (e : EncCtx) (d a b : Opnd) (m : MM) : Option EncFault := first [
  storeData e.slice d true m.ty m.aop, memAddr a b, need (storeOrder m.ord) 6 16]

/-- Scratchpad addressing of LDSP and STSP (R283). -/
def spadAddr (a b : Opnd) (m : MM) : Option EncFault :=
  match m.hint.toNat with
  | 0 => first [kinds 2 a [0, 1, 2, 5], kinds 3 b [0, 1, 2, 5, 6]]
  | 1 | 2 => first [kinds 2 a [1, 5], kinds 3 b [1, 5], need (m.ty.size == 4) 6 22, need (m.iscale == 0) 6 14,
      need (m.ofs == 0) 6 0, need (m.aop == 0) 6 8]
  | _ => bad 6 12

def spadScope (m : MM) : Option EncFault := need (m.scope == .grp || m.scope == .core) 6 19

/-- TYPEs of the atomic operations (Table 12-4). -/
def aopTy (aop : Nat) (ty : Ty) : Bool :=
  match aop with
  | 0 => ty == .b32 || ty == .s32 || ty == .b64 || ty == .f32 || ty == .f16x2 || ty == .bf16x2
  | 1 | 2 => ty == .b32 || ty == .s32 || ty == .b64 || ty == .f32
  | 3 | 4 | 5 | 6 | 7 => ty == .b32 || ty == .b64
  | 8 | 9 => ty == .b32
  | 10 => ty == .b32 || ty == .f32
  | _ => false

/-- The data operand of an atomic (Table 12-3). -/
def aopData (b : Opnd) (m : MM) : Option EncFault :=
  if m.aop.toNat = 7 then
    if m.ty = .b64 then first [kinds 3 b [0, 1, 2],
      match b with
      | .vec n => need (n.toNat % 4 == 0) 3 0
      | .sca n => need (n.toNat % 4 == 0) 3 1
      | _ => none]
    else first [kinds 3 b [0, 1, 2], evenReg 3 b]
  else first [kinds 3 b [0, 1, 2, 5], if m.ty = .b64 ∧ aopTy m.aop.toNat m.ty then evenReg 3 b else none]

/-- The operation of an atomic; RED has neither XCHG nor CAS (R285). -/
def aopCheck (m : MM) (red : Bool) : Option EncFault := first [
  need (decide (m.aop.toNat ≤ 10) && !(red && (m.aop.toNat == 6 || m.aop.toNat == 7))) 6 8,
  need (aopTy m.aop.toNat m.ty) 6 22, need (m.iscale == 0) 6 14]

/-- An operation block of `n` consecutive scalars from an even register (R294). -/
def block (pos : Nat) (a : Opnd) (n : Nat) : Option EncFault := first [kinds pos a [1], evenReg pos a, scalarSpan pos a n]

/-- Barrier offset of the MB family (R293). -/
def barOff (a : Opnd) : Option EncFault := kinds 2 a [1, 5]

/-- A count of KIND 1 or of KIND 5 in a range (Table 12-6). -/
def count (pos : Nat) (o : Opnd) (lo hi : Int) : Option EncFault := first [kinds pos o [1, 5], immIn o lo hi]

/-- Whether a system-register index is in Table 13-6, whether it is 64 bits wide and whether SETS may write it. -/
structure SysReg where
  wide  : Bool
  write : Bool

def sysReg (i : Nat) : Option SysReg :=
  if i = 0x000 ∨ i = 0x001 then some ⟨false, false⟩
  else if i = 0x010 then some ⟨true, true⟩
  else if i = 0x011 then some ⟨false, false⟩
  else if i = 0x012 then some ⟨true, false⟩
  else if i = 0x013 then some ⟨true, true⟩
  else if i = 0x014 ∨ i = 0x015 then some ⟨false, false⟩
  else if i = 0x020 ∨ i = 0x021 then some ⟨false, true⟩
  else if i = 0x022 then some ⟨false, false⟩
  else if i = 0x030 then some ⟨false, true⟩
  else if 0x031 ≤ i ∧ i ≤ 0x035 then some ⟨false, false⟩
  else if i = 0x040 ∨ i = 0x050 ∨ i = 0x060 ∨ i = 0x062 then some ⟨false, true⟩
  else if i = 0x061 ∨ i = 0x070 ∨ i = 0x071 then some ⟨false, false⟩
  else if 0x100 ≤ i ∧ i ≤ 0x13F then some ⟨false, true⟩
  else none

/-- Index and W64 of GETS and SETS (R318). -/
def sysIdx (idx : BitVec 9) (w64 : Bool) (set : Bool) : Option EncFault :=
  match sysReg idx.toNat with
  | none => bad 8 (idx.toNat % 256)
  | some r => first [need (!w64 || r.wide) 6 9, need (!set || (r.write && (w64 || !r.wide))) 8 (idx.toNat % 256)]

/-- KIND 5 values that an entry of SETS refuses: PRDEPTH (Table 13-6). -/
def setsImm (a : Opnd) (idx : BitVec 9) : Option EncFault :=
  match a with
  | .imm i => need (idx != 0x050 || (decide (1 ≤ i.toInt) && decide (i.toInt ≤ 7))) 8 0
  | _ => none

/-- MMA (Table 13-1). -/
def mmaEnc (m : MX) : Option EncFault :=
  let f16 := fun t : Ty => t == .f16 || t == .bf16
  let f8 := fun t : Ty => t == .e4m3 || t == .e5m2
  let i8 := fun t : Ty => t == .s8 || t == .b8
  first [
    need (f16 m.aty || f8 m.aty || i8 m.aty) 6 22,
    need (if f16 m.aty then m.bty == m.aty else if f8 m.aty then f8 m.bty else i8 m.bty) 6 18,
    need (m.shape == (if f16 m.aty then 0 else 1)) 6 16,
    need (m.band == 0) 6 8,
    need (m.sub.toNat == 0 || (m.sub.toNat == 1 && i8 m.aty)) 6 0]

/-- MMD (Table 13-1). -/
def mmdEnc (m : MX) : Option EncFault := first [
  need (m.aty == .e2m1) 6 22, need (m.bty == .bf16 || m.bty == .e4m3) 6 18,
  need (m.shape == 2 || m.shape == 3) 6 16, need (m.sub == 0) 6 0]

/-- Types of CVT (R264, R265). -/
def cvtEnc (e : EncCtx) (d b : Opnd) (m : MA) : Option EncFault :=
  let s := m.sub.toNat
  let srcFloat := decide (7 ≤ s ∧ s ≤ 12)
  first [
    kinds 1 d (if m.ty == .b64 then [0, 1, 2] else [0, 1, 2, 4]), if m.ty == .b64 then evenReg 1 d else none,
    dstQueue e.slice 1 d,
    kinds 3 b (if s == 6 then [0, 1, 2, 5, 6, 7] else [0, 1, 2, 4, 5, 6, 7]), if s == 6 then evenReg 3 b else none,
    srcQueue e.slice 3 b,
    need (!m.ty.isH && !(e.slice == .a && m.ty.isFloat)) 6 22,
    need (m.ty.isFloat || srcFloat || decide (13 ≤ s) || m.rnd == .rne) 6 19,
    maCheck m b true { rnd := true, sat := true, nb := true, ab := true, subs := 13 },
    need (!(e.slice == .a && srcFloat)) 6 0]

/-- Types and positions of PACK (R266): a form that keeps the old value takes no queue; from integer to integer it takes no rounding, as CVT
does (R265). -/
def packEnc (e : EncCtx) (d a b : Opnd) (m : MA) : Option EncFault :=
  let n := match m.ty with
    | .f16 | .bf16 | .b16 | .s16 => 1
    | .e4m3 | .e5m2 | .b8 | .s8 => 2
    | .e2m1 => 4
    | _ => 0
  first [
    kinds 1 d (if decide (1 < n) && decide (m.sub.toNat < n) then [0, 1, 2] else [0, 1, 2, 4]), dstQueue e.slice 1 d,
    srcKinds e.slice 2 a false false, srcKinds e.slice 3 b false false,
    need (n != 0 && !(e.slice == .a && m.ty.isFloat)) 6 22,
    maCheck m b true { mods with rnd := m.ty.isFloat, sat := true, subs := n }]

/-- REDX and SCAN (R270). -/
def redxEnc (e : EncCtx) (d b : Opnd) (m : MA) (scan : Bool) : Option EncFault :=
  let op := m.sub.toNat % 8
  let p := m.ty == .b64
  first [dstKinds e.slice d p, srcKinds e.slice 3 b p true,
    need ((if 3 ≤ op ∧ op < 6 then m.ty == .b32 || m.ty == .b64
           else m.ty == .b32 || m.ty == .s32 || m.ty == .b64 || m.ty == .f32) && !(e.slice == .a && m.ty == .f32)) 6 22,
    maCheck m b true { rnd := m.ty == .f32 && op == 0, sat := op == 0, nb := true, ab := true, xlm := false, subs := 16 },
    need (decide (op < 6) && (scan || decide (m.sub.toNat < 8))) 6 0]

/-- A mask destination: an even pair in a width-64 group (R268, R271). -/
def maskDst (e : EncCtx) (d : Opnd) : Option EncFault :=
  first [kinds 1 d [0, 1, 2], if e.width == 64 then evenReg 1 d else none]

end Encoding

open Encoding in
/-- Check 5 of R220 for a word whose fields are well formed: what the entry of the instruction refuses. An event has
no word, so nothing of it is refused. -/
def Instr.encFault (e : EncCtx) : Instr → Option EncFault
  | .nop _ | .bra _ _ | .exitL _ | .waitall _ _ | .trap _ _ | .bkpt _ _ | .disc _ | .tret _ | .synct _ => none
  | .brx _ a m => first [kinds 2 a [0, 1, 2], need ((a.kind == 1) == (m.join == 0)) 7 0]
  | .call _ b _ => first [kinds 3 b [1], evenReg 3 b]
  | .callx _ a b _ => first [kinds 2 a [1], evenReg 2 a, kinds 3 b [1], evenReg 3 b]
  | .ret _ a => first [kinds 2 a [1], evenReg 2 a]
  | .brq _ a b _ => first [need (a == .que (if e.slice == .c then 6 else 7)) 2 a.kind,
      match b with
      | .imm i => need (decide (0 ≤ i.toInt ∧ i.toInt ≤ 15)) 3 5
      | o => bad 3 o.kind]
  | .pushb _ d a _ => first [need (d == .que (if e.slice == .a then 6 else 7)) 1 d.kind, kinds 2 a [3]]
  | .qpush _ d a => first [kinds 1 d [4], dstQueue e.slice 1 d, kinds 2 a [0, 1, 2, 3, 5, 6]]
  | .qpop _ d a dc => first [if dc then need d.isZero 1 d.kind else kinds 1 d [0, 1, 2, 3], kinds 2 a [4],
      srcQueue e.slice 2 a]
  | .qsync _ q => need (q &&& (if e.slice == .a then 0xB0 else 0x4F) == 0) 6 0
  | .slip _ a => first [kinds 2 a [1, 5],
      match a with
      | .imm i => need (decide (0 ≤ i.toInt ∧ i.toInt ≤ 128)) 8 0
      | _ => none]
  | .waitc _ a _ => kinds 2 a [1]
  | .racq _ d a t => first [if t then kinds 1 d [3] else need d.isZero 1 d.kind, kinds 2 a [1, 5],
      immIn a 0 e.cmax]
  | .rrel _ a => first [kinds 2 a [1, 5], immFrom a e.cmin]
  | .iadd _ d a b m | .isub _ d a b m | .imul _ d a b m => int2 e d a b m m.ty.isInt { mods with sat := true }
  | .imulh _ d a b m | .imin _ d a b m | .imax _ d a b m => int2 e d a b m m.ty.isInt mods
  | .imad _ d a b m => mf e d a b m m.ty.isInt false true true (m.sub == 0) [0, 1, 2]
  | .iabs _ d b m => first [need (b.kind != 7) 3 7, int1 e d b m m.ty.signed { sat := true, nb := true }]
  | .ineg _ d b m => int1 e d b m m.ty.isInt { sat := true, ab := true }
  | .andB _ d a b m | .orB _ d a b m | .xorB _ d a b m => int2 e d a b m (logicTy m) {}
  | .notB _ d b m => int1 e d b m (logicTy m) {}
  | .lop3 _ d a b x =>
      let p := x.ty == .b64
      first [dstKinds e.slice d p, srcKinds e.slice 2 a p false, srcKinds e.slice 3 b p false,
        src3 e.slice x.c [0, 1, 2] p, need (x.ty == .b32 || x.ty == .b64) 6 22]
  | .shl _ d a b m | .shr _ d a b m | .sar _ d a b m | .rot _ d a b m => shift e d a b m
  | .bfe _ d a b m => int2 e d a b m (m.ty == .b32 || m.ty == .s32) {}
  | .bfi _ d a b m => mf e d a b m (m.ty == .b32) false false false (m.sub == 0) [0, 1, 2]
  | .popc _ d b m | .clz _ d b m =>
      let p := m.ty == .b64
      first [dstKinds e.slice d false, srcKinds e.slice 3 b p true, maCheck m b (logicTy m) {}]
  | .brev _ d b m | .mov _ d b m => int1 e d b m (logicTy m) {}
  | .isetp _ d a b m =>
      let p := m.ty == .b64
      first [kinds 1 d [3], srcKinds e.slice 2 a p false, srcKinds e.slice 3 b p true,
        maCheck m b m.ty.isInt { mods with subs := 6 }]
  | .sel _ d a b m =>
      let p := m.ty == .b64
      first [dstKinds e.slice d p, srcKinds e.slice 2 a p false, srcKinds e.slice 3 b p false, need (m.c.kind == 3) 4 m.c.opndKind,
        need (m.ty == .b32 || p) 6 22, need (m.rnd == .rne) 6 19, need (!m.sat) 6 18, need (!m.nprod) 6 9,
        need (!m.nc) 6 8, need (m.sub == 0) 6 0]
  | .movi _ d _ => dstKinds e.slice d false
  | .lea _ d a b m => first [kinds 1 d [0, 1, 2], evenReg 1 d, kinds 2 a [0, 1, 2], evenReg 2 a,
      kinds 3 b [0, 1, 2, 5, 6, 7], maCheck m b (m.ty == .b32 || m.ty == .s32) { subs := 4 }]
  | .aadd _ d a b m => first [kinds 1 d [0, 1, 2], evenReg 1 d, kinds 2 a [0, 1, 2], evenReg 2 a,
      kinds 3 b [0, 1, 2, 5, 6, 7], maCheck m b (m.ty == .b32 || m.ty == .s32) { subs := 16 }]
  | .plop _ d a b m => first [kinds 1 d [3], kinds 2 a [3], kinds 3 b [3], maCheck m b (m.ty == .b32) { subs := 5 }]
  | .pmov _ d b m =>
      let ev := fun pos o => if e.width == 64 then evenReg pos o else none
      first [
        match m.sub.toNat with
        | 0 => first [kinds 1 d [1], ev 1 d, kinds 3 b [3]]
        | 1 => first [kinds 1 d [3], kinds 3 b [1], ev 3 b]
        | 2 => first [kinds 1 d [3], kinds 3 b [0, 2]]
        | 3 => first [kinds 1 d [0, 2], kinds 3 b [3]]
        | _ => bad 6 0,
        maCheck m b (m.ty == .b32) { subs := 4 }]
  | .fadd _ d a b m | .fsub _ d a b m | .fmul _ d a b m =>
      flt2 e d a b m m.ty.isF { mods with rnd := true, sat := true }
  | .ffma _ d a b m => mf e d a b m m.ty.isF true true true (m.sub == 0) [0, 1, 2]
  | .fmin _ d a b m | .fmax _ d a b m => flt2 e d a b m m.ty.isF mods
  | .fsetp _ d a b m => first [kinds 1 d [3], srcKinds e.slice 2 a false false, srcKinds e.slice 3 b false true,
      maCheck m b m.ty.isF { mods with subs := 14 }]
  | .fclass _ d b m => flt1 e d b m m.ty.isF {}
  | .frnd _ d b m | .ffrc _ d b m => flt1 e d b m m.ty.isF { rnd := true }
  | .fdiv _ d a b m => flt2 e d a b m (m.ty == .f32) { mods with rnd := true, sat := true }
  | .fsqrt _ d b m => flt1 e d b m (m.ty == .f32) { rnd := true, sat := true }
  | .frcp _ d b m | .frsq _ d b m | .fex2 _ d b m | .flg2 _ d b m | .fsin _ d b m | .fcos _ d b m
  | .ftanh _ d b m => flt1 e d b m (m.ty == .f32) {}
  | .hadd2 _ d a b m | .hmul2 _ d a b m => flt2 e d a b m m.ty.isH { mods with rnd := true, sat := true } false
  | .hmin2 _ d a b m | .hmax2 _ d a b m => flt2 e d a b m m.ty.isH mods false
  | .hfma2 _ d a b m => mf e d a b m m.ty.isH true true true (m.sub == 0) [0, 1, 2]
  | .fdot2 _ d a b m => mf e d a b m m.ty.isH true true true (m.sub == 0) [0, 1, 2]
  | .idot4 _ d a b m => mf e d a b m (m.ty == .s8 || m.ty == .b8) false true true (decide (m.sub.toNat < 2)) [0, 1, 2]
  | .cvt _ d b m => cvtEnc e d b m
  | .pack _ d a b m => packEnc e d a b m
  | .prmt _ d a b m => mf e d a b m (m.ty == .b32) false false false (m.sub == 0) [0, 1, 2] 2
  | .vote _ d b m => first [
      if m.sub.toNat = 3 then maskDst e d else if m.sub.toNat < 3 then kinds 1 d [1, 3] else none, kinds 3 b [3],
      maCheck m b (m.ty == .b32) { xlm := false, subs := 4 }]
  | .redx _ d b m => redxEnc e d b m false
  | .scan _ d b m => redxEnc e d b m true
  | .elect _ d => first [kinds 1 d [0, 1, 2, 3, 4], dstQueue e.slice 1 d]
  | .matchL _ d b m => first [
      if m.sub.toNat = 1 then kinds 1 d [3] else if m.sub.toNat = 0 then maskDst e d else none,
      srcKinds e.slice 3 b (m.ty == .b64) true,
      maCheck m b (m.ty == .b32 || m.ty == .b64) { xlm := false, subs := 2 }]
  | .ldq _ d a b m => load e d a b m [4] loadOrder
  | .ldr _ d a b m => load e d a b m [0, 1, 2] loadOrder
  | .st _ d a b m | .stt _ d a b m => store e d a b m
  | .ldk _ d a b m => load e d a b m [0, 1, 2, 4] (· == .rlx)
  | .ldt _ d a b m => load e d a b m [0, 1, 2, 4] loadOrder
  | .ldsp _ d a b m => first [loadDst e.slice d [0, 1, 2, 4] m.ty m.aop, spadAddr a b m,
      need (m.ord == .rlx || m.ord == .acq) 6 16, spadScope m]
  | .stsp _ d a b m => first [storeData e.slice d false m.ty m.aop, spadAddr a b m,
      need (m.ord == .rlx || m.ord == .rel) 6 16, spadScope m]
  | .atom _ d a b m => first [loadDst e.slice d [4] m.ty 0, kinds 2 a [0, 1, 2], evenReg 2 a, aopData b m, aopCheck m false]
  | .red _ a b m => first [kinds 2 a [0, 1, 2], evenReg 2 a, aopData b m, aopCheck m true,
      need (m.ord == .rlx || m.ord == .rel) 6 16]
  | .atsp _ d a b m => first [
      if d = .pred 7 then none else loadDst e.slice d [0, 1, 2, 4] m.ty 0,
      kinds 2 a [0, 1, 2, 5], aopData b m, aopCheck m false, need (m.hint == 0) 6 12, spadScope m]
  | .pfx _ a b m => first [memAddr a b, need (m.ty != .e2m1) 6 22, need (m.scope == .grp) 6 19,
      need (m.ord == .rlx) 6 16, need (m.aop == 0) 6 8]
  | .fence _ m => first [need (m.ty == .b32) 6 22, need (m.ord != .rlx) 6 16, need (m.iscale == 0) 6 14,
      need (m.hint == 0) 6 12, need (m.aop == 0) 6 8, need (m.ofs == 0) 6 0]
  | .pfence _ _ _ t => need (t != 0) 6 0
  | .smp _ d a b x =>
      let n := match x.nch.toNat with
        | 0 => 1 | 1 => 2 | _ => 4
      first [kinds 1 d [0, 2, 4], loadQueue e.slice d, kinds 2 a [0, 2], evenReg 2 a, kinds 3 b [0, 1, 2],
        need (x.ty == .f32 || x.ty == .f16x2) 6 22, need (x.nch != 3) 6 0,
        match d with
        | .que q => need (decide (q.toNat + (if x.ty == .f32 then n else (n + 1) / 2) ≤ 4)) 1 4
        | _ => none]
  | .sld _ d a b x => first [kinds 1 d [0, 2, 4], loadQueue e.slice d, kinds 2 a [0, 2], evenReg 2 a, kinds 3 b [0, 1, 2],
      need (x.ty == .b32) 6 22, need (x.ssi == 0) 6 8, need (x.nch == 0) 6 0]
  | .xformZero _ a x | .xformFill _ a x | .xformTranspose _ a x => first [block 2 a 4, need (!x.ssp) 6 18]
  | .mbinit _ a b => first [barOff a, count 3 b 1 4095]
  | .mbarv _ d a b _ => first [kindsOr0 1 d [1], barOff a, count 3 b 0 4095]
  | .mbexp _ d a b _ _ => first [kindsOr0 1 d [1], barOff a, count 3 b 0 4095]
  | .mbwait _ a b => first [barOff a, count 3 b 0 4095]
  | .mbtest _ d a b => first [kinds 1 d [1, 3], barOff a, count 3 b 0 4095]
  | .bcopy _ a _ => block 2 a 5
  | .bcopy2 _ a _ => block 2 a 8
  | .bgath _ a b _ => first [block 2 a 7, kinds 3 b [0, 2]]
  | .wlpush _ d a b => first [kindsOr0 1 d [3], kinds 2 a [1], evenReg 2 a, kinds 3 b [0, 1, 2, 4, 5], srcQueue e.slice 3 b]
  | .wlpop _ d a b => first [kinds 1 d [0, 1, 2], kinds 2 a [1], evenReg 2 a, kinds 3 b [3]]
  | .wlquiet _ d a b => first [kinds 1 d [1, 3], kinds 2 a [1], evenReg 2 a, kinds 3 b [1, 5]]
  | .filldone _ d => kindsOr0 1 d [1, 3]
  | .fillfail _ d a => first [kindsOr0 1 d [1, 3], count 2 a 0 4095]
  | .previct _ d a => first [kindsOr0 1 d [1], kinds 2 a [1], evenReg 2 a]
  | .fillq _ d a => first [kinds 1 d [1], kinds 2 a [1], evenReg 2 a]
  | .cstep _ a b bar => first [count 2 a 0 4095, if b.isZero then need (bar == 0) 6 20 else block 3 b 3]
  | .cabort _ a => kinds 2 a [1, 5]
  | .mma _ d a b m => first [kinds 1 d [0, 2], kinds 2 a [0, 2], kinds 3 b [0, 2], mmaEnc m]
  | .mmd _ d a b m => first [kinds 1 d [0, 2], kinds 2 a [0, 2], kinds 3 b [0, 2], mmdEnc m]
  | .had _ d a n _ => first [kinds 1 d [0, 2], kinds 2 a [0, 2], need (n != 3) 6 0]
  | .qnt _ d a b => first [kinds 1 d [0, 2], kinds 2 a [0, 2], kinds 3 b [1]]
  | .cbld _ a => first [kinds 2 a [1],
      match a with
      | .sca n => need (n.toNat % 8 == 0) 2 1
      | _ => none]
  | .spl _ d a => first [kindsOr0 1 d [1, 3], kinds 2 a [0, 1, 2, 5]]
  | .gpl _ d _ => kinds 1 d [0, 1, 2]
  | .grant _ d a => first [kinds 1 d [1], kinds 2 a [1], scalarSpan 2 a 5]
  | .revoke _ d a => first [kindsOr0 1 d [1], count 2 a 0 1023]
  | .passq _ d a => first [kinds 1 d [1],
      match d with
      | .sca n => need (n.toNat % 8 == 0) 1 1
      | _ => none, count 2 a 0 1023]
  | .ownq _ d a b => first [kinds 1 d [0, 1, 2], kinds 2 a [0, 1, 2], evenReg 2 a, kinds 3 b [0, 1, 2]]
  | .emitv _ a b cnt w => first [kinds 2 a [0, 1, 2, 5], kinds 3 b [0, 2], need (cnt != 3) 6 4,
      need (decide (w.toNat + 2 ^ cnt.toNat ≤ 16)) 6 0]
  | .emitp _ a b => first [kinds 2 a [0, 1, 2, 5], kinds 3 b [0, 1, 2]]
  | .meshend _ a b => first [kinds 2 a [1, 5], kinds 3 b [1, 5]]
  | .tld _ d a ty nv => first [loadDst e.slice d [0, 1, 2, 4] ty nv, kinds 2 a [0, 1, 2, 5]]
  | .tsto _ d a ty nv => first [storeData e.slice d false ty nv, kinds 2 a [0, 1, 2, 5]]
  | .launch _ d a => first [kindsOr0 1 d [1, 3],
      match a with
      | .spc n => need (n == 12) 2 6
      | o => kinds 2 o [1, 5]]
  | .gets _ d i w => first [kinds 1 d [0, 1, 2], if w then evenReg 1 d else none, sysIdx i w false]
  | .sets _ a i w => first [kinds 2 a (if w then [1] else [1, 5]), if w then evenReg 2 a else none, sysIdx i w true,
      setsImm a i]
  | .preempt _ d a b => first [kindsOr0 1 d [1], kinds 2 a [1, 5], kinds 3 b [1, 5]]
  | .preemptRel _ d a => first [kindsOr0 1 d [1], kinds 2 a [1, 5]]
  | .csave _ d a => first [kinds 1 d [1], block 2 a 6]
  | .crest _ d a => first [kinds 1 d [1], block 2 a 3]
  | .iainv _ a b => first [kinds 2 a [1], evenReg 2 a, kinds 3 b [1, 5],
      match b with
      | .imm i => need (decide (0 ≤ i.toInt)) 3 5
      | _ => none]
  | .iainvAll _ a => first [kinds 2 a [1], evenReg 2 a]
  | .present _ d a b => first [kindsOr0 1 d [1], kinds 2 a [1],
      match b with
      | .sca n => need (n.toNat % 2 == 0) 3 1
      | o => need (o == .imm 0) 3 o.kind]
  | _ => none

end Sys2Proof
end

