-- ==== Sys2Proof/Config.lean ====
section
/-!
DEFINITION. What one implementation fixes, and the free values: values the spec leaves open. A free
value is an opaque constant with no body, so nothing in Lean can prove what it is.
-/

namespace Sys2Proof

/-- The ordering codes of Table 0-1. -/
inductive OrderingCode
  | gwp7K
  | gwp7M512A
  | gwp7M512L
  deriving DecidableEq, Repr, Inhabited

end Sys2Proof

namespace Sys2Proof.Config

/-- Free choice of the next step among those that may come next (DESIGN CHOICE, log 2). -/
opaque nextStep : Nat → Nat
/-- Free 32-bit value, one per count: kept register contents (R152), an unstated result (DESIGN CHOICE, log 12). -/
opaque freeWord : Nat → BitVec 32
/-- Free set of lanes: which lanes of an outstanding result are written by one step (R165). -/
opaque freeLanes : Nat → BitVec 64
/-- Free 512-bit line: bytes whose arrangement the spec does not define (R50; DESIGN CHOICE, log 15). -/
opaque freeLine : Nat → BitVec 512
/-- Free amount of time, in ns, that one issue cycle adds to the timebase (DESIGN CHOICE, log 5). -/
opaque freeTime : Nat → BitVec 64

/-- The candidate result of an approximate function (R263): a fixed function of the function's code and the
input bits. The meaning keeps it inside the bound of Table 11-2. -/
opaque approx : Nat → BitVec 32 → BitVec 32

/-- The compression code the layout engine picks for a unit's final contents: which of 0x00, 0x02 and 0x03 a
content receives is not defined (R50). -/
opaque metaCode : Nat → BitVec 8

/-- A byte of a context image whose arrangement is the device's own (R324): byte n of the
body of the image of context c with number q, as a function of 2^32 × c + q and n. -/
opaque imageByte : Nat → Nat → BitVec 8
/-- How many messages the receive buffer of a priority holds (R364). -/
opaque rxRoom : Nat → Nat

/-- K_root, the device's context root key, generated by Urxia at first start-up (R196). -/
opaque rootKey : BitVec 256

/-- ECDSA signature and other bytes of the attestation report that depend on device secrets (R381):
byte n of the answer to request k. -/
opaque reportByte : Nat → Nat → BitVec 8
/-- Byte n of the DER certificate chain (R382). -/
opaque certByte : Nat → BitVec 8
/-- Length in bytes of the certificate chain (R382). -/
opaque certLen : BitVec 12

/-- The ordering code under which the device ships (R1). -/
opaque orderingCode : OrderingCode

/-- The firmware image in the device at power-on: header, body and signature (R380). -/
opaque firmware : List (BitVec 8)
/-- The endpoint slots that a firmware image lists as CFG endpoints (R383). -/
opaque listed : List (BitVec 8) → List Nat
/-- The 64 bytes of the P-256 public key and the version in the header of a firmware image: their places in it are not given (R380;
PRESUMED, log 139). -/
opaque imageKey : List (BitVec 8) → List (BitVec 8)
opaque imageVersion : List (BitVec 8) → Nat
/-- The digest of the key and the minimum version that are fused at manufacture (R380). -/
opaque fusedDigest : List (BitVec 8)
opaque fusedVersion : Nat

/-- A line of device memory as a memory controller decrypts it under one key when it lies encrypted under another (R144): the key
identities, 0 for none, the line's number, and its plaintext under the first. AES-XTS-256 under keys that no agent reads
(DESIGN CHOICE, log 85). -/
opaque underKey : Nat → Nat → Nat → BitVec 512 → BitVec 512

/-- Where entry `n` of a spill area lies in it: the spec gives its layout to no one (R26, R161; DESIGN CHOICE, log 17). -/
opaque spillPlace : Nat → Nat

/-- The identity a unit reports in an error record's channel field (Table 16-5, UNIT). -/
opaque errorUnit : Nat → BitVec 3

end Sys2Proof.Config
end

