-- ==== Sys2Proof/Machine/State.lean ====
section
/-!
DEFINITION. The state of the whole device as plain data, and the state after reset. INVENTORY.md lists every field
with the rule that names it.
-/

namespace Sys2Proof.Machine

/-- Reasons for which the machine stops with a fault. -/
inductive Fault
  /-- Raised by every instruction meaning when no fragment is issuing, so that no slice could execute the
  instruction. Safe: `step` never executes an instruction without one (DESIGN CHOICE, log 1). -/
  | noIssuer
  deriving DecidableEq, Repr

/-- Reasons for which a step is refused. -/
inductive Refusal
  /-- Raised by an arm of `exec` whose instruction has no meaning yet. Safe: nothing can be proved of it. -/
  | notModelled (mnemonic : String)
  deriving DecidableEq, Repr

/-! ## Values -/

/-- What a poisoned value carries: the cause its consumer takes (0x15 POISON, or the cause of procedural poison) and
the block number (R60, R123). -/
structure Poison where
  cause : BitVec 8
  block : W32
  deriving DecidableEq, Repr

/-- A 32-bit register or queue value, with its poison mark (R60). -/
structure Val where
  bits   : W32
  poison : Option Poison
  deriving DecidableEq, Repr

/-- A byte and the poison that a read of it delivers (R60). -/
abbrev PByte := Byte × Option Poison

/-- A poison mark on granule `idx` of a storage (R60). -/
structure PoisonAt where
  idx    : Nat
  poison : Poison
  deriving DecidableEq, Repr

/-- Zero, not poisoned. -/
def Val.zero : Val := { bits := 0, poison := none }

/-- A value that is not poisoned. -/
def Val.of (b : W32) : Val := { bits := b, poison := none }

/-! ## Memory -/

/-- A memory: address and byte pairs, addresses strictly rising, no entry equal to what an unlisted address reads as. -/
abbrev Memory := List Host.Cell

/-- What an unlisted byte of device memory or scratchpad reads as (DESIGN CHOICE, log 3). -/
def memDefault (_ : Nat) : Byte := 0

/-- The canonical form of a memory whose unlisted addresses read as `dflt`. -/
def Memory.ok (dflt : Nat → Byte) : Memory → Bool
  | [] => true
  | [c] => decide (c.2 ≠ dflt c.1)
  | c :: d :: m => decide (c.2 ≠ dflt c.1) && decide (c.1 < d.1) && Memory.ok dflt (d :: m)

/-- The canonical form of a device memory or scratchpad. -/
def Memory.wf (m : Memory) : Bool := Memory.ok memDefault m

/-! ## Slices -/

/-- The read routes (R36). -/
inductive Path | g | k | s | t
  deriving DecidableEq, Repr

/-- What a fragment waits for before its next instruction can issue (R166). -/
inductive Wait
  /-- Nothing: its instruction may issue. -/
  | none
  /-- SW: the outstanding variable-latency results of its lanes (R165). -/
  | marker
  /-- A value of queue `q`, past `skip` earlier ones, for each of `lanes` (R154, R205). -/
  | pop (q : Nat) (lanes : Lanes) (skip : Nat)
  /-- Room for one entry in each of `n` queues from `q` on (R154, R156). -/
  | push (q n : Nat)
  /-- Queues of `mask` to hold no entry (R234). -/
  | qsync (mask : BitVec 8)
  /-- The slip to be at most `n` (R235). -/
  | slip (n : W32)
  /-- A path counter to be at most `n` (R236). -/
  | ctr (path : Path) (n : W32)
  /-- A path counter to be below 63 (R86). -/
  | ctrFull (path : Path)
  /-- WAITALL (R237). -/
  | all (mem : Bool)
  /-- Earlier accesses and engine operations, by identity, to be performed (R27, R68, R69, R71). -/
  | accs (ids : List Nat)
  /-- The same, where one of them waits for data of qs (R69). -/
  | qs (ids : List Nat)
  /-- An entry of the store buffer of 32 (R69). -/
  | storeBuffer
  /-- `n` entries of the range-lock table (R80). -/
  | locks (n : Nat)
  /-- Fewer than 64 copy and gather operations on the core (R295). -/
  | engines
  /-- The team barrier, from a SYNCT with or without SW (R165, R169). -/
  | barrier (sw : Bool)
  /-- Ticket `t` at barrier offset `off` (R293). -/
  | ticket (off : W32) (t : BitVec 16)
  /-- RACQ, to hold `n` blocks (R240). -/
  | racq (n : Nat)
  /-- RREL: no outstanding write to a register at or above `n` (R241). -/
  | rrel (n : Nat)
  /-- The instruction bytes at its PC (R164). -/
  | fetch
  /-- A page of 2^`bits` bytes at IA `ia`, missing, with its record written (R20, R174). -/
  | page (ia : IA) (bits : Nat)
  /-- Vanar messages to be acknowledged (R89). -/
  | msgs (l : List (Nat × W32))
  /-- CSAVE: the messages that carry an image under a number to be acknowledged (R323). -/
  | saving (seq : W32) (l : List (Nat × W32))
  /-- CSAVE: every path of a message that carries its image has failed (R323, R363). -/
  | saveLost
  /-- A procedural block that is FILLING (R114). -/
  | block (die entry blk : Nat)
  /-- GPL.WAIT (R310). -/
  | power
  /-- Room in the owner's present queue (R326). -/
  | present
  /-- PREEMPT, which holds `n` cores, to see the tile passes on them end (R185, R322). -/
  | holding (n : Nat)
  deriving DecidableEq, Repr

/-- A fragment: a PC and a lane mask (R158). `join` is its join record, `none` for the outermost level. -/
structure Frag where
  slot    : Nat
  pc      : W64
  mask    : Lanes
  join    : Option Nat
  wait    : Wait
  handler : Bool
  run     : Nat
  deriving DecidableEq, Repr

/-- A join record (R158 to R160). -/
structure Join where
  id      : Nat
  addr    : W64
  mask    : Lanes
  parent  : Option Nat
  arrived : Lanes
  handler : Bool
  deriving DecidableEq, Repr

/-- Where a result goes. -/
inductive Dst
  | vec (n : Nat)
  /-- A scalar, which takes the value of one lane (R223). -/
  | sca (n lane : Nat)
  | pred (n : Nat)
  | none
  deriving DecidableEq, Repr

/-- An outstanding variable-latency result (R165). `regs` holds one list of lane values per destination register;
`ready` the lanes whose values are known, `pend` those not yet written; a scalar is pending in every lane of its fragment. `acc` names the access that delivers them,
`path` the counter it counts in (R86); `mat` marks a matrix result. -/
structure Out where
  id    : Nat
  dst   : Dst
  regs  : List (List Val)
  pend  : Lanes
  ready : Lanes
  acc   : Option Nat
  path  : Option Path
  mat   : Bool
  deriving DecidableEq, Repr

/-- Trap registers of a slice (Table 13-6). -/
structure TrapRegs where
  cause  : W32
  pc     : W64
  resume : W64
  info   : W32
  skid   : W32
  deriving DecidableEq, Repr

/-- How far a slice is in a halt (R191). -/
inductive Halt
  | running
  /-- A halt broadcast has been sent; `n` further instructions issued so far, at most 24. -/
  | skid (n : Nat)
  | halted
  deriving DecidableEq, Repr

/-- A counted load, by its path and its access, in issue order (R86). -/
structure Counted where
  path : Path
  acc  : Nat
  deriving DecidableEq, Repr

/-- One slice of a group (R150, R158). -/
structure SliceSt where
  scal   : List Val
  preds  : List Lanes
  ixs    : List Byte
  vregs  : List (List Val)
  frags  : List Frag
  stack  : List Frag
  joins  : List Join
  served : Nat
  counts : List Counted
  outs   : List Out
  trap   : TrapRegs
  timeh  : W32
  exited : Lanes
  halt   : Halt
  issued : Nat
  deriving DecidableEq, Repr

/-! ## Groups and teams -/

/-- A queue entry (R153, R154). `ready` marks the delivered lanes, `acc` the load that fills it. -/
structure QEntry where
  mask   : Lanes
  ready  : Lanes
  popped : Lanes
  vals   : List Val
  tag    : BitVec 4
  acc    : Option Nat
  deriving DecidableEq, Repr

/-- A queue and its depth (R153). -/
structure Queue where
  depth   : Nat
  entries : List QEntry
  deriving DecidableEq, Repr

/-- States of a group (Table 7-4). Eligible and parked follow from its fragments. -/
inductive Life | created | resident | halted | green
  deriving DecidableEq, Repr

/-- Kernel header (Table 8-2). -/
structure Kernel where
  cmax  : Nat
  cmin  : Nat
  ablk  : Nat
  grps  : Nat
  gen   : Bool
  pair  : Bool
  width : Nat
  scr   : Nat
  qd    : List Nat
  mprim : Nat
  mvert : Nat
  deriving DecidableEq, Repr

/-- Output of a mesh group (R314). -/
structure MeshOut where
  verts  : List (List W32)
  prims  : List W32
  ended  : Bool
  nvert  : Nat
  nprim  : Nat
  deriving DecidableEq, Repr

structure Group where
  gid      : Nat
  team     : Nat
  core     : Nat
  grp      : Nat
  slot     : Nat
  width    : Nat
  life     : Life
  a        : SliceSt
  c        : SliceSt
  queues   : List Queue
  ablk     : Nat
  held     : Nat
  reserve  : Nat
  quarters : List Nat
  qunits   : List Nat
  slipl    : W32
  lodcnt   : W32
  qmaskf   : W32
  meshdrop : W32
  codebook : List (BitVec 16)
  mesh     : MeshOut
  step     : Nat
  discarded : Lanes
  pixels   : Lanes
  deriving DecidableEq, Repr

/-- What a team was launched for. -/
inductive TeamKind
  | compute
  /-- A prompter of a block, at a depth, with the launches of its ancestors (R117, R120, R121). -/
  | prompter (die entry blk depth : Nat) (chain : List Nat)
  | mesh (draw : Nat)
  | tile (draw : Nat)
  deriving DecidableEq, Repr

/-- Arrivals at a team barrier (R169): the group, the lanes, and when. -/
structure Arrival where
  gid   : Nat
  lanes : Lanes
  at_   : W64
  deriving DecidableEq, Repr

/-- A fatal trap of a team, kept for its error record (R191, R192). -/
structure TrapRec where
  cause : BitVec 8
  slice : Slice
  grp   : Nat
  core  : Nat
  info  : W32
  pc    : W64
  time  : W64
  step  : W32
  deriving DecidableEq, Repr

/-- How a team stands. -/
inductive TeamLife
  | running
  /-- Fatally halting: some slice has not stopped yet (R191). -/
  | halting
  /-- Every slice stopped; its record waits or is written; kept when DBG = 1 (R192). -/
  | fatal
  /-- Stopped by pre-emption, its image in the save area under number `seq` from unit `run` (R184, R401). `hold` is
  the context whose PREEMPT holds it back with the context that it names, if any. -/
  | stopped (seq : W32) (run units : Nat) (hold : Option (Nat × Nat))
  /-- Detached by CSAVE with image number `seq` (R323). -/
  | detached (seq : W32)
  /-- Brought back by CREST, waiting for a place (R325). -/
  | placing
  deriving DecidableEq, Repr

structure Team where
  id      : Nat
  kind    : TeamKind
  launch  : Nat
  ctx     : Nat
  pkt     : W32
  ltag    : BitVec 16
  num     : Nat
  count   : Nat
  level   : Nat
  entry   : W64
  kern    : Kernel
  core    : Nat
  scrBytes : Nat
  /-- Base of the allocation in the scratchpad of each of the team's cores (R52). -/
  scrBase : List (Nat × Nat)
  /-- While it holds no core: the contents of its allocations, the even core's first (R194). -/
  scratch : List (List PByte)
  barA    : List Arrival
  barC    : List Arrival
  life    : TeamLife
  traps   : List TrapRec
  recorded : Bool
  /-- Lowest step committed by the groups that have retired (R300). -/
  minStep : Nat
  /-- Messages of the release made when it was stopped, to be acknowledged before it runs again (R44, R87). -/
  pushes  : List (Nat × W32)
  groups  : List Group
  deriving DecidableEq, Repr

/-! ## Accesses in flight -/

/-- State of one lane of an access. -/
inductive LaneSt
  /-- Not yet performed. -/
  | todo
  /-- Its walk holds one of the home's 64 slots (R18). -/
  | walking
  /-- Waiting for a walk slot (R18). -/
  | queued
  /-- Parked on a missing page (R20), its record still held when `held` (R24). -/
  | parked (page : Nat) (bits : Nat) (held : Bool)
  /-- Waiting for a block that is FILLING (R114). -/
  | filling (die entry blk : Nat)
  /-- Returned by a full merge table; the core sends it again (R116). -/
  | returned
  /-- Sent to a host or peer home as a Vanar message with this tag (R360). -/
  | sent (slot : Nat) (tag : W32)
  /-- Answered with a retry status (R115). -/
  | retry (slot : Nat) (tag : W32)
  /-- Performed; for a load, its bytes and their poison. -/
  | got (bytes : List PByte)
  /-- Ended by a fatal condition found late (R400). -/
  | fatal (cause : BitVec 8) (info : W32)
  deriving DecidableEq, Repr

/-- One request of an access: that of a lane, or of a texel of a lane. `exempt` marks a permitted sampler fill of another
owner's surface (R140). -/
structure LaneAcc where
  lane : Nat
  va   : W64
  ia   : IA
  pwin : Bool
  prot : Bool
  exempt : Bool
  data : List Byte
  st   : LaneSt
  deriving DecidableEq, Repr

/-- What an access does. -/
inductive AccKind
  | load
  | store
  | atom (aop : Nat) (red : Bool)
  /-- The texel fetches of SMP, or of SLD. -/
  | sample (smp : Bool)
  deriving DecidableEq, Repr

/-- Where a tap's texel comes from. `fetch i` is request i of its lane. -/
inductive TexSrc
  | border
  | refused
  /-- A pixel of a screen view (DEDUCED, log 25). -/
  | view (p : BitVec 40)
  | fetch (i : Nat)
  deriving DecidableEq, Repr

/-- A lane of SMP or SLD: the surface's size and format, the coordinates, the sampler state and the taps (R349). -/
structure SampLane where
  lane   : Nat
  handle : W32
  /-- FRAMENO at issue (R140). -/
  frame  : W32
  /-- The sampler-state entry has not been read yet: its page is missing, and request 0 is its read (R20). -/
  waiting : Bool
  fmt    : Nat
  bpp    : Nat
  w      : Nat
  h      : Nat
  u      : W32
  v      : W32
  state  : W32
  border : List W32
  taps   : List TexSrc
  deriving DecidableEq, Repr

/-- How the delivered bytes become lane values. -/
inductive Deliver
  | queue (q : Nat) (n : Nat)
  | out (id : Nat)
  | none
  deriving DecidableEq, Repr

/-- One memory instruction from its issue until its last lane is performed: the store buffer, the operand log
and the requests in flight (R26, R69). -/
structure Acc where
  id      : Nat
  gid     : Nat
  sl      : Slice
  pc      : W64
  issuedAt : Nat
  kind    : AccKind
  path    : Path
  ty      : Ty
  nvec    : Nat
  scope   : Scope
  ord     : Order
  nol1    : Bool
  lanes   : List LaneAcc
  logged  : Bool
  needQs  : Option Lanes
  deliver : Deliver
  taps    : List SampLane
  deriving DecidableEq, Repr

/-! ## Engines -/

/-- A span of a range lock (R80): IA bytes or allocation offsets of a team. -/
structure Span where
  spad : Option Nat
  lo   : Nat
  hi   : Nat
  deriving DecidableEq, Repr

inductive EngKind
  | copy | copy2 | gather (idx : List W32) | zero | fill (pat : W32) | transpose
  deriving DecidableEq, Repr

/-- State of an engine's unit that has started and is not performed yet: its request, the source bytes with their poison
once read, the bytes of them already written, and whether it is the destination that it waits for. -/
structure UnitSt where
  unit : Nat
  st   : LaneSt
  data : List PByte
  wr   : Nat
  dest : Bool
  deriving DecidableEq, Repr

/-- An engine operation (R294 to R296). `src` and `dst` are IAs, or allocation offsets for the scratchpad; `sofs` and `dofs`
are what a VA exceeds its IA by; `done` names the units performed. -/
structure Eng where
  id     : Nat
  gid    : Nat
  team   : Nat
  core   : Nat
  ctx    : Nat
  pc     : W64
  issuedAt : Nat
  kind   : EngKind
  ssp    : Bool
  dsp    : Bool
  src    : Nat
  dst    : Nat
  rows   : Nat
  len    : Nat
  spitch : Int
  dpitch : Int
  sprot  : Bool
  dprot  : Bool
  spwin  : Bool
  dpwin  : Bool
  sofs   : Int
  dofs   : Int
  bar    : W32
  started : Bool
  done   : List Nat
  parked : List UnitSt
  deriving DecidableEq, Repr

/-- An entry of the range-lock table (R80): 128 per core. -/
structure Lock where
  entry : Nat
  eng   : Nat
  dest  : Bool
  span  : Span
  deriving DecidableEq, Repr

/-! ## Caches -/

/-- A 64-byte cache line, tagged by IA (R36, R37, R130); `frame` is the 64 KiB frame that backed it when it was filled, `writers` the slices
whose stores its dirty bytes may hold (R363). -/
structure Line where
  line   : Nat
  data   : BitVec 512
  valid  : BitVec 64
  dirty  : BitVec 64
  wide   : Bool
  owner  : Id12
  prot   : Bool
  frame  : Nat
  poison : List PoisonAt
  writers : List (Nat × Slice)
  deriving DecidableEq, Repr

/-- An instruction slot of an instruction-cache line (R164): its IA, word and poison, and the C-die frame it comes from (R138). -/
structure CodeSlot where
  ia     : IA
  frame  : Option Nat
  word   : IWord
  poison : Option Poison
  owner  : Id12
  prot   : Bool
  deriving DecidableEq, Repr

structure Core where
  l1      : List Line
  kcache  : List Line
  scache  : List Line
  tcache  : List Line
  icache  : List CodeSlot
  spad    : Memory
  spadPoison : List PoisonAt
  spadOwner : List (Nat × Id12)
  regOwner : List (Nat × Id12)
  qOwner  : List (Nat × Id12)
  locks   : List Lock
  /-- What is left of the emergency reserve, in quarters of a width-64 unit (R151, R152). -/
  reserve : Nat
  held    : Option (Nat × Nat)
  /-- The deadline launches that hold it (R187). -/
  dlHeld  : List Nat
  /-- When it was held last (R345). -/
  heldAt  : W64
  kept    : Option Nat
  /-- Corrected errors of its scratchpad, register files and queues (R59); no register shows them (DEDUCED, log 116). -/
  corrected : Nat
  deriving DecidableEq, Repr

/-! ## Homes -/

/-- A translation-cache entry (R18): the mapped page, its leaf. -/
structure Tlb where
  base  : Nat
  bits  : Nat
  leaf  : W64
  at_   : Nat
  deriving DecidableEq, Repr

/-- On-chip copy of a procedural range table entry (Table 5-1). -/
structure Prt where
  entry : Nat
  base  : Nat
  nblk  : Nat
  bsz   : Nat
  level : Nat
  ptmo  : Nat
  pctx  : Nat
  pva   : W64
  code  : W64
  arg   : W64
  fst   : Nat
  fail  : Nat
  pin   : Nat
  deriving DecidableEq, Repr

/-- A merge-table entry: a fill in flight (R116), with the range as it stood when the fill began (R110). `depth` is its prompter's, `rctx`
the starter's context, `launch` its launch; `zeroed` says that the block has been zeroed in its frame. -/
structure Merge where
  entry : Nat
  blk   : Nat
  prt   : Prt
  level : Nat
  depth : Nat
  rctx  : Nat
  ltag  : Nat
  launch : Nat
  zeroed : Bool
  since : W64
  deriving DecidableEq, Repr

/-- Lines of device memory, as keys divided by 64 from `lo` to before `hi`, encrypted under a key of a key slot: its identity, 0 for
none (R144). -/
structure Seal where
  lo  : Nat
  hi  : Nat
  key : Nat
  deriving DecidableEq, Repr

/-- A host or peer request whose response the home holds (R115). -/
structure Deferred where
  slot : Nat
  msg  : Instr
  entry : Nat
  blk  : Nat
  deriving DecidableEq, Repr

/-- A migration in progress (R31): its page and the size of it, the keys of the frames (at home 8, the address in a message),
the rewritten lines, and what of it is still under way at the host. -/
structure Mig where
  cmd    : Nat
  page   : Nat
  bits   : Nat
  leafAt : Nat
  oldF   : Nat
  newF   : Nat
  thresh : Nat
  maxRnd : Nat
  round  : Nat
  dirty  : List Nat
  frozen : Bool
  reads  : List (W32 × Nat)
  acks   : List W32
  deriving DecidableEq, Repr

structure Home where
  tlb    : List Tlb
  walks  : List (Nat × Nat)
  prts   : List Prt
  merges : List Merge
  deferred : List Deferred
  migs   : List Mig
  ended  : List Nat
  migNext : Nat
  /-- The key slots that hold a key, each with the identity of the key (R144). -/
  keys   : List (Nat × Nat)
  deriving DecidableEq, Repr

/-! ## Contexts and launches -/

/-- Fields of a context descriptor as accepted, and its live state (Tables 8-1 and 8-7). -/
structure Ctx where
  num     : Nat
  valid   : Bool
  prot    : Bool
  dbg     : Bool
  maxlvl  : Nat
  owner   : Id12
  agelim  : Nat
  plmax   : Nat
  trapmask : W32
  lqbase  : IA
  lqlog   : Nat
  /-- Packets taken, fault records and error records written: the device's own counts, which it also stores in the descriptor (R172). -/
  lqcons  : W32
  fqprod  : W32
  errprod : W32
  fqbase  : IA
  fqlog   : Nat
  errbase : IA
  savebase : IA
  savelen : Nat
  spillbase : IA
  spilllen : Nat
  trapvec : W64
  barto   : W32
  prdepth : Nat
  vrg     : List W32
  refuse  : W32
  plreq   : W32
  plstat  : W32
  runs    : List (Nat × Nat)
  deriving DecidableEq, Repr

/-- Urxia's save counter and restore mask of a context number (R195). -/
structure SaveCtr where
  ctx  : Nat
  c    : W32
  mask : BitVec 64
  deriving DecidableEq, Repr

/-- A launch (Tables 8-2 to 8-4) or the placement side of a prompter, mesh or tile team set. -/
structure Launch where
  lid     : Nat
  ctx     : Nat
  pkt     : W32
  at_     : IA
  entry   : W64
  teams   : Nat
  level   : Nat
  raised  : Nat
  dl      : Bool
  ltag    : BitVec 16
  wait0   : W64
  wval0   : W64
  wait1   : W64
  wval1   : W64
  signal  : W64
  cgid    : BitVec 16
  param   : List W32
  dltime  : W64
  /-- A team of it was still running at DLTIME (R187). -/
  overran : Bool
  wrun    : Nat
  dlpl    : Nat
  npair   : Nat
  fpair   : Nat
  tlead   : Nat
  kern    : Kernel
  kind    : TeamKind
  next    : Nat
  retired : Nat
  ready   : Bool
  /-- When the packet was taken, or the fill started. -/
  takenAt : W64
  /-- When its present aging interval began (R179). -/
  since   : W64
  /-- Since when its next team waits (R181). -/
  waits   : W64
  /-- Its header has been read and checked. -/
  checked : Bool
  /-- The packet waits for its header's page (R174). -/
  header  : Option (IA × Nat)
  holding : Bool
  fatal   : Bool
  /-- Aborted: from outside?, the code; when; the steps reported so far, by member. -/
  abort   : Option (Bool × BitVec 16)
  abortAt : W64
  steps   : List (Nat × W32)
  minStep : Option W32
  resv    : Option Nat
  deriving DecidableEq, Repr

/-- A record of a fault batch that does not fit yet, or an error record that waits (R24, R192). -/
structure HeldBatch where
  ctx  : Nat
  recs : List (List Byte)
  acc  : Nat
  deriving DecidableEq, Repr

structure HeldRecord where
  ctx  : Nat
  body : List Byte
  team : Nat
  deriving DecidableEq, Repr

/-! ## Graphics -/

/-- A binned primitive: its 48 vertex words and its tag (R340). -/
structure BinPrim where
  order : Nat × Nat × Nat
  words : List W32
  tag   : Byte
  deriving DecidableEq, Repr

/-- A tile pass (R342 to R346). -/
structure TilePass where
  tile    : Nat
  core    : Nat
  base    : Nat
  sub     : Nat
  nextPrim : Nat
  touched : List Nat
  team    : Option Nat
  deriving DecidableEq, Repr

inductive DrawStage | queued | mesh | tiles | capture | done
  deriving DecidableEq, Repr

/-- A graphics packet in flight (R337, R338). -/
structure Draw where
  did    : Nat
  ctx    : Nat
  pkt    : W32
  at_    : IA
  bytes  : List Byte
  stage  : DrawStage
  header : Option (IA × Nat)
  mkern  : Kernel
  fkern  : Kernel
  launch : Nat
  takenAt : W64
  frame  : W32
  outputs : List (Nat × Nat × MeshOut × Nat)
  /-- The pages of the bin pool that it holds. -/
  pages  : List Nat
  prims  : List BinPrim
  lists  : List (Nat × List Nat)
  binned : Bool
  passes : List TilePass
  doneTiles : List Nat
  fatal  : Bool
  deriving DecidableEq, Repr

/-! ## The I/O die -/

/-- A pass entry (Table 6-6), as its eight words. -/
structure Pass where
  idx     : Nat
  sample  : Bool
  capture : Bool
  grantee : Id12
  grantor : Id12
  handle  : W32
  x0 : Nat
  y0 : Nat
  x1 : Nat
  y1 : Nat
  startf  : W32
  endf    : W32
  deriving DecidableEq, Repr

/-- A frame in a present queue (R326, R353). -/
structure QFrame where
  frameno : W32
  handle  : W32
  target  : W64
  at_     : W64
  latched : Bool
  deriving DecidableEq, Repr

/-- Per-owner state of the I/O die (R140, R353). -/
structure OwnerSt where
  owner   : Id12
  frameno : W32
  queue   : List QFrame
  deriving DecidableEq, Repr

/-- A frame an output has latched for an owner. -/
structure Latched where
  owner   : Id12
  frameno : W32
  handle  : W32
  deriving DecidableEq, Repr

/-- State of a screen view outside its registers (R136, R146, R353). -/
structure View where
  sel     : Bool
  hdcp    : Bool
  latched : List Latched
  /-- Its picture: 10 bits each of R, G, B and A for a pixel, from bit 0 (R352, R354). -/
  picture : List (BitVec 40)
  /-- The picture with every pixel that depends on a protected surface under its owner's curtain, as all but the output sees it (R146). -/
  masked  : List (BitVec 40)
  /-- The picture that its output or sender carries away, empty while it is off or silent (R352, R366). -/
  sent    : List (BitVec 40)
  /-- The ns from which its next field may start (R351). -/
  nextField : W64
  deriving DecidableEq, Repr

/-! ## Vanar -/

/-- A message the device has sent, or has still to send (Tables 16-8, 16-9). -/
structure Msg where
  seq   : W32
  cls   : Nat
  rsp   : Bool
  type  : Nat
  tag   : W32
  addr  : W64
  body  : List Byte
  port  : Nat
  tries : Nat
  failedPorts : List Nat
  /-- The slices whose stores it carries (R363). -/
  writers : List (Nat × Slice)
  /-- It has left the device; until then it waits at its source (R89, R362, R364). -/
  sent  : Bool
  /-- When it was last sent, or changed ports (R363). -/
  since : W64
  deriving DecidableEq, Repr

/-- A stored response (R362): the request's number and the response's. -/
structure Stored where
  req : W32
  rsp : W32
  deriving DecidableEq, Repr

/-- The streams with one endpoint slot (R362). -/
structure Stream where
  slot   : Nat
  next   : W32
  out    : List Msg
  e      : W32
  got    : List W32
  stored : List Stored
  /-- Requests accepted and not performed yet, because a block is FILLING (R115). -/
  held   : List W32
  unackd : Bool
  /-- The ports that have failed for it and have not answered a probe since (R363). -/
  failed : List Nat
  acks   : List (W32 × W64)
  deriving DecidableEq, Repr

/-- An entry of a port's gate-control list (IEEE 802.1Qbv, R365). -/
structure GateEntry where
  classes  : Byte
  interval : W32
  deriving DecidableEq, Repr

/-- A stream filter of a port and its gate (IEEE 802.1Qci, R365). -/
structure StreamFilter where
  stream : Nat
  gate   : Bool
  deriving DecidableEq, Repr

/-- A secure association of a port: GCM-AES-256, with a 32-bit packet number (IEEE 802.1AE, R365). -/
structure SecureAssoc where
  assoc  : Byte
  key    : BitVec 256
  packet : W32
  deriving DecidableEq, Repr

structure Port where
  up      : Bool
  discard : W64
  /-- The priorities that its link partner has paused (R364). -/
  paused  : List Nat
  /-- At most 256 gate-control entries, 64 stream filters and 16 secure associations: no step reads or writes them (R365; DESIGN CHOICE,
  log 140). -/
  gates   : List GateEntry
  filters : List StreamFilter
  assocs  : List SecureAssoc
  deriving DecidableEq, Repr

/-- A read of code or of a kernel header at a host or peer home (R11, R174): the request sent, and the status and bytes of
its answer. -/
structure CodeRead where
  slot  : Nat
  tag   : W32
  ia    : Nat
  owner : Id12
  /-- 0 for code and headers, else the key of the fragment whose CREST reads an image. -/
  reader : Nat
  got   : Option (Nat × List Byte)
  deriving DecidableEq, Repr

/-- A line that PFX has asked of a host or peer home (R287): the READ, and the request of the lane that named it. -/
structure Prefetch where
  slot  : Nat
  tag   : W32
  ia    : Nat
  core  : Nat
  ctx   : Nat
  wprot : Bool
  alloc : Bool
  deriving DecidableEq, Repr

/-! ## Power, board, Urxia -/

/-- A logical cluster's clocks and monitors (Tables 13-7, 16-4; R369 to R371, R378). -/
inductive PowerStep | settled | rampUp | clock | rampDown | crossing
  deriving DecidableEq, Repr

structure Cluster where
  level    : Nat
  /-- The level whose voltage is applied. -/
  volt     : Nat
  /-- What the step in progress ends in: a level, or a ratio at a crossing. -/
  goal     : Nat
  ratio    : Nat
  tgtLevel : Nat
  tgtRatio : Nat
  step     : PowerStep
  /-- PLGNT: the level, and 16 times the ratio, at which it settled last (R310, R386). -/
  gnt      : Nat
  stallmem : W32
  stalliss : W32
  encore   : W32
  sampleEncores : Nat
  extraFloor : Nat
  capDown  : Nat
  gr       : Nat
  disabled : Bool
  deriving DecidableEq, Repr

/-- A limit table (Table 16-13). -/
structure LimitBand where
  top   : Int
  cap   : Nat
  floor : Nat
  deriving DecidableEq, Repr

structure LimitTable where
  medium  : Nat
  plim    : Nat
  minflow : Nat
  bands   : List LimitBand
  deriving DecidableEq, Repr

/-- The I3C registers of Table 16-12 and the last report. -/
structure Board where
  /-- The dynamic address that the board's controller has assigned, and the register address that a private write has named last (R373). -/
  addr     : Option Byte
  named    : Byte
  cooltemp : BitVec 16
  coolflow : BitVec 16
  medium   : Byte
  wakestat : Byte
  report   : Option (Int × Nat × Nat)
  /-- When it came (R372). -/
  reportAt : W64
  deriving DecidableEq, Repr

structure Urxia where
  accepted  : Bool
  recovery  : Bool
  /-- The step of start-up that failed, if one has, and the unit that failed (R2, R383). -/
  failed    : Option (Nat × Nat)
  /-- The reports of a failure of start-up: the CFG endpoint, the step and the unit (R380, R383; DESIGN CHOICE, log 113). -/
  told      : List (Nat × Nat × Nat)
  image     : List Byte
  started   : Nat
  starts    : W32
  subst     : W32
  firmware  : List Byte
  tables    : List LimitTable
  keyUses   : Nat
  reports   : Nat
  listed    : List Nat
  deriving DecidableEq, Repr

/-- A collective member's exchange (R193, R367). -/
structure Collective where
  cgid  : BitVec 16
  steps : List (Nat × W32)
  deriving DecidableEq, Repr

/-! ## The device -/

/-- The issuing fragment: its group, slice and slot, and the word's check result is the step's own. -/
structure Issuer where
  gid  : Nat
  sl   : Slice
  slot : Nat
  deriving DecidableEq, Repr

structure State where
  /-- Device timebase in ns (R365). -/
  time     : W64
  timeLocked : Bool
  /-- The time source that start-up has selected (R365, R383). -/
  timeSource : Option TimeSource
  /-- Device memory: key is FHOME × 2^48 + byte within the die (R16). -/
  mem      : Memory
  /-- Poison per 8-byte granule of device memory (R60); index is the key divided by 8. -/
  memPoison : List PoisonAt
  /-- Latent uncorrectable errors of device memory, by 32-byte block (R59; DESIGN CHOICE, log 19). -/
  flaws    : List Nat
  /-- Contents of compression units written with code 0x02 or 0x03, by the IA of the unit: the stored bytes themselves have no
  defined arrangement (R50; DESIGN CHOICE, log 15). -/
  units    : List (Nat × List Byte)
  /-- Owner stamps of 64 KiB frames (R138): key divided by 2^16; unlisted is 0xFFF. -/
  stamps   : List (Nat × Id12)
  /-- The keys under which lines of device memory lie encrypted, the latest first; unlisted is unencrypted (R144). `mem` holds the
  plaintext (DESIGN CHOICE, log 85). -/
  seals    : List Seal
  /-- The L2 of each C-die (R42, R43): a byte of a valid bit stands over the byte of `mem`. -/
  l2       : List (List Line)
  /-- The metadata cache of each C-die's home (R49). -/
  mdc      : List (List Line)
  /-- Configuration apertures (R357): key is die × 2^24 + offset. -/
  regs     : Memory
  cores    : List Core
  rdcs     : List (List Line)
  /-- READ requests under way to endpoints, as slot and tag, whose lines no cache may take any more: an acquire, a path fence
  or a write of the line has come between (R65, R72, R75; DESIGN CHOICE, log 95). -/
  stale    : List (Nat × W32)
  /-- READ requests of lanes and engine units whose line this device has written since: their answers are not used, and the lines are read
  again (R65, R68, R72, R82; DESIGN CHOICE, log 95). -/
  outdated : List (Nat × W32)
  homes    : List Home
  teams    : List Team
  accs     : List Acc
  engs     : List Eng
  launches : List Launch
  draws    : List Draw
  ctxs     : List Ctx
  gfx      : List (Nat × List Byte)
  saves    : List SaveCtr
  batches  : List HeldBatch
  records  : List HeldRecord
  collectives : List Collective
  passes   : List Pass
  owners   : List OwnerSt
  views    : List View
  /-- The surface descriptors accepted, by the IA of the entry (R133). -/
  descs    : List (Nat × List Byte)
  streams  : List Stream
  ports    : List Port
  /-- The priorities on which the device, as a receiver, has sent a pause (R364). -/
  pausing  : List Nat
  /-- The slices with a store that has been ended because every allowed port had failed, each with the lane: their next release at SYS takes
  PAGE_FATAL (R363). -/
  lost     : List (Nat × Slice × Nat)
  reads    : List CodeRead
  prefetches : List Prefetch
  clusters : List Cluster
  overload : Nat
  calm     : Nat
  board    : Board
  urxia    : Urxia
  ghost    : Bool
  understudy : List (Nat × Nat)
  /-- The die links and the ports whose spare lane is in use (R379). -/
  spared   : List WearUnit
  repairs  : List WearUnit
  rr       : List (Nat × Nat)
  /-- Inputs from outside the device that have arrived and are not yet taken (DESIGN CHOICE, log 2). -/
  inbox    : List Instr
  /-- Steps of the device that follow at once from a performed write or an instruction. -/
  due      : List Instr
  /-- Owner stamps of the bin pool's pages (Table 6-5): the key divided by 2^12; unlisted is 0xFFF. -/
  poolOwner : List (Nat × Id12)
  /-- The fragments that an ISSUE_CYCLE has still to pick from, in the order of the age matrix (R182). -/
  offered  : List Issuer
  /-- Fragments picked by the last ISSUE_CYCLE, not yet issued (R182). -/
  picked   : List Issuer
  /-- The fragment whose instruction is being executed. -/
  cur      : Option Issuer
  /-- Identities given so far. -/
  nextId   : Nat
  /-- The model's own counter of free values (DESIGN CHOICE, log 2, DESIGN CHOICE, log 12). -/
  free     : Nat
  deriving DecidableEq, Repr

/-! ## Reset -/

def Core.reset : Core :=
  { l1 := [], kcache := [], scache := [], tcache := [], icache := [], spad := [], spadPoison := [], spadOwner := [],
    regOwner := [], qOwner := [], locks := [], reserve := 64, held := none, dlHeld := [], heldAt := 0, kept := none, corrected := 0 }

def Home.reset : Home :=
  { tlb := [], walks := [], prts := [], merges := [], deferred := [], migs := [], ended := [], migNext := 0,
    keys := [] }

def View.reset : View := { sel := false, hdcp := false, latched := [], picture := [], masked := [], sent := [], nextField := 0 }

def Stream.reset (slot : Nat) : Stream :=
  { slot := slot, next := 0, out := [], e := 0, got := [], stored := [], held := [], unackd := false, failed := [],
    acks := [] }

def Port.reset : Port := { up := false, discard := 0, paused := [], gates := [], filters := [], assocs := [] }

/-- PLGNT at its reset value, PL0 with the equal ratio (Table 13-7); start-up sets PL4 (R383); GR 8 (DESIGN CHOICE, log 4). -/
def Cluster.reset : Cluster :=
  { level := 0, volt := 0, goal := 0, ratio := 1, tgtLevel := 0, tgtRatio := 1, step := .settled, gnt := 16, stallmem := 0, stalliss := 0,
    encore := 0, sampleEncores := 0, extraFloor := 0, capDown := 0, gr := 8, disabled := false }

def Board.reset : Board :=
  { addr := none, named := 0, cooltemp := 0, coolflow := 0, medium := 0, wakestat := 0, report := none, reportAt := 0 }

def Urxia.reset : Urxia :=
  { accepted := false, recovery := false, failed := none, told := [], image := [], started := 0, starts := 0, subst := 0, firmware := [],
    tables := [], keyUses := 0, reports := 0, listed := [] }

/-- The machine right after reset: no start-up step has run (R383). -/
def State.reset : State :=
  { time := 0, timeLocked := false, timeSource := none, mem := [], memPoison := [], flaws := [], units := [], stamps := [], seals := [],
    l2 := List.replicate 4 [], mdc := List.replicate 4 [], regs := [],
    cores := List.replicate 160 Core.reset, rdcs := List.replicate 4 [], stale := [], outdated := [], homes := List.replicate 9 Home.reset,
    teams := [], accs := [], engs := [], launches := [], draws := [], ctxs := [], gfx := [], saves := [],
    batches := [], records := [], collectives := [], passes := [], owners := [],
    views := List.replicate 8 View.reset, descs := [], streams := (List.range 16).map Stream.reset,
    ports := List.replicate 2 Port.reset, pausing := [], lost := [], reads := [], prefetches := [], clusters := List.replicate 40 Cluster.reset,
    overload := 0, calm := 0, board := Board.reset, urxia := Urxia.reset, ghost := false, understudy := [],
    spared := [], repairs := [], rr := [], inbox := [], due := [], poolOwner := [], offered := [], picked := [], cur := none, nextId := 1, free := 0 }

end Sys2Proof.Machine
end

