-- ==== Sys2Proof/Machine/Ops.lean ====
section
/-!
DEFINITION. The named operations over the state: memory cells, registers of the apertures, look-ups and
updates of every entity, messages to the outside, error records, and taking a trap.
-/

namespace Sys2Proof.Machine

/-! ## Bytes and bit fields -/

/-- The little-endian number of some bytes (R197). -/
def leNat : List Byte → Nat
  | [] => 0
  | b :: bs => b.toNat + 256 * leNat bs

/-- `n` little-endian bytes of a number. -/
def leBytes : Nat → Nat → List Byte
  | 0, _ => []
  | n + 1, v => BitVec.ofNat 8 v :: leBytes n (v / 256)

/-- Bits `lo` to `lo + n - 1` of a number. -/
def bits (v lo n : Nat) : Nat := (v / 2 ^ lo) % 2 ^ n

/-- Bit `i` of a number. -/
def bitN (v i : Nat) : Bool := (v / 2 ^ i) % 2 == 1

def boolNat (b : Bool) : Nat := if b then 1 else 0

/-- The lanes of a mask, ascending. -/
def lanesOf (m : Lanes) : List Nat := (List.range 64).filter fun l => m.getLsbD l

/-- The lowest lane of a mask, 0 when there is none. -/
def lowLane (m : Lanes) : Nat := ((List.range 64).find? fun l => m.getLsbD l).getD 0

def laneBit (l : Nat) : Lanes := BitVec.ofNat 64 (2 ^ l)

/-- The mask of the lanes that satisfy `f`. -/
def maskOf (f : Nat → Bool) : Lanes :=
  BitVec.ofNat 64 ((List.range 64).foldl (fun a l => if f l then a + 2 ^ l else a) 0)

/-- All lanes of a group of width `w`. -/
def allLanes (w : Nat) : Lanes := BitVec.ofNat 64 (2 ^ w - 1)

def countLanes (m : Lanes) : Nat := (lanesOf m).length

/-- Updates the elements that satisfy `p`. -/
def updWhere {α : Type} (l : List α) (p : α → Bool) (f : α → α) : List α := l.map fun x => if p x then f x else x

/-- Updates element `i` of a list. -/
def updAt {α : Type} : List α → Nat → (α → α) → List α
  | [], _, _ => []
  | x :: xs, 0, f => f x :: xs
  | x :: xs, n + 1, f => x :: updAt xs n f

/-- Puts a value under a key of an association list. -/
def assocSet {α : Type} (l : List (Nat × α)) (k : Nat) (v : α) : List (Nat × α) :=
  (k, v) :: l.filter fun x => x.1 != k

/-! ## Memory cells -/

/-- The byte at an address of a memory whose unlisted addresses read as `dflt`. -/
def cellRead (dflt : Nat → Byte) : Memory → Nat → Byte
  | [], a => dflt a
  | c :: m, a => if c.1 = a then c.2 else if a < c.1 then dflt a else cellRead dflt m a

/-- Writes a byte and keeps the canonical form. -/
def cellWrite (dflt : Nat → Byte) : Memory → Nat → Byte → Memory
  | [], a, b => if b = dflt a then [] else [(a, b)]
  | c :: m, a, b =>
    if a < c.1 then (if b = dflt a then c :: m else (a, b) :: c :: m)
    else if c.1 = a then (if b = dflt a then m else (a, b) :: m)
    else c :: cellWrite dflt m a b

/-- Writes bytes at consecutive addresses. -/
def cellWrites (dflt : Nat → Byte) (m : Memory) (a : Nat) : List Byte → Memory
  | [] => m
  | b :: bs => cellWrites dflt (cellWrite dflt m a b) (a + 1) bs

/-- Removes every entry of a range, so that it reads as unlisted. -/
def cellClear (m : Memory) (lo hi : Nat) : Memory := m.filter fun c => !(decide (lo ≤ c.1) && decide (c.1 < hi))

def cellReads (dflt : Nat → Byte) (m : Memory) (a n : Nat) : List Byte :=
  (List.range n).map fun i => cellRead dflt m (a + i)

/-! ## Device memory -/

/-- Key of byte `off` of the memory of a C-die. -/
def memKey (die off : Nat) : Nat := die * 2 ^ 48 + off

/-- Good bytes. -/
def plain (bs : List Byte) : List PByte := bs.map fun b => (b, none)

/-- The bytes without their poison. -/
def values (bs : List PByte) : List Byte := bs.map (·.1)

/-- The first poison among some bytes. -/
def anyPoison (bs : List PByte) : Option Poison := bs.findSome? (·.2)

/-- The poison of byte `a` of a storage with granules of `size` bytes. -/
def markAt (ps : List PoisonAt) (size a : Nat) : Option Poison := (ps.find? fun q => q.idx == a / size).map (·.poison)

/-- Bytes `lo` to `lo + n - 1` of a write at `at_`. -/
def pieceOf (at_ : Nat) (bs : List PByte) (lo n : Nat) : List PByte := (bs.take (lo + n - at_)).drop (lo - at_)

/-- Poison marks after a write at `at_`: a granule that the write covers whole takes good data or the poison of its bytes; a
narrower write leaves a poisoned granule poisoned, and poisoned bytes poison theirs (R60). -/
def poisonAfter (ps : List PoisonAt) (at_ : Nat) (bs : List PByte) (size : Nat) : List PoisonAt :=
  if bs.isEmpty then ps else
  let n := bs.length
  let inside := fun (g : Nat) => decide (at_ / size ≤ g) && decide (g ≤ (at_ + n - 1) / size)
  let whole := fun (g : Nat) => decide (at_ ≤ g * size) && decide (g * size + size ≤ at_ + n)
  let new : List PoisonAt := if (anyPoison bs).isNone then [] else
    ((List.range ((at_ + n - 1) / size + 1 - at_ / size)).map (· + at_ / size)).filterMap fun g =>
      (anyPoison (pieceOf at_ bs (g * size) size)).map fun p => { idx := g, poison := p }
  new ++ ps.filter fun q => !(inside q.idx && (whole q.idx || new.any fun x => x.idx == q.idx))

/-- Byte `i` of a line. -/
def Line.byte (l : Line) (i : Nat) : Byte := l.data.extractLsb' (8 * i) 8

/-- Byte `i` of a line, with the poison of its granule. -/
def Line.pbyte (l : Line) (i : Nat) : PByte := (l.byte i, markAt l.poison 8 i)

/-- Bits `o` to `o + n - 1` of a byte mask. -/
def spanMask (o n : Nat) : BitVec 64 := BitVec.ofNat 64 ((2 ^ n - 1) * 2 ^ o)

/-- A 512-bit line of 64 bytes. -/
def lineData (bs : List Byte) : BitVec 512 := BitVec.ofNat 512 (leNat bs)

/-- The bytes of a mask taken from `new`, the others from `old`. -/
def mergeData (old new : BitVec 512) (m : BitVec 64) : BitVec 512 :=
  lineData ((List.range 64).map fun i => if m.getLsbD i then new.extractLsb' (8 * i) 8 else old.extractLsb' (8 * i) 8)

/-- Bytes written into a line: valid, and dirty or clean. -/
def Line.write (l : Line) (o : Nat) (bs : List PByte) (dirty : Bool) : Line :=
  let m := spanMask o bs.length
  { l with data := mergeData l.data (lineData (values bs) <<< (8 * o)) m, valid := l.valid ||| m,
           dirty := if dirty then l.dirty ||| m else l.dirty &&& ~~~m, poison := poisonAfter l.poison o bs 8 }

/-- A line that has been written by some slices. -/
def Line.wrote (l : Line) (by_ : List (Nat × Slice)) : Line := { l with writers := by_.filter (fun x => !l.writers.contains x) ++ l.writers }

/-- A line whose dirty bytes have gone home. -/
def Line.clean (l : Line) : Line := { l with dirty := 0, writers := [] }

/-- The line of device memory that a line of an L2 or a metadata cache stands over, as the key divided by 64. -/
def Line.phys (l : Line) : Nat := l.frame * 1024 + l.line % 1024

/-- Lines of 64 bytes that a span touches. -/
def linesOf (lo n : Nat) : List Nat := if n = 0 then [] else (List.range ((lo + n - 1) / 64 + 1 - lo / 64)).map (· + lo / 64)

def State.l2Of (s : State) (d : Nat) : List Line := s.l2.getD d []
def State.mdcOf (s : State) (d : Nat) : List Line := s.mdc.getD d []

/-- The line of the home's caches that stands over line `pl` of device memory: the metadata cache's, else the L2's. -/
def State.heldLine (s : State) (pl : Nat) : Option Line :=
  ((s.mdcOf (pl / 2 ^ 42)).find? fun l => l.phys == pl).orElse fun _ => (s.l2Of (pl / 2 ^ 42)).find? fun l => l.phys == pl

/-- A byte of device memory itself. -/
def State.rawByte (s : State) (key : Nat) : PByte := (cellRead memDefault s.mem key, markAt s.memPoison 8 key)

/-- Bytes of device memory inside one line, as its home has them. -/
def State.lineRead (s : State) (pl o n : Nat) : List PByte :=
  match s.heldLine pl with
  | none => (List.range n).map fun i => s.rawByte (pl * 64 + o + i)
  | some l => (List.range n).map fun i => if l.valid.getLsbD (o + i) then l.pbyte (o + i) else s.rawByte (pl * 64 + o + i)

/-- The part of span `lo`, `n` in line `pl`: its offset and its length. -/
def partOf (lo n pl : Nat) : Nat × Nat := (max lo (pl * 64) - pl * 64, min (lo + n) (pl * 64 + 64) - max lo (pl * 64))

/-- Bytes of device memory as its home has them (R43, R60). -/
def State.memRead (s : State) (key n : Nat) : List PByte :=
  (linesOf key n).flatMap fun pl => s.lineRead pl (partOf key n pl).1 (partOf key n pl).2

def State.memBytes (s : State) (key n : Nat) : List Byte := values (s.memRead key n)

/-- A little-endian number of `n` bytes of device memory. -/
def State.memNat (s : State) (key n : Nat) : Nat := leNat (s.memBytes key n)

/-- A write, line by line: each line with the offset and the bytes of its part. -/
def lineParts (key : Nat) (bs : List PByte) : List (Nat × Nat × List PByte) :=
  (linesOf key bs.length).map fun pl => (pl, (partOf key bs.length pl).1, pieceOf key bs (pl * 64) 64)

/-- A line of a home's cache takes its part of a write to device memory. -/
def Line.takes (l : Line) (parts : List (Nat × Nat × List PByte)) : Line :=
  match parts.find? fun x => x.1 == l.phys with
  | some x => l.write x.2.1 x.2.2 true
  | none => l

/-- A write of bytes at a home: the lines that its caches hold take their bytes, device memory the others (R43, R60). -/
def State.memWrite (s : State) (key : Nat) (bs : List PByte) : State :=
  let parts := lineParts key bs
  let raw := parts.filter fun x => (s.heldLine x.1).isNone
  { s with mem := raw.foldl (fun m x => cellWrites memDefault m (x.1 * 64 + x.2.1) (values x.2.2)) s.mem,
           memPoison := raw.foldl (fun ps x => poisonAfter ps (x.1 * 64 + x.2.1) x.2.2 8) s.memPoison,
           l2 := updAt s.l2 (key / 2 ^ 48) fun ls => ls.map fun l => l.takes parts,
           mdc := updAt s.mdc (key / 2 ^ 48) fun ls => ls.map fun l => l.takes parts }

/-- Zeroes a span of device memory of whole lines, poison included; the home's caches hold nothing of it after. -/
def State.memZero (s : State) (key n : Nat) : State :=
  let keep := fun (l : Line) => !(decide (key < l.phys * 64 + 64) && decide (l.phys * 64 < key + n))
  { s with mem := cellClear s.mem key (key + n),
           memPoison := s.memPoison.filter fun q => !(decide (key ≤ q.idx * 8) && decide (q.idx * 8 + 8 ≤ key + n)),
           l2 := updAt s.l2 (key / 2 ^ 48) fun ls => ls.filter keep, mdc := updAt s.mdc (key / 2 ^ 48) fun ls => ls.filter keep }

/-! ## Configuration apertures (R357, R358) -/

/-- Key of a register byte. -/
def regKey (die off : Nat) : Nat := die * 2 ^ 24 + off

/-- The reset value of each aperture byte (Tables 16-1, 16-11, 15-7, 15-8). -/
def regDefault (key : Nat) : Byte :=
  let off := key % 2 ^ 24
  if key / 2 ^ 24 ≠ 0 then 0
  else if off = 0x10080 then 0xB5 else if off = 0x10081 then 0x88
  else if off = 0x10084 then 20 else if off = 0x10088 then 50
  else if off = 0x20200 then 0x56 else if off = 0x20201 then 0x01
  else if 0x30000 ≤ off ∧ off < 0x300A0 then (if off % 4 = 2 then 0x10 else 0)
  else if 0x100000 ≤ off ∧ off < 0x100200 then
    (if off % 0x40 = 0x30 then 0x20 else if off % 0x40 = 0x31 then 0x4E else 0)
  else if 0x110000 ≤ off ∧ off < 0x120000 then
    (if off % 16 = 3 then 0xFF else if off % 16 = 4 then 1 else 0)
  else 0

/-- The stored value of a register of `n` bytes. -/
def State.reg (s : State) (die off n : Nat) : Nat := leNat (cellReads regDefault s.regs (regKey die off) n)

def State.setReg (s : State) (die off n v : Nat) : State :=
  { s with regs := cellWrites regDefault s.regs (regKey die off) (leBytes n v) }

/-- A base register: an IA in [51:6] (R357). -/
def State.surfBase (s : State) : Nat := s.reg 0 0x10008 8
def State.ctxBase (s : State) : Nat := s.reg 0 0x10010 8
def State.gfxBase (s : State) : Nat := s.reg 0 0x10018 8
def State.binBase (s : State) : Nat := s.reg 0 0x10020 8
def State.binLen (s : State) : Nat := s.reg 0 0x10028 8
def State.cgtBase (s : State) : Nat := s.reg 0 0x10030 8
def State.rasBase (s : State) : Nat := s.reg 0 0x10038 8

/-! ## Look-ups -/

def State.core (s : State) (c : Nat) : Core := s.cores.getD c Core.reset
def State.updCore (s : State) (c : Nat) (f : Core → Core) : State := { s with cores := updAt s.cores c f }
def State.home (s : State) (h : Nat) : Home := s.homes.getD h Home.reset
def State.updHome (s : State) (h : Nat) (f : Home → Home) : State := { s with homes := updAt s.homes h f }
def State.rdc (s : State) (d : Nat) : List Line := s.rdcs.getD d []
def State.updRdc (s : State) (d : Nat) (f : List Line → List Line) : State := { s with rdcs := updAt s.rdcs d f }
def State.cluster (s : State) (c : Nat) : Cluster := s.clusters.getD c Cluster.reset
def State.updCluster (s : State) (c : Nat) (f : Cluster → Cluster) : State := { s with clusters := updAt s.clusters c f }
def State.view (s : State) (v : Nat) : View := s.views.getD v View.reset
def State.updView (s : State) (v : Nat) (f : View → View) : State := { s with views := updAt s.views v f }

/-- Numbering of R4. -/
def dieOf (core : Nat) : Nat := core / 40
def cluOf (core : Nat) : Nat := core / 4

def State.team? (s : State) (id : Nat) : Option Team := s.teams.find? fun t => t.id == id
def State.updTeam (s : State) (id : Nat) (f : Team → Team) : State := { s with teams := updWhere s.teams (fun t => t.id == id) f }
def Team.group? (t : Team) (gid : Nat) : Option Group := t.groups.find? fun g => g.gid == gid
def State.teamOf? (s : State) (gid : Nat) : Option Team := s.teams.find? fun t => t.groups.any fun g => g.gid == gid
def State.group? (s : State) (gid : Nat) : Option Group := (s.teamOf? gid).bind fun t => t.group? gid
def State.groups (s : State) : List Group := s.teams.flatMap (·.groups)

def State.updGroup (s : State) (gid : Nat) (f : Group → Group) : State :=
  { s with teams := s.teams.map fun t => { t with groups := updWhere t.groups (fun g => g.gid == gid) f } }

def Group.slice (g : Group) : Slice → SliceSt
  | .a => g.a
  | .c => g.c

def Group.updSlice (g : Group) (sl : Slice) (f : SliceSt → SliceSt) : Group :=
  match sl with
  | .a => { g with a := f g.a }
  | .c => { g with c := f g.c }

def State.updSlice (s : State) (gid : Nat) (sl : Slice) (f : SliceSt → SliceSt) : State :=
  s.updGroup gid fun g => g.updSlice sl f

def SliceSt.frag? (x : SliceSt) (slot : Nat) : Option Frag := x.frags.find? fun f => f.slot == slot

def State.updFrag (s : State) (gid : Nat) (sl : Slice) (slot : Nat) (f : Frag → Frag) : State :=
  s.updSlice gid sl fun x => { x with frags := updWhere x.frags (fun y => y.slot == slot) f }

def State.acc? (s : State) (id : Nat) : Option Acc := s.accs.find? fun a => a.id == id
def State.updAcc (s : State) (id : Nat) (f : Acc → Acc) : State := { s with accs := updWhere s.accs (fun a => a.id == id) f }
def State.eng? (s : State) (id : Nat) : Option Eng := s.engs.find? fun e => e.id == id
def State.updEng (s : State) (id : Nat) (f : Eng → Eng) : State := { s with engs := updWhere s.engs (fun e => e.id == id) f }
def State.launch? (s : State) (id : Nat) : Option Launch := s.launches.find? fun l => l.lid == id
def State.updLaunch (s : State) (id : Nat) (f : Launch → Launch) : State :=
  { s with launches := updWhere s.launches (fun l => l.lid == id) f }
def State.draw? (s : State) (id : Nat) : Option Draw := s.draws.find? fun d => d.did == id
def State.updDraw (s : State) (id : Nat) (f : Draw → Draw) : State := { s with draws := updWhere s.draws (fun d => d.did == id) f }

/-- A context that was never made valid: the values of creation (R8, Table 13-7). -/
def Ctx.blank (n : Nat) : Ctx :=
  { num := n, valid := false, prot := false, dbg := false, maxlvl := 0, owner := 0xFFF, agelim := 0, plmax := 0,
    trapmask := 0, lqbase := 0, lqlog := 0, lqcons := 0, fqprod := 0, errprod := 0, fqbase := 0, fqlog := 0, errbase := 0, savebase := 0, savelen := 0,
    spillbase := 0, spilllen := 0, trapvec := 0, barto := 0, prdepth := 4, vrg := List.replicate 64 0, refuse := 0,
    plreq := 0x10, plstat := 0, runs := [] }

def State.ctx (s : State) (n : Nat) : Ctx := (s.ctxs.find? fun c => c.num == n).getD (Ctx.blank n)

def State.updCtx (s : State) (n : Nat) (f : Ctx → Ctx) : State :=
  if s.ctxs.any (fun c => c.num == n) then { s with ctxs := updWhere s.ctxs (fun c => c.num == n) f }
  else { s with ctxs := s.ctxs ++ [f (Ctx.blank n)] }

/-- Save counter and mask; at manufacture C is 0 and every bit of M set (R195). -/
def State.save (s : State) (n : Nat) : SaveCtr := (s.saves.find? fun c => c.ctx == n).getD { ctx := n, c := 0, mask := BitVec.allOnes 64 }

def State.setSave (s : State) (x : SaveCtr) : State := { s with saves := x :: s.saves.filter fun c => c.ctx != x.ctx }

/-- Per-owner state of the I/O die (R140). -/
def State.owner (s : State) (o : Id12) : OwnerSt := (s.owners.find? fun x => x.owner == o).getD { owner := o, frameno := 0, queue := [] }

def State.setOwner (s : State) (x : OwnerSt) : State := { s with owners := x :: s.owners.filter fun y => y.owner != x.owner }

/-- A fresh identity. -/
def State.fresh (s : State) : Nat × State := (s.nextId, { s with nextId := s.nextId + 1 })

/-- A free 32-bit value (DESIGN CHOICE, log 12). -/
def State.freeW (s : State) : W32 × State := (Config.freeWord s.free, { s with free := s.free + 1 })

/-- The context, owner and protection of a team. -/
def State.teamCtx (s : State) (t : Team) : Ctx := s.ctx t.ctx

/-! ## Vanar messages (R359 to R362) -/

/-- Fields of an endpoint slot (Table 16-2). -/
structure Slot where
  valid : Bool
  kick  : Bool
  cfg   : Bool
  owner : Id12
  ports : Nat
  mac   : Nat
  sa    : Nat
  vid   : Nat
  deriving DecidableEq, Repr

/-- The endpoint slot as its registers hold it: a nonzero zero field or no allowed port leaves it invalid, and only
slots 8 to 14 may be valid. -/
def State.slot (s : State) (n : Nat) : Slot :=
  let w0 := s.reg 0 (0x20000 + 32 * n) 8
  let w1 := s.reg 0 (0x20000 + 32 * n + 8) 4
  let rest := (cellReads regDefault s.regs (regKey 0 (0x20000 + 32 * n + 12)) 20).all (· == 0)
  { valid := bitN w0 63 && !bitN w0 60 && bits w1 24 8 == 0 && bits w1 12 2 == 0 && rest && bits w1 14 2 != 0 &&
      decide (8 ≤ n) && decide (n ≤ 14),
    kick := bitN w0 62, cfg := bitN w0 61, owner := BitVec.ofNat 12 (bits w0 48 12), ports := bits w1 14 2,
    mac := bits w0 0 48, sa := bits w1 16 8, vid := bits w1 0 12 }

/-- The slot's rights, with those that the firmware image's listed endpoints have until slot 8 is valid (R383); in recovery
mode every endpoint may send the image, over port 0 (R380). -/
def State.endpoint (s : State) (n : Nat) : Slot :=
  if s.urxia.recovery then
    { s.slot n with valid := decide (8 ≤ n) && decide (n ≤ 14), kick := false, cfg := true, owner := 0xFFF, ports := 1 }
  else if s.urxia.listed.contains n && !(s.slot 8).valid then
    { s.slot n with valid := true, kick := true, cfg := true, owner := 0, ports := 3 }
  else s.slot n

def State.stream (s : State) (n : Nat) : Stream := (s.streams.find? fun x => x.slot == n).getD (Stream.reset n)
def State.updStream (s : State) (n : Nat) (f : Stream → Stream) : State :=
  { s with streams := updWhere s.streams (fun x => x.slot == n) f }

def State.port (s : State) (p : Nat) : Port := s.ports.getD p Port.reset

/-- The first allowed port whose link is up and that has not failed for the slot, else the first allowed one. -/
def State.portFor (s : State) (n : Nat) : Nat :=
  let p := (s.endpoint n).ports
  let up := fun i => (s.port i).up && !(s.stream n).failed.contains i
  if bitN p 0 && up 0 then 0 else if bitN p 1 && up 1 then 1 else if bitN p 0 then 0 else 1

/-- Lines of a migrating page that a WRITE or an ATOMIC to a host frame sets (R31). -/
def markSent (ms : List Mig) (addr n : Nat) : List Mig :=
  ms.map fun (m : Mig) =>
    if decide (m.oldF < addr + n) && decide (addr < m.oldF + 2 ^ m.bits) then
      let ls := (List.range ((addr + n - 1) / 64 + 1 - addr / 64)).map fun i => addr / 64 + i - m.oldF / 64
      { m with dirty := ls.filter (fun x => !m.dirty.contains x) ++ m.dirty }
    else m

/-- A WRITE or an ATOMIC request. -/
def Msg.writes (m : Msg) : Bool := !m.rsp && (m.type == 2 || m.type == 3)

/-- The bytes that a WRITE or an ATOMIC names. -/
def Msg.size (m : Msg) : Nat := if m.type = 2 then leNat (m.body.take 2) else 8

/-- A WRITE or an ATOMIC of a 64-byte line that a span touches. -/
def Msg.meets (m : Msg) (lo n : Nat) : Bool :=
  m.writes && decide (m.addr.toNat / 64 ≤ (lo + n - 1) / 64) && decide (lo / 64 ≤ (m.addr.toNat + m.size - 1) / 64)

/-- The 802.1Q priority of a class (R364). -/
def State.priority (s : State) (cls : Nat) : Nat := bits (s.reg 0 0x20200 4) (4 * cls) 3

/-- The message must wait at its source: 1,024 are not acknowledged, its priority is paused, or it writes a line that an earlier message,
not acknowledged yet, writes (R89, R362, R364). -/
def Msg.waits (m : Msg) (paused : Msg → Bool) (flying : Nat) (earlier : List Msg) : Bool :=
  decide (1024 ≤ flying) || paused m || (m.writes && earlier.any fun e => e.meets m.addr.toNat m.size)

/-- Sends what need wait no longer, in the order of the numbers. -/
def Stream.pump (x : Stream) (paused : Msg → Bool) (now : W64) : Stream :=
  { x with out := (x.out.foldl (fun (acc : List Msg × Nat) m =>
      if m.sent || m.waits paused acc.2 acc.1 then (acc.1 ++ [m], acc.2)
      else (acc.1 ++ [{ m with sent := true, since := now }], acc.2 + 1)) ([], (x.out.filter Msg.sent).length)).1 }

def State.pump (s : State) (slot : Nat) : State :=
  s.updStream slot fun x => x.pump (fun m => (s.port m.port).paused.contains (s.priority m.cls)) s.time

/-- Puts a message, with the slices whose stores it carries, into the stream to a slot, where it takes the stream's next number (R362),
and sends it if it need not wait. -/
def State.sendFor (s : State) (writers : List (Nat × Slice)) (slot cls : Nat) (rsp : Bool) (type : Nat) (tag : W32) (addr : W64)
    (body : List Byte) : State :=
  let p := s.portFor slot
  let s := if slot = 8 ∧ (type = 2 ∨ type = 3) ∧ !rsp then
      s.updHome 8 fun h => { h with migs := markSent h.migs addr.toNat (if type = 2 then leNat (body.take 2) else 8) }
    else s
  let x := s.stream slot
  let m : Msg := { seq := x.next, cls := cls, rsp := rsp, type := type, tag := tag, addr := addr, body := body, port := p, tries := 0,
                   failedPorts := x.failed, writers := writers, sent := false, since := s.time }
  (s.updStream slot fun x => { x with next := x.next + 1, out := x.out ++ [m] }).pump slot

def State.send (s : State) (slot cls : Nat) (rsp : Bool) (type : Nat) (tag : W32) (addr : W64) (body : List Byte) : State :=
  s.sendFor [] slot cls rsp type tag addr body

/-- The number that the next message to a slot will take. -/
def State.nextSeq (s : State) (slot : Nat) : W32 := (s.stream slot).next

/-- One EVENT to the supervisor, when slot 8 is valid and has CFG (R361). -/
def State.event (s : State) (kind who value : Nat) : State :=
  if (s.slot 8).valid && (s.slot 8).cfg then
    s.send 8 0 false 0x08 0 0 (leBytes 4 (kind + who % 4096 * 256) ++ leBytes 4 value ++ leBytes 8 s.time.toNat)
  else s

/-! ## Fragments -/

/-- Live fragments of both slices wait or issue only in a resident group that is not halted. -/
def SliceSt.stopped (x : SliceSt) : Bool :=
  match x.halt with
  | .halted => true
  | .skid n => decide (24 ≤ n)
  | .running => false

/-- The lanes of a slice that have not exited. -/
def SliceSt.live (x : SliceSt) (width : Nat) : Lanes := allLanes width &&& ~~~x.exited

/-- A control transfer may name this PC (R197). -/
def pcAligned (pc : W64) : Bool := pc.toNat % 192 % 12 == 0

/-! ## Taking a trap, and returning from one (R188 to R191, R320, R400) -/

/-- Causes that go to the handler when their TRAPMASK bit is set (Table 8-6). -/
def maskable (cause : Nat) : Bool :=
  (decide (1 ≤ cause) && decide (cause ≤ 7)) || cause == 0x10 || cause == 0x11 ||
    (decide (0x13 ≤ cause) && decide (cause ≤ 0x1A))

/-- A cause is handled in a context (R190): SOFTWARE and BREAKPOINT always, a maskable cause with its TRAPMASK bit,
both with a nonzero TRAPVEC. -/
def Ctx.handles (c : Ctx) (cause : Nat) : Bool :=
  c.trapvec != 0 && (cause == 8 || cause == 9 || (maskable cause && c.trapmask.getLsbD cause))

/-- A halt broadcast reaches a slice (R191). -/
def SliceSt.broadcast (x : SliceSt) : SliceSt :=
  match x.halt with
  | .running => { x with halt := .skid 0 }
  | _ => x

/-- The trapping slice stops with these trap registers. -/
def SliceSt.stopWith (x : SliceSt) (cause info : Nat) (pc : W64) (resume : Option W64) (skid : W32) : SliceSt :=
  { x with halt := .halted,
           trap := { cause := BitVec.ofNat 32 cause, pc := pc, resume := resume.getD x.trap.resume,
                     info := BitVec.ofNat 32 info, skid := skid } }

/-- A fatal trap of a slice: it stops, a halt goes to every other slice of the team, and the team keeps the trap
for its error record (R191). -/
def State.fatalTrap (s : State) (gid : Nat) (sl : Slice) (cause info : Nat) (pc : W64) (resume : Option W64)
    (skid : W32) : State :=
  match s.teamOf? gid with
  | none => s
  | some t =>
    match t.group? gid with
    | none => s
    | some g =>
      let r : TrapRec := { cause := BitVec.ofNat 8 cause, slice := sl, grp := g.grp, core := g.core,
                           info := BitVec.ofNat 32 info, pc := pc, time := s.time, step := 0 }
      s.updTeam t.id fun t =>
        { t with life := match t.life with
                   | .running => .halting
                   | l => l,
                 traps := t.traps ++ [r],
                 groups := t.groups.map fun g =>
                   let g := { g with a := g.a.broadcast, c := g.c.broadcast }
                   if g.gid = gid then g.updSlice sl fun x => x.stopWith cause info pc resume skid else g }

/-- A handled trap of a fragment: the trap registers are written and it continues at TRAPVEC with its own mask; the
fetch slot serves no other fragment until TRET (R190). -/
def State.handledTrap (s : State) (gid : Nat) (sl : Slice) (slot cause info : Nat) (pc vec : W64) : State :=
  s.updSlice gid sl fun x =>
    { x with trap := { x.trap with cause := BitVec.ofNat 32 cause, pc := pc,
                                   resume := if cause = 8 ∨ cause = 9 then pc + 12 else pc,
                                   info := BitVec.ofNat 32 info },
             served := slot,
             frags := updWhere x.frags (fun f => f.slot == slot) fun f =>
               { f with pc := vec, handler := true, wait := .none, run := 0 } }

/-- A trap raised by the instruction of a fragment: handled or fatal (R190, R191). An entry to a TRAPVEC that breaks
R197 is a fatal MISALIGNED. -/
def State.takeTrap (s : State) (gid : Nat) (sl : Slice) (f : Frag) (ctx : Nat) (own : Bool) (cause info : Nat) : State :=
  let c := s.ctx ctx
  let procedural := own && (cause == 0x16 || cause == 0x17 || cause == 0x18)
  if !f.handler && !procedural && c.handles cause then
    if pcAligned c.trapvec then s.handledTrap gid sl f.slot cause info f.pc c.trapvec
    else s.fatalTrap gid sl 0x13 (lowLane f.mask) f.pc none 0
  else s.fatalTrap gid sl cause info f.pc none 0

/-- TRET in a handler: the fragment goes on at TRAPRESUME with its mask, and the fetch slot serves other fragments
again (R320). -/
def State.trapReturn (s : State) (gid : Nat) (sl : Slice) (slot : Nat) : State :=
  s.updSlice gid sl fun x =>
    { x with frags := updWhere x.frags (fun f => f.slot == slot) fun f =>
               { f with pc := x.trap.resume, handler := false, run := 0 } }

/-! ## Accesses in flight -/

/-- Lanes that can still be performed without the supervisor or a fill. -/
def LaneSt.moving : LaneSt → Bool
  | .todo => true
  | .walking => true
  | .queued => true
  | .sent _ _ => true
  | .retry _ _ => true
  | .returned => true
  | _ => false

/-- Lanes not performed yet. -/
def LaneSt.open : LaneSt → Bool
  | .got _ => false
  | _ => true

/-- Sent to an endpoint and not answered yet. -/
def LaneSt.flying : LaneSt → Bool
  | .sent _ _ => true
  | .retry _ _ => true
  | _ => false

/-- The operand log holds units of an engine operation (R26). -/
def Eng.logged (e : Eng) : Bool := e.parked.any fun u => !u.st.flying

def Acc.isOpen (a : Acc) : Bool := a.lanes.any fun l => l.st.open
def Acc.moving (a : Acc) : Bool := a.needQs.isNone && a.lanes.any fun l => l.st.moving

/-- Accesses of a slice that are not performed yet. -/
def State.openAccs (s : State) (gid : Nat) (sl : Slice) : List Acc :=
  s.accs.filter fun a => a.gid == gid && decide (a.sl = sl) && a.isOpen

/-- A wait for some accesses: on qs when one of them waits for its data (R69). -/
def waitOn (l : List Acc) : Wait := if l.any fun a => a.needQs.isSome then .qs (l.map (·.id)) else .accs (l.map (·.id))

/-! ## The units of an engine operation (R296) -/

/-- Where row r of the source and of the destination starts: an IA, or an offset before reduction. -/
def Eng.srcRow (e : Eng) (r : Nat) : Int :=
  match e.kind with
  | .gather idx => e.src + (idx.getD r 0).toNat * e.spitch
  | _ => e.src + r * e.spitch

def Eng.dstRow (e : Eng) (r : Nat) : Int := e.dst + r * e.dpitch

/-- The team's allocation size on the operation's core. -/
def State.allocOf (s : State) (team : Nat) : Nat := ((s.team? team).map (·.scrBytes)).getD 0

/-- An offset reduced modulo the allocation (R52). -/
def reduceOfs (alloc : Nat) (o : Int) : Nat := if alloc = 0 then 0 else (o % (alloc : Int)).toNat

/-- Start of a source row as the sectors see it: reduced for the scratchpad. -/
def State.rowStart (s : State) (e : Eng) (r : Nat) : Nat :=
  if e.ssp then reduceOfs (s.allocOf e.team) (e.srcRow r) else (e.srcRow r).toNat

/-- Bytes of sector j of a span, as offset and count from its start. -/
def sectorPart (lo n j : Nat) : Nat × Nat :=
  let a := max lo ((lo / 256 + j) * 256)
  let b := min (lo + n) ((lo / 256 + j + 1) * 256)
  (a - lo, b - a)

/-- Source offset in its row and byte count of a copy unit. -/
def State.unitPart (s : State) (e : Eng) (u : Nat) : Nat × Nat := sectorPart (s.rowStart e (u / 2 ^ 24)) e.len (u % 2 ^ 24)

def EngKind.transform : EngKind → Bool
  | .zero => true
  | .fill _ => true
  | .transpose => true
  | _ => false

end Sys2Proof.Machine
end

