-- ==== Sys2Proof/Machine/Home.lean ====
section
/-!
DEFINITION. The memory side: table walks, the translation caches, owner stamps and zeroing, the fill states of
procedural ranges, the checks at a home, and reads and writes of frames (01, 05, 06 R129, R138, 16 R377).
-/

namespace Sys2Proof.Machine

/-! ## Fills under way (R65, R72, R75) -/

/-- The core of a group. -/
def State.coreOf (s : State) (gid : Nat) : Nat := ((s.group? gid).map Group.core).getD 0

/-- Scope codes, narrow to wide (R62). -/
def scopeNum : Scope → Nat
  | .grp => 0 | .core => 1 | .pair => 2 | .clu => 3 | .die => 4 | .dev => 5 | .sys => 6

/-- PAIR or wider. -/
def wide (sc : Scope) : Bool := decide (2 ≤ scopeNum sc)

/-- What an access sends to an endpoint is a READ whose bytes it uses. -/
def Acc.asks (a : Acc) : Bool :=
  match a.kind with
  | .load => true
  | .sample _ => true
  | .store => false
  | .atom _ _ => !wide a.scope

/-- The READs under way of accesses and prefetches by cores in a set, of lines in a set, may no longer fill a cache. -/
def State.spoil (s : State) (core : Nat → Bool) (line : Nat → Bool) : State :=
  let hit := s.accs.flatMap fun (a : Acc) =>
    if a.asks && core (s.coreOf a.gid) then a.lanes.filterMap fun (l : LaneAcc) =>
      match l.st with
      | .sent slot tag => if line (l.ia.toNat / 64) && !s.stale.contains (slot, tag) then some (slot, tag) else none
      | _ => none
    else []
  let pfx := (s.prefetches.filter fun (p : Prefetch) => core p.core && line (p.ia / 64) && !s.stale.contains (p.slot, p.tag)).map fun p => (p.slot, p.tag)
  { s with stale := hit ++ pfx ++ s.stale }

/-- The answers to the READs of lanes and engine units that are under way for lines of a set are not used any more. -/
def State.outdate (s : State) (line : Nat → Bool) : State :=
  let lanes := (s.accs.filter Acc.asks).flatMap fun (a : Acc) => a.lanes.filterMap fun (l : LaneAcc) =>
    match l.st with
    | .sent slot tag => if line (l.ia.toNat / 64) then some (slot, tag) else none
    | _ => none
  let units := s.engs.flatMap fun (e : Eng) => e.parked.filterMap fun (u : UnitSt) =>
    match u.st with
    | .sent slot tag =>
      let p := s.unitPart e u.unit
      if !u.dest && (linesOf (e.srcRow (u.unit / 2 ^ 24) + p.1).toNat p.2).any line then some (slot, tag) else none
    | _ => none
  { s with outdated := (lanes ++ units).filter (fun x => !s.outdated.contains x) ++ s.outdated }

/-- A WRITE or an ATOMIC of bytes at an IA goes to an endpoint: no READ of their lines that is under way fills a cache or is used after it
(R65, R68). -/
def State.sendWrite (s : State) (writers : List (Nat × Slice)) (slot cls type : Nat) (tag : W32) (ia n addr : Nat) (body : List Byte) : State :=
  let meets := fun ln => (linesOf ia n).contains ln
  ((s.spoil (fun _ => true) meets).outdate meets).sendFor writers slot cls false type tag (BitVec.ofNat 64 addr) body

/-- The body of a WRITE (Table 16-9); `so` is its scope and order. -/
def writeBody (bs : List Byte) (so : BitVec 8) : List Byte :=
  leBytes 2 bs.length ++ [so, 0] ++ bs ++ List.replicate ((4 - bs.length % 4) % 4) 0

/-- A WRITE or an ATOMIC to a line is not acknowledged yet: a READ of it waits (R68, R73). -/
def State.lineBusy (s : State) (slot addr : Nat) : Bool := (s.stream slot).out.any fun m => m.meets addr 1

/-! ## Walks (R15, R16) -/

/-- The outcome of a walk: a mapped page with its leaf and where the leaf lies, a missing page, an entry or root that
breaks R16, or an entry with an uncorrectable error, by its key. -/
inductive Walk
  | hit (base bits leaf at_ : Nat)
  | miss (page bits : Nat)
  | bad
  | ecc (key : Nat)
  /-- The leaf is protected, and the slot it names holds no key (R144). -/
  | noKey
  deriving DecidableEq, Repr

/-- An uncorrectable error stands in a span of device memory that a read takes from memory, not from the home's caches (R59). -/
def State.flawed (s : State) (key n : Nat) : Bool :=
  s.flaws.any fun f => decide (key / 32 ≤ f) && decide (f ≤ (key + n - 1) / 32) && (s.heldLine (f / 2)).isNone

/-- A table entry in device memory, `none` when it reads with an uncorrectable error. -/
def State.tableEntry (s : State) (key : Nat) : Option Nat :=
  if (anyPoison (s.memRead key 8)).isSome || s.flawed key 8 then none else some (s.memNat key 8)

/-- FRAME, FHOME and the flags of an entry (Table 1-4). -/
def entFrame (e : Nat) : Nat := bits e 28 36
def entKeySlot (e : Nat) : Nat := bits e 20 8
def entOwner (e : Nat) : Id12 := BitVec.ofNat 12 (bits e 8 12)
def entFhome (e : Nat) : Nat := bits e 4 4
def entProt (e : Nat) : Bool := bitN e 3
def entMig (e : Nat) : Bool := bitN e 2
def entLeaf (e : Nat) : Bool := bitN e 1
def entV (e : Nat) : Bool := bitN e 0

/-- Frames of C-die memory, 128 GiB per die, in 4 KiB units. -/
def dieFrames : Nat := 2 ^ 25

/-- A pointer to a table whose FRAME must be aligned to `al` 4 KiB units (R15, R16). -/
def ptrOk (e al : Nat) : Bool := decide (entFhome e ≤ 3) && entFrame e % al == 0 && decide (entFrame e < dieFrames)

/-- A leaf of 2^`b` bytes at home `h` (R16). -/
def leafOk (h e b : Nat) : Bool :=
  let fh := entFhome e
  let units := 2 ^ (b - 12)
  (if h = 8 then decide (fh ≤ 3) || fh == 8 else fh == h) &&
    (fh == 8 || (entFrame e % units == 0 && decide (entFrame e + units ≤ dieFrames)))

/-- The root register of a home (Table 16-1). -/
def State.root (s : State) (h : Nat) : Nat := if h = 8 then s.reg 0 0x10000 8 else s.reg h 0 8

def rootOk (r : Nat) : Bool :=
  entV r && bits r 1 3 == 0 && bits r 8 20 == 0 && ptrOk r 16

/-- Key of entry `i` of the table that an entry or a root names. -/
def entryKey (e i : Nat) : Nat := memKey (entFhome e) (entFrame e * 4096 + 8 * i)

def State.walk (s : State) (h ia : Nat) : Walk :=
  let off := ia % 2 ^ 48
  let page := fun b => ia / 2 ^ b * 2 ^ b
  let r := s.root h
  if !rootOk r then .bad else
  let k1 := entryKey r (bits off 35 13)
  match s.tableEntry k1 with
  | none => .ecc k1
  | some e1 =>
  if !entV e1 then .miss (page 21) 21 else if entLeaf e1 || !ptrOk e1 32 then .bad else
  let k2 := entryKey e1 (bits off 21 14)
  match s.tableEntry k2 with
  | none => .ecc k2
  | some e2 =>
  if !entV e2 then .miss (page 21) 21
  else if entLeaf e2 then (if leafOk h e2 21 then .hit (page 21) 21 e2 k2 else .bad)
  else if !ptrOk e2 1 then .bad else
  let k3 := entryKey e2 (bits off 16 5)
  match s.tableEntry k3 with
  | none => .ecc k3
  | some e3 =>
  if !entV e3 then .miss (page 16) 16
  else if entLeaf e3 then (if leafOk h e3 16 then .hit (page 16) 16 e3 k3 else .bad)
  else if h != 8 || !ptrOk e3 1 then .bad else
  let k4 := entryKey e3 (bits off 12 4)
  match s.tableEntry k4 with
  | none => .ecc k4
  | some e4 =>
  if !entV e4 then .miss (page 12) 12
  else if !entLeaf e4 then .bad
  else if leafOk h e4 12 then .hit (page 12) 12 e4 k4 else .bad

/-- The home of an IA (Table 1-3). -/
def homeOf (ia : Nat) : Nat := ia / 2 ^ 48

/-- A home with a translator here. -/
def translates (h : Nat) : Bool := decide (h ≤ 3) || h == 8

/-- The cached entry that maps an IA (R18). -/
def State.tlb? (s : State) (ia : Nat) : Option Tlb :=
  (s.home (homeOf ia)).tlb.find? fun t => t.base == ia / 2 ^ t.bits * 2 ^ t.bits

/-- The key slot that a protected leaf names holds a key (R144). -/
def State.keyOk (s : State) (leaf : Nat) : Bool :=
  !entProt leaf || (entKeySlot leaf != 0 && (s.home (entFhome leaf)).keys.any fun x => x.1 == entKeySlot leaf)

/-- A walk with the check of R144 on its leaf. -/
def State.walkKeyed (s : State) (h ia : Nat) : Walk :=
  match s.walk h ia with
  | .hit base b leaf at_ => if s.keyOk leaf then .hit base b leaf at_ else .noKey
  | w => w

/-- The cached translation, else the walk (R18). -/
def State.lookup (s : State) (ia : Nat) : Walk :=
  match s.tlb? ia with
  | some t => .hit t.base t.bits t.leaf.toNat t.at_
  | none => s.walkKeyed (homeOf ia) ia

/-- Key of the byte that a leaf maps an IA to. -/
def leafKey (leaf bits ia : Nat) : Nat := memKey (entFhome leaf) (entFrame leaf * 4096 + ia % 2 ^ bits)

/-- Where home hardware finds an IA of a C-die frame, with its leaf, unchecked (R129). -/
def State.physLeaf (s : State) (ia : Nat) : Option (Nat × Nat) :=
  if !translates (homeOf ia) then none else
  match s.lookup ia with
  | .hit _ b leaf _ => if entFhome leaf ≤ 3 then some (leafKey leaf b ia, leaf) else none
  | _ => none

def State.phys (s : State) (ia : Nat) : Option Nat := (s.physLeaf ia).map (·.1)

/-- The message address of a byte of a host frame that a leaf maps an IA to. -/
def hostAddr (leaf bits ia : Nat) : Nat := 8 * 2 ^ 48 + entFrame leaf * 4096 + ia % 2 ^ bits

/-- The endpoint, with the address in a message, at which the device's own units write an IA of a host frame or of a peer home. -/
def State.endpointOf (s : State) (ia : Nat) : Option (Nat × Nat) :=
  if !translates (homeOf ia) then some (homeOf ia, ia) else
  match s.lookup ia with
  | .hit _ b leaf _ => if entFhome leaf = 8 then some (8, hostAddr leaf b ia) else none
  | _ => none

/-- Entry `n` of a spill area can be written and read back: where it lies in the area is not defined, and its place must be mapped (R26, R161;
DESIGN CHOICE, log 17). -/
def State.spillOk (s : State) (c : Ctx) (n : Nat) : Bool :=
  (s.phys (c.spillbase.toNat + Config.spillPlace n % ((c.spilllen + 1) * 65536))).isSome

def State.stamp (s : State) (frame : Nat) : Id12 := ((s.stamps.find? fun x => x.1 == frame).map (·.2)).getD 0xFFF

/-! ## Keys (R144) -/

/-- The identity of the key that a leaf names, 0 for an unprotected one or an empty slot. -/
def State.keyId (s : State) (leaf : Nat) : Nat :=
  if entProt leaf then (((s.home (entFhome leaf)).keys.find? fun x => x.1 == entKeySlot leaf).map (·.2)).getD 0 else 0

/-- The key under which a line of device memory lies encrypted. -/
def State.sealOf (s : State) (pl : Nat) : Nat := ((s.seals.find? fun x => decide (x.lo ≤ pl) && decide (pl < x.hi)).map Seal.key).getD 0

/-- Lines `lo` to before `hi` lie encrypted under a key. -/
def State.setSeal (s : State) (lo hi k : Nat) : State :=
  let rest := s.seals.filter fun x => !(decide (lo ≤ x.lo) && decide (x.hi ≤ hi))
  { s with seals := if k = 0 ∧ !rest.any (fun x => decide (x.lo < hi) && decide (lo < x.hi)) then rest else { lo := lo, hi := hi, key := k } :: rest }

/-- A line of device memory as its controller gives it under a key. -/
def State.memLine (s : State) (pl k : Nat) : List PByte :=
  let raw := (List.range 64).map fun i => s.rawByte (pl * 64 + i)
  if s.sealOf pl = k then raw else
  let w := Config.underKey (s.sealOf pl) k pl (lineData (values raw))
  raw.mapIdx fun i b => (w.extractLsb' (8 * i) 8, b.2)

/-- Bytes at a home under a leaf: from its caches, else from the memory controller under the leaf's key. -/
def State.keyedRead (s : State) (key leaf n : Nat) : List PByte :=
  (linesOf key n).flatMap fun pl =>
    let o := partOf key n pl
    if s.sealOf pl = s.keyId leaf ∨ (s.heldLine pl).isSome then s.lineRead pl o.1 o.2
    else ((s.memLine pl (s.keyId leaf)).drop o.1).take o.2

/-- A read by the device's own units; none where nothing is mapped. Of a frame that awaits the zeroing of R138 it reads zero. -/
def State.hwRead (s : State) (ia n : Nat) : Option (List Byte) :=
  (s.physLeaf ia).map fun x =>
    if s.stamp (x.1 / 65536) = entOwner x.2 then values (s.keyedRead x.1 x.2 n) else List.replicate n 0

def State.hwNat (s : State) (ia n : Nat) : Option Nat := (s.hwRead ia n).map leNat

/-- Lines that a write sets in the bitmap of a migration in progress (R31). -/
def markMig (ms : List Mig) (ia n : Nat) : List Mig :=
  ms.map fun m =>
    if decide (ia < m.page + 2 ^ m.bits) && decide (m.page < ia + n) then
      let ls := ((List.range ((ia + n - 1) / 64 + 1 - ia / 64)).map fun i => (ia / 64 + i - m.page / 64))
      { m with dirty := ls.filter (fun x => !m.dirty.contains x) ++ m.dirty }
    else m

/-- A write performed at its home where its caches and memory stand; the bitmap of a migration learns of it. -/
def State.put (s : State) (ia key : Nat) (bs : List PByte) : State :=
  (s.memWrite key bs).updHome (homeOf ia) fun h => { h with migs := markMig h.migs ia bs.length }

/-! ## Owner stamps and zeroing (R138) -/

/-- Discards every cached line of a frame, dirty bytes included (R138). -/
def State.discardFrame (s : State) (frame : Nat) : State :=
  let drop := fun (l : List Line) => l.filter fun x => x.frame != frame
  { s with cores := s.cores.map fun c =>
             { c with l1 := drop c.l1, kcache := drop c.kcache, scache := drop c.scache, tcache := drop c.tcache,
                      icache := c.icache.filter fun x => x.frame != some frame },
           rdcs := s.rdcs.map drop, l2 := s.l2.map drop, mdc := s.mdc.map drop }

/-- Compares and zeroes one 64 KiB frame for a new owner, under the key of its leaf (R138, R144). -/
def State.claimFrame (s : State) (frame : Nat) (owner : Id12) (k : Nat) : State :=
  if s.stamp frame = owner then s else
  let s := ((s.discardFrame frame).memZero (frame * 65536) 65536).setSeal (frame * 1024) (frame * 1024 + 1024) k
  { s with stamps := assocSet s.stamps frame owner }

/-- Installs a leaf: its frames take its owner, and the translation cache of 16,384 entries its entry (R18). -/
def State.install (s : State) (h base b leaf at_ : Nat) : State :=
  let s := if entFhome leaf ≤ 3 then
      let f0 := memKey (entFhome leaf) (entFrame leaf * 4096) / 65536
      (List.range (if b = 21 then 32 else 1)).foldl (fun s i => s.claimFrame (f0 + i) (entOwner leaf) (s.keyId leaf)) s
    else s
  s.updHome h fun x => { x with tlb := { base := base, bits := b, leaf := BitVec.ofNat 64 leaf, at_ := at_ } :: x.tlb.take 16383 }

/-- A walk of the device's own units installs its leaf as any walk does (R138). -/
def State.touch (s : State) (ia : Nat) : State :=
  if (s.tlb? ia).isSome || !translates (homeOf ia) then s else
  match s.walkKeyed (homeOf ia) ia with
  | .hit base b leaf at_ => s.install (homeOf ia) base b leaf at_
  | _ => s

/-! ## Device error records (R377) -/

/-- Counts a record that could not be written. -/
def State.lostRecord (s : State) : State :=
  let n := s.reg 0 0x1004C 4
  s.setReg 0 0x1004C 4 (min (n + 1) 0xFFFFFFFF)

/-- Sends one device error record (Table 16-5) and its EVENT. -/
def State.deviceRecord (s : State) (kind unit : Nat) (owner : Id12) (info ia detail : Nat) : State :=
  let lg := s.reg 0 0x10040 4 % 32
  let prod := s.reg 0 0x10044 4
  let cons := s.reg 0 0x10048 4
  if s.rasBase = 0 ∨ lg < 6 ∨ 16 < lg ∨ 2 ^ lg ≤ (prod + 2 ^ 32 - cons) % 2 ^ 32 then s.lostRecord else
  let at_ := s.rasBase + 32 * (prod % 2 ^ lg)
  let body := leBytes 4 (owner.toNat + unit % 256 * 2 ^ 16 + kind * 2 ^ 24) ++ leBytes 4 info ++
    leBytes 8 (ia % 2 ^ 52) ++ leBytes 8 s.time.toNat ++ leBytes 8 detail
  let told := fun (s : State) => (s.setReg 0 0x10044 4 ((prod + 1) % 2 ^ 32)).event 3 0xFFF ((prod + 1) % 2 ^ 32)
  let s := s.touch at_
  match s.endpointOf at_, s.phys at_ with
  | some (slot, addr), _ => told (s.sendWrite [] slot 1 0x02 0 at_ 32 addr (writeBody body 6))
  | none, some key => told (s.put at_ key (plain body))
  | none, none => s.lostRecord

/-- UNIT of a record about a byte of a die: its die and channel (Table 16-5). -/
def unitOf (ia : Nat) : Nat := (homeOf ia % 4) * 64 + bits ia 8 3 * 8

/-! ## Uncorrectable errors of device memory (R59, R61) -/

/-- The poison of a hardware error. -/
def hardPoison : Poison := { cause := 0x15, block := 0 }

/-- The 8-byte granules of a flawed 32-byte block become poisoned. -/
def State.poisonFlaw (s : State) (f : Nat) : State :=
  { s with flaws := s.flaws.filter (· != f),
           memPoison := (List.range 4).map (fun i => ({ idx := 4 * f + i, poison := hardPoison } : PoisonAt)) ++
             s.memPoison.filter fun q => q.idx / 4 != f }

/-- The flaws that a read of device memory meets poison their granules, each with one record that names the IA of its line. -/
def State.meetFlaws (s : State) (ia key n : Nat) : State :=
  let hit := s.flaws.filter fun f => decide (key / 32 ≤ f) && decide (f ≤ (key + n - 1) / 32)
  hit.foldl (fun s f =>
    (s.poisonFlaw f).deviceRecord 0x01 (unitOf (ia + f * 32 - key)) (s.stamp (key / 65536)) 0 ((ia + f * 32 - key) / 64 * 64) 0) s

/-- A walk reads a table entry with an uncorrectable error: it is reported as any of device memory is, and names no IA (R59, R61). -/
def State.tableError (s : State) (key : Nat) : State :=
  if s.flawed key 8 then (s.poisonFlaw (key / 32)).deviceRecord 0x01 (unitOf key) (s.stamp (key / 65536)) 0 0 0 else s

/-! ## The L2 (R42, R43, R399) -/

/-- The home drops a write of a line whose page or owner has changed (R399). -/
def State.dropRecord (s : State) (l : Line) : State := s.deviceRecord 0x08 (unitOf (l.line * 64)) l.owner 0 (l.line * 64) 0

/-- Fetched bytes merged under the dirty mask (R37). -/
def Line.merge (l : Line) (bs : List PByte) : Line :=
  let whole := fun (i : Nat) => (l.dirty &&& spanMask (8 * i) 8) == spanMask (8 * i) 8
  let new : List PoisonAt := (List.range 8).filterMap fun i =>
    if whole i then none else (anyPoison ((bs.drop (8 * i)).take 8)).map fun p => { idx := i, poison := p }
  { l with data := mergeData (lineData (values bs)) l.data l.dirty, valid := BitVec.allOnes 64,
           poison := new ++ l.poison.filter fun p => (l.dirty &&& spanMask (8 * p.idx) 8) != 0 && !new.any fun x => x.idx == p.idx }

def Line.isDirty (l : Line) : Bool := l.dirty != 0

/-- A new line that holds nothing. -/
def Line.empty (line : Nat) (owner : Id12) (prot : Bool) (frame : Nat) : Line :=
  { line := line, data := 0, valid := 0, dirty := 0, wide := false, owner := owner, prot := prot, frame := frame,
    poison := [], writers := [] }

def Line.pbytes (l : Line) (o n : Nat) : List PByte := (List.range n).map fun i => l.pbyte (o + i)

def findLine (ls : List Line) (line : Nat) : Option Line := ls.find? fun l => l.line == line

def setLine (ls : List Line) (l : Line) : List Line := l :: ls.filter fun x => x.line != l.line

def dropLine (ls : List Line) (line : Nat) : List Line := ls.filter fun x => x.line != line

/-- Runs of consecutive dirty bytes of a line, each as its start and its bytes. -/
def dirtyRuns (l : Line) : List (Nat × List PByte) :=
  ((List.range 64).foldl (fun (acc : List (Nat × List PByte)) i =>
    if l.dirty.getLsbD i then
      match acc with
      | (o, bs) :: r => if o + bs.length = i then (o, bs ++ [l.pbyte i]) :: r else (i, [l.pbyte i]) :: acc
      | [] => [(i, [l.pbyte i])]
    else acc) []).reverse

/-- What the home finds for a dirty line that leaves a cache: the leaf, none when the write is dropped (R399). -/
def State.lateLeaf (s : State) (l : Line) : Option Nat :=
  match s.lookup (l.line * 64) with
  | .hit _ _ leaf _ => if entOwner leaf ≠ l.owner ∨ entProt leaf ≠ l.prot then none else some leaf
  | _ => none

/-- The dirty bytes of a line that has left a cache of the home reach device memory, under the key of the line's leaf. -/
def State.backLine (s : State) (l : Line) (k : Nat) : State :=
  if s.sealOf l.phys = k then (dirtyRuns l).foldl (fun s r => s.memWrite (l.phys * 64 + r.1) r.2) s
  else (s.memWrite (l.phys * 64) ((l.merge (s.memLine l.phys k)).pbytes 0 64)).setSeal l.phys (l.phys + 1) k

/-- A line of the L2 or of the metadata cache that has left it goes back to its frame, or is dropped (R399). -/
def State.retireLine (s : State) (l : Line) : State :=
  if !l.isDirty then s else
  match s.lateLeaf l with
  | some leaf => s.backLine l (s.keyId leaf)
  | none => s.dropRecord l

def State.updL2 (s : State) (d : Nat) (f : List Line → List Line) : State := { s with l2 := updAt s.l2 d f }
def State.updMdc (s : State) (d : Nat) (f : List Line → List Line) : State := { s with mdc := updAt s.mdc d f }

/-- A line leaves the L2 of a die. -/
def State.evictL2 (s : State) (d : Nat) (l : Line) : State := (s.updL2 d fun ls => ls.filter (· != l)).retireLine l

/-- A line leaves the metadata cache of a die's home. -/
def State.evictMdc (s : State) (d : Nat) (l : Line) : State := (s.updMdc d fun ls => ls.filter (· != l)).retireLine l

/-- The L2 line that serves IA `ia`, which a leaf maps to `key`: a line of another frame or owner, or of another IA over the same bytes,
gives way first. With `full` it is fetched whole; so is a line that memory holds under another key. -/
def State.openL2 (s : State) (ia key leaf : Nat) (full : Bool) : State :=
  let d := homeOf ia
  let ln := ia / 64
  let fits := fun (l : Line) => l.line == ln && l.phys == key / 64 && l.owner == entOwner leaf && l.prot == entProt leaf
  let s := ((s.l2Of d).filter fun l => (l.line == ln || l.phys == key / 64) && !fits l).foldl (fun s l => s.evictL2 d l) s
  let l := (findLine (s.l2Of d) ln).getD (Line.empty ln (entOwner leaf) (entProt leaf) (key / 65536))
  if l.valid = BitVec.allOnes 64 then s
  else if full || s.sealOf (key / 64) != s.keyId leaf then
    let s := s.meetFlaws (ln * 64) (key / 64 * 64) 64
    s.updL2 d fun ls => setLine ls (l.merge (s.memLine (key / 64) (s.keyId leaf)))
  else s.updL2 d fun ls => setLine ls l

/-- The metadata-cache line of a metadata byte, fetched when it is missing; what it finds in the L2 comes first (R49). -/
def State.openMdc (s : State) (ia key leaf : Nat) : State :=
  let d := homeOf ia
  let ln := ia / 64
  let fits := fun (l : Line) => l.line == ln && l.phys == key / 64 && l.owner == entOwner leaf && l.prot == entProt leaf
  let s := ((s.mdcOf d).filter fun l => (l.line == ln || l.phys == key / 64) && !fits l).foldl (fun s l => s.evictMdc d l) s
  if (findLine (s.mdcOf d) ln).isSome then s else
  let l := Line.empty ln (entOwner leaf) (entProt leaf) (key / 65536)
  s.updMdc d fun ls => setLine ls (l.merge (s.keyedRead (key / 64 * 64) leaf 64))

/-- The leaf of a mapped IA, as home hardware finds it. -/
def State.leafOf (s : State) (ia : Nat) : Nat :=
  match s.lookup ia with
  | .hit _ _ leaf _ => leaf
  | _ => 0

/-! ## Procedural ranges (R108 to R116) -/

def Prt.blockSize (p : Prt) : Nat := if p.bsz = 0 then 4096 else 65536
def Prt.size (p : Prt) : Nat := (p.nblk + 1) * p.blockSize
def Prt.covers (p : Prt) (ia : Nat) : Bool := decide (p.base ≤ ia) && decide (ia < p.base + p.size)
def Prt.blockOf (p : Prt) (ia : Nat) : Nat := (ia - p.base) / p.blockSize

def State.prt? (s : State) (ia : Nat) : Option Prt := (s.home (homeOf ia)).prts.find? fun p => p.covers ia
def State.prtEntry? (s : State) (die entry : Nat) : Option Prt := (s.home die).prts.find? fun p => p.entry == entry
def State.merge? (s : State) (die entry blk : Nat) : Option Merge :=
  (s.home die).merges.find? fun m => m.entry == entry && m.blk == blk

/-- The 2-bit state of a block as its table holds it; 01 with no fill in flight is EMPTY, and so is a block whose
table is not mapped (R111; DEDUCED, log 13). -/
def State.fillState (s : State) (die : Nat) (p : Prt) (b : Nat) : Nat :=
  match s.hwNat (p.fst + b / 4) 1 with
  | none => if (s.merge? die p.entry b).isSome then 1 else 0
  | some byte =>
    let v := bits byte (2 * (b % 4)) 2
    if v = 1 && (s.merge? die p.entry b).isNone then 0 else v

def State.setFillState (s : State) (p : Prt) (b v : Nat) : State :=
  let s := s.touch (p.fst + b / 4)
  match s.phys (p.fst + b / 4) with
  | none => s
  | some k =>
    let old := (s.hwNat (p.fst + b / 4) 1).getD 0
    let sh := 2 ^ (2 * (b % 4))
    s.put (p.fst + b / 4) k (plain [BitVec.ofNat 8 (old - bits old (2 * (b % 4)) 2 * sh + v * sh)])

def State.pinned (s : State) (p : Prt) (b : Nat) : Bool :=
  (s.hwNat (p.pin + b / 8) 1).any fun v => bitN v (b % 8)

/-- Writes the 8-byte failure record of a block (R112). -/
def State.failRecord (s : State) (p : Prt) (b v : Nat) : State :=
  let s := s.touch (p.fail + 8 * b)
  match s.phys (p.fail + 8 * b) with
  | none => s
  | some k => s.put (p.fail + 8 * b) k (plain (leBytes 8 v))

/-- Zeroes a block in its frame, under the key of its leaf (R116, R124); nothing where no frame is mapped. -/
def State.zeroBlock (s : State) (p : Prt) (b : Nat) : State :=
  let s := s.touch (p.base + b * p.blockSize)
  match s.physLeaf (p.base + b * p.blockSize) with
  | none => s
  | some (k, leaf) =>
    ((s.memZero k p.blockSize).setSeal (k / 64) ((k + p.blockSize) / 64) (s.keyId leaf)).updHome (homeOf p.base)
      fun h => { h with migs := markMig h.migs (p.base + b * p.blockSize) p.blockSize }

/-! ## Requests and the checks of a home -/

/-- A request that reaches a home: who asks, and through what (R129). `pwin` is the window's P bit, absent for the host
and peers (R108). -/
structure Req where
  core   : Nat
  ctx    : Nat
  owner  : Id12
  prot   : Bool
  wprot  : Bool
  pwin   : Option Bool
  write  : Bool
  exempt : Bool
  level  : Nat
  team   : Option Nat
  /-- The slice that stores (R363). -/
  writer : List (Nat × Slice) := []
  deriving DecidableEq, Repr

/-- The checks of R129 on a leaf's OWNER and PROT; also when a cached line counts as a hit (R130). A permitted sampler fill is
exempt from the comparison of owners alone (R140). -/
def Req.passes (r : Req) (owner : Id12) (prot : Bool) : Bool :=
  (r.exempt || decide (r.owner = owner)) && (if prot then r.prot && r.wprot else !r.wprot)

/-- What a home decides. -/
inductive Gate
  /-- The access may be performed at this key of device memory. -/
  | go (key : Nat) (owner : Id12) (prot : Bool)
  /-- It is performed by endpoint `slot` at this address, over Vanar. -/
  | remote (slot : Nat) (addr : Nat) (owner : Id12) (prot : Bool)
  /-- A configuration register (R357). -/
  | aperture (die off : Nat)
  | miss (page bits : Nat)
  | fatal (info : Nat)
  /-- The block is FILLING. -/
  | filling (die entry blk : Nat)
  /-- The merge table is full (R116). -/
  | full
  /-- The page is frozen by a migration; the home holds the request (R31). -/
  | held
  /-- The block is POISONED (R123). -/
  | poisoned (p : Poison) (die entry blk : Nat)
  /-- Depth refusal, or a miss on an ancestor's block (R120, R121). -/
  | refused (cause : Nat)
  deriving DecidableEq, Repr

/-- PAGE_FATAL sources of Table 1-8, TRAPINFO without the lane. -/
def fatalWalk : Nat := 1 * 2 ^ 9
def fatalEcc : Nat := 2 * 2 ^ 9
def fatalQueue : Nat := 3 * 2 ^ 9
def fatalWindow : Nat := 4 * 2 ^ 9
def fatalLink : Nat := 2 ^ 8
def fatalOwner : Nat := 2 ^ 6
def fatalSurface : Nat := 2 * 2 ^ 6
def fatalList : Nat := 3 * 2 ^ 6

/-- Depth of a requester, 0 unless it is a prompter, with the launches of its chain, its own first (R120, R121). -/
def State.reqDepth (s : State) (r : Req) : Nat × List Nat :=
  match r.team.bind s.team? with
  | some t =>
    match t.kind with
    | .prompter _ _ _ depth chain => (depth, t.launch :: chain)
    | _ => (0, [])
  | none => (0, [])

/-- A team is the own prompter of a block: the home launched it for the block's current fill (R113). -/
def State.ownFill (s : State) (t : Team) (die entry blk : Nat) : Bool :=
  t.kind != .compute && (s.merge? die entry blk).any fun m => m.launch == t.launch

/-- The requester is the block's own prompter. -/
def State.ownPrompter (s : State) (r : Req) (die entry blk : Nat) : Bool :=
  (r.team.bind s.team?).any fun t => s.ownFill t die entry blk

/-- Starts a fill: a merge entry, FILLING, the block zeroed and one prompter launch queued (R116, R117). It has no packet, and its LTAG is
the low 16 bits of the launch's number (DESIGN CHOICE, log 109). -/
def State.startFill (s : State) (r : Req) (die : Nat) (p : Prt) (b : Nat) : State :=
  let dc := s.reqDepth r
  let level := min (max r.level p.level) 22
  let (lid, s) := s.fresh
  let ltag : Nat := lid % 65536
  let prm : List W32 := [(p.pva + BitVec.ofNat 64 (b * p.blockSize)).setWidth 32,
    ((p.pva + BitVec.ofNat 64 (b * p.blockSize)) >>> 32).setWidth 32, BitVec.ofNat 32 b, p.arg.setWidth 32,
    (p.arg >>> 32).setWidth 32, BitVec.ofNat 32 (dc.1 + 1)] ++ List.replicate 10 0
  let k : Kernel := { cmax := 1, cmin := 1, ablk := 1, grps := 1, gen := true, pair := false, width := 16, scr := 0,
                      qd := [8, 8, 8, 8], mprim := 0, mvert := 0 }
  let l : Launch :=
    { lid := lid, ctx := p.pctx, pkt := 0, at_ := 0, entry := p.code, teams := 1, level := level, raised := 0, dl := false,
      ltag := BitVec.ofNat 16 ltag, wait0 := 0, wval0 := 0, wait1 := 0, wval1 := 0, signal := 0, cgid := 0, param := prm,
      dltime := 0, overran := false, wrun := 0, dlpl := 0, npair := 0, fpair := 0, tlead := 0, kern := k,
      kind := .prompter die p.entry b (dc.1 + 1) dc.2, next := 0, retired := 0, ready := true, takenAt := s.time, since := s.time, waits := s.time,
      checked := false, header := none,
      holding := false, fatal := false, abort := none, abortAt := 0, steps := [], minStep := none, resv := none }
  let s := (s.setFillState p b 1).zeroBlock p b
  let s := s.updHome die fun h => { h with merges := h.merges ++
    [{ entry := p.entry, blk := b, prt := p, level := level, depth := dc.1 + 1, rctx := r.ctx, ltag := ltag, launch := lid,
       zeroed := (s.phys (p.base + b * p.blockSize)).isSome, since := s.time }] }
  { s with launches := s.launches ++ [l] }

/-- A joining requester raises the level of a fill not placed yet to its own, aging included (R117). -/
def State.joinFill (s : State) (r : Req) (die entry b : Nat) : State :=
  match s.merge? die entry b with
  | none => s
  | some m => s.updLaunch m.launch fun l =>
    if l.next = 0 ∧ l.level + l.raised < min r.level 22 then { l with level := min r.level 22, raised := 0 } else l

/-- A block whose page was missing when its fill began is zeroed once the page is mapped, before its prompter reaches it (R116, R118). One that
its prompter never reaches is published as its frame then stands (DESIGN CHOICE, log 135). -/
def State.zeroLate (s : State) (die : Nat) (p : Prt) (b : Nat) : State :=
  match s.merge? die p.entry b with
  | some m =>
    if m.zeroed then s else
    (s.zeroBlock p b).updHome die fun h =>
      { h with merges := updWhere h.merges (fun (m : Merge) => m.entry == p.entry && m.blk == b) fun (m : Merge) => { m with zeroed := true } }
  | none => s

/-- What the home decides of a procedural block (Table 5-3); `none` to go on. The cause of a POISONED block is that of its failure record, and
GENFAULT where none is mapped (DESIGN CHOICE, log 136). -/
def State.fillGate (s : State) (r : Req) (die : Nat) (p : Prt) (b : Nat) : Option Gate × State :=
  match s.fillState die p b with
  | 0 =>
    let dc := s.reqDepth r
    let limit := (s.ctx r.ctx).prdepth
    if dc.1 ≠ 0 ∧ limit < dc.1 + 1 then (some (.refused 0x17), s)
    else if 512 ≤ (s.home die).merges.length then (some .full, s)
    else (some (.filling die p.entry b), s.startFill r die p b)
  | 1 =>
    if s.ownPrompter r die p.entry b then (none, s)
    else if (s.merge? die p.entry b).any fun m => (s.reqDepth r).2.contains m.launch then (some (.refused 0x18), s)
    else (some (.filling die p.entry b), s.joinFill r die p.entry b)
  | 2 => (none, s)
  | _ =>
    let c := ((s.hwNat (p.fail + 8 * b) 8).map fun v => bits v 24 8).getD 0x16
    (some (.poisoned { cause := BitVec.ofNat 8 c, block := BitVec.ofNat 32 (b % 2 ^ 24) } die p.entry b), s)

/-- What a leaf gives under R129; a walk installs it. -/
def gateLeaf (s : State) (r : Req) (ia base b leaf at_ : Nat) (cached : Bool) : Gate × State :=
  let s := if cached then s else s.install (homeOf ia) base b leaf at_
  if !r.passes (entOwner leaf) (entProt leaf) then (.fatal fatalOwner, s)
  else if entFhome leaf = 8 then (.remote 8 (hostAddr leaf b ia) (entOwner leaf) (entProt leaf), s)
  else (.go (leafKey leaf b ia) (entOwner leaf) (entProt leaf), s)

/-- A procedural range serves the owner of its PCTX alone, and who is exempt from the comparison (R129, R140). -/
def State.serves (s : State) (p : Prt) (r : Req) : Bool :=
  r.exempt || !(s.ctx p.pctx).valid || decide (r.owner = (s.ctx p.pctx).owner)

/-- The page of an IA is frozen by a migration: its home holds new requests (R31). -/
def State.frozen (s : State) (ia : Nat) : Bool :=
  (s.home (homeOf ia)).migs.any fun m => m.frozen && decide (m.page ≤ ia) && decide (ia < m.page + 2 ^ m.bits)

/-! ## Walk slots (R18) -/

/-- The page that names a walk: 4 KiB at the host home, else 64 KiB. -/
def walkPage (ia : Nat) : Nat := if homeOf ia = 8 then ia / 4096 else ia / 65536

/-- A walk may start: it joins one in flight, or one of the 64 slots is free. -/
def Home.walkRoom (h : Home) (ia : Nat) : Bool :=
  h.walks.any (fun w => w.1 == walkPage ia) || decide (((h.walks.map (·.1)).eraseDups).length < 64)

/-- A request at its home (R16, R18, R31, R108, R113, R129, R357). -/
def State.gate (s : State) (r : Req) (ia : Nat) : Gate × State :=
  let h := homeOf ia
  let p? := if h ≤ 3 then s.prt? ia else none
  match r.pwin, p? with
  | some true, none => (.fatal fatalWindow, s)
  | some false, some _ => (.fatal fatalWindow, s)
  | _, _ =>
  if h ≤ 3 ∧ 0xFF0000000000 ≤ ia % 2 ^ 48 then
    (if r.owner = 0 then .aperture h (ia % 2 ^ 40) else .fatal fatalOwner, s)
  else if !translates h then (.remote h ia r.owner false, s)
  else if s.frozen ia then (.held, s)
  else if (s.tlb? ia).isNone && !(s.home h).walkRoom ia then (.held, s) else
  let w := s.lookup ia
  let cached := (s.tlb? ia).isSome
  match w with
  | .bad => (.fatal fatalWalk, s)
  | .noKey => (.fatal fatalEcc, s)
  | .ecc key => (.fatal fatalEcc, s.tableError key)
  | .miss page b =>
    match p? with
    | some p =>
      if !s.serves p r then (.fatal fatalOwner, s) else
      match s.fillGate r h p (p.blockOf ia) with
      | (some g, s) => (g, s)
      | (none, s) => (.miss page b, s)
    | none => (.miss page b, s)
  | .hit base b leaf at_ =>
    match gateLeaf s r ia base b leaf at_ cached, p? with
    | (.go key o pr, s), some p =>
      if !s.serves p r then (.fatal fatalOwner, s) else
      match s.fillGate r h p (p.blockOf ia) with
      | (some g, s) => (g, s)
      | (none, s) => (.go key o pr, s.zeroLate h p (p.blockOf ia))
    | x, _ => x

/-! ## Reads and writes at a home -/

/-- Bytes read at a home: through the L2 of a C-die, which fetches what it lacks, or from the C-die frame of a host-home leaf. -/
def State.homeRead (s : State) (ia key n : Nat) : List PByte × State :=
  let leaf := s.leafOf ia
  if homeOf ia ≤ 3 then
    let s := (linesOf ia n).foldl (fun s ln => s.openL2 (ln * 64) (key / 64 * 64 + (ln - ia / 64) * 64) leaf true) s
    (s.memRead key n, s)
  else
    let s := s.meetFlaws ia key n
    (s.keyedRead key leaf n, s)

/-- A span touches part of a table's entries: the indices whose first `k` bytes it overlaps. -/
def touched (base stride k limit ia n : Nat) : List Nat :=
  if base = 0 ∨ ia + n ≤ base then [] else
  let i0 := (ia - base) / stride
  let i1 := (ia + n - 1 - base) / stride
  ((List.range (i1 + 1 - i0)).map (· + i0)).filter fun i =>
    decide (i < limit) && decide (ia < base + stride * i + k) && decide (base + stride * i < ia + n)

/-- The steps of the device that a write performed at a home brings: checks of table entries (R110, R133, R172,
R336). -/
def State.tableWrites (s : State) (ia n : Nat) : List Instr :=
  let h := homeOf ia
  ((touched (if h ≤ 3 then s.reg h 8 8 else 0) 64 8 64 ia n).map fun i => Instr.prtEntryWrite h i) ++
  ((touched s.surfBase 64 64 65536 ia n).map Instr.surfaceDescriptorWrite) ++
  ((touched s.ctxBase 512 4 4096 ia n).map Instr.contextDescriptorWrite) ++
  ((touched s.gfxBase 64 8 4096 ia n).map Instr.graphicsContextEntryWrite)

/-- The span lies in a fill-state or failure table of a valid range (R111). -/
def State.inFillTables (s : State) (ia n : Nat) : Bool :=
  (s.home (homeOf ia)).prts.any fun p =>
    (decide (ia < p.fst + (p.nblk + 4) / 4) && decide (p.fst < ia + n)) ||
    (decide (ia < p.fail + 8 * (p.nblk + 1)) && decide (p.fail < ia + n))

/-- The bytes of a write that lie in no fill-state or failure table, as runs with their offsets (R111). -/
def State.outsideTables (s : State) (ia : Nat) (bs : List PByte) : List (Nat × List PByte) :=
  if !s.inFillTables ia bs.length then [(0, bs)] else
  (bs.zipIdx.foldl (fun (acc : List (Nat × List PByte)) x =>
    if s.inFillTables (ia + x.2) 1 then acc else
    match acc with
    | (o, r) :: t => if o + r.length = x.2 then (o, r ++ [x.1]) :: t else (x.2, [x.1]) :: acc
    | [] => [(x.2, [x.1])]) []).reverse

/-- A run of bytes written at a home: in the L2, allocated without a fetch, or in the C-die frame of a host-home leaf (R43). -/
def State.homePutRun (s : State) (ia key : Nat) (bs : List PByte) : State :=
  let leaf := s.leafOf ia
  if homeOf ia ≤ 3 then
    ((linesOf ia bs.length).foldl (fun s ln => s.openL2 (ln * 64) (key / 64 * 64 + (ln - ia / 64) * 64) leaf false) s).put ia key bs
  else
    let k := s.keyId leaf
    let s := (linesOf key bs.length).foldl (fun s pl =>
      if s.sealOf pl = k ∨ (s.heldLine pl).isSome then s else (s.memWrite (pl * 64) (s.memLine pl k)).setSeal pl (pl + 1) k) s
    s.put ia key bs

/-- A write of any agent performed at a home (R43): R111 discards the bytes that lie in a fill table, and a write to a device table
brings its check. -/
def State.homeWrite (s : State) (ia key : Nat) (bs : List PByte) : State :=
  let runs := s.outsideTables ia bs
  let s := if (runs.map fun r => r.2.length).sum = bs.length then s
    else s.deviceRecord 0x12 (unitOf ia) (s.stamp (key / 65536)) 0 ia 0
  let s := runs.foldl (fun s r => s.homePutRun (ia + r.1) (key + r.1) r.2) s
  { s with due := s.due ++ s.tableWrites ia bs.length }

end Sys2Proof.Machine
end

