-- ==== Sys2Proof/Machine/Cache.lean ====
section
/-!
DEFINITION. The caches of the generic path and of the constant, sampler and tile-layout paths: reads, writes, pushes and
invalidations (02 R36 to R46, R399; 03 R67).
-/

namespace Sys2Proof.Machine

/-! ## Lines -/

/-- Whether a line holds bytes `o` to `o + n - 1`. -/
def Line.has (l : Line) (o n : Nat) : Bool := l.valid &&& spanMask o n == spanMask o n

/-- Every byte of a span of the line is dirty. -/
def Line.dirtyAll (l : Line) (o n : Nat) : Bool := l.dirty &&& spanMask o n == spanMask o n

/-! ## Write-backs (R399) -/

/-- Writes the dirty bytes of a line to its home; a clean line brings nothing. To a host or peer home they leave as WRITE
messages (R360). A line of a procedural block was written while the block let it be, and goes home whatever its fill state now is (DESIGN
CHOICE, log 137). -/
def State.writeHome (s : State) (l : Line) : State :=
  let ia := l.line * 64
  let send := fun (s : State) (slot addr : Nat) => (dirtyRuns l).foldl (fun s r =>
    s.sendWrite l.writers slot 1 0x02 0 (ia + r.1) r.2.length (addr + r.1) (writeBody (values r.2) 6)) s
  if !l.isDirty then s
  else if !translates (homeOf ia) then send s (homeOf ia) ia
  else
    match s.lookup ia with
    | .hit _ b leaf _ =>
      if entOwner leaf ≠ l.owner ∨ entProt leaf ≠ l.prot then s.dropRecord l
      else if entFhome leaf = 8 then send s 8 (hostAddr leaf b ia)
      else (dirtyRuns l).foldl (fun s r => s.homeWrite (ia + r.1) (leafKey leaf b ia + r.1) r.2) s
    | _ => s.dropRecord l

/-- The line of an RDC into which bytes of a line with these tags go: another owner's gives way and goes home (R130, R399). -/
def State.openRdc (s : State) (d line : Nat) (o : Id12) (p : Bool) (f : Nat) : State :=
  match findLine (s.rdc d) line with
  | none => s.updRdc d fun rs => setLine rs (Line.empty line o p f)
  | some l =>
    if l.owner = o ∧ l.prot = p then s
    else (s.updRdc d fun rs => setLine rs (Line.empty line o p f)).writeHome l

/-- Performs the dirty bytes of an L1 line at the point of coherence of die `d` (R37, R39): the L2 of a line homed
on `d`, else its RDC. -/
def State.writePoc (s : State) (d : Nat) (l : Line) : State :=
  if !l.isDirty then s
  else if homeOf (l.line * 64) = d then s.writeHome l else
  (s.openRdc d l.line l.owner l.prot l.frame).updRdc d fun rs => updWhere rs (fun x => x.line == l.line) fun x =>
    ((dirtyRuns l).foldl (fun x r => x.write r.1 r.2 true) x).wrote l.writers

/-- A release in the L1 of a core (R39): pushes every dirty line whose tag is narrower than the scope. -/
def State.pushL1 (s : State) (c : Nat) (sc : Scope) : State :=
  match sc with
  | .grp => s
  | .core => s.updCore c fun k => { k with l1 := k.l1.map fun l => if l.isDirty then { l with wide := true } else l }
  | _ =>
    let dirty := (s.core c).l1.filter Line.isDirty
    let s := s.updCore c fun k => { k with l1 := k.l1.map Line.clean }
    dirty.foldl (fun s l => s.writePoc (dieOf c) l) s

/-- A release in the RDC of a die (R44). -/
def State.pushRdc (s : State) (d : Nat) : State :=
  let dirty := (s.rdc d).filter Line.isDirty
  let s := s.updRdc d fun rs => rs.map Line.clean
  dirty.foldl State.writeHome s

/-- A release at a scope by an agent of a core (R39, R44). -/
def State.release (s : State) (c : Nat) (sc : Scope) : State :=
  let s := s.pushL1 c sc
  if 4 ≤ scopeNum sc then s.pushRdc (dieOf c) else s

/-! ## Invalidations (R40, R44, R46, R82) -/

/-- Clean lines go; dirty lines keep only their dirty bytes. -/
def keepDirty (ls : List Line) : List Line :=
  (ls.filter Line.isDirty).map fun l => { l with valid := l.valid &&& l.dirty }

def State.acquireRdc (s : State) (d : Nat) : State := s.updRdc d keepDirty

/-- An acquire at a scope by an agent of a core (R40, R44); a fill under way joins no cache after it (R72). -/
def State.acquire (s : State) (c : Nat) (sc : Scope) : State :=
  if !wide sc then s else
  let s := s.updCore c fun k => { k with l1 := keepDirty k.l1, tcache := [] }
  if 5 ≤ scopeNum sc then (s.acquireRdc (dieOf c)).spoil (fun k => dieOf k == dieOf c) fun _ => true
  else s.spoil (· == c) fun _ => true

/-- Drops the lines of a span from a core's caches, and from its die's RDC when asked (R58, R82). Bytes that have become dirty since the
flush go to the point of coherence first. -/
def State.dropSpan (s : State) (c : Nat) (lo n : Nat) (rdc : Bool) : State :=
  let meets := fun (l : Line) => decide (lo < l.line * 64 + 64) && decide (l.line * 64 < lo + n)
  let keep := fun (l : Line) => !meets l
  let d := (s.core c).l1.filter meets
  let s := s.updCore c fun k =>
    { k with l1 := k.l1.filter keep, kcache := k.kcache.filter keep, scache := k.scache.filter keep,
             tcache := k.tcache.filter keep }
  let s := d.foldl (fun s l => s.writePoc (dieOf c) l) s
  let s := s.spoil (fun k => if rdc then dieOf k == dieOf c else k == c) fun ln => decide (lo < ln * 64 + 64) && decide (ln * 64 < lo + n)
  if rdc then
    let r := (s.rdc (dieOf c)).filter meets
    r.foldl State.writeHome (s.updRdc (dieOf c) fun rs => rs.filter keep)
  else s

/-- Writes home every dirty byte that the core's L1 and its die's RDC hold in a span, and leaves them clean (R58,
R82). -/
def State.flushSpan (s : State) (c : Nat) (lo n : Nat) : State :=
  let inSpan := fun (l : Line) => decide (lo < l.line * 64 + 64) && decide (l.line * 64 < lo + n)
  let clean := fun (l : Line) => if inSpan l then l.clean else l
  let r := (s.rdc (dieOf c)).filter fun l => inSpan l && l.isDirty
  let s := s.updRdc (dieOf c) fun rs => rs.map clean
  let s := r.foldl State.writeHome s
  let d := (s.core c).l1.filter fun l => inSpan l && l.isDirty
  let s := s.updCore c fun k => { k with l1 := k.l1.map clean }
  d.foldl State.writeHome s

/-! ## Registers of the apertures as read (R357, R358) -/

/-- LTSTAT (Table 16-11): the stored bits, and PL4 as its cap until a report chooses a band (DESIGN CHOICE, log 4). -/
def State.ltstat (s : State) : Nat :=
  let v := s.reg 0 0x200400 4
  if bits v 8 4 = 0 ∧ s.board.report.isNone then v + 4 * 256 else v

/-- A byte of an aperture: GR of the logical clusters, LTSTAT, else the stored byte. Offsets that no table lists hold zero. -/
def State.regByte (s : State) (die off : Nat) : Byte :=
  if 2 ^ 24 ≤ off then 0
  else if die = 0 ∧ 0x200000 ≤ off ∧ off < 0x2000A0 then
    (if off % 4 = 0 then BitVec.ofNat 8 (s.cluster ((off - 0x200000) / 4)).gr else 0)
  else if die = 0 ∧ 0x200400 ≤ off ∧ off < 0x200404 then BitVec.ofNat 8 (s.ltstat / 256 ^ (off - 0x200400))
  else cellRead regDefault s.regs (regKey die off)

def State.regRead (s : State) (die off n : Nat) : Nat := leNat ((List.range n).map fun i => s.regByte die (off + i))

/-- The register writes of a store: at most 8 bytes each. -/
def regWrites (die off : Nat) : Nat → List Byte → List Instr
  | 0, _ => []
  | n + 1, bs =>
    if bs.isEmpty then [] else
    .registerWrite die off (min bs.length 8) (BitVec.ofNat 64 (leNat (bs.take 8))) :: regWrites die (off + 8) n (bs.drop 8)

/-! ## Reads (R37, R45, R67) -/

/-- How a read or a write went. -/
inductive Access
  | ok (bytes : List PByte)
  /-- It could not be performed, as the home decided. -/
  | blocked (g : Gate)
  /-- It must be performed by an endpoint: READ of `count` bytes, or the WRITE or ATOMIC of the lane. -/
  | remote (slot addr count : Nat)
  /-- The line must be READ from an endpoint first; the lane is then performed again. -/
  | fetch (slot addr : Nat)
  /-- An endpoint must first say whether it takes a write of the line, which a cache then holds (R38). -/
  | probe (slot addr : Nat)
  deriving DecidableEq, Repr

/-- A fetched line. -/
inductive Fetch
  | ok (bytes : List PByte) (owner : Id12) (prot : Bool) (frame : Nat)
  | blocked (g : Gate)
  | remote (slot addr : Nat)
  deriving DecidableEq, Repr

/-- Zeros that carry a poison. -/
def poisonBytes (n : Nat) (p : Poison) : List PByte := List.replicate n (0, some p)

/-- A line read at its home. -/
def State.fetchHome (s : State) (r : Req) (line : Nat) : Fetch × State :=
  match s.gate r (line * 64) with
  | (.go key o p, s) =>
    let (bs, s) := s.homeRead (line * 64) key 64
    (.ok bs o p (key / 65536), s)
  | (.remote slot addr _ _, s) => (.remote slot addr, s)
  | (.poisoned p _ _ _, s) => (.ok (poisonBytes 64 p) r.owner (r.prot && r.wprot) 0, s)
  | (g, s) => (.blocked g, s)

/-- Merges a fetched line into the RDC of a die. -/
def State.fillRdc (s : State) (d line : Nat) (bs : List PByte) (o : Id12) (p : Bool) (f : Nat) : State :=
  (s.openRdc d line o p f).updRdc d fun rs => updWhere rs (fun x => x.line == line) fun x => x.merge bs

def State.rdcLine (s : State) (r : Req) (d line : Nat) : Option Line :=
  (findLine (s.rdc d) line).filter fun l => r.passes l.owner l.prot

/-- The line of the core's L1 that serves a request (R130). -/
def State.l1Line (s : State) (r : Req) (c line : Nat) : Option Line :=
  (findLine (s.core c).l1 line).filter fun l => r.passes l.owner l.prot

/-- Bytes from offset `o` of a line, with the dirty bytes of a cache line over them. -/
def overlay (bs : List PByte) (o : Nat) (l : Option Line) : List PByte :=
  match l with
  | none => bs
  | some l => bs.mapIdx fun i b => if l.dirty.getLsbD (o + i) then l.pbyte (o + i) else b

/-- A line read at the point of coherence of die `d` (R37), or, for a scope of DEV or SYS, past every clean line of the RDC (R67). -/
def State.fetchPoc (s : State) (r : Req) (d line : Nat) (sc : Scope) : Fetch × State :=
  if homeOf (line * 64) = d then s.fetchHome r line else
  let rl := s.rdcLine r d line
  match rl.filter fun l => if scopeNum sc ≤ 4 then l.has 0 64 else l.dirtyAll 0 64 with
  | some l => (.ok (l.pbytes 0 64) l.owner l.prot l.frame, s)
  | none =>
    match s.fetchHome r line with
    | (.ok bs o p f, s) =>
      if scopeNum sc ≤ 4 then
        let s := s.fillRdc d line bs o p f
        let l := (findLine (s.rdc d) line).getD (Line.empty line o p f)
        (.ok (l.pbytes 0 64) o p f, s)
      else (.ok (overlay bs 0 rl) o p f, s)
    | x => x

/-- A line that fails R130 for a permitted request gives way; its dirty bytes go home under R399. -/
def State.evictForeign (s : State) (c line : Nat) (o : Id12) (p : Bool) : State :=
  match findLine (s.core c).l1 line with
  | some l => if l.owner = o ∧ l.prot = p then s else
      (s.updCore c fun k => { k with l1 := dropLine k.l1 line }).writePoc (dieOf c) l
  | none => s

/-- Merges a fetched line into the L1 of a core. -/
def State.fillL1 (s : State) (c line : Nat) (bs : List PByte) (o : Id12) (p : Bool) (f : Nat) : State :=
  (s.evictForeign c line o p).updCore c fun k =>
    { k with l1 := setLine k.l1 (((findLine k.l1 line).getD (Line.empty line o p f)).merge bs) }

/-- The IA of a configuration aperture (R357). -/
def inAperture (ia : Nat) : Bool := decide (homeOf ia ≤ 3) && decide (0xFF0000000000 ≤ ia % 2 ^ 48)

/-- A path G read of `n` bytes by a core, inside one line (R67). `alloc` is false under NOL1 (R41). -/
def State.readG (s : State) (r : Req) (c : Nat) (sc : Scope) (alloc : Bool) (ia n : Nat) : Access × State :=
  let line := ia / 64
  let o := ia % 64
  let d := dieOf c
  if inAperture ia then
    match s.gate r ia with
    | (.aperture die off, s) => (.ok (plain (leBytes n (s.regRead die off n))), s)
    | (g, s) => (.blocked g, s)
  else
  let l1 := s.l1Line r c line
  let zero := plain (List.replicate n 0)
  if !wide sc then
    match l1.filter fun l => l.has o n with
    | some l => (.ok (l.pbytes o n), s)
    | none =>
      match s.fetchPoc r d line sc with
      | (.ok bs ow p f, s) =>
        let s' := s.fillL1 c line bs ow p f
        let l := (findLine (s'.core c).l1 line).getD (Line.empty line ow p f)
        (.ok (l.pbytes o n), if alloc then s' else s)
      | (.blocked g, s) => (.blocked g, s)
      | (.remote slot addr, s) => (.remote slot addr 64, s)
  else
  let full := fun (l : Option Line) => l.any fun l => l.dirtyAll o n
  if full l1 then (.ok (overlay zero o l1), s)
  else if scopeNum sc ≤ 4 then
    match s.fetchPoc r d line sc with
    | (.ok bs _ _ _, s) => (.ok (overlay ((bs.drop o).take n) o l1), s)
    | (.blocked g, s) => (.blocked g, s)
    | (.remote slot addr, s) => (.remote slot addr 64, s)
  else
  let rl := if homeOf ia = d then none else s.rdcLine r d line
  if full rl then (.ok (overlay (overlay zero o rl) o l1), s)
  else
    match s.gate r ia with
    | (.go key _ _, s) =>
      let (bs, s) := s.homeRead ia key n
      (.ok (overlay (overlay bs o rl) o l1), s)
    | (.remote slot addr _ _, s) => (.remote slot addr n, s)
    | (.poisoned p _ _ _, s) => (.ok (poisonBytes n p), s)
    | (g, s) => (.blocked g, s)

/-- A response of a host or peer home to a read: its line joins the RDC and the L1, unless an acquire has come between (`fresh` false, R72);
or its bytes are delivered with the core's and the die's dirty bytes over them. An SC load (`sq`) of scope PAIR or wider takes nothing
from the L1, and one of DEV or SYS nothing from the RDC (R73). -/
def State.readGot (s : State) (r : Req) (c : Nat) (sc : Scope) (sq alloc fresh : Bool) (ia n : Nat) (data : List PByte) :
    List PByte × State :=
  let line := ia / 64
  let o := ia % 64
  let d := dieOf c
  let l1 := if sq && wide sc then none else s.l1Line r c line
  let rl := if sq && decide (5 ≤ scopeNum sc) then none else s.rdcLine r d line
  if data.length = 64 ∧ n < 64 then
    if !fresh then (overlay (overlay ((data.drop o).take n) o rl) o l1, s) else
    let pr := r.prot && r.wprot
    let s := if scopeNum sc ≤ 4 then s.fillRdc d line data r.owner pr (line / 1024) else s
    let got := overlay data 0 rl
    if !wide sc then
      let s' := s.fillL1 c line got r.owner pr (line / 1024)
      let l := (findLine (s'.core c).l1 line).getD (Line.empty line r.owner pr 0)
      (l.pbytes o n, if alloc then s' else s)
    else (overlay ((got.drop o).take n) o l1, s)
  else (overlay (overlay (data.take n) o rl) o l1, s)

/-! ## Paths K and S (R45, R46, R47) -/

/-- A read through the constant or the sampler cache: a held line serves it, else the point of coherence, past the RDC's clean lines for a
scope of DEV or SYS (R67, R281). -/
def State.readKS (s : State) (r : Req) (c : Nat) (sc : Scope) (sampler alloc : Bool) (ia n : Nat) : Access × State :=
  let line := ia / 64
  let o := ia % 64
  if inAperture ia then (.blocked (.fatal fatalOwner), s) else
  let ls := if sampler then (s.core c).scache else (s.core c).kcache
  match (findLine ls line).filter fun l => r.passes l.owner l.prot with
  | some l => (.ok (l.pbytes o n), s)
  | none =>
    match s.fetchPoc r (dieOf c) line sc with
    | (.ok bs ow p f, s) =>
      let l := (Line.empty line ow p f).merge bs
      let s := if !alloc then s else s.updCore c fun k =>
        if sampler then { k with scache := setLine k.scache l } else { k with kcache := setLine k.kcache l }
      (.ok (l.pbytes o n), s)
    | (.blocked g, s) => (.blocked g, s)
    | (.remote slot addr, s) => (.remote slot addr 64, s)

/-- A line of a host or peer home arrives for path K or S. -/
def State.readKSGot (s : State) (r : Req) (c : Nat) (sc : Scope) (sampler alloc fresh : Bool) (ia n : Nat) (data : List PByte) :
    List PByte × State :=
  let line := ia / 64
  let pr := r.prot && r.wprot
  let got := overlay data 0 (s.rdcLine r (dieOf c) line)
  let s := if fresh && decide (scopeNum sc ≤ 4) then s.fillRdc (dieOf c) line data r.owner pr (line / 1024) else s
  let l := (Line.empty line r.owner pr (line / 1024)).merge got
  let s := if !(alloc && fresh) then s else s.updCore c fun k =>
    if sampler then { k with scache := setLine k.scache l } else { k with kcache := setLine k.kcache l }
  (l.pbytes (ia % 64) n, s)

/-! ## Writes (R38, R44) -/

/-- A discarded write to a POISONED block (Table 5-3). -/
def State.poisonedWrite (s : State) (r : Req) (ia : Nat) : State :=
  s.deviceRecord 0x15 (unitOf ia) r.owner 0 ia 0

/-- Updates the copy of a line that a wider write finds; other dirty bytes of the copy go to the point of coherence
and it is left clean (R38, DEDUCED, log 14). Another owner's copy gives way (R130). -/
def State.updateCopy (s : State) (c : Nat) (ia : Nat) (bs : List PByte) (o : Id12) (p : Bool) : State :=
  let s := s.evictForeign c (ia / 64) o p
  match findLine (s.core c).l1 (ia / 64) with
  | none => s
  | some l =>
    let rest := { l with dirty := l.dirty &&& ~~~spanMask (ia % 64) bs.length }
    (s.writePoc (dieOf c) rest).updCore c fun k => { k with l1 := setLine k.l1 (l.write (ia % 64) bs false).clean }

def State.updateRdcCopy (s : State) (d : Nat) (ia : Nat) (bs : List PByte) (o : Id12) (p : Bool) : State :=
  match findLine (s.rdc d) (ia / 64) with
  | none => s
  | some l =>
    if l.owner ≠ o ∨ l.prot ≠ p then (s.updRdc d fun rs => dropLine rs (ia / 64)).writeHome l else
    let rest := { l with dirty := l.dirty &&& ~~~spanMask (ia % 64) bs.length }
    (s.writeHome rest).updRdc d fun rs => setLine rs (l.write (ia % 64) bs false).clean

/-- Bytes written in the L1 of a core, in the line that carries these tags. -/
def State.writeL1 (s : State) (by_ : List (Nat × Slice)) (c : Nat) (sc : Scope) (ia : Nat) (bs : List PByte) (o : Id12) (p : Bool) (f : Nat) : State :=
  (s.evictForeign c (ia / 64) o p).updCore c fun k =>
    let l := (findLine k.l1 (ia / 64)).getD (Line.empty (ia / 64) o p f)
    { k with l1 := setLine k.l1 { (l.write (ia % 64) bs true).wrote by_ with wide := l.wide || sc == .core } }

/-- Bytes of scope PAIR or CLU written in the RDC of a core's die (R44). -/
def State.writeRdc (s : State) (by_ : List (Nat × Slice)) (c : Nat) (ia : Nat) (bs : List PByte) (o : Id12) (p : Bool) (f : Nat) : State :=
  ((s.updateCopy c ia bs o p).openRdc (dieOf c) (ia / 64) o p f).updRdc (dieOf c) fun rs =>
    updWhere rs (fun x => x.line == ia / 64) fun x => (x.write (ia % 64) bs true).wrote by_

/-- A path G write inside one line by a core (R38, R43, R44). The ownership probe of a line of a peer goes there as a READ of one byte, whose
status is its answer: Table 16-9 has no message for it (DESIGN CHOICE, log 141). -/
def State.writeG (s : State) (r : Req) (c : Nat) (sc : Scope) (ia : Nat) (bs : List PByte) : Access × State :=
  let line := ia / 64
  let d := dieOf c
  let r := { r with write := true }
  let tags := fun (l : Option Line) (k : Line → Access × State) (e : Access × State) => (l.map k).getD e
  let inL1 := if inAperture ia || wide sc then none else s.l1Line r c line
  let inRdc := if inAperture ia || !wide sc || decide (3 < scopeNum sc) || homeOf ia == d then none else s.rdcLine r d line
  tags inL1 (fun l => (.ok [], s.writeL1 r.writer c sc ia bs l.owner l.prot l.frame)) <|
  tags inRdc (fun l => (.ok [], s.writeRdc r.writer c ia bs l.owner l.prot l.frame)) <|
  match s.gate r ia with
  | (.aperture die off, s) => (.ok [], { s with due := s.due ++ regWrites die off 8 (values bs) })
  | (.poisoned _ _ _ _, s) => (.ok [], s.poisonedWrite r ia)
  | (.go key ow pr, s) =>
    if !wide sc then (.ok [], s.writeL1 r.writer c sc ia bs ow pr (key / 65536))
    else if scopeNum sc ≤ 3 ∧ homeOf ia ≠ d then (.ok [], s.writeRdc r.writer c ia bs ow pr (key / 65536))
    else (.ok [], ((s.updateCopy c ia bs ow pr).updateRdcCopy d ia bs ow pr).homeWrite ia key bs)
  | (.remote slot addr ow pr, s) =>
    let pr := pr || (r.prot && r.wprot)
    if scopeNum sc ≤ 3 then (.probe slot addr, s)
    else (.remote slot addr bs.length, (s.updateCopy c ia bs ow pr).updateRdcCopy d ia bs ow pr)
  | (g, s) => (.blocked g, s)

/-- A peer has let a write of scope GRP to CLU through: its bytes stand in the L1 or the RDC (R38, R44). -/
def State.probedWrite (s : State) (r : Req) (c : Nat) (sc : Scope) (ia : Nat) (bs : List PByte) : State :=
  let pr := r.prot && r.wprot
  if !wide sc then s.writeL1 r.writer c sc ia bs r.owner pr (ia / 65536) else s.writeRdc r.writer c ia bs r.owner pr (ia / 65536)

/-! ## Atomics (R38, R60, R77) -/

/-- The dirty bytes of a line leave the L1 of a core. -/
def State.expelL1 (s : State) (c line : Nat) : State :=
  match findLine (s.core c).l1 line with
  | some l => (s.updCore c fun k => { k with l1 := dropLine k.l1 line }).writePoc (dieOf c) l
  | none => s

/-- The dirty bytes of a line leave the L1 and the RDC before an atomic of scope PAIR or wider (R38, R44). -/
def State.expel (s : State) (c line : Nat) : State :=
  let s := s.expelL1 c line
  match findLine (s.rdc (dieOf c)) line with
  | some l => (s.updRdc (dieOf c) fun rs => dropLine rs line).writeHome l
  | none => s

/-- The poison of the 8-byte granules of a line that a span touches (R60). -/
def Line.granulePoison (l : Line) (o n : Nat) : Option Poison := anyPoison (l.pbytes (o / 8 * 8) ((o + n + 7) / 8 * 8 - o / 8 * 8))

/-- The update of an atomic at a poisoned location is dropped: it delivers the old value poisoned, and without a return (`red`) it is reported
(R60). -/
def State.atomicDropped (s : State) (r : Req) (red : Bool) (ia : Nat) (old : List PByte) (q : Poison) : Access × State :=
  (.ok (old.map fun b => (b.1, some q)), if red then s.deviceRecord 0x07 (unitOf ia) r.owner r.ctx ia 0 else s)

/-- An atomic performed in the L1, which holds its bytes: a poisoned location is not updated (R60). -/
def State.atomicL1 (s : State) (r : Req) (red : Bool) (c : Nat) (sc : Scope) (ia n : Nat) (f : List Byte → List Byte) (l : Line) : Access × State :=
  let o := ia % 64
  match l.granulePoison o n with
  | some q => s.atomicDropped r red ia (l.pbytes o n) q
  | none =>
    (.ok (l.pbytes o n), s.updCore c fun k =>
      { k with l1 := setLine k.l1 { (l.write o (plain (f (values (l.pbytes o n)))) true).wrote r.writer with wide := l.wide || sc == .core } })

/-- An atomic on `n` bytes: `f` gives the new bytes. At GRP or CORE the home is asked for a line that the L1 does not hold, as a
write would be, then the line is fetched from the point of coherence (R38, R77). -/
def State.atomicG (s : State) (r : Req) (red : Bool) (c : Nat) (sc : Scope) (ia n : Nat) (f : List Byte → List Byte) : Access × State :=
  let line := ia / 64
  let o := ia % 64
  let r := { r with write := true }
  if inAperture ia then (.blocked (.fatal fatalOwner), s)
  else if !wide sc then
    let act := fun (s : State) => match findLine (s.core c).l1 line with
      | some l => s.atomicL1 r red c sc ia n f l
      | none => (.ok [], s)
    match (s.l1Line r c line).filter fun l => l.has o n with
    | some _ => act s
    | none =>
      let probe := if (s.l1Line r c line).isSome then (Gate.held, s) else s.gate r (line * 64)
      match probe with
      | (.poisoned p _ _ _, s) => (.ok (poisonBytes n p), s.poisonedWrite r ia)
      | (.miss p b, s) => (.blocked (.miss p b), s)
      | (.fatal i, s) => (.blocked (.fatal i), s)
      | (.filling d e b, s) => (.blocked (.filling d e b), s)
      | (.full, s) => (.blocked .full, s)
      | (.refused x, s) => (.blocked (.refused x), s)
      | (_, s) =>
        match s.fetchPoc r (dieOf c) line sc with
        | (.ok bs ow p fr, s) => act (s.fillL1 c line bs ow p fr)
        | (.blocked g, s) => (.blocked g, s)
        | (.remote slot addr, s) => (.fetch slot addr, s)
  else
    match s.gate r ia with
    | (.go key _ _, s) =>
      let s := s.expel c line
      let (old, s) := s.homeRead ia key n
      match anyPoison (s.memRead (key / 8 * 8) ((key + n + 7) / 8 * 8 - key / 8 * 8)) with
      | none => (.ok old, s.homeWrite ia key (plain (f (values old))))
      | some q => s.atomicDropped r red ia old q
    | (.remote slot addr _ _, s) => (.remote slot addr n, s.expel c line)
    | (.poisoned p _ _ _, s) => (.ok (poisonBytes n p), s.poisonedWrite r ia)
    | (g, s) => (.blocked g, s)

end Sys2Proof.Machine
end

