-- ==== Sys2Proof/Decode.lean ====
section
/-!
DEFINITION. The decoder of the 96-bit instruction word and, after it, the encoder, both written from Tables 9-1
to 9-9. The decoder takes the word's fields apart and refuses, by field and detail, every word whose
fields alone are no instruction; what an instruction's entry refuses is in Machine/Encoding.lean.
-/

namespace Sys2Proof

/-- The fields of the word, still as bits (Table 9-1). -/
structure Raw where
  opc : BitVec 10
  gn  : Bool
  gp  : BitVec 3
  sw  : Bool
  yld : Bool
  ru  : BitVec 3
  rsv : BitVec 3
  opd : BitVec 16
  opa : BitVec 16
  opb : BitVec 16
  mod : BitVec 26
  deriving DecidableEq, Repr

/-- The fields of a word (Table 9-1). -/
def Raw.ofWord (w : IWord) : Raw :=
  { opc := w.extractLsb' 86 10, gn := w.getLsbD 85, gp := w.extractLsb' 82 3, sw := w.getLsbD 81,
    yld := w.getLsbD 80, ru := w.extractLsb' 77 3, rsv := w.extractLsb' 74 3, opd := w.extractLsb' 58 16,
    opa := w.extractLsb' 42 16, opb := w.extractLsb' 26 16, mod := w.extractLsb' 0 26 }

/-- The word of the fields (Table 9-1). -/
def Raw.toWord (r : Raw) : IWord :=
  r.opc ++ BitVec.ofBool r.gn ++ r.gp ++ BitVec.ofBool r.sw ++ BitVec.ofBool r.yld ++ r.ru ++ r.rsv ++ r.opd ++
    r.opa ++ r.opb ++ r.mod

/-- Why a word is no instruction (R219, R220): its opcode is not assigned, or a field is malformed. The
opcode and the system-register index are kept, because the slice and privilege checks come first. -/
inductive DecErr
  | opcode (opc : BitVec 10)
  | encoding (opc : BitVec 10) (idx : BitVec 9) (f : EncFault)
  deriving DecidableEq, Repr

/-! Codes of Table 9-6. -/

def Ty.ofCode (c : BitVec 4) : Option Ty :=
  match c.toNat with
  | 0 => some .b32 | 1 => some .s32 | 2 => some .b16 | 3 => some .s16 | 4 => some .b8 | 5 => some .s8
  | 6 => some .b64 | 7 => some .f32 | 8 => some .f16 | 9 => some .bf16 | 10 => some .e4m3 | 11 => some .e5m2
  | 12 => some .e2m1 | 13 => some .f16x2 | 14 => some .bf16x2 | _ => none

def Rnd.ofCode (c : BitVec 3) : Option Rnd :=
  match c.toNat with
  | 0 => some .rne | 1 => some .rz | 2 => some .rup | 3 => some .rdn | 4 => some .rna | _ => none

def Rnd.code : Rnd → BitVec 3
  | .rne => 0 | .rz => 1 | .rup => 2 | .rdn => 3 | .rna => 4

def Scope.ofCode (c : BitVec 3) : Option Scope :=
  match c.toNat with
  | 0 => some .grp | 1 => some .core | 2 => some .pair | 3 => some .clu | 4 => some .die | 5 => some .dev
  | 6 => some .sys | _ => none

def Scope.code : Scope → BitVec 3
  | .grp => 0 | .core => 1 | .pair => 2 | .clu => 3 | .die => 4 | .dev => 5 | .sys => 6

def Order.ofCode (c : BitVec 3) : Option Order :=
  match c.toNat with
  | 0 => some .rlx | 1 => some .acq | 2 => some .rel | 3 => some .ar | 4 => some .sc | _ => none

def Order.code : Order → BitVec 3
  | .rlx => 0 | .acq => 1 | .rel => 2 | .ar => 3 | .sc => 4

def Xlm.ofCode (c : BitVec 4) : Option Xlm :=
  match c.toNat with
  | 0 => some .none | 1 => some .bc | 2 => some .xor | 3 => some .up | 4 => some .dn | 5 => some .rot | _ => Option.none

def Xlm.code : Xlm → BitVec 4
  | .none => 0 | .bc => 1 | .xor => 2 | .up => 3 | .dn => 4 | .rot => 5

/-! Operand fields (Table 9-2). -/

/-- KIND of an operand field. -/
def kindOf (f : BitVec 16) : BitVec 3 := f.extractLsb' 13 3

/-- An operand field of KIND 0 to 6, `none` for an unused VAL bit, a reserved code or KIND 7. -/
def Opnd.ofField (f : BitVec 16) : Option Opnd :=
  let v : BitVec 13 := f.extractLsb' 0 13
  match (kindOf f).toNat with
  | 0 => if v.extractLsb' 8 5 = 0 then some (.vec (v.extractLsb' 0 8)) else none
  | 1 => if v.extractLsb' 6 7 = 0 then some (.sca (v.extractLsb' 0 6)) else none
  | 2 => if v.extractLsb' 10 3 = 0 then some (.ind (v.extractLsb' 0 8) (v.extractLsb' 8 2)) else none
  | 3 => if v.extractLsb' 3 10 = 0 then some (.pred (v.extractLsb' 0 3)) else none
  | 4 => if v.extractLsb' 3 10 = 0 then some (.que (v.extractLsb' 0 3)) else none
  | 5 => some (.imm v)
  | 6 => if v.extractLsb' 4 9 = 0 then some (.spc (v.extractLsb' 0 4)) else none
  | _ => none

/-- The field of an operand. A long immediate gives its upper bits; the lower stand in MOD (R209). -/
def Opnd.toField : Opnd → BitVec 16
  | .vec n    => (0 : BitVec 3) ++ ((0 : BitVec 5) ++ n)
  | .sca n    => (1 : BitVec 3) ++ ((0 : BitVec 7) ++ n)
  | .ind b ix => (2 : BitVec 3) ++ ((0 : BitVec 3) ++ ix ++ b)
  | .pred n   => (3 : BitVec 3) ++ ((0 : BitVec 10) ++ n)
  | .que q    => (4 : BitVec 3) ++ ((0 : BitVec 10) ++ q)
  | .imm i    => (5 : BitVec 3) ++ i
  | .spc n    => (6 : BitVec 3) ++ ((0 : BitVec 9) ++ n)
  | .long i   => (7 : BitVec 3) ++ (i.extractLsb' 19 13 : BitVec 13)

/-- Third source of layout MF from CKIND and CREG (R208). -/
def Src3.ofCode (ckind : BitVec 2) (creg : BitVec 8) : Option Src3 :=
  match ckind.toNat with
  | 0 => some (.vec creg)
  | 1 => if creg.extractLsb' 6 2 = 0 then some (.sca (creg.extractLsb' 0 6)) else none
  | 2 => if creg.extractLsb' 3 5 = 0 then some (.que (creg.extractLsb' 0 3)) else none
  | _ => if creg.extractLsb' 3 5 = 0 then some (.pred (creg.extractLsb' 0 3)) else none

/-- The KIND of Table 9-2 that a CKIND stands for: 4 for a queue (R208). -/
def ckindKind (c : BitVec 2) : Nat := if c = 2 then 4 else c.toNat

def Src3.ckind : Src3 → BitVec 2
  | .vec _ => 0 | .sca _ => 1 | .que _ => 2 | .pred _ => 3

def Src3.creg : Src3 → BitVec 8
  | .vec n => n | .sca n => (0 : BitVec 2) ++ n | .que q => (0 : BitVec 5) ++ q | .pred p => (0 : BitVec 5) ++ p

/-! Field checks. -/

/-- The result of taking a word's fields apart. -/
abbrev Dec (α : Type) := Except EncFault α

def badField (field detail : Nat) {α : Type} : Dec α := .error { field := .ofNat 4 field, detail := .ofNat 8 detail }

/-- An operand field in position `pos` (1 OPD, 2 OPA, 3 OPB); a breach names its KIND (Table 9-9). -/
def opndAt (pos : Nat) (f : BitVec 16) : Dec Opnd :=
  match Opnd.ofField f with
  | some o => .ok o
  | none => badField pos (kindOf f).toNat

/-- A field that the instruction does not use must be all zeros (R201). -/
def unused (pos : Nat) (f : BitVec 16) : Dec Unit :=
  if f = 0 then .ok () else badField pos (kindOf f).toNat

/-- Lowest set bit of a modifier, 26 when there is none. -/
def lowestBit (m : BitVec 26) : Nat := ((List.range 26).find? fun i => m.getLsbD i).getD 26

/-- The bits of MOD outside `used` must be zero; a breach names the lowest set one (R207, DEDUCED, log 21). -/
def modZero (m used : BitVec 26) : Dec Unit :=
  if m &&& ~~~used = 0 then .ok () else badField 6 (lowestBit (m &&& ~~~used))

/-- The MA fields by their lowest bits, highest first (Table 9-5). -/
def maStarts : List Nat := [22, 19, 18, 14, 8, 7, 6, 5, 4, 0]

/-- All MA fields must be zero; a breach names the lowest bit of the lowest nonzero field (R207, R220, DEDUCED, log 21). -/
def maUnused (m : BitVec 26) : Dec Unit :=
  if m = 0 then .ok () else badField 6 ((maStarts.find? fun i => decide (i ≤ lowestBit m)).getD 0)

/-- A coded MOD field whose lowest bit is `bit`: a reserved code is refused (R212). -/
def modCode {α : Type} (bit : Nat) (o : Option α) : Dec α :=
  match o with
  | some x => .ok x
  | none => badField 6 bit

/-- Layout MA (Table 9-5). -/
def MA.ofMod (m : BitVec 26) : Dec MA := do
  let ty ← modCode 22 (Ty.ofCode (m.extractLsb' 22 4))
  let rnd ← modCode 19 (Rnd.ofCode (m.extractLsb' 19 3))
  let xlm ← modCode 14 (Xlm.ofCode (m.extractLsb' 14 4))
  return { ty, rnd, sat := m.getLsbD 18, xlm, xls := m.extractLsb' 8 6, na := m.getLsbD 7, nb := m.getLsbD 6,
           aa := m.getLsbD 5, ab := m.getLsbD 4, sub := m.extractLsb' 0 4 }

def MA.toMod (x : MA) : BitVec 26 :=
  x.ty.code ++ x.rnd.code ++ BitVec.ofBool x.sat ++ x.xlm.code ++ x.xls ++ BitVec.ofBool x.na ++ BitVec.ofBool x.nb ++
    BitVec.ofBool x.aa ++ BitVec.ofBool x.ab ++ x.sub

/-- The MA fields that a long immediate implies (R209). -/
def MA.long (ty : Ty) (sub : BitVec 4) : MA :=
  { ty, rnd := .rne, sat := false, xlm := .none, xls := 0, na := false, nb := false, aa := false, ab := false, sub }

/-- OPB and MOD of an MA instruction: with KIND 7 the layout is MI (R209). -/
def maOperand (longTy : Ty) (r : Raw) : Dec (Opnd × MA) :=
  if kindOf r.opb = 7 then
    if r.mod.extractLsb' 4 3 = 0 then
      .ok (.long (r.opb.extractLsb' 0 13 ++ r.mod.extractLsb' 7 19), MA.long longTy (r.mod.extractLsb' 0 4))
    else badField 6 4
  else do
    let b ← opndAt 3 r.opb
    let m ← MA.ofMod r.mod
    return (b, m)

/-- MOD of an MA instruction with OPB `b`. -/
def maMod (b : Opnd) (x : MA) : BitVec 26 :=
  match b with
  | .long i => (i.extractLsb' 0 19 : BitVec 19) ++ (0 : BitVec 3) ++ x.sub
  | _ => x.toMod

/-- Layout MF (Table 9-5). -/
def MF.ofMod (m : BitVec 26) : Dec MF := do
  let c ← match Src3.ofCode (m.extractLsb' 0 2) (m.extractLsb' 10 8) with
    | some c => .ok c
    | none => badField 4 (ckindKind (m.extractLsb' 0 2))
  let ty ← modCode 22 (Ty.ofCode (m.extractLsb' 22 4))
  let rnd ← modCode 19 (Rnd.ofCode (m.extractLsb' 19 3))
  if m.extractLsb' 4 4 = 0 then
    return { ty, rnd, sat := m.getLsbD 18, c, nprod := m.getLsbD 9, nc := m.getLsbD 8, sub := m.extractLsb' 2 2 }
  else badField 6 4

def MF.toMod (x : MF) : BitVec 26 :=
  x.ty.code ++ x.rnd.code ++ BitVec.ofBool x.sat ++ x.c.creg ++ BitVec.ofBool x.nprod ++ BitVec.ofBool x.nc ++
    (0 : BitVec 4) ++ x.sub ++ x.c.ckind

/-- Layout MM (Table 9-5). -/
def MM.ofMod (m : BitVec 26) : Dec MM := do
  let ty ← modCode 22 (Ty.ofCode (m.extractLsb' 22 4))
  let scope ← modCode 19 (Scope.ofCode (m.extractLsb' 19 3))
  let ord ← modCode 16 (Order.ofCode (m.extractLsb' 16 3))
  return { ty, scope, ord, iscale := m.extractLsb' 14 2, hint := m.extractLsb' 12 2, aop := m.extractLsb' 8 4,
           ofs := m.extractLsb' 0 8 }

def MM.toMod (x : MM) : BitVec 26 :=
  x.ty.code ++ x.scope.code ++ x.ord.code ++ x.iscale ++ x.hint ++ x.aop ++ x.ofs

/-- Layout MX (Table 9-5). -/
def MX.ofMod (m : BitVec 26) : Dec MX := do
  let aty ← modCode 22 (Ty.ofCode (m.extractLsb' 22 4))
  let bty ← modCode 18 (Ty.ofCode (m.extractLsb' 18 4))
  if m.extractLsb' 4 4 = 0 then
    return { aty, bty, shape := m.extractLsb' 16 2, acc := m.getLsbD 15, nega := m.getLsbD 14,
             band := m.extractLsb' 8 6, sub := m.extractLsb' 0 4 }
  else badField 6 4

def MX.toMod (x : MX) : BitVec 26 :=
  x.aty.code ++ x.bty.code ++ x.shape ++ BitVec.ofBool x.acc ++ BitVec.ofBool x.nega ++ x.band ++ (0 : BitVec 4) ++ x.sub

/-- The fields of LOP3 (R246): CKIND 3 is refused. -/
def MLop.ofMod (m : BitVec 26) : Dec MLop := do
  let c ← match Src3.ofCode (m.extractLsb' 0 2) (m.extractLsb' 10 8) with
    | some (.pred _) => badField 4 3
    | some c => .ok c
    | none => badField 4 (ckindKind (m.extractLsb' 0 2))
  let ty ← modCode 22 (Ty.ofCode (m.extractLsb' 22 4))
  modZero m 0x3C3FFFF
  return { ty, c, truth := m.extractLsb' 2 8 }

def MLop.toMod (x : MLop) : BitVec 26 :=
  x.ty.code ++ (0 : BitVec 4) ++ x.c.creg ++ x.truth ++ x.c.ckind

/-- The fields of SMP and SLD (R290). -/
def MSmp.ofMod (m : BitVec 26) : Dec MSmp := do
  let ty ← modCode 22 (Ty.ofCode (m.extractLsb' 22 4))
  let scope ← modCode 19 (Scope.ofCode (m.extractLsb' 19 3))
  modZero m 0x3F8FF03
  return { ty, scope, ssi := m.extractLsb' 8 8, nch := m.extractLsb' 0 2 }

def MSmp.toMod (x : MSmp) : BitVec 26 :=
  x.ty.code ++ x.scope.code ++ (0 : BitVec 3) ++ x.ssi ++ (0 : BitVec 6) ++ x.nch

/-- The fields of the engines (R294), with CMD. -/
def MEng.ofMod (m : BitVec 26) : Dec MEng := do
  modZero m 0x3F63003
  return { bar := m.extractLsb' 20 6, ssp := m.getLsbD 18, dsp := m.getLsbD 17, hint := m.extractLsb' 12 2 }

def MEng.toMod (x : MEng) (cmd : BitVec 2) : BitVec 26 :=
  x.bar ++ (0 : BitVec 1) ++ BitVec.ofBool x.ssp ++ BitVec.ofBool x.dsp ++ (0 : BitVec 3) ++ x.hint ++ (0 : BitVec 10) ++ cmd

/-- The header bits, with the reserved bits and the guard checked (R198, R199). -/
def Raw.hdr (r : Raw) : Dec Hdr :=
  if r.rsv ≠ 0 then badField 0 0
  else if r.gp = 7 ∧ r.gn then badField 5 0
  else .ok { gp := r.gp, gn := r.gn, sw := r.sw, yld := r.yld, ru := r.ru }

/-- The layout MB fields (R211). -/
def Raw.mb (r : Raw) : MB := { tgt := r.mod, join := r.opd }

/-! One entry per instruction: which fields it uses and that the others are zero (Tables 9-7 and 9-8 and the
entries' own tables). -/

def decodeNop (r : Raw) : Dec Instr := do
  let h ← r.hdr
  unused 1 r.opd
  unused 2 r.opa
  unused 3 r.opb
  modZero r.mod 0x0
  return .nop h

def decodeBra (r : Raw) : Dec Instr := do
  let h ← r.hdr
  unused 2 r.opa
  unused 3 r.opb
  let m := r.mb
  if (r.gp = 7) ≠ (r.opd = 0) then badField 7 0 else
  return .bra h m

def decodeBrx (r : Raw) : Dec Instr := do
  let h ← r.hdr
  if r.gp ≠ 7 then badField 5 0 else
  let a ← opndAt 2 r.opa
  unused 3 r.opb
  let m := r.mb
  if r.mod ≠ 0 then badField 7 0 else
  return .brx h a m

def decodeCall (r : Raw) : Dec Instr := do
  let h ← r.hdr
  unused 2 r.opa
  let b ← opndAt 3 r.opb
  let m := r.mb
  if (r.gp = 7) ≠ (r.opd = 0) then badField 7 0 else
  return .call h b m

def decodeCallx (r : Raw) : Dec Instr := do
  let h ← r.hdr
  if r.gp ≠ 7 then badField 5 0 else
  let a ← opndAt 2 r.opa
  let b ← opndAt 3 r.opb
  let m := r.mb
  if r.mod ≠ 0 then badField 7 0 else
  if r.opd ≠ 0 then badField 7 0 else
  return .callx h a b m

def decodeRet (r : Raw) : Dec Instr := do
  let h ← r.hdr
  if r.gp ≠ 7 then badField 5 0 else
  unused 1 r.opd
  let a ← opndAt 2 r.opa
  unused 3 r.opb
  modZero r.mod 0x0
  return .ret h a

def decodeExitL (r : Raw) : Dec Instr := do
  let h ← r.hdr
  unused 1 r.opd
  unused 2 r.opa
  unused 3 r.opb
  modZero r.mod 0x0
  return .exitL h

def decodeBrq (r : Raw) : Dec Instr := do
  let h ← r.hdr
  let a ← opndAt 2 r.opa
  let b ← opndAt 3 r.opb
  let m := r.mb
  if r.opd = 0 then badField 7 0 else
  return .brq h a b m

def decodePushb (r : Raw) : Dec Instr := do
  let h ← r.hdr
  let d ← opndAt 1 r.opd
  let a ← opndAt 2 r.opa
  unused 3 r.opb
  modZero r.mod 0xF
  let tag := r.mod.extractLsb' 0 4
  return .pushb h d a tag

def decodeQpush (r : Raw) : Dec Instr := do
  let h ← r.hdr
  let d ← opndAt 1 r.opd
  let a ← opndAt 2 r.opa
  unused 3 r.opb
  modZero r.mod 0x0
  return .qpush h d a

def decodeQpop (r : Raw) : Dec Instr := do
  let h ← r.hdr
  let d ← opndAt 1 r.opd
  let a ← opndAt 2 r.opa
  unused 3 r.opb
  modZero r.mod 0x1
  let disc := r.mod.getLsbD 0
  return .qpop h d a disc

def decodeQsync (r : Raw) : Dec Instr := do
  let h ← r.hdr
  unused 1 r.opd
  unused 2 r.opa
  unused 3 r.opb
  modZero r.mod 0xFF
  let qmask := r.mod.extractLsb' 0 8
  return .qsync h qmask

def decodeSlip (r : Raw) : Dec Instr := do
  let h ← r.hdr
  unused 1 r.opd
  let a ← opndAt 2 r.opa
  unused 3 r.opb
  modZero r.mod 0x0
  return .slip h a

def decodeWaitc (r : Raw) : Dec Instr := do
  let h ← r.hdr
  unused 1 r.opd
  let a ← opndAt 2 r.opa
  unused 3 r.opb
  modZero r.mod 0x3
  let path := r.mod.extractLsb' 0 2
  return .waitc h a path

def decodeWaitall (r : Raw) : Dec Instr := do
  let h ← r.hdr
  unused 1 r.opd
  unused 2 r.opa
  unused 3 r.opb
  modZero r.mod 0x1
  let mem := r.mod.getLsbD 0
  return .waitall h mem

def decodeTrap (r : Raw) : Dec Instr := do
  let h ← r.hdr
  unused 1 r.opd
  unused 2 r.opa
  unused 3 r.opb
  modZero r.mod 0xFFF
  let code := r.mod.extractLsb' 0 12
  return .trap h code

def decodeBkpt (r : Raw) : Dec Instr := do
  let h ← r.hdr
  unused 1 r.opd
  unused 2 r.opa
  unused 3 r.opb
  modZero r.mod 0xFFF
  let code := r.mod.extractLsb' 0 12
  return .bkpt h code

def decodeRacq (r : Raw) : Dec Instr := do
  let h ← r.hdr
  let d ← opndAt 1 r.opd
  let a ← opndAt 2 r.opa
  unused 3 r.opb
  modZero r.mod 0x1
  let tryIt := r.mod.getLsbD 0
  return .racq h d a tryIt

def decodeRrel (r : Raw) : Dec Instr := do
  let h ← r.hdr
  unused 1 r.opd
  let a ← opndAt 2 r.opa
  unused 3 r.opb
  modZero r.mod 0x0
  return .rrel h a

def decodeIadd (r : Raw) : Dec Instr := do
  let h ← r.hdr
  let d ← opndAt 1 r.opd
  let a ← opndAt 2 r.opa
  let (b, m) ← maOperand .b32 r
  return .iadd h d a b m

def decodeIsub (r : Raw) : Dec Instr := do
  let h ← r.hdr
  let d ← opndAt 1 r.opd
  let a ← opndAt 2 r.opa
  let (b, m) ← maOperand .b32 r
  return .isub h d a b m

def decodeImul (r : Raw) : Dec Instr := do
  let h ← r.hdr
  let d ← opndAt 1 r.opd
  let a ← opndAt 2 r.opa
  let (b, m) ← maOperand .b32 r
  return .imul h d a b m

def decodeImulh (r : Raw) : Dec Instr := do
  let h ← r.hdr
  let d ← opndAt 1 r.opd
  let a ← opndAt 2 r.opa
  let (b, m) ← maOperand .b32 r
  return .imulh h d a b m

def decodeImad (r : Raw) : Dec Instr := do
  let h ← r.hdr
  let d ← opndAt 1 r.opd
  let a ← opndAt 2 r.opa
  let b ← opndAt 3 r.opb
  let m ← MF.ofMod r.mod
  return .imad h d a b m

def decodeImin (r : Raw) : Dec Instr := do
  let h ← r.hdr
  let d ← opndAt 1 r.opd
  let a ← opndAt 2 r.opa
  let (b, m) ← maOperand .b32 r
  return .imin h d a b m

def decodeImax (r : Raw) : Dec Instr := do
  let h ← r.hdr
  let d ← opndAt 1 r.opd
  let a ← opndAt 2 r.opa
  let (b, m) ← maOperand .b32 r
  return .imax h d a b m

def decodeIabs (r : Raw) : Dec Instr := do
  let h ← r.hdr
  let d ← opndAt 1 r.opd
  unused 2 r.opa
  let (b, m) ← maOperand .b32 r
  return .iabs h d b m

def decodeIneg (r : Raw) : Dec Instr := do
  let h ← r.hdr
  let d ← opndAt 1 r.opd
  unused 2 r.opa
  let (b, m) ← maOperand .b32 r
  return .ineg h d b m

def decodeAndB (r : Raw) : Dec Instr := do
  let h ← r.hdr
  let d ← opndAt 1 r.opd
  let a ← opndAt 2 r.opa
  let (b, m) ← maOperand .b32 r
  return .andB h d a b m

def decodeOrB (r : Raw) : Dec Instr := do
  let h ← r.hdr
  let d ← opndAt 1 r.opd
  let a ← opndAt 2 r.opa
  let (b, m) ← maOperand .b32 r
  return .orB h d a b m

def decodeXorB (r : Raw) : Dec Instr := do
  let h ← r.hdr
  let d ← opndAt 1 r.opd
  let a ← opndAt 2 r.opa
  let (b, m) ← maOperand .b32 r
  return .xorB h d a b m

def decodeNotB (r : Raw) : Dec Instr := do
  let h ← r.hdr
  let d ← opndAt 1 r.opd
  unused 2 r.opa
  let (b, m) ← maOperand .b32 r
  return .notB h d b m

def decodeLop3 (r : Raw) : Dec Instr := do
  let h ← r.hdr
  let d ← opndAt 1 r.opd
  let a ← opndAt 2 r.opa
  let b ← opndAt 3 r.opb
  let lop ← MLop.ofMod r.mod
  return .lop3 h d a b lop

def decodeShl (r : Raw) : Dec Instr := do
  let h ← r.hdr
  let d ← opndAt 1 r.opd
  let a ← opndAt 2 r.opa
  let (b, m) ← maOperand .b32 r
  return .shl h d a b m

def decodeShr (r : Raw) : Dec Instr := do
  let h ← r.hdr
  let d ← opndAt 1 r.opd
  let a ← opndAt 2 r.opa
  let (b, m) ← maOperand .b32 r
  return .shr h d a b m

def decodeSar (r : Raw) : Dec Instr := do
  let h ← r.hdr
  let d ← opndAt 1 r.opd
  let a ← opndAt 2 r.opa
  let (b, m) ← maOperand .b32 r
  return .sar h d a b m

def decodeRot (r : Raw) : Dec Instr := do
  let h ← r.hdr
  let d ← opndAt 1 r.opd
  let a ← opndAt 2 r.opa
  let (b, m) ← maOperand .b32 r
  return .rot h d a b m

def decodeBfe (r : Raw) : Dec Instr := do
  let h ← r.hdr
  let d ← opndAt 1 r.opd
  let a ← opndAt 2 r.opa
  let (b, m) ← maOperand .b32 r
  return .bfe h d a b m

def decodeBfi (r : Raw) : Dec Instr := do
  let h ← r.hdr
  let d ← opndAt 1 r.opd
  let a ← opndAt 2 r.opa
  let b ← opndAt 3 r.opb
  let m ← MF.ofMod r.mod
  return .bfi h d a b m

def decodePopc (r : Raw) : Dec Instr := do
  let h ← r.hdr
  let d ← opndAt 1 r.opd
  unused 2 r.opa
  let (b, m) ← maOperand .b32 r
  return .popc h d b m

def decodeClz (r : Raw) : Dec Instr := do
  let h ← r.hdr
  let d ← opndAt 1 r.opd
  unused 2 r.opa
  let (b, m) ← maOperand .b32 r
  return .clz h d b m

def decodeBrev (r : Raw) : Dec Instr := do
  let h ← r.hdr
  let d ← opndAt 1 r.opd
  unused 2 r.opa
  let (b, m) ← maOperand .b32 r
  return .brev h d b m

def decodeIsetp (r : Raw) : Dec Instr := do
  let h ← r.hdr
  let d ← opndAt 1 r.opd
  let a ← opndAt 2 r.opa
  let (b, m) ← maOperand .b32 r
  return .isetp h d a b m

def decodeSel (r : Raw) : Dec Instr := do
  let h ← r.hdr
  let d ← opndAt 1 r.opd
  let a ← opndAt 2 r.opa
  let b ← opndAt 3 r.opb
  let m ← MF.ofMod r.mod
  return .sel h d a b m

def decodeMov (r : Raw) : Dec Instr := do
  let h ← r.hdr
  let d ← opndAt 1 r.opd
  unused 2 r.opa
  let (b, m) ← maOperand .b32 r
  return .mov h d b m

def decodeMovi (r : Raw) : Dec Instr := do
  let h ← r.hdr
  let d ← opndAt 1 r.opd
  unused 2 r.opa
  if kindOf r.opb ≠ 7 then badField 3 (kindOf r.opb).toNat else
  if r.mod.extractLsb' 0 7 ≠ 0 then badField 6 (if r.mod.extractLsb' 0 4 = 0 then 4 else 0) else
  let imm : W32 := r.opb.extractLsb' 0 13 ++ r.mod.extractLsb' 7 19
  return .movi h d imm

def decodeLea (r : Raw) : Dec Instr := do
  let h ← r.hdr
  let d ← opndAt 1 r.opd
  let a ← opndAt 2 r.opa
  let (b, m) ← maOperand .b32 r
  return .lea h d a b m

def decodeAadd (r : Raw) : Dec Instr := do
  let h ← r.hdr
  let d ← opndAt 1 r.opd
  let a ← opndAt 2 r.opa
  let (b, m) ← maOperand .b32 r
  return .aadd h d a b m

def decodePlop (r : Raw) : Dec Instr := do
  let h ← r.hdr
  let d ← opndAt 1 r.opd
  let a ← opndAt 2 r.opa
  let (b, m) ← maOperand .b32 r
  return .plop h d a b m

def decodePmov (r : Raw) : Dec Instr := do
  let h ← r.hdr
  let d ← opndAt 1 r.opd
  unused 2 r.opa
  let (b, m) ← maOperand .b32 r
  return .pmov h d b m

def decodeFadd (r : Raw) : Dec Instr := do
  let h ← r.hdr
  let d ← opndAt 1 r.opd
  let a ← opndAt 2 r.opa
  let (b, m) ← maOperand .f32 r
  return .fadd h d a b m

def decodeFsub (r : Raw) : Dec Instr := do
  let h ← r.hdr
  let d ← opndAt 1 r.opd
  let a ← opndAt 2 r.opa
  let (b, m) ← maOperand .f32 r
  return .fsub h d a b m

def decodeFmul (r : Raw) : Dec Instr := do
  let h ← r.hdr
  let d ← opndAt 1 r.opd
  let a ← opndAt 2 r.opa
  let (b, m) ← maOperand .f32 r
  return .fmul h d a b m

def decodeFfma (r : Raw) : Dec Instr := do
  let h ← r.hdr
  let d ← opndAt 1 r.opd
  let a ← opndAt 2 r.opa
  let b ← opndAt 3 r.opb
  let m ← MF.ofMod r.mod
  return .ffma h d a b m

def decodeFmin (r : Raw) : Dec Instr := do
  let h ← r.hdr
  let d ← opndAt 1 r.opd
  let a ← opndAt 2 r.opa
  let (b, m) ← maOperand .f32 r
  return .fmin h d a b m

def decodeFmax (r : Raw) : Dec Instr := do
  let h ← r.hdr
  let d ← opndAt 1 r.opd
  let a ← opndAt 2 r.opa
  let (b, m) ← maOperand .f32 r
  return .fmax h d a b m

def decodeFsetp (r : Raw) : Dec Instr := do
  let h ← r.hdr
  let d ← opndAt 1 r.opd
  let a ← opndAt 2 r.opa
  let (b, m) ← maOperand .f32 r
  return .fsetp h d a b m

def decodeFclass (r : Raw) : Dec Instr := do
  let h ← r.hdr
  let d ← opndAt 1 r.opd
  unused 2 r.opa
  let (b, m) ← maOperand .f32 r
  return .fclass h d b m

def decodeFrnd (r : Raw) : Dec Instr := do
  let h ← r.hdr
  let d ← opndAt 1 r.opd
  unused 2 r.opa
  let (b, m) ← maOperand .f32 r
  return .frnd h d b m

def decodeFfrc (r : Raw) : Dec Instr := do
  let h ← r.hdr
  let d ← opndAt 1 r.opd
  unused 2 r.opa
  let (b, m) ← maOperand .f32 r
  return .ffrc h d b m

def decodeFdiv (r : Raw) : Dec Instr := do
  let h ← r.hdr
  let d ← opndAt 1 r.opd
  let a ← opndAt 2 r.opa
  let (b, m) ← maOperand .f32 r
  return .fdiv h d a b m

def decodeFsqrt (r : Raw) : Dec Instr := do
  let h ← r.hdr
  let d ← opndAt 1 r.opd
  unused 2 r.opa
  let (b, m) ← maOperand .f32 r
  return .fsqrt h d b m

def decodeFrcp (r : Raw) : Dec Instr := do
  let h ← r.hdr
  let d ← opndAt 1 r.opd
  unused 2 r.opa
  let (b, m) ← maOperand .f32 r
  return .frcp h d b m

def decodeFrsq (r : Raw) : Dec Instr := do
  let h ← r.hdr
  let d ← opndAt 1 r.opd
  unused 2 r.opa
  let (b, m) ← maOperand .f32 r
  return .frsq h d b m

def decodeFex2 (r : Raw) : Dec Instr := do
  let h ← r.hdr
  let d ← opndAt 1 r.opd
  unused 2 r.opa
  let (b, m) ← maOperand .f32 r
  return .fex2 h d b m

def decodeFlg2 (r : Raw) : Dec Instr := do
  let h ← r.hdr
  let d ← opndAt 1 r.opd
  unused 2 r.opa
  let (b, m) ← maOperand .f32 r
  return .flg2 h d b m

def decodeFsin (r : Raw) : Dec Instr := do
  let h ← r.hdr
  let d ← opndAt 1 r.opd
  unused 2 r.opa
  let (b, m) ← maOperand .f32 r
  return .fsin h d b m

def decodeFcos (r : Raw) : Dec Instr := do
  let h ← r.hdr
  let d ← opndAt 1 r.opd
  unused 2 r.opa
  let (b, m) ← maOperand .f32 r
  return .fcos h d b m

def decodeFtanh (r : Raw) : Dec Instr := do
  let h ← r.hdr
  let d ← opndAt 1 r.opd
  unused 2 r.opa
  let (b, m) ← maOperand .f32 r
  return .ftanh h d b m

def decodeHadd2 (r : Raw) : Dec Instr := do
  let h ← r.hdr
  let d ← opndAt 1 r.opd
  let a ← opndAt 2 r.opa
  let (b, m) ← maOperand .f32 r
  return .hadd2 h d a b m

def decodeHmul2 (r : Raw) : Dec Instr := do
  let h ← r.hdr
  let d ← opndAt 1 r.opd
  let a ← opndAt 2 r.opa
  let (b, m) ← maOperand .f32 r
  return .hmul2 h d a b m

def decodeHfma2 (r : Raw) : Dec Instr := do
  let h ← r.hdr
  let d ← opndAt 1 r.opd
  let a ← opndAt 2 r.opa
  let b ← opndAt 3 r.opb
  let m ← MF.ofMod r.mod
  return .hfma2 h d a b m

def decodeHmin2 (r : Raw) : Dec Instr := do
  let h ← r.hdr
  let d ← opndAt 1 r.opd
  let a ← opndAt 2 r.opa
  let (b, m) ← maOperand .f32 r
  return .hmin2 h d a b m

def decodeHmax2 (r : Raw) : Dec Instr := do
  let h ← r.hdr
  let d ← opndAt 1 r.opd
  let a ← opndAt 2 r.opa
  let (b, m) ← maOperand .f32 r
  return .hmax2 h d a b m

def decodeFdot2 (r : Raw) : Dec Instr := do
  let h ← r.hdr
  let d ← opndAt 1 r.opd
  let a ← opndAt 2 r.opa
  let b ← opndAt 3 r.opb
  let m ← MF.ofMod r.mod
  return .fdot2 h d a b m

def decodeIdot4 (r : Raw) : Dec Instr := do
  let h ← r.hdr
  let d ← opndAt 1 r.opd
  let a ← opndAt 2 r.opa
  let b ← opndAt 3 r.opb
  let m ← MF.ofMod r.mod
  return .idot4 h d a b m

def decodeCvt (r : Raw) : Dec Instr := do
  let h ← r.hdr
  let d ← opndAt 1 r.opd
  unused 2 r.opa
  let (b, m) ← maOperand .b32 r
  return .cvt h d b m

def decodePack (r : Raw) : Dec Instr := do
  let h ← r.hdr
  let d ← opndAt 1 r.opd
  let a ← opndAt 2 r.opa
  let (b, m) ← maOperand .b32 r
  return .pack h d a b m

def decodePrmt (r : Raw) : Dec Instr := do
  let h ← r.hdr
  let d ← opndAt 1 r.opd
  let a ← opndAt 2 r.opa
  let b ← opndAt 3 r.opb
  let m ← MF.ofMod r.mod
  return .prmt h d a b m

def decodeVote (r : Raw) : Dec Instr := do
  let h ← r.hdr
  let d ← opndAt 1 r.opd
  unused 2 r.opa
  let (b, m) ← maOperand .b32 r
  return .vote h d b m

def decodeRedx (r : Raw) : Dec Instr := do
  let h ← r.hdr
  let d ← opndAt 1 r.opd
  unused 2 r.opa
  let (b, m) ← maOperand .b32 r
  return .redx h d b m

def decodeScan (r : Raw) : Dec Instr := do
  let h ← r.hdr
  let d ← opndAt 1 r.opd
  unused 2 r.opa
  let (b, m) ← maOperand .b32 r
  return .scan h d b m

def decodeElect (r : Raw) : Dec Instr := do
  let h ← r.hdr
  let d ← opndAt 1 r.opd
  unused 2 r.opa
  unused 3 r.opb
  maUnused r.mod
  return .elect h d

def decodeMatchL (r : Raw) : Dec Instr := do
  let h ← r.hdr
  let d ← opndAt 1 r.opd
  unused 2 r.opa
  let (b, m) ← maOperand .b32 r
  return .matchL h d b m

def decodeLdq (r : Raw) : Dec Instr := do
  let h ← r.hdr
  let d ← opndAt 1 r.opd
  let a ← opndAt 2 r.opa
  let b ← opndAt 3 r.opb
  let m ← MM.ofMod r.mod
  return .ldq h d a b m

def decodeLdr (r : Raw) : Dec Instr := do
  let h ← r.hdr
  let d ← opndAt 1 r.opd
  let a ← opndAt 2 r.opa
  let b ← opndAt 3 r.opb
  let m ← MM.ofMod r.mod
  return .ldr h d a b m

def decodeSt (r : Raw) : Dec Instr := do
  let h ← r.hdr
  let d ← opndAt 1 r.opd
  let a ← opndAt 2 r.opa
  let b ← opndAt 3 r.opb
  let m ← MM.ofMod r.mod
  return .st h d a b m

def decodeLdk (r : Raw) : Dec Instr := do
  let h ← r.hdr
  let d ← opndAt 1 r.opd
  let a ← opndAt 2 r.opa
  let b ← opndAt 3 r.opb
  let m ← MM.ofMod r.mod
  return .ldk h d a b m

def decodeLdt (r : Raw) : Dec Instr := do
  let h ← r.hdr
  let d ← opndAt 1 r.opd
  let a ← opndAt 2 r.opa
  let b ← opndAt 3 r.opb
  let m ← MM.ofMod r.mod
  return .ldt h d a b m

def decodeStt (r : Raw) : Dec Instr := do
  let h ← r.hdr
  let d ← opndAt 1 r.opd
  let a ← opndAt 2 r.opa
  let b ← opndAt 3 r.opb
  let m ← MM.ofMod r.mod
  return .stt h d a b m

def decodeLdsp (r : Raw) : Dec Instr := do
  let h ← r.hdr
  let d ← opndAt 1 r.opd
  let a ← opndAt 2 r.opa
  let b ← opndAt 3 r.opb
  let m ← MM.ofMod r.mod
  return .ldsp h d a b m

def decodeStsp (r : Raw) : Dec Instr := do
  let h ← r.hdr
  let d ← opndAt 1 r.opd
  let a ← opndAt 2 r.opa
  let b ← opndAt 3 r.opb
  let m ← MM.ofMod r.mod
  return .stsp h d a b m

def decodeAtom (r : Raw) : Dec Instr := do
  let h ← r.hdr
  let d ← opndAt 1 r.opd
  let a ← opndAt 2 r.opa
  let b ← opndAt 3 r.opb
  let m ← MM.ofMod r.mod
  return .atom h d a b m

def decodeRed (r : Raw) : Dec Instr := do
  let h ← r.hdr
  unused 1 r.opd
  let a ← opndAt 2 r.opa
  let b ← opndAt 3 r.opb
  let m ← MM.ofMod r.mod
  return .red h a b m

def decodeAtsp (r : Raw) : Dec Instr := do
  let h ← r.hdr
  let d ← opndAt 1 r.opd
  let a ← opndAt 2 r.opa
  let b ← opndAt 3 r.opb
  let m ← MM.ofMod r.mod
  return .atsp h d a b m

def decodePfx (r : Raw) : Dec Instr := do
  let h ← r.hdr
  unused 1 r.opd
  let a ← opndAt 2 r.opa
  let b ← opndAt 3 r.opb
  let m ← MM.ofMod r.mod
  return .pfx h a b m

def decodeFence (r : Raw) : Dec Instr := do
  let h ← r.hdr
  unused 1 r.opd
  unused 2 r.opa
  unused 3 r.opb
  let m ← MM.ofMod r.mod
  return .fence h m

def decodePfence (r : Raw) : Dec Instr := do
  let h ← r.hdr
  unused 1 r.opd
  unused 2 r.opa
  unused 3 r.opb
  modZero r.mod 0x3800FF
  let scope ← modCode 19 (Scope.ofCode (r.mod.extractLsb' 19 3))
  let src := r.mod.extractLsb' 4 4
  let dst := r.mod.extractLsb' 0 4
  return .pfence h scope src dst

def decodeSmp (r : Raw) : Dec Instr := do
  let h ← r.hdr
  let d ← opndAt 1 r.opd
  let a ← opndAt 2 r.opa
  let b ← opndAt 3 r.opb
  let smp ← MSmp.ofMod r.mod
  return .smp h d a b smp

def decodeSld (r : Raw) : Dec Instr := do
  let h ← r.hdr
  let d ← opndAt 1 r.opd
  let a ← opndAt 2 r.opa
  let b ← opndAt 3 r.opb
  let sld ← MSmp.ofMod r.mod
  return .sld h d a b sld

def decodeXformZero (r : Raw) : Dec Instr := do
  let h ← r.hdr
  unused 1 r.opd
  let a ← opndAt 2 r.opa
  unused 3 r.opb
  let eng ← MEng.ofMod r.mod
  return .xformZero h a eng

def decodeXformFill (r : Raw) : Dec Instr := do
  let h ← r.hdr
  unused 1 r.opd
  let a ← opndAt 2 r.opa
  unused 3 r.opb
  let eng ← MEng.ofMod r.mod
  return .xformFill h a eng

def decodeXformTranspose (r : Raw) : Dec Instr := do
  let h ← r.hdr
  unused 1 r.opd
  let a ← opndAt 2 r.opa
  unused 3 r.opb
  let eng ← MEng.ofMod r.mod
  return .xformTranspose h a eng

def decodeSynct (r : Raw) : Dec Instr := do
  let h ← r.hdr
  unused 1 r.opd
  unused 2 r.opa
  unused 3 r.opb
  modZero r.mod 0x0
  return .synct h

def decodeMbinit (r : Raw) : Dec Instr := do
  let h ← r.hdr
  unused 1 r.opd
  let a ← opndAt 2 r.opa
  let b ← opndAt 3 r.opb
  modZero r.mod 0x0
  return .mbinit h a b

def decodeMbarv (r : Raw) : Dec Instr := do
  let h ← r.hdr
  let d ← opndAt 1 r.opd
  let a ← opndAt 2 r.opa
  let b ← opndAt 3 r.opb
  modZero r.mod 0x1
  let rlx := r.mod.getLsbD 0
  return .mbarv h d a b rlx

def decodeMbexp (r : Raw) : Dec Instr := do
  let h ← r.hdr
  let d ← opndAt 1 r.opd
  let a ← opndAt 2 r.opa
  let b ← opndAt 3 r.opb
  modZero r.mod 0x3
  let rlx := r.mod.getLsbD 0
  let arv := r.mod.getLsbD 1
  return .mbexp h d a b rlx arv

def decodeMbwait (r : Raw) : Dec Instr := do
  let h ← r.hdr
  unused 1 r.opd
  let a ← opndAt 2 r.opa
  let b ← opndAt 3 r.opb
  modZero r.mod 0x0
  return .mbwait h a b

def decodeMbtest (r : Raw) : Dec Instr := do
  let h ← r.hdr
  let d ← opndAt 1 r.opd
  let a ← opndAt 2 r.opa
  let b ← opndAt 3 r.opb
  modZero r.mod 0x0
  return .mbtest h d a b

def decodeBcopy (r : Raw) : Dec Instr := do
  let h ← r.hdr
  unused 1 r.opd
  let a ← opndAt 2 r.opa
  unused 3 r.opb
  let eng ← MEng.ofMod r.mod
  if r.mod.extractLsb' 0 2 ≠ 0 then badField 6 0 else
  return .bcopy h a eng

def decodeBcopy2 (r : Raw) : Dec Instr := do
  let h ← r.hdr
  unused 1 r.opd
  let a ← opndAt 2 r.opa
  unused 3 r.opb
  let eng ← MEng.ofMod r.mod
  if r.mod.extractLsb' 0 2 ≠ 0 then badField 6 0 else
  return .bcopy2 h a eng

def decodeBgath (r : Raw) : Dec Instr := do
  let h ← r.hdr
  unused 1 r.opd
  let a ← opndAt 2 r.opa
  let b ← opndAt 3 r.opb
  let eng ← MEng.ofMod r.mod
  if r.mod.extractLsb' 0 2 ≠ 0 then badField 6 0 else
  return .bgath h a b eng

def decodeWlpush (r : Raw) : Dec Instr := do
  let h ← r.hdr
  let d ← opndAt 1 r.opd
  let a ← opndAt 2 r.opa
  let b ← opndAt 3 r.opb
  modZero r.mod 0x0
  return .wlpush h d a b

def decodeWlpop (r : Raw) : Dec Instr := do
  let h ← r.hdr
  let d ← opndAt 1 r.opd
  let a ← opndAt 2 r.opa
  let b ← opndAt 3 r.opb
  modZero r.mod 0x0
  return .wlpop h d a b

def decodeWlquiet (r : Raw) : Dec Instr := do
  let h ← r.hdr
  let d ← opndAt 1 r.opd
  let a ← opndAt 2 r.opa
  let b ← opndAt 3 r.opb
  modZero r.mod 0x0
  return .wlquiet h d a b

def decodeFilldone (r : Raw) : Dec Instr := do
  let h ← r.hdr
  let d ← opndAt 1 r.opd
  unused 2 r.opa
  unused 3 r.opb
  modZero r.mod 0x0
  return .filldone h d

def decodeFillfail (r : Raw) : Dec Instr := do
  let h ← r.hdr
  let d ← opndAt 1 r.opd
  let a ← opndAt 2 r.opa
  unused 3 r.opb
  modZero r.mod 0x0
  return .fillfail h d a

def decodePrevict (r : Raw) : Dec Instr := do
  let h ← r.hdr
  let d ← opndAt 1 r.opd
  let a ← opndAt 2 r.opa
  unused 3 r.opb
  modZero r.mod 0x0
  return .previct h d a

def decodeFillq (r : Raw) : Dec Instr := do
  let h ← r.hdr
  let d ← opndAt 1 r.opd
  let a ← opndAt 2 r.opa
  unused 3 r.opb
  modZero r.mod 0x0
  return .fillq h d a

def decodeCstep (r : Raw) : Dec Instr := do
  let h ← r.hdr
  unused 1 r.opd
  let a ← opndAt 2 r.opa
  let b ← opndAt 3 r.opb
  modZero r.mod 0x3F00000
  let bar := r.mod.extractLsb' 20 6
  return .cstep h a b bar

def decodeCabort (r : Raw) : Dec Instr := do
  let h ← r.hdr
  unused 1 r.opd
  let a ← opndAt 2 r.opa
  unused 3 r.opb
  modZero r.mod 0x0
  return .cabort h a

def decodeMma (r : Raw) : Dec Instr := do
  let h ← r.hdr
  let d ← opndAt 1 r.opd
  let a ← opndAt 2 r.opa
  let b ← opndAt 3 r.opb
  let m ← MX.ofMod r.mod
  return .mma h d a b m

def decodeMmd (r : Raw) : Dec Instr := do
  let h ← r.hdr
  let d ← opndAt 1 r.opd
  let a ← opndAt 2 r.opa
  let b ← opndAt 3 r.opb
  let m ← MX.ofMod r.mod
  return .mmd h d a b m

def decodeHad (r : Raw) : Dec Instr := do
  let h ← r.hdr
  let d ← opndAt 1 r.opd
  let a ← opndAt 2 r.opa
  unused 3 r.opb
  modZero r.mod 0x7F
  let hadn := r.mod.extractLsb' 0 2
  let hadk := r.mod.extractLsb' 2 5
  return .had h d a hadn hadk

def decodeQnt (r : Raw) : Dec Instr := do
  let h ← r.hdr
  let d ← opndAt 1 r.opd
  let a ← opndAt 2 r.opa
  let b ← opndAt 3 r.opb
  modZero r.mod 0x0
  return .qnt h d a b

def decodeCbld (r : Raw) : Dec Instr := do
  let h ← r.hdr
  unused 1 r.opd
  let a ← opndAt 2 r.opa
  unused 3 r.opb
  modZero r.mod 0x0
  return .cbld h a

def decodeSpl (r : Raw) : Dec Instr := do
  let h ← r.hdr
  let d ← opndAt 1 r.opd
  let a ← opndAt 2 r.opa
  unused 3 r.opb
  modZero r.mod 0x0
  return .spl h d a

def decodeGpl (r : Raw) : Dec Instr := do
  let h ← r.hdr
  let d ← opndAt 1 r.opd
  unused 2 r.opa
  unused 3 r.opb
  modZero r.mod 0x1
  let wait := r.mod.getLsbD 0
  return .gpl h d wait

def decodeGrant (r : Raw) : Dec Instr := do
  let h ← r.hdr
  let d ← opndAt 1 r.opd
  let a ← opndAt 2 r.opa
  unused 3 r.opb
  modZero r.mod 0x0
  return .grant h d a

def decodeRevoke (r : Raw) : Dec Instr := do
  let h ← r.hdr
  let d ← opndAt 1 r.opd
  let a ← opndAt 2 r.opa
  unused 3 r.opb
  modZero r.mod 0x0
  return .revoke h d a

def decodePassq (r : Raw) : Dec Instr := do
  let h ← r.hdr
  let d ← opndAt 1 r.opd
  let a ← opndAt 2 r.opa
  unused 3 r.opb
  modZero r.mod 0x0
  return .passq h d a

def decodeEmitv (r : Raw) : Dec Instr := do
  let h ← r.hdr
  unused 1 r.opd
  let a ← opndAt 2 r.opa
  let b ← opndAt 3 r.opb
  modZero r.mod 0x3F
  let cnt := r.mod.extractLsb' 4 2
  let word := r.mod.extractLsb' 0 4
  return .emitv h a b cnt word

def decodeEmitp (r : Raw) : Dec Instr := do
  let h ← r.hdr
  unused 1 r.opd
  let a ← opndAt 2 r.opa
  let b ← opndAt 3 r.opb
  modZero r.mod 0x0
  return .emitp h a b

def decodeMeshend (r : Raw) : Dec Instr := do
  let h ← r.hdr
  unused 1 r.opd
  let a ← opndAt 2 r.opa
  let b ← opndAt 3 r.opb
  modZero r.mod 0x0
  return .meshend h a b

def decodeTld (r : Raw) : Dec Instr := do
  let h ← r.hdr
  let d ← opndAt 1 r.opd
  let a ← opndAt 2 r.opa
  unused 3 r.opb
  modZero r.mod 0x3C00F00
  let ty ← modCode 22 (Ty.ofCode (r.mod.extractLsb' 22 4))
  let nvec := r.mod.extractLsb' 8 4
  return .tld h d a ty nvec

def decodeTsto (r : Raw) : Dec Instr := do
  let h ← r.hdr
  let d ← opndAt 1 r.opd
  let a ← opndAt 2 r.opa
  unused 3 r.opb
  modZero r.mod 0x3C00F00
  let ty ← modCode 22 (Ty.ofCode (r.mod.extractLsb' 22 4))
  let nvec := r.mod.extractLsb' 8 4
  return .tsto h d a ty nvec

def decodeDisc (r : Raw) : Dec Instr := do
  let h ← r.hdr
  unused 1 r.opd
  unused 2 r.opa
  unused 3 r.opb
  modZero r.mod 0x0
  return .disc h

def decodeOwnq (r : Raw) : Dec Instr := do
  let h ← r.hdr
  let d ← opndAt 1 r.opd
  let a ← opndAt 2 r.opa
  let b ← opndAt 3 r.opb
  modZero r.mod 0x0
  return .ownq h d a b

def decodeLaunch (r : Raw) : Dec Instr := do
  let h ← r.hdr
  let d ← opndAt 1 r.opd
  let a ← opndAt 2 r.opa
  unused 3 r.opb
  modZero r.mod 0x0
  return .launch h d a

def decodeGets (r : Raw) : Dec Instr := do
  let h ← r.hdr
  let d ← opndAt 1 r.opd
  unused 2 r.opa
  unused 3 r.opb
  modZero r.mod 0x3FF
  let idx := r.mod.extractLsb' 0 9
  let w64 := r.mod.getLsbD 9
  return .gets h d idx w64

def decodeSets (r : Raw) : Dec Instr := do
  let h ← r.hdr
  unused 1 r.opd
  let a ← opndAt 2 r.opa
  unused 3 r.opb
  modZero r.mod 0x3FF
  let idx := r.mod.extractLsb' 0 9
  let w64 := r.mod.getLsbD 9
  return .sets h a idx w64

def decodeTret (r : Raw) : Dec Instr := do
  let h ← r.hdr
  if r.gp ≠ 7 then badField 5 0 else
  unused 1 r.opd
  unused 2 r.opa
  unused 3 r.opb
  modZero r.mod 0x0
  return .tret h

def decodePreempt (r : Raw) : Dec Instr := do
  let h ← r.hdr
  let d ← opndAt 1 r.opd
  let a ← opndAt 2 r.opa
  let b ← opndAt 3 r.opb
  modZero r.mod 0x0
  return .preempt h d a b

def decodePreemptRel (r : Raw) : Dec Instr := do
  let h ← r.hdr
  let d ← opndAt 1 r.opd
  let a ← opndAt 2 r.opa
  unused 3 r.opb
  modZero r.mod 0x1
  return .preemptRel h d a

def decodeCsave (r : Raw) : Dec Instr := do
  let h ← r.hdr
  let d ← opndAt 1 r.opd
  let a ← opndAt 2 r.opa
  unused 3 r.opb
  modZero r.mod 0x0
  return .csave h d a

def decodeCrest (r : Raw) : Dec Instr := do
  let h ← r.hdr
  let d ← opndAt 1 r.opd
  let a ← opndAt 2 r.opa
  unused 3 r.opb
  modZero r.mod 0x0
  return .crest h d a

def decodeIainv (r : Raw) : Dec Instr := do
  let h ← r.hdr
  unused 1 r.opd
  let a ← opndAt 2 r.opa
  let b ← opndAt 3 r.opb
  if r.mod.getLsbD 1 then badField 6 0 else
  modZero r.mod 0x0
  return .iainv h a b

def decodeIainvAll (r : Raw) : Dec Instr := do
  let h ← r.hdr
  unused 1 r.opd
  let a ← opndAt 2 r.opa
  if r.opb ≠ 0xA000 then badField 3 (kindOf r.opb).toNat else
  if r.mod.getLsbD 1 then badField 6 0 else
  modZero r.mod 0x1
  return .iainvAll h a

def decodePresent (r : Raw) : Dec Instr := do
  let h ← r.hdr
  let d ← opndAt 1 r.opd
  let a ← opndAt 2 r.opa
  let b ← opndAt 3 r.opb
  modZero r.mod 0x0
  return .present h d a b

/-- Opcode group 0 (Table 9-7). -/
def decodeGroup0 (n : Nat) (r : Raw) : Option (Dec Instr) :=
  match n with
  | 0x00 => some (decodeNop r)
  | 0x01 => some (decodeBra r)
  | 0x02 => some (decodeBrx r)
  | 0x03 => some (decodeCall r)
  | 0x04 => some (decodeCallx r)
  | 0x05 => some (decodeRet r)
  | 0x06 => some (decodeExitL r)
  | 0x07 => some (decodeBrq r)
  | 0x08 => some (decodePushb r)
  | 0x09 => some (decodeQpush r)
  | 0x0A => some (decodeQpop r)
  | 0x0B => some (decodeQsync r)
  | 0x0C => some (decodeSlip r)
  | 0x0D => some (decodeWaitc r)
  | 0x0E => some (decodeWaitall r)
  | 0x0F => some (decodeTrap r)
  | 0x10 => some (decodeBkpt r)
  | 0x11 => some (decodeRacq r)
  | 0x12 => some (decodeRrel r)
  | _ => none

/-- Opcode group 1 (Table 9-7). -/
def decodeGroup1 (n : Nat) (r : Raw) : Option (Dec Instr) :=
  match n with
  | 0x00 => some (decodeIadd r)
  | 0x01 => some (decodeIsub r)
  | 0x02 => some (decodeImul r)
  | 0x03 => some (decodeImulh r)
  | 0x04 => some (decodeImad r)
  | 0x05 => some (decodeImin r)
  | 0x06 => some (decodeImax r)
  | 0x07 => some (decodeIabs r)
  | 0x08 => some (decodeIneg r)
  | 0x09 => some (decodeAndB r)
  | 0x0A => some (decodeOrB r)
  | 0x0B => some (decodeXorB r)
  | 0x0C => some (decodeNotB r)
  | 0x0D => some (decodeLop3 r)
  | 0x0E => some (decodeShl r)
  | 0x0F => some (decodeShr r)
  | 0x10 => some (decodeSar r)
  | 0x11 => some (decodeRot r)
  | 0x12 => some (decodeBfe r)
  | 0x13 => some (decodeBfi r)
  | 0x14 => some (decodePopc r)
  | 0x15 => some (decodeClz r)
  | 0x16 => some (decodeBrev r)
  | 0x17 => some (decodeIsetp r)
  | 0x18 => some (decodeSel r)
  | 0x19 => some (decodeMov r)
  | 0x1A => some (decodeMovi r)
  | 0x1B => some (decodeLea r)
  | 0x1C => some (decodeAadd r)
  | 0x1D => some (decodePlop r)
  | 0x1E => some (decodePmov r)
  | _ => none

/-- Opcode group 2 (Table 9-7). -/
def decodeGroup2 (n : Nat) (r : Raw) : Option (Dec Instr) :=
  match n with
  | 0x00 => some (decodeFadd r)
  | 0x01 => some (decodeFsub r)
  | 0x02 => some (decodeFmul r)
  | 0x03 => some (decodeFfma r)
  | 0x04 => some (decodeFmin r)
  | 0x05 => some (decodeFmax r)
  | 0x06 => some (decodeFsetp r)
  | 0x07 => some (decodeFclass r)
  | 0x08 => some (decodeFrnd r)
  | 0x09 => some (decodeFfrc r)
  | 0x0A => some (decodeFdiv r)
  | 0x0B => some (decodeFsqrt r)
  | 0x0C => some (decodeFrcp r)
  | 0x0D => some (decodeFrsq r)
  | 0x0E => some (decodeFex2 r)
  | 0x0F => some (decodeFlg2 r)
  | 0x10 => some (decodeFsin r)
  | 0x11 => some (decodeFcos r)
  | 0x12 => some (decodeFtanh r)
  | 0x13 => some (decodeHadd2 r)
  | 0x14 => some (decodeHmul2 r)
  | 0x15 => some (decodeHfma2 r)
  | 0x16 => some (decodeHmin2 r)
  | 0x17 => some (decodeHmax2 r)
  | 0x18 => some (decodeFdot2 r)
  | 0x19 => some (decodeIdot4 r)
  | _ => none

/-- Opcode group 3 (Table 9-7). -/
def decodeGroup3 (n : Nat) (r : Raw) : Option (Dec Instr) :=
  match n with
  | 0x00 => some (decodeCvt r)
  | 0x01 => some (decodePack r)
  | 0x02 => some (decodePrmt r)
  | 0x03 => some (decodeVote r)
  | 0x04 => some (decodeRedx r)
  | 0x05 => some (decodeScan r)
  | 0x06 => some (decodeElect r)
  | 0x07 => some (decodeMatchL r)
  | _ => none

/-- Opcode group 4 (Table 9-7). -/
def decodeGroup4 (n : Nat) (r : Raw) : Option (Dec Instr) :=
  match n with
  | 0x00 => some (decodeLdq r)
  | 0x01 => some (decodeLdr r)
  | 0x02 => some (decodeSt r)
  | 0x03 => some (decodeLdk r)
  | 0x04 => some (decodeLdt r)
  | 0x05 => some (decodeStt r)
  | 0x06 => some (decodeLdsp r)
  | 0x07 => some (decodeStsp r)
  | 0x08 => some (decodeAtom r)
  | 0x09 => some (decodeRed r)
  | 0x0A => some (decodeAtsp r)
  | 0x0B => some (decodePfx r)
  | 0x0C => some (decodeFence r)
  | 0x0D => some (decodePfence r)
  | 0x0E => some (decodeSmp r)
  | 0x0F => some (decodeSld r)
  | 0x10 => some (match (r.mod.extractLsb' 0 2).toNat with
      | 0 => decodeXformZero r
      | 1 => decodeXformFill r
      | 2 => decodeXformTranspose r
      | _ => badField 6 0)
  | _ => none

/-- Opcode group 5 (Table 9-7). -/
def decodeGroup5 (n : Nat) (r : Raw) : Option (Dec Instr) :=
  match n with
  | 0x00 => some (decodeSynct r)
  | 0x01 => some (decodeMbinit r)
  | 0x02 => some (decodeMbarv r)
  | 0x03 => some (decodeMbexp r)
  | 0x04 => some (decodeMbwait r)
  | 0x05 => some (decodeMbtest r)
  | 0x06 => some (decodeBcopy r)
  | 0x07 => some (decodeBcopy2 r)
  | 0x08 => some (decodeBgath r)
  | 0x09 => some (decodeWlpush r)
  | 0x0A => some (decodeWlpop r)
  | 0x0B => some (decodeWlquiet r)
  | 0x0C => some (decodeFilldone r)
  | 0x0D => some (decodeFillfail r)
  | 0x0E => some (decodePrevict r)
  | 0x0F => some (decodeFillq r)
  | 0x10 => some (decodeCstep r)
  | 0x11 => some (decodeCabort r)
  | _ => none

/-- Opcode group 6 (Table 9-7). -/
def decodeGroup6 (n : Nat) (r : Raw) : Option (Dec Instr) :=
  match n with
  | 0x00 => some (decodeMma r)
  | 0x01 => some (decodeMmd r)
  | 0x02 => some (decodeHad r)
  | 0x03 => some (decodeQnt r)
  | 0x04 => some (decodeCbld r)
  | _ => none

/-- Opcode group 7 (Table 9-7). -/
def decodeGroup7 (n : Nat) (r : Raw) : Option (Dec Instr) :=
  match n with
  | 0x00 => some (decodeSpl r)
  | 0x01 => some (decodeGpl r)
  | 0x02 => some (decodeGrant r)
  | 0x03 => some (decodeRevoke r)
  | 0x04 => some (decodePassq r)
  | 0x05 => some (decodeEmitv r)
  | 0x06 => some (decodeEmitp r)
  | 0x07 => some (decodeMeshend r)
  | 0x08 => some (decodeTld r)
  | 0x09 => some (decodeTsto r)
  | 0x0A => some (decodeDisc r)
  | 0x0B => some (decodeOwnq r)
  | 0x0C => some (decodeLaunch r)
  | 0x0D => some (decodeGets r)
  | 0x0E => some (decodeSets r)
  | 0x0F => some (decodeTret r)
  | 0x10 => some (if r.mod.getLsbD 0 then decodePreemptRel r else decodePreempt r)
  | 0x11 => some (decodeCsave r)
  | 0x12 => some (decodeCrest r)
  | 0x13 => some (if r.mod.getLsbD 0 then decodeIainvAll r else decodeIainv r)
  | 0x14 => some (decodePresent r)
  | _ => none

/-- The instruction of the fields, or why they are none (R219, R220 checks 2 and 5). -/
def decodeRaw (r : Raw) : Except DecErr Instr :=
  let n := (r.opc.extractLsb' 0 7).toNat
  let hit := match (r.opc.extractLsb' 7 3).toNat with
    | 0 => decodeGroup0 n r
    | 1 => decodeGroup1 n r
    | 2 => decodeGroup2 n r
    | 3 => decodeGroup3 n r
    | 4 => decodeGroup4 n r
    | 5 => decodeGroup5 n r
    | 6 => decodeGroup6 n r
    | 7 => decodeGroup7 n r
    | _ => none
  match hit with
  | none => .error (.opcode r.opc)
  | some (.ok i) => .ok i
  | some (.error f) => .error (.encoding r.opc (r.mod.extractLsb' 0 9) f)

/-- The decoder: total on any 96 bits. -/
def decode (w : IWord) : Except DecErr Instr := decodeRaw (Raw.ofWord w)

/-- A word from its twelve bytes, least significant first (R197). -/
def wordOfBytes (bs : List Byte) : IWord :=
  BitVec.ofNat 96 (bs.take 12 |>.foldr (fun b acc => b.toNat + 256 * acc) 0)

/-- The twelve bytes of a word, least significant first (R197). -/
def bytesOfWord (w : IWord) : List Byte :=
  (List.range 12).map fun k => w.extractLsb' (8 * k) 8

/-- The fields of an instruction; an event has no word and gives the unassigned all-ones opcode. -/
def rawOf (opc : BitVec 10) (h : Hdr) (opd opa opb : BitVec 16) (mod : BitVec 26) : Raw :=
  { opc, gn := h.gn, gp := h.gp, sw := h.sw, yld := h.yld, ru := h.ru, rsv := 0, opd, opa, opb, mod }

/-- The encoder, from Tables 9-1 to 9-8; `none` for an event. -/
def encodeRaw : Instr → Option Raw
  | .nop h => some (rawOf 0x000 h (0) (0) (0) (0))
  | .bra h m => some (rawOf 0x001 h (m.join) (0) (0) (m.tgt))
  | .brx h a m => some (rawOf 0x002 h (m.join) (a.toField) (0) (m.tgt))
  | .call h b m => some (rawOf 0x003 h (m.join) (0) (b.toField) (m.tgt))
  | .callx h a b m => some (rawOf 0x004 h (m.join) (a.toField) (b.toField) (m.tgt))
  | .ret h a => some (rawOf 0x005 h (0) (a.toField) (0) (0))
  | .exitL h => some (rawOf 0x006 h (0) (0) (0) (0))
  | .brq h a b m => some (rawOf 0x007 h (m.join) (a.toField) (b.toField) (m.tgt))
  | .pushb h d a tag => some (rawOf 0x008 h (d.toField) (a.toField) (0) ((0 : BitVec 22) ++ tag))
  | .qpush h d a => some (rawOf 0x009 h (d.toField) (a.toField) (0) (0))
  | .qpop h d a disc => some (rawOf 0x00A h (d.toField) (a.toField) (0) ((0 : BitVec 25) ++ BitVec.ofBool disc))
  | .qsync h qmask => some (rawOf 0x00B h (0) (0) (0) ((0 : BitVec 18) ++ qmask))
  | .slip h a => some (rawOf 0x00C h (0) (a.toField) (0) (0))
  | .waitc h a path => some (rawOf 0x00D h (0) (a.toField) (0) ((0 : BitVec 24) ++ path))
  | .waitall h mem => some (rawOf 0x00E h (0) (0) (0) ((0 : BitVec 25) ++ BitVec.ofBool mem))
  | .trap h code => some (rawOf 0x00F h (0) (0) (0) ((0 : BitVec 14) ++ code))
  | .bkpt h code => some (rawOf 0x010 h (0) (0) (0) ((0 : BitVec 14) ++ code))
  | .racq h d a tryIt => some (rawOf 0x011 h (d.toField) (a.toField) (0) ((0 : BitVec 25) ++ BitVec.ofBool tryIt))
  | .rrel h a => some (rawOf 0x012 h (0) (a.toField) (0) (0))
  | .iadd h d a b m => some (rawOf 0x080 h (d.toField) (a.toField) (b.toField) (maMod b m))
  | .isub h d a b m => some (rawOf 0x081 h (d.toField) (a.toField) (b.toField) (maMod b m))
  | .imul h d a b m => some (rawOf 0x082 h (d.toField) (a.toField) (b.toField) (maMod b m))
  | .imulh h d a b m => some (rawOf 0x083 h (d.toField) (a.toField) (b.toField) (maMod b m))
  | .imad h d a b m => some (rawOf 0x084 h (d.toField) (a.toField) (b.toField) (m.toMod))
  | .imin h d a b m => some (rawOf 0x085 h (d.toField) (a.toField) (b.toField) (maMod b m))
  | .imax h d a b m => some (rawOf 0x086 h (d.toField) (a.toField) (b.toField) (maMod b m))
  | .iabs h d b m => some (rawOf 0x087 h (d.toField) (0) (b.toField) (maMod b m))
  | .ineg h d b m => some (rawOf 0x088 h (d.toField) (0) (b.toField) (maMod b m))
  | .andB h d a b m => some (rawOf 0x089 h (d.toField) (a.toField) (b.toField) (maMod b m))
  | .orB h d a b m => some (rawOf 0x08A h (d.toField) (a.toField) (b.toField) (maMod b m))
  | .xorB h d a b m => some (rawOf 0x08B h (d.toField) (a.toField) (b.toField) (maMod b m))
  | .notB h d b m => some (rawOf 0x08C h (d.toField) (0) (b.toField) (maMod b m))
  | .lop3 h d a b lop => some (rawOf 0x08D h (d.toField) (a.toField) (b.toField) (lop.toMod))
  | .shl h d a b m => some (rawOf 0x08E h (d.toField) (a.toField) (b.toField) (maMod b m))
  | .shr h d a b m => some (rawOf 0x08F h (d.toField) (a.toField) (b.toField) (maMod b m))
  | .sar h d a b m => some (rawOf 0x090 h (d.toField) (a.toField) (b.toField) (maMod b m))
  | .rot h d a b m => some (rawOf 0x091 h (d.toField) (a.toField) (b.toField) (maMod b m))
  | .bfe h d a b m => some (rawOf 0x092 h (d.toField) (a.toField) (b.toField) (maMod b m))
  | .bfi h d a b m => some (rawOf 0x093 h (d.toField) (a.toField) (b.toField) (m.toMod))
  | .popc h d b m => some (rawOf 0x094 h (d.toField) (0) (b.toField) (maMod b m))
  | .clz h d b m => some (rawOf 0x095 h (d.toField) (0) (b.toField) (maMod b m))
  | .brev h d b m => some (rawOf 0x096 h (d.toField) (0) (b.toField) (maMod b m))
  | .isetp h d a b m => some (rawOf 0x097 h (d.toField) (a.toField) (b.toField) (maMod b m))
  | .sel h d a b m => some (rawOf 0x098 h (d.toField) (a.toField) (b.toField) (m.toMod))
  | .mov h d b m => some (rawOf 0x099 h (d.toField) (0) (b.toField) (maMod b m))
  | .movi h d imm => some (rawOf 0x09A h (d.toField) (0) ((7 : BitVec 3) ++ (imm.extractLsb' 19 13 : BitVec 13)) ((imm.extractLsb' 0 19 : BitVec 19) ++ (0 : BitVec 7)))
  | .lea h d a b m => some (rawOf 0x09B h (d.toField) (a.toField) (b.toField) (maMod b m))
  | .aadd h d a b m => some (rawOf 0x09C h (d.toField) (a.toField) (b.toField) (maMod b m))
  | .plop h d a b m => some (rawOf 0x09D h (d.toField) (a.toField) (b.toField) (maMod b m))
  | .pmov h d b m => some (rawOf 0x09E h (d.toField) (0) (b.toField) (maMod b m))
  | .fadd h d a b m => some (rawOf 0x100 h (d.toField) (a.toField) (b.toField) (maMod b m))
  | .fsub h d a b m => some (rawOf 0x101 h (d.toField) (a.toField) (b.toField) (maMod b m))
  | .fmul h d a b m => some (rawOf 0x102 h (d.toField) (a.toField) (b.toField) (maMod b m))
  | .ffma h d a b m => some (rawOf 0x103 h (d.toField) (a.toField) (b.toField) (m.toMod))
  | .fmin h d a b m => some (rawOf 0x104 h (d.toField) (a.toField) (b.toField) (maMod b m))
  | .fmax h d a b m => some (rawOf 0x105 h (d.toField) (a.toField) (b.toField) (maMod b m))
  | .fsetp h d a b m => some (rawOf 0x106 h (d.toField) (a.toField) (b.toField) (maMod b m))
  | .fclass h d b m => some (rawOf 0x107 h (d.toField) (0) (b.toField) (maMod b m))
  | .frnd h d b m => some (rawOf 0x108 h (d.toField) (0) (b.toField) (maMod b m))
  | .ffrc h d b m => some (rawOf 0x109 h (d.toField) (0) (b.toField) (maMod b m))
  | .fdiv h d a b m => some (rawOf 0x10A h (d.toField) (a.toField) (b.toField) (maMod b m))
  | .fsqrt h d b m => some (rawOf 0x10B h (d.toField) (0) (b.toField) (maMod b m))
  | .frcp h d b m => some (rawOf 0x10C h (d.toField) (0) (b.toField) (maMod b m))
  | .frsq h d b m => some (rawOf 0x10D h (d.toField) (0) (b.toField) (maMod b m))
  | .fex2 h d b m => some (rawOf 0x10E h (d.toField) (0) (b.toField) (maMod b m))
  | .flg2 h d b m => some (rawOf 0x10F h (d.toField) (0) (b.toField) (maMod b m))
  | .fsin h d b m => some (rawOf 0x110 h (d.toField) (0) (b.toField) (maMod b m))
  | .fcos h d b m => some (rawOf 0x111 h (d.toField) (0) (b.toField) (maMod b m))
  | .ftanh h d b m => some (rawOf 0x112 h (d.toField) (0) (b.toField) (maMod b m))
  | .hadd2 h d a b m => some (rawOf 0x113 h (d.toField) (a.toField) (b.toField) (maMod b m))
  | .hmul2 h d a b m => some (rawOf 0x114 h (d.toField) (a.toField) (b.toField) (maMod b m))
  | .hfma2 h d a b m => some (rawOf 0x115 h (d.toField) (a.toField) (b.toField) (m.toMod))
  | .hmin2 h d a b m => some (rawOf 0x116 h (d.toField) (a.toField) (b.toField) (maMod b m))
  | .hmax2 h d a b m => some (rawOf 0x117 h (d.toField) (a.toField) (b.toField) (maMod b m))
  | .fdot2 h d a b m => some (rawOf 0x118 h (d.toField) (a.toField) (b.toField) (m.toMod))
  | .idot4 h d a b m => some (rawOf 0x119 h (d.toField) (a.toField) (b.toField) (m.toMod))
  | .cvt h d b m => some (rawOf 0x180 h (d.toField) (0) (b.toField) (maMod b m))
  | .pack h d a b m => some (rawOf 0x181 h (d.toField) (a.toField) (b.toField) (maMod b m))
  | .prmt h d a b m => some (rawOf 0x182 h (d.toField) (a.toField) (b.toField) (m.toMod))
  | .vote h d b m => some (rawOf 0x183 h (d.toField) (0) (b.toField) (maMod b m))
  | .redx h d b m => some (rawOf 0x184 h (d.toField) (0) (b.toField) (maMod b m))
  | .scan h d b m => some (rawOf 0x185 h (d.toField) (0) (b.toField) (maMod b m))
  | .elect h d => some (rawOf 0x186 h (d.toField) (0) (0) (0))
  | .matchL h d b m => some (rawOf 0x187 h (d.toField) (0) (b.toField) (maMod b m))
  | .ldq h d a b m => some (rawOf 0x200 h (d.toField) (a.toField) (b.toField) (m.toMod))
  | .ldr h d a b m => some (rawOf 0x201 h (d.toField) (a.toField) (b.toField) (m.toMod))
  | .st h d a b m => some (rawOf 0x202 h (d.toField) (a.toField) (b.toField) (m.toMod))
  | .ldk h d a b m => some (rawOf 0x203 h (d.toField) (a.toField) (b.toField) (m.toMod))
  | .ldt h d a b m => some (rawOf 0x204 h (d.toField) (a.toField) (b.toField) (m.toMod))
  | .stt h d a b m => some (rawOf 0x205 h (d.toField) (a.toField) (b.toField) (m.toMod))
  | .ldsp h d a b m => some (rawOf 0x206 h (d.toField) (a.toField) (b.toField) (m.toMod))
  | .stsp h d a b m => some (rawOf 0x207 h (d.toField) (a.toField) (b.toField) (m.toMod))
  | .atom h d a b m => some (rawOf 0x208 h (d.toField) (a.toField) (b.toField) (m.toMod))
  | .red h a b m => some (rawOf 0x209 h (0) (a.toField) (b.toField) (m.toMod))
  | .atsp h d a b m => some (rawOf 0x20A h (d.toField) (a.toField) (b.toField) (m.toMod))
  | .pfx h a b m => some (rawOf 0x20B h (0) (a.toField) (b.toField) (m.toMod))
  | .fence h m => some (rawOf 0x20C h (0) (0) (0) (m.toMod))
  | .pfence h scope src dst => some (rawOf 0x20D h (0) (0) (0) ((0 : BitVec 4) ++ scope.code ++ (0 : BitVec 11) ++ src ++ dst))
  | .smp h d a b smp => some (rawOf 0x20E h (d.toField) (a.toField) (b.toField) (smp.toMod))
  | .sld h d a b sld => some (rawOf 0x20F h (d.toField) (a.toField) (b.toField) (sld.toMod))
  | .xformZero h a eng => some (rawOf 0x210 h (0) (a.toField) (0) (eng.toMod 0))
  | .xformFill h a eng => some (rawOf 0x210 h (0) (a.toField) (0) (eng.toMod 1))
  | .xformTranspose h a eng => some (rawOf 0x210 h (0) (a.toField) (0) (eng.toMod 2))
  | .synct h => some (rawOf 0x280 h (0) (0) (0) (0))
  | .mbinit h a b => some (rawOf 0x281 h (0) (a.toField) (b.toField) (0))
  | .mbarv h d a b rlx => some (rawOf 0x282 h (d.toField) (a.toField) (b.toField) ((0 : BitVec 25) ++ BitVec.ofBool rlx))
  | .mbexp h d a b rlx arv => some (rawOf 0x283 h (d.toField) (a.toField) (b.toField) ((0 : BitVec 24) ++ BitVec.ofBool arv ++ BitVec.ofBool rlx))
  | .mbwait h a b => some (rawOf 0x284 h (0) (a.toField) (b.toField) (0))
  | .mbtest h d a b => some (rawOf 0x285 h (d.toField) (a.toField) (b.toField) (0))
  | .bcopy h a eng => some (rawOf 0x286 h (0) (a.toField) (0) (eng.toMod 0))
  | .bcopy2 h a eng => some (rawOf 0x287 h (0) (a.toField) (0) (eng.toMod 0))
  | .bgath h a b eng => some (rawOf 0x288 h (0) (a.toField) (b.toField) (eng.toMod 0))
  | .wlpush h d a b => some (rawOf 0x289 h (d.toField) (a.toField) (b.toField) (0))
  | .wlpop h d a b => some (rawOf 0x28A h (d.toField) (a.toField) (b.toField) (0))
  | .wlquiet h d a b => some (rawOf 0x28B h (d.toField) (a.toField) (b.toField) (0))
  | .filldone h d => some (rawOf 0x28C h (d.toField) (0) (0) (0))
  | .fillfail h d a => some (rawOf 0x28D h (d.toField) (a.toField) (0) (0))
  | .previct h d a => some (rawOf 0x28E h (d.toField) (a.toField) (0) (0))
  | .fillq h d a => some (rawOf 0x28F h (d.toField) (a.toField) (0) (0))
  | .cstep h a b bar => some (rawOf 0x290 h (0) (a.toField) (b.toField) (bar ++ (0 : BitVec 20)))
  | .cabort h a => some (rawOf 0x291 h (0) (a.toField) (0) (0))
  | .mma h d a b m => some (rawOf 0x300 h (d.toField) (a.toField) (b.toField) (m.toMod))
  | .mmd h d a b m => some (rawOf 0x301 h (d.toField) (a.toField) (b.toField) (m.toMod))
  | .had h d a hadn hadk => some (rawOf 0x302 h (d.toField) (a.toField) (0) ((0 : BitVec 19) ++ hadk ++ hadn))
  | .qnt h d a b => some (rawOf 0x303 h (d.toField) (a.toField) (b.toField) (0))
  | .cbld h a => some (rawOf 0x304 h (0) (a.toField) (0) (0))
  | .spl h d a => some (rawOf 0x380 h (d.toField) (a.toField) (0) (0))
  | .gpl h d wait => some (rawOf 0x381 h (d.toField) (0) (0) ((0 : BitVec 25) ++ BitVec.ofBool wait))
  | .grant h d a => some (rawOf 0x382 h (d.toField) (a.toField) (0) (0))
  | .revoke h d a => some (rawOf 0x383 h (d.toField) (a.toField) (0) (0))
  | .passq h d a => some (rawOf 0x384 h (d.toField) (a.toField) (0) (0))
  | .emitv h a b cnt word => some (rawOf 0x385 h (0) (a.toField) (b.toField) ((0 : BitVec 20) ++ cnt ++ word))
  | .emitp h a b => some (rawOf 0x386 h (0) (a.toField) (b.toField) (0))
  | .meshend h a b => some (rawOf 0x387 h (0) (a.toField) (b.toField) (0))
  | .tld h d a ty nvec => some (rawOf 0x388 h (d.toField) (a.toField) (0) (ty.code ++ (0 : BitVec 10) ++ nvec ++ (0 : BitVec 8)))
  | .tsto h d a ty nvec => some (rawOf 0x389 h (d.toField) (a.toField) (0) (ty.code ++ (0 : BitVec 10) ++ nvec ++ (0 : BitVec 8)))
  | .disc h => some (rawOf 0x38A h (0) (0) (0) (0))
  | .ownq h d a b => some (rawOf 0x38B h (d.toField) (a.toField) (b.toField) (0))
  | .launch h d a => some (rawOf 0x38C h (d.toField) (a.toField) (0) (0))
  | .gets h d idx w64 => some (rawOf 0x38D h (d.toField) (0) (0) ((0 : BitVec 16) ++ BitVec.ofBool w64 ++ idx))
  | .sets h a idx w64 => some (rawOf 0x38E h (0) (a.toField) (0) ((0 : BitVec 16) ++ BitVec.ofBool w64 ++ idx))
  | .tret h => some (rawOf 0x38F h (0) (0) (0) (0))
  | .preempt h d a b => some (rawOf 0x390 h (d.toField) (a.toField) (b.toField) (0))
  | .preemptRel h d a => some (rawOf 0x390 h (d.toField) (a.toField) (0) (1))
  | .csave h d a => some (rawOf 0x391 h (d.toField) (a.toField) (0) (0))
  | .crest h d a => some (rawOf 0x392 h (d.toField) (a.toField) (0) (0))
  | .iainv h a b => some (rawOf 0x393 h (0) (a.toField) (b.toField) (0))
  | .iainvAll h a => some (rawOf 0x393 h (0) (a.toField) (0xA000) (1))
  | .present h d a b => some (rawOf 0x394 h (d.toField) (a.toField) (b.toField) (0))
  | .teamHaltComplete _ => none
  | .deferredTrap _ => none
  | .errorRingRetry _ => none
  | .homeAccess _ _ => none
  | .walkSlotFree _ => none
  | .faultBatchRetry _ => none
  | .replayReissue _ _ => none
  | .loadDataReturn _ _ => none
  | .varlatResultWrite _ _ _ _ => none
  | .qsStoreData _ => none
  | .dirtyWriteDropped _ _ => none
  | .layoutTWrite _ _ => none
  | .transformBankPart _ _ => none
  | .engineUnitDone _ _ => none
  | .migprodWrite _ _ => none
  | .migrationCommandStart _ => none
  | .migrationRoundEnd _ _ => none
  | .migrationFreezeDone _ _ => none
  | .prtEntryWrite _ _ => none
  | .fillRequestRetry _ _ => none
  | .hostFillRetry _ _ => none
  | .fillTimeout _ _ _ => none
  | .surfaceDescriptorWrite _ => none
  | .contextDescriptorWrite _ => none
  | .kick _ => none
  | .teamPlace => none
  | .levelAging _ => none
  | .placementReserve _ => none
  | .deadlineHold _ => none
  | .teamRestore _ => none
  | .groupCleared _ => none
  | .groupRetire _ => none
  | .qdeadlock _ => none
  | .barrierStall _ _ => none
  | .emergencyReserveGrant _ => none
  | .racqGrant _ => none
  | .issueCycle _ => none
  | .fetchSlotSwitch _ _ => none
  | .icacheFill _ _ => none
  | .graphicsContextEntryWrite _ => none
  | .graphicsPacketStart _ => none
  | .binning _ => none
  | .tilePassStart _ _ _ => none
  | .tileInvocationStart _ => none
  | .tileWriteOut _ => none
  | .tilePassAbandon _ => none
  | .fieldStart _ => none
  | .outputEnable _ _ => none
  | .hdcpStateChange _ _ => none
  | .vanarRead _ _ _ _ => none
  | .vanarWrite _ _ _ _ => none
  | .vanarAtomic _ _ _ _ _ _ _ => none
  | .cfgread _ _ => none
  | .cfgwrite _ _ _ => none
  | .recovery _ _ _ => none
  | .vanarAbort _ _ _ => none
  | .vanarStep _ _ _ => none
  | .vanarResponse _ _ _ => none
  | .ack _ _ _ => none
  | .ackDue _ => none
  | .collectiveStepTimeout _ _ => none
  | .resendTimeout _ _ => none
  | .pathFailureTimeout _ _ => none
  | .linkDown _ => none
  | .portProbe _ _ => none
  | .voltageRampDone _ => none
  | .fclkChangeDone _ => none
  | .clockCrossingDone _ => none
  | .powerSample _ => none
  | .stallSample _ _ _ => none
  | .timingErrorEncore _ => none
  | .commit => none
  | .coolReportMissing => none
  | .ghostLightEnter _ => none
  | .wakePhraseDetect => none
  | .ghostLightTimeout => none
  | .wakeack => none
  | .wake _ => none
  | .wearThreshold _ => none
  | .startUp _ => none
  | .attest => none
  | .cert => none
  | .keygen => none
  | .keyclr => none
  | .raslostClear => none
  | .registerWrite _ _ _ _ => none
  | .peerPageResolved _ _ => none
  | .vanarFrameDiscard _ => none
  | .priorityPause _ _ _ => none
  | .timeSync _ => none

/-- The words of an instruction. -/
def encode (i : Instr) : Option IWord := (encodeRaw i).map Raw.toWord

/-- The instruction that the decoder reads from an instruction whose bits are `w`, bit 0 the least significant of
the first word; the bits above `nbits` are zero. -/
def decodeTableWord (nbits w : Nat) : Option Instr :=
  match decode (wordOfBytes (bytesOfWord (BitVec.ofNat 96 (w % 2 ^ nbits)))) with
  | .ok i => some i
  | .error _ => none

end Sys2Proof
end

