-- ==== Sys2Proof/Machine/Frags.lean ====
section
/-!
DEFINITION. Fragments, join records, the split stack, queues, the team barrier and exits (07 R153 to R163, R166, R167,
R169).
-/

namespace Sys2Proof.Machine

/-! ## Fragments (R158 to R161) -/

def SliceSt.join? (x : SliceSt) (id : Nat) : Option Join := x.joins.find? fun j => j.id == id

/-- A slot that no live fragment holds. -/
def SliceSt.freeSlot (x : SliceSt) : Option Nat :=
  if (x.frag? 0).isNone then some 0 else if (x.frag? 1).isNone then some 1 else none

/-- The fragment stands at its record's join address and waits for nothing (R160). -/
def SliceSt.atJoin (x : SliceSt) (f : Frag) : Bool :=
  match f.join.bind x.join? with
  | some j => j.addr == f.pc && f.wait == .none
  | none => false

/-- Parks a fragment: its lanes arrive and its slot is free (R160); the fetch slot moves on to the other live one (R163). -/
def SliceSt.park (x : SliceSt) (f : Frag) : SliceSt :=
  match f.join with
  | none => x
  | some id =>
    let other := 1 - f.slot
    let served := if x.served = f.slot ∧ (x.frag? other).isSome then other else x.served
    { x with served := served, frags := x.frags.filter fun y => y.slot != f.slot,
             joins := updWhere x.joins (fun j => j.id == id) fun j => { j with arrived := j.arrived ||| f.mask } }

/-- Puts a fragment into a free slot, else on the stack. -/
def SliceSt.place (x : SliceSt) (f : Frag) : SliceSt :=
  match x.freeSlot with
  | some n => { x with frags := x.frags ++ [{ f with slot := n }] }
  | none => { x with stack := f :: x.stack }

/-- A complete record: the arrived lanes become one fragment at the join address, or the record is discarded (R160). -/
def SliceSt.fuse (x : SliceSt) (j : Join) : SliceSt :=
  let x := { x with joins := x.joins.filter fun k => k.id != j.id }
  if j.mask = 0 then x else
  x.place { slot := 0, pc := j.addr, mask := j.mask, join := j.parent, wait := .none, handler := j.handler, run := 0 }

/-- One step of settling: park, fuse, or fill a slot from the stack (R160, R161). -/
def SliceSt.settleOne (x : SliceSt) : Option SliceSt :=
  match x.frags.find? x.atJoin with
  | some f => some (x.park f)
  | none =>
    match x.joins.find? fun j => j.arrived == j.mask with
    | some j => some (x.fuse j)
    | none =>
      match x.freeSlot, x.stack with
      | some n, f :: r => some { x with frags := x.frags ++ [{ f with slot := n }], stack := r }
      | _, _ => none

/-- Settles a slice within a number of steps. -/
def SliceSt.settleFor : Nat → SliceSt → SliceSt
  | 0, x => x
  | n + 1, x =>
    match x.settleOne with
    | some y => SliceSt.settleFor n y
    | none => x

/-- Parks, fuses and refills until nothing more can be done. -/
def SliceSt.settle (x : SliceSt) : SliceSt :=
  SliceSt.settleFor (2 * (x.joins.length + x.stack.length + x.frags.length) + 2) x

/-- A fragment goes on at a PC. -/
def SliceSt.goTo (x : SliceSt) (slot : Nat) (pc : W64) : SliceSt :=
  { x with frags := updWhere x.frags (fun f => f.slot == slot) fun f => { f with pc := pc } }

/-- Place `n` of a slice's split stack in the spill area of its context (R161). -/
def stackPlace (g : Group) (n : Nat) : Nat := 2 * ((g.core * 32 + g.slot) * 8192 + n) + 1

/-- Split-stack entries in use: live records and waiting fragments (R161). -/
def SliceSt.stackUse (x : SliceSt) : Nat := x.joins.length + x.stack.length

/-- A split (R159): fragment N at `npc` in F's slot, T with the taken lanes at the target. -/
def SliceSt.split (x : SliceSt) (f : Frag) (id : Nat) (taken : Lanes) (npc target join : W64) : SliceSt :=
  let j : Join := { id := id, addr := join, mask := f.mask, parent := f.join, arrived := 0, handler := f.handler }
  let n : Frag := { f with pc := npc, mask := f.mask &&& ~~~taken, join := some id }
  let t : Frag := { f with pc := target, mask := taken, join := some id, run := 0, wait := .none }
  let x := { x with joins := j :: x.joins, frags := (x.frags.filter fun (y : Frag) => y.slot != f.slot) ++ [n] }
  x.place t

/-- Lanes leave a slice: from the fragment and from every record of its chain (R162). -/
def SliceSt.exitLanes (x : SliceSt) (slot : Nat) (m : Lanes) : SliceSt :=
  let frags : List Frag := (x.frags.map fun (f : Frag) =>
    if f.slot = slot then ({ f with mask := f.mask &&& ~~~m } : Frag) else f).filter fun f => f.mask != 0
  { x with exited := x.exited ||| m, frags := frags,
           joins := x.joins.map fun (j : Join) => { j with mask := j.mask &&& ~~~m, arrived := j.arrived &&& ~~~m } }

/-! ## Queues (R153 to R156) -/

/-- The slice that pops a queue (Table 7-3). -/
def popSlice (q : Nat) : Slice := if q < 4 ∨ q = 6 then .c else .a

/-- Depths of the queues that are not declared (Table 7-3). -/
def fixedDepth (q : Nat) : Nat := if q = 4 then 16 else 8

def Group.queue (g : Group) (q : Nat) : Queue := g.queues.getD q { depth := 0, entries := [] }

def Group.updQueue (g : Group) (q : Nat) (f : Queue → Queue) : Group := { g with queues := updAt g.queues q f }

/-- Lanes of an entry that still hold a value for the popping slice. -/
def QEntry.left (e : QEntry) (exited : Lanes) : Lanes := e.mask &&& ~~~e.popped &&& ~~~exited

/-- Entries leave when every lane has been popped or has exited in the popping slice (R154). -/
def Group.prune (g : Group) (q : Nat) : Group :=
  let ex := (g.slice (popSlice q)).exited
  g.updQueue q fun x => { x with entries := x.entries.filter fun e => e.left ex != 0 }

def Group.pruneAll (g : Group) : Group := (List.range 8).foldl Group.prune g

/-- Entries of a queue in which lane `l` has a value not popped yet, oldest first. -/
def Group.laneEntries (g : Group) (q l : Nat) : List QEntry :=
  (g.queue q).entries.filter fun e => e.mask.getLsbD l && !e.popped.getLsbD l

/-- The k-th value of a lane, once delivered. -/
def Group.laneVal (g : Group) (q l k : Nat) : Option Val :=
  match (g.laneEntries q l)[k]? with
  | some e => if e.ready.getLsbD l then some (e.vals.getD l Val.zero) else none
  | none => none

/-- The tag of the oldest value of a lane. -/
def Group.laneTag (g : Group) (q l : Nat) : Option (BitVec 4) := ((g.laneEntries q l).head?).map (·.tag)

/-- Pops the oldest value of each lane of `m`. -/
def popEntries (m : Lanes) : List QEntry → List QEntry
  | [] => []
  | e :: es =>
    let here := e.mask &&& ~~~e.popped &&& m
    { e with popped := e.popped ||| here } :: popEntries (m &&& ~~~here) es

def Group.pop (g : Group) (q : Nat) (m : Lanes) : Group :=
  (g.updQueue q fun x => { x with entries := popEntries m x.entries }).prune q

/-- The slip: entries of q0 to q3 still held (R156). -/
def Group.slip (g : Group) : Nat := ((List.range 4).map fun q => (g.queue q).entries.length).sum

/-- One entry may be pushed to each of `n` queues from `q` on: each has room, and the slip limit allows those to q0 to q3
(R154, R156). -/
def Group.roomFor (g : Group) (q n : Nat) : Bool :=
  ((List.range n).all fun i => decide ((g.queue (q + i)).entries.length < (g.queue (q + i)).depth)) &&
    (decide (4 ≤ q) || decide (g.slipl.toNat % 256 = 0) || decide (128 < g.slipl.toNat % 256) ||
      decide (g.slip + n ≤ g.slipl.toNat % 256))

/-- Pushes one entry; a lane that has exited in the popping slice gets nothing (R154). -/
def Group.push (g : Group) (q : Nat) (m ready : Lanes) (vals : List Val) (tag : BitVec 4) (acc : Option Nat) : Group :=
  (g.updQueue q fun x => { x with entries := x.entries ++
    [{ mask := m, ready := ready, popped := 0, vals := vals, tag := tag, acc := acc }] }).prune q

/-! ## The team barrier (R169) -/

def Team.arrivals (t : Team) : Slice → List Arrival
  | .a => t.barA
  | .c => t.barC

/-- Lanes of a group that have arrived at the barrier of a slice kind. -/
def Team.arrived (t : Team) (sl : Slice) (gid : Nat) : Lanes :=
  (t.arrivals sl).foldl (fun m a => if a.gid = gid then m ||| a.lanes else m) 0

/-- Lanes of a group that the barrier still misses. -/
def Team.missing (t : Team) (sl : Slice) (g : Group) : Lanes :=
  (g.slice sl).live g.width &&& ~~~t.arrived sl g.gid

def Team.barrierFull (t : Team) (sl : Slice) : Bool :=
  !(t.arrivals sl).isEmpty && t.groups.all fun g => t.missing sl g == 0

/-- A fragment that has arrived at the barrier goes on after its SYNCT; one with SW waits on for its marker (R165). -/
def Frag.wakeBarrier (f : Frag) : Frag :=
  match f.wait with
  | .barrier sw => { f with wait := if sw then .marker else .none, pc := f.pc + 12 }
  | _ => f

/-- Wakes every arrived fragment of a slice kind. -/
def SliceSt.wakeBarrier (x : SliceSt) : SliceSt :=
  ({ x with frags := x.frags.map Frag.wakeBarrier, stack := x.stack.map Frag.wakeBarrier }).settle

/-- Completes a barrier that every lane has reached. -/
def Team.completeBarrier (t : Team) (sl : Slice) : Team :=
  let t := { t with groups := t.groups.map fun (g : Group) => g.updSlice sl SliceSt.wakeBarrier }
  match sl with
  | .a => { t with barA := [] }
  | .c => { t with barC := [] }

end Sys2Proof.Machine
end

