-- ==== Sys2Proof/Machine/Num.lean ====
section
/-!
DEFINITION. The number formats, exact values and the one rounding of each (04 R92 to R107), and the references that bound
the approximate functions (11 R263).
-/

namespace Sys2Proof.Machine

/-! ## Exact values -/

/-- An exact value: NaN, an infinity, or the fraction ±n/d with d positive; a zero keeps its sign (R100). -/
inductive Exact
  | nan
  | inf (neg : Bool)
  | fin (neg : Bool) (n d : Nat)
  deriving DecidableEq, Repr

/-- m × 2^k. -/
def dyadic (neg : Bool) (m : Nat) (k : Int) : Exact :=
  if 0 ≤ k then .fin neg (m * 2 ^ k.toNat) 1 else .fin neg m (2 ^ (-k).toNat)

/-- A floating format (Table 4-1): exponent and mantissa widths, bias, whether it has infinities and a NaN. -/
structure Fmt where
  exp  : Nat
  man  : Nat
  bias : Nat
  inf  : Bool
  nan  : Bool
  deriving DecidableEq, Repr

def f32 : Fmt := { exp := 8, man := 23, bias := 127, inf := true, nan := true }
def f16 : Fmt := { exp := 5, man := 10, bias := 15, inf := true, nan := true }
def bf16 : Fmt := { exp := 8, man := 7, bias := 127, inf := true, nan := true }
def e4m3 : Fmt := { exp := 4, man := 3, bias := 7, inf := false, nan := true }
def e5m2 : Fmt := { exp := 5, man := 2, bias := 15, inf := true, nan := true }
def e2m1 : Fmt := { exp := 2, man := 1, bias := 1, inf := false, nan := false }

/-- The element format of a floating TYPE. -/
def fmtOf : Ty → Fmt
  | .f16 | .f16x2 => f16
  | .bf16 | .bf16x2 => bf16
  | .e4m3 => e4m3
  | .e5m2 => e5m2
  | .e2m1 => e2m1
  | _ => f32

def Fmt.signBit (f : Fmt) : Nat := f.exp + f.man
def Fmt.width (f : Fmt) : Nat := f.exp + f.man + 1

/-- Code of the largest finite magnitude. -/
def Fmt.maxCode (f : Fmt) : Nat :=
  if f.inf then (2 ^ f.exp - 1) * 2 ^ f.man - 1 else if f.nan then 2 ^ f.signBit - 2 else 2 ^ f.signBit - 1

/-- The canonical NaN (R93), +0 where the format has none. -/
def Fmt.canon (f : Fmt) : Nat :=
  if f.inf then (2 ^ f.exp - 1) * 2 ^ f.man + 2 ^ (f.man - 1) else if f.nan then 2 ^ f.signBit - 1 else 0

/-- val(x, fmt) of R100. -/
def Fmt.val (f : Fmt) (x : Nat) : Exact :=
  let neg := bitN x f.signBit
  let e := bits x f.man f.exp
  let m := bits x 0 f.man
  if f.inf && e == 2 ^ f.exp - 1 then (if m = 0 then .inf neg else .nan)
  else if !f.inf && f.nan && e == 2 ^ f.exp - 1 && m == 2 ^ f.man - 1 then .nan
  else if e = 0 then dyadic neg m (1 - (f.bias : Int) - f.man)
  else dyadic neg (2 ^ f.man + m) ((e : Int) - f.bias - f.man)

/-- The value of an E3M5 scale (R96). -/
def e3m5Val (x : Nat) : Exact :=
  let e := bits x 5 3
  let m := bits x 0 5
  if e = 0 then dyadic false m (-7) else dyadic false (32 + m) ((e : Int) - 8)

/-! ## Rounding (R98, R99) -/

/-- Whether a remainder r of d rounds the quotient k up in magnitude. -/
def roundsUp (rnd : Rnd) (neg : Bool) (k r d : Nat) : Bool :=
  match rnd with
  | .rne => decide (d < 2 * r) || (2 * r == d && k % 2 == 1)
  | .rna => decide (d ≤ 2 * r)
  | .rz => false
  | .rup => !neg && r != 0
  | .rdn => neg && r != 0

/-- The integer part of n/d by a rounding mode. -/
def roundNat (rnd : Rnd) (neg : Bool) (n d : Nat) : Nat :=
  let k := n / d
  if roundsUp rnd neg k (n % d) d then k + 1 else k

/-- ⌊log2 (n/d)⌋ for positive n, d. -/
def ilog2 (n d : Nat) : Int :=
  let e : Int := (Nat.log2 n : Int) - Nat.log2 d
  let below := if 0 ≤ e then decide (n < d * 2 ^ e.toNat) else decide (n * 2 ^ (-e).toNat < d)
  if below then e - 1 else e

/-- Code of a magnitude with its sign bit. -/
def Fmt.withSign (f : Fmt) (neg : Bool) (code : Nat) : Nat := if neg then code + 2 ^ f.signBit else code

/-- What overflow delivers (R99). -/
def Fmt.overflow (f : Fmt) (rnd : Rnd) (sat neg : Bool) : Nat :=
  let toMax := sat || !f.nan || (f.inf && (match rnd with
    | .rne | .rna => false
    | .rz => true
    | .rup => neg
    | .rdn => !neg))
  if toMax then f.withSign neg f.maxCode
  else if f.inf then f.withSign neg (f.maxCode + 1)
  else f.canon

/-- round_to(y, fmt, rnd, sat) of R100. -/
def Fmt.round (f : Fmt) (rnd : Rnd) (sat : Bool) (y : Exact) : Nat :=
  match y with
  | .nan => f.canon
  | .inf neg => if sat || !f.nan then f.withSign neg f.maxCode else if f.inf then f.withSign neg (f.maxCode + 1) else f.canon
  | .fin neg n d =>
    if n = 0 then f.withSign neg 0 else
    let q : Int := max (ilog2 n d) (1 - (f.bias : Int)) - f.man
    let k := if 0 ≤ q then roundNat rnd neg n (d * 2 ^ q.toNat) else roundNat rnd neg (n * 2 ^ (-q).toNat) d
    let code := (q + f.man + f.bias - 1).toNat * 2 ^ f.man + k
    if f.maxCode < code then f.overflow rnd sat neg else f.withSign neg code

/-- rne_f32 of R100. -/
def rneF32 (y : Exact) : W32 := BitVec.ofNat 32 (f32.round .rne false y)

/-! ## Exact arithmetic (R100, R106) -/

def Exact.neg : Exact → Exact
  | .nan => .nan
  | .inf s => .inf (!s)
  | .fin s n d => .fin (!s) n d

def Exact.isNan : Exact → Bool
  | .nan => true
  | _ => false

def Exact.isZero : Exact → Bool
  | .fin _ n _ => n == 0
  | _ => false

/-- A zero of sign `neg`. -/
def Exact.isZeroOf (neg : Bool) : Exact → Bool
  | .fin s n _ => n == 0 && s == neg
  | _ => false

/-- A zero formed by a sum: of its addends' sign when they are zeros of one sign, else +0, −0 in RDN (R100, R257). -/
def sumZero (rdn : Bool) (l : List Exact) : Exact :=
  if l.all (Exact.isZeroOf false) then .fin false 0 1
  else .fin (rdn || l.all (Exact.isZeroOf true)) 0 1

/-- Numerator and denominator of a finite sum. -/
def finSum : List Exact → Int × Nat
  | [] => (0, 1)
  | .fin s n d :: l =>
    let r := finSum l
    let v : Int := if s then -(n : Int) else n
    if d = r.2 then (v + r.1, d) else (v * r.2 + r.1 * d, d * r.2)
  | _ :: l => finSum l

def ofFrac (v : Int) (d : Nat) : Exact := .fin (decide (v < 0)) v.natAbs d

/-- exact_sum (R100, R106). -/
def exactSum (rdn : Bool) (l : List Exact) : Exact :=
  if l.any Exact.isNan then .nan
  else if l.any (· == .inf false) then (if l.any (· == .inf true) then .nan else .inf false)
  else if l.any (· == .inf true) then .inf true
  else
    let r := finSum l
    if r.1 = 0 then (match l with
      | [x] => x
      | _ => sumZero rdn l)
    else ofFrac r.1 r.2

/-- An exact product; ∞ × 0 is NaN. -/
def exactMul : Exact → Exact → Exact
  | .nan, _ => .nan
  | _, .nan => .nan
  | .inf s, .inf t => .inf (s != t)
  | .inf s, .fin t n _ => if n = 0 then .nan else .inf (s != t)
  | .fin s n _, .inf t => if n = 0 then .nan else .inf (s != t)
  | .fin s n d, .fin t m e => .fin (s != t) (n * m) (d * e)

/-- An exact quotient; 0 ÷ 0 and ∞ ÷ ∞ are NaN. -/
def exactDiv : Exact → Exact → Exact
  | .nan, _ => .nan
  | _, .nan => .nan
  | .inf _, .inf _ => .nan
  | .inf s, .fin t _ _ => .inf (s != t)
  | .fin s _ _, .inf t => .fin (s != t) 0 1
  | .fin s n d, .fin t m e =>
    if m = 0 then (if n = 0 then .nan else .inf (s != t)) else .fin (s != t) (n * e) (d * m)

/-- Largest r with r² ≤ n, for n below 4^bits. -/
def isqrt (bits n : Nat) : Nat :=
  (List.range bits).foldl (fun r i =>
    let t := r + 2 ^ (bits - 1 - i)
    if t * t ≤ n then t else r) 0

/-- A square root with 48 correct bits and a sticky half unit, which rounds to 24 bits as the exact root does. -/
def sqrtNum : Exact → Exact
  | .nan => .nan
  | .inf neg => if neg then .nan else .inf false
  | .fin neg n d =>
    if n = 0 then .fin neg 0 1
    else if neg then .nan
    else
      let e : Int := ilog2 n d
      let k : Int := 48 - e / 2
      let (nn, dd) := if 0 ≤ k then (n * 2 ^ (2 * k).toNat, d) else (n, d * 2 ^ (-(2 * k)).toNat)
      let s := isqrt 52 (nn / dd)
      let m := if s * s * dd = nn then 2 * s else 2 * s + 1
      dyadic false m (-k - 1)

/-- Rounding to an integral value (R257). -/
def Exact.integral (rnd : Rnd) : Exact → Exact
  | .fin s n d => .fin s (roundNat rnd s n d) 1
  | x => x

/-- Integer part of a value, signed, by a mode; none for NaN and infinities. -/
def Exact.toInt (rnd : Rnd) : Exact → Option Int
  | .fin s n d => let k := roundNat rnd s n d; some (if s then -(k : Int) else k)
  | _ => none

def numOfInt (v : Int) : Exact := ofFrac v 1

/-- a < b and a = b as real numbers or infinities; false for NaN. -/
def Exact.lt : Exact → Exact → Bool
  | .nan, _ => false
  | _, .nan => false
  | .inf s, .inf t => s && !t
  | .inf s, .fin _ _ _ => s
  | .fin _ _ _, .inf t => !t
  | .fin s n d, .fin t m e =>
    decide ((if s then -(n : Int) else n) * e < (if t then -(m : Int) else m) * d)

def Exact.eq : Exact → Exact → Bool
  | .nan, _ => false
  | _, .nan => false
  | .inf s, .inf t => s == t
  | .inf _, .fin _ _ _ => false
  | .fin _ _ _, .inf _ => false
  | .fin s n d, .fin t m e =>
    decide ((if s then -(n : Int) else n) * e = (if t then -(m : Int) else m) * d)

/-! ## Minimum and maximum on codes (R258) -/

/-- −0 counts as less than +0. -/
def Fmt.codeLt (f : Fmt) (x y : Nat) : Bool :=
  let a := f.val x
  let b := f.val y
  Exact.lt a b || (a.isZero && b.isZero && bitN x f.signBit && !bitN y f.signBit)

def Fmt.minMax (f : Fmt) (max : Bool) (x y : Nat) : Nat :=
  match (f.val x).isNan, (f.val y).isNan with
  | true, true => f.canon
  | true, false => y
  | false, true => x
  | false, false => if max then (if f.codeLt x y then y else x) else (if f.codeLt y x then y else x)

/-! ## Classes (R260) -/

def Fmt.classBit (f : Fmt) (x : Nat) : Nat :=
  let neg := bitN x f.signBit
  let sub := bits x f.man f.exp == 0
  match f.val x with
  | .nan => 8
  | .inf s => if s then 0 else 7
  | .fin _ n _ =>
    if n = 0 then (if neg then 3 else 4)
    else if sub then (if neg then 2 else 5)
    else if neg then 1 else 6

/-! ## The approximate functions (R263) -/

/-- 2π × 2^320. -/
def twoPi320 : Int := 13420802360424337830311681948440006481608388178854297901454212848703426437343610760199000777828079
/-- ln 2 × 2^128. -/
def ln2At128 : Int := 235865763225513294137944142764154484399

/-- Fixed point of 96 fraction bits. -/
def fx : Int := 2 ^ 96

/-- exp of a fixed-point y in [0, 1). -/
def fxExp (y : Int) : Int :=
  ((List.range 34).foldl (fun (a : Int × Int) (i : Nat) => let t := a.1 * y / fx / ((i : Int) + 1); (t, a.2 + t)) (fx, fx)).2

/-- 2^b for the fraction v/d. -/
def refExp2 (v : Int) (d : Nat) : Exact :=
  let k := v / d
  let f := (v - k * d) * fx / d
  dyadic false (fxExp (f * (ln2At128 / 2 ^ 32) / fx)).toNat (k - 96)

/-- log2 of n/d. -/
def refLog2 (n d : Nat) : Exact :=
  let e := ilog2 n d
  let m : Int := if 0 ≤ e then (n : Int) * fx / (d * 2 ^ e.toNat) else (n : Int) * 2 ^ (-e).toNat * fx / d
  let z := (m - fx) * fx / (m + fx)
  let zz := z * z / fx
  let r := ((List.range 40).foldl (fun (a : Int × Int) (i : Nat) => (a.1 * zz / fx, a.2 + a.1 / (2 * (i : Int) + 1))) (z, 0)).2
  ofFrac (e * fx + 2 * r * 2 ^ 128 / ln2At128) (2 ^ 96)

/-- The angle v/d reduced to (−π, π], as fixed point. -/
def reduceAngle (v : Int) (d : Nat) : Int :=
  let x := v * 2 ^ 320 / d % twoPi320
  (if twoPi320 / 2 < x then x - twoPi320 else x) / 2 ^ 224

/-- The series of sine (from the first power) or of cosine (from 1) at a fixed-point angle. -/
def fxTrig (cos : Bool) (x : Int) : Int :=
  let xx := x * x / fx
  ((List.range 30).foldl (fun (a : Int × Int) (i : Nat) =>
    let j : Int := 2 * (i : Int) + (if cos then 1 else 2)
    (-(a.1 * xx / fx / (j * (j + 1))), a.2 + a.1)) (if cos then fx else x, 0)).2

def refTrig (cos : Bool) (v : Int) (d : Nat) : Exact := ofFrac (fxTrig cos (reduceAngle v d)) (2 ^ 96)

/-- tanh of v/d. -/
def refTanh (v : Int) (d : Nat) : Exact :=
  let y := 2 * v * fx / d * 2 ^ 128 / ln2At128
  match refExp2 y (2 ^ 96) with
  | .fin _ n e => ofFrac ((n : Int) - e) (n + e)
  | x => x

/-- The function codes of the seven approximate functions. -/
inductive Approx | rcp | rsq | ex2 | lg2 | sin | cos | tanh
  deriving DecidableEq, Repr

def Approx.code : Approx → Nat
  | .rcp => 0 | .rsq => 1 | .ex2 => 2 | .lg2 => 3 | .sin => 4 | .cos => 5 | .tanh => 6

/-- The largest error of Table 11-2 as a fraction, for a reference result y at input b. -/
def Approx.bound (fn : Approx) (b y : Exact) : Nat × Nat :=
  let ulp : Nat → Nat × Nat := fun k =>
    match y with
    | .fin _ n d =>
      let q : Int := if n = 0 then -149 else max (ilog2 n d) (-126) - 23
      if 0 ≤ q then (k * 2 ^ q.toNat, 1) else (k, 2 ^ (-q).toNat)
    | _ => (0, 1)
  match fn with
  | .rcp => ulp 1
  | .rsq | .ex2 => ulp 2
  | .lg2 => if Exact.lt b (.fin false 1 2) || Exact.lt (.fin false 2 1) b then ulp 2 else (1, 2 ^ 22)
  | .sin | .cos | .tanh => (1, 2 ^ 21)

/-- The defined values of Table 11-2: a code, or none where the bound alone holds. -/
def Approx.defined (fn : Approx) (x : Nat) : Option Nat :=
  let b := f32.val x
  let neg := bitN x 31
  let pow2 := match b with
    | .fin _ n d => n != 0 && 2 ^ Nat.log2 n == n && 2 ^ Nat.log2 d == d
    | _ => false
  match b with
  | .nan => some f32.canon
  | .inf s => match fn with
    | .rcp => some (f32.withSign s 0)
    | .rsq | .lg2 => some (if s then f32.canon else if fn = .rsq then 0 else 0x7F800000)
    | .ex2 => some (if s then 0 else 0x7F800000)
    | .sin | .cos => some f32.canon
    | .tanh => some (f32.withSign s 0x3F800000)
  | .fin s n d =>
    if n = 0 then match fn with
      | .rcp | .rsq => some (f32.withSign neg 0x7F800000)
      | .lg2 => some 0xFF800000
      | .ex2 | .cos => some 0x3F800000
      | .sin | .tanh => some (f32.withSign neg 0)
    else match fn with
      | .rcp =>
        let r := f32.round .rne false (exactDiv (.fin false 1 1) b)
        if d ≥ n * 2 ^ 128 then some (f32.withSign s 0x7F800000)
        else if pow2 && Exact.eq (f32.val r) (exactDiv (.fin false 1 1) b) then some r else none
      | .rsq => if s then some f32.canon
          else if pow2 && (ilog2 n d) % 2 == 0 then some (f32.round .rne false (dyadic false 1 (-(ilog2 n d) / 2))) else none
      | .ex2 =>
        if !s && decide (128 * d ≤ n) then some 0x7F800000
        else if n % d = 0 && (!s || decide (n / d ≤ 149)) then
          some (f32.round .rne false (dyadic false 1 (if s then -((n / d : Nat) : Int) else (n / d : Nat))))
        else none
      | .lg2 => if s then some f32.canon
          else if pow2 then some (f32.round .rne false (numOfInt (ilog2 n d))) else none
      | .sin | .cos => none
      | .tanh => if 10 * d ≤ n then some (f32.withSign s 0x3F800000) else none

/-- The reference at an input with no defined value. -/
def Approx.ref (fn : Approx) (b : Exact) : Exact :=
  match b with
  | .fin s n d =>
    let v : Int := if s then -(n : Int) else n
    match fn with
    | .rcp => exactDiv (.fin false 1 1) b
    | .rsq => exactDiv (.fin false 1 1) (sqrtNum b)
    | .ex2 => if v < -(400 * (d : Int)) then .fin false 1 (2 ^ 400) else refExp2 v d
    | .lg2 => refLog2 n d
    | .sin => refTrig false v d
    | .cos => refTrig true v d
    | .tanh => refTanh v d
  | x => x

/-- A candidate code is inside the bound, less 2^-16 of it for the reference's own error. -/
def Approx.within (fn : Approx) (b y : Exact) (c : Nat) : Bool :=
  let e := fn.bound b y
  let v := f32.val c
  let small := match fn with
    | .sin | .cos | .tanh => !Exact.lt (.fin false 1 1) v && !Exact.lt v (.fin true 1 1)
    | _ => true
  match exactSum false [v, y.neg] with
  | .fin _ n d => small && decide (n * e.2 * 65536 ≤ e.1 * d * 65535)
  | _ => false

/-- An approximate function: its defined value; else the device's own fixed function of the input bits where
that keeps the bound, else the rounded reference (R263, DESIGN CHOICE, log 16). -/
def Approx.eval (fn : Approx) (x : W32) : W32 :=
  match fn.defined x.toNat with
  | some c => BitVec.ofNat 32 c
  | none =>
    let b := f32.val x.toNat
    let y := fn.ref b
    let c := Config.approx fn.code x
    if fn.within b y c.toNat then c else rneF32 y

end Sys2Proof.Machine
end

