-- ==== Sys2Proof/Machine/Operands.lean ====
section
/-!
DEFINITION. What an issuing instruction sees, and the operand forms of Table 9-2: sources with their immediates, pairs,
cross-lane fetches and modifiers, register bounds, queue pops and pushes, and destinations (09 R199 to R214, 10 R222,
R223, 02 R60).
-/

namespace Sys2Proof.Machine

/-! ## The issuing fragment -/

/-- What the issuing instruction sees: its fragment with its slice, group, team and context, and `exec`, the active
lanes that pass the guard (R222). -/
structure Env where
  gid  : Nat
  sl   : Slice
  slot : Nat
  t    : Team
  g    : Group
  c    : Ctx
  f    : Frag
  exec : Lanes
  deriving DecidableEq, Repr

/-- The slice of the issuing fragment. -/
def Env.x (e : Env) : SliceSt := e.g.slice e.sl

/-- How an instruction stops short of its effect: a trap with its TRAPINFO, or a wait at issue. -/
inductive Stop
  | trap (cause info : Nat)
  | wait (w : Wait)
  deriving DecidableEq, Repr

/-- The outcome of the checks of an instruction. -/
abbrev Chk (α : Type) := Except Stop α

def trapIf (b : Bool) (cause info : Nat) : Chk Unit := if b then .error (.trap cause info) else .ok ()

def waitIf (b : Bool) (w : Wait) : Chk Unit := if b then .error (.wait w) else .ok ()

/-- A value refused by the instruction's entry: ILLEGAL_ENCODING, field 8 (R220). -/
def refuseIf (b : Bool) (detail : Nat) : Chk Unit := trapIf b 2 (8 * 256 + detail % 256)

/-! ## Predicates and guards (R150, R199) -/

/-- A predicate of a slice; p7 reads all ones. -/
def SliceSt.pred (x : SliceSt) (p : BitVec 3) : Lanes :=
  if p = 7 then BitVec.allOnes 64 else x.preds.getD p.toNat 0

/-- Writes the lanes of a predicate; p7 ignores writes. -/
def SliceSt.setPred (x : SliceSt) (p : BitVec 3) (m v : Lanes) : SliceSt :=
  if p = 7 then x else { x with preds := updAt x.preds p.toNat fun old => (old &&& ~~~m) ||| (v &&& m) }

/-- The active lanes that pass a guard. -/
def SliceSt.passing (x : SliceSt) (h : Hdr) (active : Lanes) : Lanes :=
  active &&& (if h.gn then ~~~x.pred h.gp else x.pred h.gp)

/-! ## Registers -/

/-- Vector registers that a slice may name (R150). -/
def Env.allot (e : Env) : Nat :=
  match e.sl with
  | .a => 8 * e.g.ablk
  | .c => 8 * e.g.held

/-- The register number that an operand names: register-indirect adds the index register (R204). -/
def Env.regNum (e : Env) : Opnd → Nat
  | .vec n => n.toNat
  | .ind b ix => b.toNat + (e.x.ixs.getD ix.toNat 0).toNat
  | .sca n => n.toNat
  | _ => 0

def SliceSt.vreg (x : SliceSt) (n l : Nat) : Val := (x.vregs.getD n []).getD l Val.zero

def SliceSt.sreg (x : SliceSt) (n : Nat) : Val := x.scal.getD n Val.zero

def SliceSt.setSreg (x : SliceSt) (n : Nat) (v : Val) : SliceSt := { x with scal := updAt x.scal n fun _ => v }

/-- Writes the lanes of `m` of a vector register. -/
def SliceSt.setVreg (x : SliceSt) (n : Nat) (m : Lanes) (v : Nat → Val) : SliceSt :=
  { x with vregs := updAt x.vregs n fun r => r.mapIdx fun l old => if m.getLsbD l then v l else old }

/-- A register span of an operand: `n` consecutive registers from the one it names, from an even one when `even`;
`code` is the operand's code of R204. -/
structure RegUse where
  code : Nat
  o    : Opnd
  n    : Nat
  even : Bool
  deriving DecidableEq, Repr

/-- REG_BOUND of one operand (R204). -/
def Env.bound (e : Env) (u : RegUse) : Chk Unit :=
  let k := u.o.kind
  let n := e.regNum u.o
  let info := fun (r odd : Nat) => r % 256 + u.code * 2 ^ 8 + odd * 2 ^ 10 + r / 256 % 2 * 2 ^ 11
  if k ≠ 0 ∧ k ≠ 2 then .ok ()
  else if e.allot < n + u.n then .error (.trap 4 (info (max n e.allot) 0))
  else trapIf (u.even && k == 2 && n % 2 == 1) 4 (info n 1)

/-- REG_BOUND of the operands in order OPD, OPA, OPB, third source (DEDUCED, log 22). -/
def Env.bounds (e : Env) : List RegUse → Chk Unit
  | [] => .ok ()
  | u :: us => do
    e.bound u
    e.bounds us

/-! ## Lane values -/

/-- A lane value of 32 or 64 bits, with the poison of its registers. -/
structure LV where
  v : Nat
  p : Option Poison
  deriving DecidableEq, Repr

def LV.of (v : Nat) : LV := { v := v, p := none }

def LV.ofVal (v : Val) : LV := { v := v.bits.toNat, p := v.poison }

/-- A pair of 32-bit values, the even register first (R202). -/
def LV.pair (lo hi : Val) : LV :=
  { v := lo.bits.toNat + hi.bits.toNat * 2 ^ 32, p := lo.poison.orElse fun _ => hi.poison }

/-- A KIND 5 immediate as a value of TYPE: the integer, sign-extended, or its conversion with RNE (R203). -/
def immVal (ty : Ty) (pair : Bool) (i : BitVec 13) : Nat :=
  let v := i.toInt
  if ty.isFloat then
    let c := (fmtOf ty).round .rne false (numOfInt v)
    if ty.isH then c + c * 2 ^ 16 else c
  else if pair then (BitVec.ofInt 64 v).toNat else (BitVec.ofInt 32 v).toNat

/-- The special registers (Table 9-4). -/
def State.special (s : State) (e : Env) (n : BitVec 4) (l : Nat) : W32 :=
  match n.toNat with
  | 0 => BitVec.ofNat 32 l
  | 1 => BitVec.ofNat 32 e.g.width
  | 2 => BitVec.ofNat 32 e.g.grp
  | 3 => BitVec.ofNat 32 e.t.num
  | 4 => BitVec.ofNat 32 e.t.count
  | 5 => BitVec.ofNat 32 e.g.core
  | 6 => BitVec.ofNat 32 (e.g.core % 40 / 4)
  | 7 => BitVec.ofNat 32 (e.g.core / 40)
  | 8 => s.time.setWidth 32
  | 9 => e.x.timeh
  | 10 => (s.owner e.c.owner).frameno
  | 11 => e.c.owner.setWidth 32
  | 12 => BitVec.ofNat 32 e.c.num
  | 13 => BitVec.ofNat 32 e.g.slip
  | 14 => e.g.lodcnt
  | _ => BitVec.ofNat 32 (s.cluster (cluOf e.g.core)).level

/-- A source operand: its code of R204, its type, whether it is a pair, and its cross-lane fetch. -/
structure SrcOp where
  code : Nat
  o    : Opnd
  ty   : Ty := .b32
  pair : Bool := false
  xlm  : Xlm := .none
  xls  : BitVec 6 := 0
  deriving DecidableEq, Repr

/-- The source lane of a cross-lane modifier, none outside the group (R214). -/
def xlane (m : Xlm) (xls : BitVec 6) (w l : Nat) : Option Nat :=
  let k := xls.toNat
  let inside := fun (s : Nat) => if s < w then some s else none
  match m with
  | .none => some l
  | .bc => inside k
  | .xor => inside (l ^^^ k)
  | .up => if l < k then none else inside (l - k)
  | .dn => inside (l + k)
  | .rot => inside ((l + k) % w)

/-- The value of registers `n` (and `n + 1`) in a lane. -/
def SliceSt.vecVal (x : SliceSt) (n l : Nat) (pair : Bool) : LV :=
  if pair then LV.pair (x.vreg n l) (x.vreg (n + 1) l) else LV.ofVal (x.vreg n l)

def SliceSt.scaVal (x : SliceSt) (n : Nat) (pair : Bool) : LV :=
  if pair then LV.pair (x.sreg n) (x.sreg (n + 1)) else LV.ofVal (x.sreg n)

/-- src(X, l), before the sign modifiers (R222). `k` counts the earlier pops of the same queue. -/
def State.srcVal (s : State) (e : Env) (x : SrcOp) (k l : Nat) : LV :=
  match x.o with
  | .vec _ | .ind _ _ =>
    match xlane x.xlm x.xls e.g.width l with
    | some l' => e.x.vecVal (e.regNum x.o) l' x.pair
    | none => LV.of 0
  | .sca n => e.x.scaVal n.toNat x.pair
  | .pred p => LV.of (boolNat ((e.x.pred p).getLsbD l))
  | .que q => LV.ofVal ((e.g.laneVal q.toNat l k).getD Val.zero)
  | .imm i => LV.of (immVal x.ty x.pair i)
  | .spc n => LV.of (s.special e n l).toNat
  | .long i => LV.of i.toNat

/-! ## Queue operands (R205) -/

/-- The queue that a source pops. -/
def SrcOp.queue? (x : SrcOp) : Option Nat :=
  match x.o with
  | .que q => some q.toNat
  | _ => none

/-- The sources with the pops of the same queue that come before each. -/
def withSkips : List SrcOp → List Nat → List (SrcOp × Nat)
  | [], _ => []
  | x :: xs, seen =>
    match x.queue? with
    | some q => (x, seen.count q) :: withSkips xs (q :: seen)
    | none => (x, 0) :: withSkips xs seen

/-- Waits until every popping lane has a value (R154). -/
def Env.popReady (e : Env) : List (SrcOp × Nat) → Chk Unit
  | [] => .ok ()
  | (x, k) :: xs =>
    match x.queue? with
    | none => e.popReady xs
    | some q => do
      let missing := maskOf fun l => e.exec.getLsbD l && (e.g.laneVal q l k).isNone
      waitIf (missing != 0) (.pop q missing k)
      e.popReady xs

/-- Waits until the queues of a destination have room for one entry each (R154, R156). -/
def Env.pushReady (e : Env) (d : Opnd) (n : Nat) : Chk Unit :=
  match d with
  | .que q => waitIf (!e.g.roomFor q.toNat n) (.push q.toNat n)
  | _ => .ok ()

/-- The queue pops of an instruction, made together; each pop of qbc or qv by the A-slice raises LODCNT (R154,
R156). -/
def Group.popAll (g : Group) (sl : Slice) (m : Lanes) : List SrcOp → Group
  | [] => g
  | x :: xs =>
    match x.queue? with
    | none => g.popAll sl m xs
    | some q =>
      let g := g.pop q m
      let g := if sl = .a ∧ (q = 5 ∨ q = 7) ∧ g.lodcnt ≠ 0xFFFFFFFF then { g with lodcnt := g.lodcnt + 1 } else g
      g.popAll sl m xs

/-! ## Poison (R60, R123, R272) -/

/-- Operand code of TRAPINFO[7:6]. -/
def poisonCode (code : Nat) : Nat :=
  match code with
  | 1 => 0
  | 2 => 1
  | _ => 2

/-- TRAPINFO of a consumed poison: the block of procedural poison stands in [31:8]. -/
def poisonInfo (p : Poison) (lane code : Nat) : Nat :=
  lane + poisonCode code * 2 ^ 6 + (if p.cause = 0x15 then 0 else p.block.toNat % 2 ^ 24 * 2 ^ 8)

/-- The first poisoned source: the lowest lane, and in it the first operand. -/
def findPoison (lanes : List Nat) (srcs : List (Nat × (Nat → LV))) : Option (Poison × Nat × Nat) :=
  lanes.findSome? fun l => srcs.findSome? fun x => ((x.2 l).p).map fun p => (p, l, x.1)

/-- An instruction that reads a poisoned value takes POISON, or the cause of procedural poison. -/
def poisonCheck (lanes : Lanes) (srcs : List (Nat × (Nat → LV))) : Chk Unit :=
  match findPoison (lanesOf lanes) srcs with
  | some (p, l, code) => .error (.trap p.cause.toNat (poisonInfo p l code))
  | none => .ok ()

def isQueue : Opnd → Bool
  | .que _ => true
  | _ => false

/-- A push waits for the slice's earlier accesses, those that wait for qs data included (R70; DEDUCED, log 24). -/
def State.pushEdge (s : State) (e : Env) (d : Opnd) : Chk Unit :=
  waitIf (isQueue d && !(s.openAccs e.gid e.sl).isEmpty) (waitOn (s.openAccs e.gid e.sl))

/-- The sources of an instruction once every pop and the push may be made, in order, with their operand codes; not yet
checked for poison. -/
def State.peek (s : State) (e : Env) (srcs : List SrcOp) (d : Opnd) (pushes : Nat) : Chk (List (Nat × (Nat → LV))) := do
  let xs := withSkips srcs []
  e.popReady xs
  e.pushReady d pushes
  s.pushEdge e d
  pure (xs.map fun x => (x.1.code, fun l => s.srcVal e x.1 x.2 l))

/-- The lane values of peeked sources. -/
def lvVals (l : List (Nat × (Nat → LV))) : List (Nat → Nat) := l.map fun x => fun i => (x.2 i).v

/-- The sources of an instruction, checked for poison. -/
def State.gather (s : State) (e : Env) (srcs : List SrcOp) (d : Opnd) (pushes : Nat) : Chk (List (Nat → Nat)) := do
  let vals ← s.peek e srcs d pushes
  poisonCheck e.exec vals
  pure (lvVals vals)

/-- Side effects of the reads: the pops, and the latch of %timeh by a read of %time (R154, Table 9-4). -/
def State.consume (s : State) (e : Env) (srcs : List SrcOp) : State :=
  let s := s.updGroup e.gid fun g => g.popAll e.sl e.exec srcs
  if srcs.any fun x => decide (x.o = .spc 8) then
    s.updSlice e.gid e.sl fun x => { x with timeh := (s.time >>> 32).setWidth 32 }
  else s

/-! ## Sign modifiers of integers and floats (R213) -/

/-- An integer source of TYPE: its low n bits, then absolute value, then negation, modulo 2^n. -/
def intMod (ty : Ty) (neg abs : Bool) (v : Nat) : Nat :=
  let m := 2 ^ ty.bits
  let x := v % m
  let x := if abs && ty.signed && decide (m ≤ 2 * x) then m - x else x
  if neg then (m - x) % m else x

/-- The integer that a value of TYPE is (R244). -/
def intVal (ty : Ty) (v : Nat) : Int :=
  let m := 2 ^ ty.bits
  let x := v % m
  if ty.signed && decide (m ≤ 2 * x) then (x : Int) - m else x

/-- Range of an integer TYPE. -/
def intMin (ty : Ty) : Int := if ty.signed then -(2 ^ (ty.bits - 1) : Int) else 0
def intMax (ty : Ty) : Int := if ty.signed then 2 ^ (ty.bits - 1) - 1 else 2 ^ ty.bits - 1

/-- wrap(y) and sat(y) (R244); the result is zero-extended. -/
def wrapInt (ty : Ty) (y : Int) : Nat := (y % (2 ^ ty.bits : Int)).toNat
def satInt (ty : Ty) (y : Int) : Nat := wrapInt ty (max (intMin ty) (min (intMax ty) y))
def intResult (ty : Ty) (sat : Bool) (y : Int) : Nat := if sat then satInt ty y else wrapInt ty y

/-- Sign bit of one element cleared, then inverted. -/
def signMod (bit : Nat) (neg abs : Bool) (v : Nat) : Nat :=
  let v := if abs && bitN v bit then v - 2 ^ bit else v
  if neg then (if bitN v bit then v - 2 ^ bit else v + 2 ^ bit) else v

/-- A floating source of TYPE after its modifiers, as codes of its elements. -/
def fltMod (ty : Ty) (neg abs : Bool) (v : Nat) : Nat :=
  let f := fmtOf ty
  if ty.isH then signMod 15 neg abs (v % 2 ^ 16) + signMod 15 neg abs (v / 2 ^ 16 % 2 ^ 16) * 2 ^ 16
  else signMod f.signBit neg abs (v % 2 ^ f.width)

/-! ## Destinations (R222, R223) -/

/-- Writes a result of `k` registers, given register by register, to the lanes of exec; a scalar takes the lowest
lane's. -/
def SliceSt.writeRegs (x : SliceSt) (e : Env) (d : Opnd) (vals : List (Nat → Val)) : SliceSt :=
  let n := e.regNum d
  match d with
  | .vec _ | .ind _ _ => (vals.zipIdx).foldl (fun x v => x.setVreg (n + v.2) e.exec v.1) x
  | .sca _ => (vals.zipIdx).foldl (fun x v => x.setSreg (n + v.2) (v.1 (lowLane e.exec))) x
  | .pred p =>
    match vals with
    | v :: _ => x.setPred p e.exec (maskOf fun l => (v l).bits.getLsbD 0)
    | [] => x
  | _ => x

/-- The 32-bit registers of a result value. -/
def splitVal (pair : Bool) (f : Nat → Nat) : List (Nat → Val) :=
  if pair then [fun l => Val.of (BitVec.ofNat 32 (f l)), fun l => Val.of (BitVec.ofNat 32 (f l / 2 ^ 32))]
  else [fun l => Val.of (BitVec.ofNat 32 (f l))]

/-- The lane values of a queue entry. -/
def laneList (w : Nat) (f : Nat → Val) : List Val := (List.range w).map f

/-- write(OPD, l, v) for every lane of exec, or one push of an entry (R222). -/
def State.writeDst (s : State) (e : Env) (d : Opnd) (pair : Bool) (f : Nat → Nat) : State :=
  match d with
  | .que q =>
    s.updGroup e.gid fun g =>
      g.push q.toNat e.exec e.exec (laneList g.width fun l => Val.of (BitVec.ofNat 32 (f l))) 0 none
  | _ => s.updSlice e.gid e.sl fun x => x.writeRegs e d (splitVal pair f)

/-- The destination of an outstanding result. -/
def Env.dst (e : Env) : Opnd → Dst
  | .vec n => .vec n.toNat
  | .ind b ix => .vec (e.regNum (.ind b ix))
  | .sca n => .sca n.toNat (lowLane e.exec)
  | .pred p => .pred p.toNat
  | _ => .none

/-- Lanes in which a destination is outstanding: a scalar is so for every lane of the fragment. -/
def Env.dstLanes (e : Env) : Opnd → Lanes
  | .sca _ => e.f.mask
  | _ => e.exec

/-- Starts a variable-latency result whose values are known at once; it is written lane by lane later (R165). A queue
destination is pushed instead. -/
def State.lateDst (s : State) (e : Env) (d : Opnd) (mat : Bool) (vals : List (Nat → Val)) : State :=
  match d with
  | .que q =>
    s.updGroup e.gid fun g =>
      g.push q.toNat e.exec e.exec (laneList g.width fun l => ((vals.map fun v => v l).headD Val.zero)) 0 none
  | _ =>
    let (id, s) := s.fresh
    let m := e.dstLanes d
    s.updSlice e.gid e.sl fun x =>
      { x with outs := x.outs ++ [{ id := id, dst := e.dst d, regs := vals.map (laneList e.g.width), pend := m,
                                    ready := m, acc := none, path := none, mat := mat }] }

end Sys2Proof.Machine
end

