-- ==== Sys2Proof/Machine/Issue.lean ====
section
/-!
DEFINITION. The checks that every issued instruction meets, in the order of Table 9-9, and the one runner that executes
an instruction: its checks, its effect, and the advance of its fragment (09 R197 to R200, R216 to R220, 07 R159, R163,
R165, 08 R188).
-/

namespace Sys2Proof.Machine

/-! ## Checks 3 and 4: slice and privilege (R216, R218) -/

/-- The only slice in which an opcode is legal; none when both are (Table 9-7). -/
def opcSlice (opc : Nat) : Option Slice :=
  if opc = 0x00C then some .a
  else if opc = 0x011 ∨ opc = 0x012 then some .c
  else if 0x100 ≤ opc ∧ opc ≤ 0x119 then some .c
  else if [0x200, 0x201, 0x202, 0x204, 0x205, 0x208, 0x209, 0x20B, 0x210].contains opc then some .a
  else if [0x286, 0x287, 0x288, 0x28E].contains opc then some .a
  else if 0x300 ≤ opc ∧ opc ≤ 0x304 then some .c
  else if [0x385, 0x386, 0x387, 0x38A].contains opc then some .c
  else none

def sliceNum : Slice → Nat
  | .a => 0
  | .c => 1

/-- A GETS or SETS index that only the house may name (Table 13-6). -/
def privIndex (i : Nat) : Bool := i == 0x050 || (decide (0x100 ≤ i) && decide (i ≤ 0x13F))

/-- The instruction is privileged and its issuer is not the house; a SETS of OWNER or CTXID is refused in every owner
(R127, R218). -/
def privFault (opc idx : Nat) (owner : Id12) : Bool :=
  (decide (0x390 ≤ opc) && decide (opc ≤ 0x393) && owner != 0) ||
    ((opc == 0x38D || opc == 0x38E) && privIndex idx && owner != 0) ||
    (opc == 0x38E && decide (idx ≤ 1))

/-- Checks 3 and 4 of Table 9-9 for an opcode and a system-register index. -/
def earlyChecks (e : Env) (opc idx : Nat) : Chk Unit := do
  trapIf ((opcSlice opc).any (· != e.sl)) 3 (opc + sliceNum e.sl * 2 ^ 10)
  trapIf (privFault opc idx e.c.owner) 7 (opc + (if opc = 0x38D ∨ opc = 0x38E then idx * 2 ^ 16 else 0))

/-- Opcode of an instruction. -/
def opcOf (i : Instr) : Nat := ((encodeRaw i).map fun r => r.opc.toNat).getD 0x3FF

/-- System-register index of GETS and SETS. -/
def idxOf : Instr → Nat
  | .gets _ _ i _ => i.toNat
  | .sets _ _ i _ => i.toNat
  | _ => 0

/-- ILLEGAL_ENCODING with its TRAPINFO (Table 9-9). -/
def encTrap (f : EncFault) : Stop := .trap 2 (f.field.toNat * 256 + f.detail.toNat)

/-- What check 5 knows of the issuing group. -/
def Env.encCtx (e : Env) : EncCtx := { slice := e.sl, width := e.g.width, cmin := e.t.kern.cmin, cmax := e.t.kern.cmax }

/-! ## Checks 6 and 7: width and partial mask (R218) -/

/-- Group 6 needs a width-64 group. -/
def needsWidth (opc : Nat) : Bool := decide (0x300 ≤ opc) && decide (opc ≤ 0x304)

/-- MMA, MMD, QNT, BCOPY, BCOPY2, BGATH, XFORM and CSTEP need every lane. -/
def needsAll (opc : Nat) : Bool := [0x300, 0x301, 0x303, 0x286, 0x287, 0x288, 0x210, 0x290].contains opc

def widthCode (w : Nat) : Nat := if w = 16 then 0 else if w = 32 then 1 else 2

/-- Checks 3 to 5, and with a nonempty exec 6 and 7 (Table 9-9). -/
def Env.check (e : Env) (i : Instr) : Chk Unit := do
  let opc := opcOf i
  earlyChecks e opc (idxOf i)
  match i.encFault e.encCtx with
  | some f => .error (encTrap f)
  | none => .ok ()
  if e.exec = 0 then .ok () else
  trapIf (needsWidth opc && e.g.width != 64) 6 (widthCode e.g.width)
  let out := allLanes e.g.width &&& ~~~e.exec
  trapIf (needsAll opc && out != 0) 5 (lowLane out)

/-! ## The issuing fragment -/

/-- The fragment that issues, when it exists in a resident group and its slice has not stopped. -/
def State.issuer (s : State) (w : Issuer) : Option (Team × Group × Frag) :=
  match s.teamOf? w.gid with
  | none => none
  | some t =>
    match t.group? w.gid with
    | none => none
    | some g =>
      match (g.slice w.sl).frag? w.slot with
      | none => none
      | some f => if g.life = .resident ∧ !(g.slice w.sl).stopped then some (t, g, f) else none

/-- What the instruction of a fragment sees under a guard. -/
def State.env (s : State) (w : Issuer) (h : Hdr) : Option Env :=
  (s.issuer w).map fun x =>
    { gid := w.gid, sl := w.sl, slot := w.slot, t := x.1, g := x.2.1, c := s.ctx x.1.ctx, f := x.2.2,
      exec := (x.2.1.slice w.sl).passing h x.2.2.mask }

/-- The team, or the launch, is a prompter (R123). -/
def TeamKind.fills : TeamKind → Bool
  | .prompter _ _ _ _ _ => true
  | _ => false

def Team.isPrompter (t : Team) : Bool := t.kind.fills

/-- A trap of the issuing instruction. -/
def State.trapIn (s : State) (e : Env) (cause info : Nat) : State :=
  s.takeTrap e.gid e.sl e.f e.c.num e.t.isPrompter cause info

/-! ## The effect of an instruction -/

/-- The state after an instruction's effect. `moved` says that the effect itself has placed the fragment. -/
structure Eff where
  s     : State
  moved : Bool
  deriving DecidableEq, Repr

/-- The effect leaves the fragment to go on at PC + 12. -/
def Eff.on (s : State) : Eff := { s := s, moved := false }

/-- Counts the issue: instructions issued, and the skid (R191). -/
def SliceSt.counted (x : SliceSt) (slot : Nat) : SliceSt :=
  { x with issued := x.issued + 1,
           halt := match x.halt with
             | .skid n => .skid (n + 1)
             | h => h,
           frags := updWhere x.frags (fun f => f.slot == slot) fun (f : Frag) => { f with wait := .none } }

/-- An instruction that stays to be executed again has not issued. -/
def SliceSt.uncounted (x : SliceSt) : SliceSt :=
  { x with issued := x.issued - 1,
           halt := match x.halt with
             | .skid n => .skid (n - 1)
             | h => h }

/-- SW parks the fragment after it issues; the fragments that a branch made of it share the marker (R165). -/
def SliceSt.marked (x : SliceSt) (m : Lanes) : SliceSt :=
  let mark := fun (f : Frag) => if f.mask &&& m != 0 && f.wait == .none then { f with wait := .marker } else f
  { x with frags := x.frags.map mark, stack := x.stack.map mark }

/-- Moves the fetch slot to the other live fragment (R163). -/
def SliceSt.switch (x : SliceSt) : SliceSt :=
  let other := 1 - x.served
  match x.frag? other with
  | some _ => { x with served := other, frags := x.frags.map fun (f : Frag) => { f with run := 0 } }
  | none => x

/-- What follows every issued instruction: the next PC, the marker, joins, and the yield. -/
def SliceSt.finish (x : SliceSt) (f : Frag) (h : Hdr) (moved : Bool) : SliceSt :=
  let x := if moved then x else x.goTo f.slot (f.pc + 12)
  let x := if h.sw then x.marked f.mask else x
  let x := x.settle
  if h.yld && !f.handler then x.switch else x

/-- No instruction is being executed. -/
def State.idle (s : State) : State := { s with cur := none }

/-- The state in which the effect of an instruction acts: its issue has been counted. -/
def State.begun (s : State) (e : Env) : State := s.idle.updSlice e.gid e.sl fun x => x.counted e.slot

/-- The split stack of a slice has come down from `n` entries, and one that it must read back from the spill area cannot be read (R161). -/
def State.refillBad (s : State) (gid : Nat) (sl : Slice) (n : Nat) : Bool :=
  match s.teamOf? gid with
  | none => false
  | some t => (t.group? gid).any fun g =>
      (List.range (min (n - (g.slice sl).stackUse) (n - 8))).any fun i => !s.spillOk (s.ctx t.ctx) (stackPlace g (n - i))

/-- The PC at which the served fragment of a slice stands. -/
def SliceSt.servedPc (x : SliceSt) : W64 := (((x.frag? x.served).orElse fun _ => x.frags.head?).map (·.pc)).getD 0

/-- SPILL_FAULT of a slice that no instruction of its own brings down from `n` entries: a barrier or a marker wakes a fragment, and it joins
others. It is charged to the PC of the served fragment (R161; DEDUCED, log 123). -/
def State.refill (s : State) (gid : Nat) (sl : Slice) (n : Nat) : State :=
  if s.refillBad gid sl n then s.fatalTrap gid sl 0x1E 1 (((s.group? gid).map fun g => (g.slice sl).servedPc).getD 0) none 0 else s

/-- The instruction traps. -/
def State.trapped (s : State) (e : Env) (cause info : Nat) : State := s.idle.trapIn e cause info

/-- What follows the effect: the next PC unless the effect has `moved` the fragment, the marker, joins, the yield. When an entry of the split
stack cannot be read back, the instruction traps in the state `b` that it found, before any effect (R161, R188). -/
def State.ended (s : State) (e : Env) (h : Hdr) (moved : Bool) (b : State) : State :=
  let t := s.updSlice e.gid e.sl fun x => x.finish e.f h moved
  if t.refillBad e.gid e.sl e.x.stackUse then b.trapped e 0x1E 1 else t

/-- The instruction waits at issue. -/
def State.waits (s : State) (e : Env) (w : Wait) : State := s.idle.updFrag e.gid e.sl e.slot fun f => { f with wait := w }

/-- The fragment waits in the course of its instruction, and executes it again. -/
def State.stays (s : State) (e : Env) (w : Wait) : State :=
  (s.updSlice e.gid e.sl SliceSt.uncounted).updFrag e.gid e.sl e.slot fun (f : Frag) => { f with wait := w }

/-- The checks of an instruction, then, with a lane left, its effect. -/
def runEff (i : Instr) (body : Env → State → Chk Eff) (e : Env) (s : State) : Chk Eff := do
  e.check i
  if e.exec = 0 then pure (Eff.on (s.begun e)) else body e (s.begun e)

/-- What an issued instruction ends in: its effect, a trap, or a wait at issue. -/
def State.outcome (s : State) (e : Env) (h : Hdr) : Chk Eff → Host.Outcome State Fault Refusal
  | .ok r => .next (r.s.ended e h r.moved s)
  | .error (.trap cause info) => .next (s.trapped e cause info)
  | .error (.wait w) => .next (s.waits e w)

/-- Runs an instruction of the issuing fragment: its checks, then its effect, a trap or a wait. -/
def runInstr (i : Instr) (h : Hdr) (body : Env → State → Chk Eff) (s : State) : Host.Outcome State Fault Refusal :=
  match s.cur.bind fun w => s.env w h with
  | none => .fault .noIssuer
  | some e => s.outcome e h (runEff i body e s)

end Sys2Proof.Machine
end

