-- ==== Sys2Proof/Machine/Address.lean ====
section
/-!
DEFINITION. Range registers and the address checks at issue (01 R7 to R13).
-/

namespace Sys2Proof.Machine

/-- A valid range register (Table 1-1). -/
structure Window where
  num   : Nat
  base  : Nat
  len   : Nat
  ia    : Nat
  prot  : Bool
  k     : Bool
  s     : Bool
  l     : Bool
  p     : Bool
  ex    : Bool
  wr    : Bool
  rd    : Bool
  deriving DecidableEq, Repr

def Ctx.vrgWord (c : Ctx) (n w : Nat) : Nat := (c.vrg.getD (4 * n + w) 0).toNat

/-- Window n as its four words give it, whether valid or not. -/
def Ctx.windowOf (c : Ctx) (n : Nat) : Window :=
  let w0 := c.vrgWord n 0
  let w1 := c.vrgWord n 1
  { num := n, base := bits w1 0 24 * 2 ^ 32 + bits w0 16 16 * 2 ^ 16, len := (c.vrgWord n 2 + 1) * 2 ^ 16,
    ia := bits w1 24 4 * 2 ^ 48 + c.vrgWord n 3 * 2 ^ 16, prot := bitN w0 8, k := bitN w0 7, s := bitN w0 6,
    l := bitN w0 5, p := bitN w0 4, ex := bitN w0 3, wr := bitN w0 2, rd := bitN w0 1 }

/-- The valid windows of a context. -/
def Ctx.windows (c : Ctx) : List Window :=
  ((List.range 16).filter fun n => bitN (c.vrgWord n 0) 0).map c.windowOf

def Window.has (w : Window) (va : Nat) : Bool := decide (w.base ≤ va) && decide (va < w.base + w.len)

/-- The window that holds a VA (R10). -/
def Ctx.window? (c : Ctx) (va : Nat) : Option Window := c.windows.find? fun w => w.has va

/-- The IA of a VA in a window (R10). -/
def Window.iaOf (w : Window) (va : Nat) : Nat := w.ia + (va - w.base)

/-- TRAPINFO of ACCESS_RANGE and ACCESS_RIGHTS (R12). -/
def rangeInfo (lane : Nat) : Nat := lane
def rightsInfo (lane n : Nat) : Nat := lane + 2 ^ 6 + n * 2 ^ 7

/-- The lowest lane of a list that satisfies a test. -/
def firstLane (lanes : List Nat) (f : Nat → Bool) : Option Nat := lanes.find? f

/-- Trap when some lane fails a check; the lowest such lane is named. -/
def laneTrap (lanes : List Nat) (f : Nat → Bool) (cause : Nat) (info : Nat → Nat) : Chk Unit :=
  match firstLane lanes f with
  | some l => .error (.trap cause (info l))
  | none => .ok ()

/-- The address checks of R7, each over every lane before the next: alignment to `al` bytes, the top bits, the windows,
and the rights; the result is the window of each lane. -/
def Ctx.addrChecks (c : Ctx) (lanes : List Nat) (va : Nat → Nat) (al : Nat) (rights : Window → Bool) : Chk Unit := do
  laneTrap lanes (fun l => va l % al != 0) 0x13 id
  laneTrap lanes (fun l => va l / 2 ^ 56 != 0) 0x10 rangeInfo
  laneTrap lanes (fun l => (c.window? (va l)).isNone) 0x10 rangeInfo
  laneTrap lanes (fun l => !(c.window? (va l)).any rights) 0x11
    fun l => rightsInfo l (((c.window? (va l)).map (·.num)).getD 0)

/-- A write of range register words by SETS or a descriptor: whether word 0 with V = 1 is accepted (R9). -/
def Ctx.vrgOk (c : Ctx) (n w0 : Nat) : Bool :=
  let w1 := c.vrgWord n 1
  let w := ({ c with vrg := updAt c.vrg (4 * n) fun _ => BitVec.ofNat 32 w0 } : Ctx).windowOf n
  let home := bits w1 24 4
  let others := c.windows.filter fun x => x.num != n
  bits w0 9 7 == 0 && bits w1 28 4 == 0 && !(decide (4 ≤ home) && decide (home ≤ 7)) && home != 15 &&
    decide (c.vrgWord n 3 + c.vrgWord n 2 ≤ 0xFFFFFFFF) && decide (w.base + c.vrgWord n 2 * 2 ^ 16 ≤ 2 ^ 56 - 2 ^ 16) &&
    others.all fun x => decide (x.base + x.len ≤ w.base) || decide (w.base + w.len ≤ x.base)

/-- A request of a group's slice through a window (R129). -/
def Env.req (e : Env) (w : Window) (write : Bool) (level : Nat) : Req :=
  { core := e.g.core, ctx := e.c.num, owner := e.c.owner, prot := e.c.prot, wprot := w.prot, pwin := some w.p,
    write := write, exempt := false, level := level, team := some e.t.id, writer := [(e.gid, e.sl)] }

end Sys2Proof.Machine
end

