-- ==== Sys2Proof/Machine/Fetch.lean ====
section
/-!
DEFINITION. Instruction fetch: what the next instruction of a picked fragment is, and the line fills of the instruction
cache (07 R163, R164, 01 R11, R12, R17, R20, 09 R220 checks 1 and 2).
-/

namespace Sys2Proof.Machine

/-- What a fetch gives. -/
inductive Fetched
  /-- The fragment is no longer there, or its slice has stopped. -/
  | gone
  /-- A state in which the fragment has trapped, or waits for its instruction. -/
  | other (s : State)
  /-- The instruction to execute. -/
  | run (i : Instr)
  deriving DecidableEq, Repr

/-- An environment with no lane executing, for the checks made at fetch. -/
def State.fetchEnv (w : Issuer) (x : Team × Group × Frag) (s : State) : Env :=
  { gid := w.gid, sl := w.sl, slot := w.slot, t := x.1, g := x.2.1, c := s.ctx x.1.ctx, f := x.2.2, exec := 0 }

/-- The window of a fetch, or the trap of R11 and R12: a fetch belongs to no lane. -/
def Ctx.fetchWindow (c : Ctx) (pc : Nat) : Chk Window :=
  if pc / 2 ^ 56 ≠ 0 then .error (.trap 0x10 0) else
  match c.window? pc with
  | none => .error (.trap 0x10 0)
  | some w => if w.ex && !w.l then .ok w else .error (.trap 0x11 (rightsInfo 0 w.num))

/-- The instruction slot of an IA that serves a context (R130). -/
def Core.code? (k : Core) (ia : Nat) (owner : Id12) (prot : Bool) : Option CodeSlot :=
  k.icache.find? fun x => x.ia.toNat == ia && x.owner == owner && x.prot == prot

/-- Why a word is no instruction, as its trap, checks 2 to 5 in order (Table 9-9). -/
def decodeTrap (e : Env) (d : DecErr) : Chk Unit :=
  match d with
  | .opcode opc => .error (.trap 1 opc.toNat)
  | .encoding opc idx f => do
    earlyChecks e opc.toNat idx.toNat
    .error (encTrap f)

/-- The window, the instruction cache and the decoder for one fragment. -/
def State.fetch (s : State) (w : Issuer) : Fetched :=
  match s.issuer w with
  | none => .gone
  | some x =>
    let e := s.fetchEnv w x
    let stop := fun (r : Stop) =>
      match r with
      | .trap cause info => Fetched.other (s.trapIn e cause info)
      | .wait v => Fetched.other (s.updFrag w.gid w.sl w.slot fun f => { f with wait := v })
    match e.c.fetchWindow e.f.pc.toNat with
    | .error r => stop r
    | .ok win =>
      match (s.core e.g.core).code? (win.iaOf e.f.pc.toNat) e.c.owner (e.c.prot && win.prot) with
      | none => stop (.wait .fetch)
      | some k =>
        match k.poison with
        | some p => stop (.trap p.cause.toNat (3 * 2 ^ 6 + (if p.cause = 0x15 then 0 else p.block.toNat % 2 ^ 24 * 2 ^ 8)))
        | none =>
          match decode k.word with
          | .ok i => .run i
          | .error d =>
            match decodeTrap e d with
            | .error r => stop r
            | .ok () => .gone

end Sys2Proof.Machine
end

