-- ==== Sys2Proof/Machine/Flags.lean ====
section
/-!
DEFINITION. What sets predicate bits: the comparisons of ISETP and FSETP and the operations of PLOP (10 R249, R251,
11 R259); and the runner of the instructions that compute one value per lane.
-/

namespace Sys2Proof.Machine

/-- Comparison codes EQ, NE, LT, LE, GT, GE of two integers (R249). -/
def cmpInt (code : Nat) (a b : Int) : Bool :=
  match code with
  | 0 => a == b
  | 1 => a != b
  | 2 => decide (a < b)
  | 3 => decide (a ≤ b)
  | 4 => decide (b < a)
  | _ => decide (b ≤ a)

/-- The ordered relations EQ to GE of two values, neither of them NaN. -/
def cmpExact (code : Nat) (a b : Exact) : Bool :=
  match code with
  | 0 => a.eq b
  | 1 => !a.eq b
  | 2 => a.lt b
  | 3 => a.lt b || a.eq b
  | 4 => b.lt a
  | _ => b.lt a || a.eq b

/-- FSETP codes 0 to 13 (R259). -/
def cmpFlt (code : Nat) (a b : Exact) : Bool :=
  let nan := a.isNan || b.isNan
  if code = 6 then !nan
  else if code = 7 then nan
  else if code < 6 then !nan && cmpExact code a b
  else nan || cmpExact (code - 8) a b

/-- PLOP operations AND, OR, XOR, ANDN, ORN on one bit each (R251). -/
def plopBit (code : Nat) (a b : Bool) : Bool :=
  match code with
  | 0 => a && b
  | 1 => a || b
  | 2 => a != b
  | 3 => a && !b
  | _ => a || !b

/-! ## One value per lane -/

/-- The register span of a source. -/
def SrcOp.use (x : SrcOp) : RegUse := { code := x.code, o := x.o, n := if x.pair then 2 else 1, even := x.pair }

/-- The register span of a destination. -/
def dstUse (d : Opnd) (pair : Bool) : RegUse := { code := 0, o := d, n := if pair then 2 else 1, even := pair }

/-- The effect of an instruction that computes one value per lane of exec from its sources and writes it at once. -/
def aluEff (d : Opnd) (pair : Bool) (srcs : List SrcOp) (f : List Nat → Nat) (e : Env) (s : State) : Chk Eff := do
  e.bounds (dstUse d pair :: srcs.map SrcOp.use)
  let vs ← s.gather e srcs d 1
  pure (Eff.on ((s.consume e srcs).writeDst e d pair fun l => f (vs.map fun v => v l)))

/-- The same for a result that is written later, lane by lane (R165). -/
def lateEff (d : Opnd) (pair : Bool) (srcs : List SrcOp) (f : List Nat → Nat) (e : Env) (s : State) : Chk Eff := do
  e.bounds (dstUse d pair :: srcs.map SrcOp.use)
  let vs ← s.gather e srcs d 1
  pure (Eff.on ((s.consume e srcs).lateDst e d false (splitVal pair fun l => f (vs.map fun v => v l))))

/-- A function of one, two or three lane values. -/
def on1 (f : Nat → Nat) : List Nat → Nat
  | [b] => f b
  | _ => 0

def on2 (f : Nat → Nat → Nat) : List Nat → Nat
  | [a, b] => f a b
  | _ => 0

def on3 (f : Nat → Nat → Nat → Nat) : List Nat → Nat
  | [a, b, c] => f a b c
  | _ => 0

/-- OPA, OPB with its cross-lane fetch, and the third source of layouts MA and MF. -/
def srcA (a : Opnd) (ty : Ty) : SrcOp := { code := 1, o := a, ty := ty, pair := ty == .b64 }
def srcB (b : Opnd) (ty : Ty) (m : MA) : SrcOp :=
  { code := 2, o := b, ty := ty, pair := ty == .b64, xlm := m.xlm, xls := m.xls }
def srcBF (b : Opnd) (ty : Ty) : SrcOp := { code := 2, o := b, ty := ty, pair := ty == .b64 }
def srcC (c : Src3) (ty : Ty) : SrcOp := { code := 3, o := c.opnd, ty := ty, pair := ty == .b64 }

end Sys2Proof.Machine
end

