-- ==== Sys2Proof/Machine/Storage.lean ====
section
/-!
DEFINITION. The register file of a core: quarters, owner stamps and clearing, and the blocks that RACQ takes and RREL gives
back (07 R150 to R152, R239 to R241, 05 R125, 06 R138; DEDUCED, log 23).
-/

namespace Sys2Proof.Machine

/-- A team holds its core's resources unless it is stopped, detached or waits for a place. -/
def TeamLife.holds : TeamLife → Bool
  | .stopped _ _ _ _ => false
  | .detached _ => false
  | .placing => false
  | _ => true

/-- The groups that hold resources of a core. -/
def State.coreGroups (s : State) (c : Nat) : List Group :=
  ((s.teams.filter fun t => t.life.holds).flatMap (·.groups)).filter fun g => g.core == c

/-- The core at position 0 of a cluster holds a slot for prompters (R125). -/
def holdsPrompters (c : Nat) : Bool := c % 4 == 0

/-- Quarters of a block: one per 16 lanes (R152). -/
def quartersOf (w : Nat) : Nat := w / 16

def State.usedQuarters (s : State) (c : Nat) : List Nat := (s.coreGroups c).flatMap (·.quarters)

/-- `n` blocks of `nq` quarters, each within one unit, that are not used. -/
def takeQuarters (nq : Nat) : Nat → List Nat → Option (List Nat)
  | 0, _ => some []
  | n + 1, used =>
    match (List.range (1024 / nq)).find? fun i => (List.range nq).all fun j => !used.contains (i * nq + j) with
    | none => none
    | some i =>
      let qs := (List.range nq).map fun j => i * nq + j
      (takeQuarters nq n (qs ++ used)).map (qs ++ ·)

/-- Units with no used quarter. -/
def wholeFree (used : List Nat) : Nat :=
  ((List.range 256).filter fun u => (List.range 4).all fun j => !used.contains (4 * u + j)).length

/-- Units of a core that ordinary groups leave free for prompters: 8 blocks for each slice (R125). -/
def State.prompterUnits (s : State) (c : Nat) : Nat :=
  if holdsPrompters c then
    16 - (((s.coreGroups c).filter fun g => g.slot == 31).map fun g => (g.quarters.length + 3) / 4).sum
  else 0

/-- Units that the emergency reserve still holds. -/
def Core.reserveUnits (k : Core) : Nat := (k.reserve + 3) / 4

/-- Quarters for `n` blocks of a group from the general pool, when enough units stay free for the emergency reserve and
the prompters; a prompter in its own slot leaves only the reserve. -/
def State.generalBlocks (s : State) (c w n : Nat) (own : Bool) : Option (List Nat) :=
  let used := s.usedQuarters c
  match takeQuarters (quartersOf w) n used with
  | none => none
  | some qs =>
    let keep := (s.core c).reserveUnits + (if own then 0 else s.prompterUnits c)
    if keep ≤ wholeFree (qs ++ used) then some qs else none

/-- Owner stamp of a quarter. -/
def Core.quarterStamp (k : Core) (q : Nat) : Id12 := ((k.regOwner.find? fun x => x.1 == q).map (·.2)).getD 0xFFF

/-- Registers of the blocks on some quarters, as an owner finds them: zero where the stamp differs, else free values (R152,
DESIGN CHOICE, log 12, DEDUCED, log 23). Register r of a block of nq quarters lies in its quarter r × nq ÷ 8. -/
def State.blockRegs (s : State) (c w : Nat) (owner : Id12) (qs : List Nat) : List (List Val) :=
  let nq := quartersOf w
  (List.range (8 * (qs.length / nq))).map fun r =>
    let q := qs.getD (r / 8 * nq + r % 8 * nq / 8) 0
    let same := (s.core c).quarterStamp q = owner
    (List.range w).map fun l => if same then Val.of (Config.freeWord (s.free + r * 64 + l)) else Val.zero

/-- The quarters take the owner's stamp, and the free values are used up. -/
def State.stampQuarters (s : State) (c : Nat) (owner : Id12) (qs : List Nat) : State :=
  let s := s.updCore c fun k => { k with regOwner := qs.foldl (fun l q => assocSet l q owner) k.regOwner }
  { s with free := s.free + 64 * 8 * qs.length }

/-- A group takes C-slice blocks on some quarters, above its current top (R240). -/
def State.addBlocks (s : State) (g : Group) (owner : Id12) (qs : List Nat) (fromReserve : Nat) : State :=
  let regs := s.blockRegs g.core g.width owner qs
  let s := s.updGroup g.gid fun g =>
    { g with held := g.held + qs.length / quartersOf g.width, quarters := g.quarters ++ qs,
             reserve := g.reserve + fromReserve, c := { g.c with vregs := g.c.vregs ++ regs } }
  let s := s.updCore g.core fun k => { k with reserve := k.reserve - fromReserve }
  s.stampQuarters g.core owner qs

/-- A group in the slot that its core holds for prompters. -/
def Group.ownSlot (g : Group) : Bool := holdsPrompters g.core && g.slot == 31

/-- Takes blocks up to `n` from the general pool, when they are free. -/
def State.raiseBlocks (s : State) (g : Group) (owner : Id12) (n : Nat) : Option State :=
  if n ≤ g.held then some s else
  (s.generalBlocks g.core g.width (n - g.held) g.ownSlot).map fun qs => s.addBlocks g owner qs 0

/-- Gives back the blocks at or above `n`; quarters of the reserve return to the reserve first (R151, R241). -/
def State.dropBlocks (s : State) (g : Group) (n : Nat) : State :=
  if g.held ≤ n then s else
  let back := min ((g.held - n) * quartersOf g.width) g.reserve
  let s := s.updGroup g.gid fun g =>
    { g with held := n, quarters := g.quarters.take ((g.ablk + n) * quartersOf g.width), reserve := g.reserve - back,
             c := { g.c with vregs := g.c.vregs.take (8 * n) } }
  s.updCore g.core fun k => { k with reserve := k.reserve + back }

/-! ## RACQ_GRANT and EMERGENCY_RESERVE_GRANT -/

/-- What a waiting RACQ of a group asks for. -/
def Group.racq? (g : Group) : Option Nat :=
  g.c.frags.findSome? fun f =>
    match f.wait with
    | .racq n => some n
    | _ => none

/-- Wakes the RACQs of a group that hold enough blocks. -/
def State.wakeRacq (s : State) (gid : Nat) : State :=
  s.updGroup gid fun g =>
    { g with c := { g.c with frags := g.c.frags.map fun (f : Frag) =>
        match f.wait with
        | .racq n => if n ≤ g.held then { f with wait := .none } else f
        | _ => f } }

/-- A waiting RACQ receives freed units (R240). -/
def State.racqGrant (s : State) (gid : Nat) : State :=
  match s.teamOf? gid with
  | none => s
  | some t =>
    match (t.group? gid).bind fun g => g.racq?.map fun n => (g, n) with
    | none => s
    | some (g, n) => if t.life.holds then ((s.raiseBlocks g (s.ctx t.ctx).owner n).map fun s => s.wakeRacq gid).getD s else s

def execRacqGrant (gid : Nat) (s : State) : Host.Outcome State Fault Refusal := .next (s.racqGrant gid)

end Sys2Proof.Machine
end

