-- ==== Sys2Proof/Machine/Governor.lean ====
section
/-!
DEFINITION. Performance levels, the governor, the limit tables and the events of the power system (13 R310, R319, 16 R368 to
R374, R378).
-/

namespace Sys2Proof.Machine

/-! ## Levels (R368) -/

/-- Voltage of a level in mV (Table 16-4). -/
def levelMv (l : Nat) : Nat :=
  [550, 570, 590, 610, 630, 650, 660, 680, 710, 740, 770, 800, 840, 870, 910, 950].getD l 950

/-- FCLK of a level in MHz (Table 16-4). -/
def levelMhz (l : Nat) : Nat :=
  [600, 700, 800, 900, 1000, 1100, 1150, 1250, 1350, 1450, 1550, 1700, 1850, 2000, 2150, 2300].getD l 2300

/-- The double ratio is allowed (R368). -/
def doubleOk (l : Nat) : Bool := decide (levelMhz l ≤ 1150)

/-! ## The active limits (R372, Table 16-11) -/

/-- A table that the firmware image carries. -/
def State.limitTable (s : State) (medium : Nat) : Option LimitTable := s.urxia.tables.find? fun t => t.medium == medium


/-- Table, band and level cap in force. -/
def State.limTable (s : State) : Nat := bits s.ltstat 0 2
def State.limBand (s : State) : Nat := bits s.ltstat 4 4
def State.limCap (s : State) : Nat := bits s.ltstat 8 4

/-- Voltage floor of the active band in mV; 0 where no table is carried. -/
def State.limFloor (s : State) : Nat := ((s.limitTable s.limTable).bind fun t => (t.bands[s.limBand]?).map (·.floor)).getD 0

/-- P_lim of the active table in W; none where no table is carried. -/
def State.limPower (s : State) : Option Nat := (s.limitTable s.limTable).map (·.plim)

/-- The lowest level whose voltage is at or above the floor (R369). -/
def State.floorLevel (s : State) : Nat := ((List.range 16).find? fun l => decide (s.limFloor ≤ levelMv l)).getD 15

/-! ## Steps of a cluster (R369) -/

/-- The next step of a cluster whose step in progress has ended: voltage up, then clock, then voltage down, then the ratio. The double ratio is
left before FCLK rises past what it allows, so that LCLK stays within 2.3 GHz (R5; DEDUCED, log 138). -/
def Cluster.advance (k : Cluster) : Cluster :=
  if k.volt < k.tgtLevel ∧ k.level < k.tgtLevel then { k with step := .rampUp, goal := k.tgtLevel }
  else if k.ratio = 2 ∧ k.tgtRatio ≠ 2 ∧ !doubleOk k.tgtLevel then { k with step := .crossing, goal := k.tgtRatio }
  else if k.level ≠ k.tgtLevel then { k with step := .clock, goal := k.tgtLevel }
  else if k.level < k.volt then { k with step := .rampDown, goal := k.level }
  else if k.ratio ≠ k.tgtRatio then { k with step := .crossing, goal := k.tgtRatio }
  else { k with step := .settled, gnt := k.level + k.ratio * 16 }

/-- A new target is taken up when the current step ends. -/
def Cluster.retarget (k : Cluster) (l r : Nat) : Cluster :=
  let k := { k with tgtLevel := l, tgtRatio := r }
  if k.step = .settled then k.advance else k

/-! ## The governor -/

/-- Contexts with a team on a cluster, by number. -/
def State.clusterCtxs (s : State) (cl : Nat) : List Ctx :=
  (((s.teams.filter fun t => t.life.holds && t.groups.any fun g => cluOf g.core == cl).map (·.ctx)).eraseDups).map s.ctx

/-- DLPL of the deadline launches that hold cores of a cluster. -/
def State.clusterDl (s : State) (cl : Nat) : List Nat :=
  (List.range 4).flatMap fun i => ((s.core (4 * cl + i)).dlHeld.filterMap s.launch?).map (·.dlpl)

def Ctx.reqLevel (c : Ctx) : Nat := bits c.plreq.toNat 0 4
def Ctx.reqRatio (c : Ctx) : Nat := bits c.plreq.toNat 4 2

/-- The ratio of the highest request; among equal requests the lowest context number wins, and a deadline launch's ratio is
equal. -/
def pickRatio (cs : List Ctx) (dl : List Nat) : Nat :=
  match cs with
  | [] => 1
  | c :: cs =>
    let b := cs.foldl (fun (b : Ctx) c =>
      if b.reqLevel < c.reqLevel ∨ (b.reqLevel = c.reqLevel ∧ c.num < b.num) then c else b) c
    if dl.any fun d => decide (b.reqLevel ≤ d) then 1 else b.reqRatio

/-- Target level and ratio of a cluster. -/
def State.targetOf (s : State) (cl : Nat) : Nat × Nat :=
  let k := s.cluster cl
  let cs := s.clusterCtxs cl
  let dl := s.clusterDl cl
  let want := (cs.map Ctx.reqLevel ++ dl).foldl max 0
  let l := min 15 (max (min want (s.limCap - k.capDown)) (s.floorLevel + k.extraFloor))
  let r := pickRatio cs dl
  (l, if r = 2 ∧ !doubleOk l then 1 else r)

/-- PLSTAT.BUSY clears when every cluster with a team of the context has settled (R310). -/
def State.settleBusy (s : State) : State :=
  { s with ctxs := s.ctxs.map fun (c : Ctx) =>
      if (List.range 40).all fun cl => (s.cluster cl).step == .settled || !(s.clusterCtxs cl).any (fun d => d.num == c.num)
      then { c with plstat := c.plstat &&& 3 } else c }

/-- The governor sets every cluster's target (R369). -/
def State.govern (s : State) : State :=
  ((List.range 40).foldl (fun (s : State) cl =>
    let t := s.targetOf cl
    s.updCluster cl fun k => k.retarget t.1 t.2) s).settleBusy

/-- The step in progress of a cluster ends. -/
def State.clusterStep (s : State) (cl : Nat) (f : Cluster → Cluster) : State :=
  (s.updCluster cl fun k => (f k).advance).settleBusy

/-- VOLTAGE_RAMP_DONE. -/
def State.rampDone (s : State) (cl : Nat) : State :=
  let st := (s.cluster cl).step
  if st = .rampUp ∨ st = .rampDown then s.clusterStep cl fun k => { k with volt := k.goal } else s

def execVoltageRampDone (cl : Nat) (s : State) : Host.Outcome State Fault Refusal := .next (s.rampDone cl)

/-- FCLK_CHANGE_DONE. -/
def State.clockDone (s : State) (cl : Nat) : State :=
  if (s.cluster cl).step = .clock then s.clusterStep cl fun k => { k with level := k.goal } else s

def execFclkChangeDone (cl : Nat) (s : State) : Host.Outcome State Fault Refusal := .next (s.clockDone cl)

/-- CLOCK_CROSSING_DONE. -/
def State.crossDone (s : State) (cl : Nat) : State :=
  if (s.cluster cl).step = .crossing then s.clusterStep cl fun k => { k with ratio := k.goal } else s

def execClockCrossingDone (cl : Nat) (s : State) : Host.Outcome State Fault Refusal := .next (s.crossDone cl)

/-! ## Module power (R370) -/

/-- Clusters whose target stands above their floor level. -/
def State.loweable (s : State) (dl : Bool) : List Nat :=
  (List.range 40).filter fun cl => (s.clusterDl cl).isEmpty != dl && decide (s.floorLevel + (s.cluster cl).extraFloor < (s.cluster cl).tgtLevel)

/-- Lowers the cap of the highest clusters by one level: those with no deadline launch first. -/
def State.lowerCap (s : State) : State :=
  let cs := if (s.loweable false).isEmpty then s.loweable true else s.loweable false
  let top := (cs.map fun cl => (s.cluster cl).tgtLevel).foldl max 0
  (cs.filter fun cl => (s.cluster cl).tgtLevel == top).foldl (fun (s : State) cl =>
    s.updCluster cl fun k => { k with capDown := s.limCap - (top - 1) }) s

/-- Restores one step: the caps first, then GR. -/
def State.restoreStep (s : State) : State :=
  if s.clusters.any fun k => decide (0 < k.capDown) then
    { s with clusters := s.clusters.map fun (k : Cluster) => { k with capDown := k.capDown - 1 } }
  else { s with clusters := s.clusters.map fun (k : Cluster) => { k with gr := min 8 (k.gr + 1) } }

/-- POWER_SAMPLE: one measurement, every 10 µs. `overload` and `calm` count the samples above P_lim and below 0.95 × P_lim
in a row. -/
def State.powerSample (s : State) (watts : Nat) : State :=
  let s := { s with clusters := s.clusters.map fun (k : Cluster) => { k with sampleEncores := 0 } }
  match s.limPower with
  | none => s.govern
  | some p =>
    if p < watts then
      let s := { s with overload := s.overload + 1, calm := 0,
                        clusters := s.clusters.map fun (k : Cluster) => { k with gr := if 2 < k.gr then k.gr - 1 else k.gr } }
      (if 10 < s.overload ∧ s.overload % 10 = 1 then s.lowerCap else s).govern
    else if watts * 100 < 95 * p then
      let s := { s with overload := 0, calm := s.calm + 1 }
      (if 100 < s.calm ∧ s.calm % 10 = 1 then s.restoreStep else s).govern
    else { s with overload := 0, calm := 0 }.govern

def execPowerSample (watts : Nat) (s : State) : Host.Outcome State Fault Refusal := .next (s.powerSample watts)

/-! ## Monitors (R371, R378) -/

/-- The next sample of a stall monitor (Table 13-7). -/
def stallNext (old : W32) (ratio : BitVec 16) : W32 := BitVec.ofNat 32 ((old.toNat / 65536 + 1) % 65536 * 65536 + ratio.toNat)

def execStallSample (cl : Nat) (memStall issStall : BitVec 16) (s : State) : Host.Outcome State Fault Refusal :=
  .next (s.updCluster cl fun k => { k with stallmem := stallNext k.stallmem memStall, stalliss := stallNext k.stalliss issStall })

/-- TIMING_ERROR_ENCORE: the count rises; the seventeenth in a sample raises the cluster's floor by one level. -/
def State.encoreAt (s : State) (cl : Nat) : State :=
  (s.updCluster cl fun k =>
    { k with encore := if k.encore = 0xFFFFFFFF then k.encore else k.encore + 1, sampleEncores := k.sampleEncores + 1,
             extraFloor := if k.sampleEncores = 16 then k.extraFloor + 1 else k.extraFloor }).govern

def execTimingErrorEncore (cl : Nat) (s : State) : Host.Outcome State Fault Refusal := .next (s.encoreAt cl)

/-! ## Board reports (R372 to R374) -/

/-- Puts a table, a band and a cap into force; a change of band ends the raised floors of R378. -/
def State.setLimits (s : State) (fallback : Bool) (table band cap : Nat) : State :=
  let same := decide (s.limTable = table) && decide (s.limBand = band)
  let s := s.setReg 0 0x200400 4 (table + band * 16 + cap * 256 + boolNat fallback * 2 ^ 31)
  let s := if same then s else { s with clusters := s.clusters.map fun (k : Cluster) => { k with extraFloor := 0 } }
  s.govern

/-- The lowest band whose TOP is at or above a temperature. -/
def LimitTable.bandAt (t : LimitTable) (temp : Int) : Option Nat :=
  (List.range t.bands.length).find? fun i => (t.bands[i]?).any fun b => decide (temp ≤ b.top)

/-- The fallback: the carried table with the lowest P_lim, PL4, a record and the status register. While it is in force, a further missing or
bad report sends no other record (DESIGN CHOICE, log 114). -/
def State.fallback (s : State) : State :=
  let best := s.urxia.tables.foldl (fun (b : Option LimitTable) t =>
    match b with
    | none => some t
    | some x => if t.plim < x.plim then some t else b) none
  let temp := (s.board.report.map (·.1)).getD 0
  let band := ((best.bind fun t => t.bandAt temp).getD 7)
  let was := bitN s.ltstat 31
  let s := s.setLimits true ((best.map (·.medium)).getD 0) band 4
  if was then s else s.deviceRecord 0x23 0 0xFFF 0 0 0

/-- The table that a report names under an ordering code (R372). -/
def reportTable (code : OrderingCode) (medium : Nat) : Option Nat :=
  if medium = 3 then none
  else
    match code with
    | .gwp7K => some medium
    | .gwp7M512A => some 0
    | .gwp7M512L => if medium = 0 then none else some medium

/-- A table that a device of an ordering code may carry: on a module those of Table 0-1, with their power limits. -/
def mayCarry (code : OrderingCode) (t : LimitTable) : Bool :=
  match code with
  | .gwp7K => true
  | .gwp7M512A => t.medium == 0 && t.plim == 450
  | .gwp7M512L => (t.medium == 1 && t.plim == 600) || (t.medium == 2 && t.plim == 680)

/-- Applies the board's last report. -/
def State.applyReport (s : State) : State :=
  match s.board.report with
  | none => s.fallback
  | some (temp, flow, medium) =>
    match (reportTable Config.orderingCode medium).bind s.limitTable with
    | none => s.fallback
    | some t =>
      match t.bandAt temp with
      | none => s.fallback
      | some b => if flow < t.minflow then s.fallback else s.setLimits false t.medium b (((t.bands[b]?).map (·.cap)).getD 0)

/-- COMMIT: the registers 0x02 to 0x06 are taken as one report. -/
def State.commitReport (s : State) : State :=
  let b := s.board
  ({ s with board := { b with report := some (b.cooltemp.toInt, b.coolflow.toNat, b.medium.toNat % 4), reportAt := s.time } }).applyReport

def execCommit (s : State) : Host.Outcome State Fault Refusal := .next s.commitReport

/-- COOL_REPORT_MISSING: no report for 1 s. -/
def execCoolReportMissing (s : State) : Host.Outcome State Fault Refusal :=
  .next (if s.board.reportAt.toNat + 10 ^ 9 ≤ s.time.toNat then s.fallback else s)

end Sys2Proof.Machine
end

