-- ==== Sys2Proof/Machine/Records.lean ====
section
/-!
DEFINITION. What the device itself reads and writes in memory: context descriptors, fault records and their batches,
error records, and the operand logs with their spill (01 R20 to R28, 07 R161, 08 R171, R192, 16 R361).
-/

namespace Sys2Proof.Machine

/-! ## Memory as the device's own units reach it -/

/-- A write by the device, of scope SYS, performed at its home as any write is (R111, R138), whatever the fill state of a procedural block that
it meets (DESIGN CHOICE, log 137); to a host frame or a peer it goes as a WRITE, and where nothing is mapped it has no effect. -/
def State.hwWrite (s : State) (ia : Nat) (bs : List Byte) : State :=
  let s := s.touch ia
  match s.endpointOf ia, s.phys ia with
  | some (slot, addr), _ => s.sendWrite [] slot 1 0x02 0 ia bs.length addr (writeBody bs 6)
  | none, some k => s.homeWrite ia k (plain bs)
  | none, none => s

/-- IA of a context descriptor (R171). -/
def State.descAt (s : State) (ctx : Nat) : Nat := s.ctxBase + 512 * ctx

/-- A 32-bit field of a context descriptor. -/
def State.descNat (s : State) (ctx off : Nat) : Nat := (s.hwNat (s.descAt ctx + off) 4).getD 0

def State.setDesc (s : State) (ctx off v : Nat) : State := s.hwWrite (s.descAt ctx + off) (leBytes 4 v)

/-! ## Fault records (R20 to R24) -/

/-- A missed lane as its record names it. -/
structure Missed where
  lane : Nat
  va   : Nat
  ia   : Nat
  page : Nat
  bits : Nat
  deriving DecidableEq, Repr

def pgsz (b : Nat) : Nat := if b = 12 then 0 else if b = 16 then 1 else 2

/-- The fields that a record shares with the others of its instruction. -/
structure FaultHead where
  path  : Nat
  write : Bool
  slice : Nat
  core  : Nat
  gslot : Nat
  ctx   : Nat
  itag  : Nat
  deriving DecidableEq, Repr

/-- One fault record (Table 1-6). -/
def faultRecord (h : FaultHead) (va ia bits seq lane : Nat) (last more : Bool) (mask : Nat) : List Byte :=
  leBytes 8 va ++ leBytes 8 (ia % 2 ^ 52) ++
    leBytes 4 (h.ctx + h.gslot * 2 ^ 12 + h.core * 2 ^ 17 + h.slice * 2 ^ 25 + boolNat h.write * 2 ^ 26 + h.path * 2 ^ 27 +
      pgsz bits * 2 ^ 30) ++
    leBytes 4 (lane + seq * 2 ^ 6 + boolNat last * 2 ^ 12 + boolNat more * 2 ^ 13 + h.itag % 2 ^ 16 * 2 ^ 16) ++ leBytes 8 mask

/-- The distinct missed pages, by ascending lowest lane. -/
def missedPages (ms : List Missed) : List Missed :=
  ms.foldl (fun acc m => if acc.any fun x => x.page == m.page && x.bits == m.bits then acc else acc ++ [m]) []

/-- The batch of a thread access: one record per page, with the lanes on it. -/
def threadBatch (h : FaultHead) (ms : List Missed) : List (List Byte) :=
  let ps := missedPages ms
  ps.mapIdx fun i p =>
    faultRecord h p.va p.ia p.bits i p.lane (i + 1 == ps.length) false
      (maskOf fun l => ms.any fun m => m.lane == l && m.page == p.page && m.bits == p.bits).toNat

/-- The fault queue of a context can take records (R21). A descriptor whose own page is not mapped counts as one that breaks Table 1-5
(DESIGN CHOICE, log 98). -/
def State.queueOk (s : State) (ctx : Nat) : Bool :=
  let c := s.ctx ctx
  decide (6 ≤ c.fqlog) && decide (c.fqlog ≤ 16) && decide (homeOf c.fqbase.toNat ≤ 3) && (s.phys (s.descAt ctx)).isSome

/-- Whether a batch of n records fits now (R24). -/
def State.batchFits (s : State) (ctx n : Nat) : Bool :=
  let used := ((s.ctx ctx).fqprod.toNat + 2 ^ 32 - s.descNat ctx 52) % 2 ^ 32
  decide (used + n ≤ 2 ^ (s.ctx ctx).fqlog)

/-- Writes a batch as one run of records, then PROD, then raises the fault event (R23). -/
def State.putBatch (s : State) (ctx : Nat) (recs : List (List Byte)) : State :=
  let c := s.ctx ctx
  let prod := c.fqprod.toNat
  let s := (recs.zipIdx).foldl (fun s r => s.hwWrite (c.fqbase.toNat + 32 * ((prod + r.2) % 2 ^ c.fqlog)) r.1) s
  let p := (prod + recs.length) % 2 ^ 32
  ((s.updCtx ctx fun c => { c with fqprod := BitVec.ofNat 32 p }).setDesc ctx 48 p).event 1 ctx p

/-- Writes a batch, or holds it until it fits (R24). Batches of a context leave in the order they were held. -/
def State.faultBatch (s : State) (ctx acc : Nat) (recs : List (List Byte)) : State :=
  if recs.isEmpty then s
  else if s.batchFits ctx recs.length && !s.batches.any (fun b => b.ctx == ctx) then s.putBatch ctx recs
  else { s with batches := s.batches ++ [{ ctx := ctx, recs := recs, acc := acc }] }

/-- The batch of an access or engine operation, or one that goes by another key, is held: what is parked stays parked (R24). -/
def State.batchHeld (s : State) (id : Nat) : Bool := s.batches.any fun b => b.acc == id

/-- The key of a batch for a page that an instruction of a slice misses at its issue or its fetch. -/
def pageKey (gid : Nat) (sl : Slice) (page : Nat) : Nat := 2 ^ 128 + (gid * 2 + sliceNum sl) * 2 ^ 52 + page

/-- The key of a batch for the page of a header that a context needs. -/
def headKey (ctx page : Nat) : Nat := 2 ^ 192 + ctx * 2 ^ 52 + page

/-- FAULT_BATCH_RETRY: the oldest held batch of a context is written once it fits (R24). -/
def State.retryBatch (s : State) (ctx : Nat) : State :=
  match s.batches.find? fun b => b.ctx == ctx with
  | some b =>
    if s.batchFits ctx b.recs.length then ({ s with batches := s.batches.erase b }).putBatch ctx b.recs else s
  | none => s

def execFaultBatchRetry (ctx : Nat) (s : State) : Host.Outcome State Fault Refusal := .next (s.retryBatch ctx)

/-! ## Operand logs and spills (R26, R161) -/

/-- Entries of a slice's operand log: accesses and engine operations with parked or held work. -/
def State.logEntries (s : State) (gid : Nat) (sl : Slice) : List Nat :=
  ((s.accs.filter fun a => a.gid == gid && decide (a.sl = sl) && a.logged).map (·.id)) ++
    (if sl = .a then (s.engs.filter fun e => e.gid == gid && e.logged).map (·.id) else [])

/-- Entries of a log that are younger than one. -/
def younger (l : List Nat) (id : Nat) : Nat := (l.filter fun i => decide (id < i)).length

/-- The entry lies in the spill area: four younger ones hold the places on chip (R26). -/
def State.spilled (s : State) (gid : Nat) (sl : Slice) (id : Nat) : Bool := decide (4 ≤ younger (s.logEntries gid sl) id)

/-- The context of a group. -/
def State.gidCtx (s : State) (gid : Nat) : Ctx := ((s.teamOf? gid).map fun t => s.ctx t.ctx).getD (Ctx.blank 0)

/-- One entry more makes the oldest on chip spill, and that fails. -/
def State.logFull (s : State) (gid : Nat) (entries : List Nat) : Bool :=
  match entries.find? fun i => younger entries i == 3 with
  | some i => !s.spillOk (s.gidCtx gid) (2 * i)
  | none => false

/-- Walk slots whose request is gone, or walks no more, are free again (R18). -/
def State.freeWalks (s : State) : State :=
  { s with homes := s.homes.map fun (h : Home) =>
      { h with walks := h.walks.filter fun w => (s.acc? w.2).any fun a => a.lanes.any fun l => l.st == .walking } }

/-- An access or engine operation performs nothing more; its locks and its walk slots go. -/
def State.dropWork (s : State) (id : Nat) : State :=
  ({ s with accs := s.accs.filter fun a => a.id != id, engs := s.engs.filter fun e => e.id != id,
            cores := s.cores.map fun (k : Core) => { k with locks := k.locks.filter fun l => l.eng != id } } : State).freeWalks

/-- SPILL_FAULT of an instruction whose entry the log takes after its issue, when the spill that makes room for it fails (R26; DEDUCED,
log 123). -/
def State.checkLog (s : State) (gid : Nat) (sl : Slice) (id : Nat) (pc : W64) : State :=
  match (s.logEntries gid sl).find? fun i => younger (s.logEntries gid sl) i == 4 with
  | some i => if s.spillOk (s.gidCtx gid) (2 * i) then s else (s.dropWork id).fatalTrap gid sl 0x1E 0 pc none 0
  | none => s

/-- A spilled entry cannot be read back (R26). -/
def State.refillFails (s : State) (gid : Nat) (sl : Slice) (id : Nat) : Bool :=
  s.spilled gid sl id && !s.spillOk (s.gidCtx gid) (2 * id)

/-- SPILL_FAULT when the split stack of a slice passes 4,096 entries or its spill fails (R161). -/
def State.checkStack (s : State) (e : Env) : Chk Unit :=
  match (s.group? e.gid).map fun g => g.slice e.sl with
  | none => .ok ()
  | some x => trapIf (decide (4096 < x.stackUse) || (decide (8 < x.stackUse) && !s.spillOk e.c (stackPlace e.g x.stackUse))) 0x1E 1

/-! ## Error records (R192) -/

/-- The 64 bytes of an error record (Table 8-5). -/
def errorRecord (t : Team) (ltag : Nat) (r : TrapRec) : List Byte :=
  leBytes 4 (t.ctx + r.grp * 2 ^ 15 + sliceNum r.slice * 2 ^ 20 + r.cause.toNat * 2 ^ 24) ++ leBytes 4 r.info.toNat ++
    leBytes 8 r.pc.toNat ++ leBytes 4 t.num ++ leBytes 4 (r.core * 2 ^ 8 + ltag * 2 ^ 16) ++ leBytes 8 r.time.toNat ++
    leBytes 4 r.step.toNat ++ List.replicate 28 0

def State.errorFits (s : State) (ctx : Nat) : Bool :=
  ((s.ctx ctx).errprod.toNat + 2 ^ 32 - s.descNat ctx 92) % 2 ^ 32 != 64

/-- Writes an error record, ERRPROD, and the error event. -/
def State.putError (s : State) (ctx : Nat) (body : List Byte) : State :=
  let k := (s.ctx ctx).errprod.toNat
  let s := s.hwWrite ((s.ctx ctx).errbase.toNat + 64 * (k % 64)) body
  let p := (k + 1) % 2 ^ 32
  ((s.updCtx ctx fun c => { c with errprod := BitVec.ofNat 32 p }).setDesc ctx 88 p).event 2 ctx p

end Sys2Proof.Machine
end

