-- ==== Sys2Proof/Machine/Team.lean ====
section
/-!
DEFINITION. The end of teams and launches: retirement, fills that end, launch completion, collective aborts, fatal halts
and the green room (05 R113, R119, R122, 07 R157, R166, R167, R169, 08 R176, R177, R191 to R193, R400, 12 R300, R301, 16
R367).
-/

namespace Sys2Proof.Machine

/-! ## Teams and their accesses -/

def Team.has (t : Team) (gid : Nat) : Bool := t.groups.any fun g => g.gid == gid

/-- Gives back what a group holds (R151, R167). -/
def State.freeGroup (s : State) (g : Group) : State :=
  s.updCore g.core fun k => { k with reserve := k.reserve + g.reserve }

/-- The holder under which a CSTEP of a fragment registers its span (R300). -/
def stepKey (gid : Nat) (sl : Slice) (slot : Nat) : Nat := 2 ^ 64 + gid * 256 + (if sl = .a then 0 else 128) + slot

/-- Removes a team with everything of it that is still in flight. -/
def State.endTeam (s : State) (t : Team) : State :=
  let gone := ((s.engs.filter fun e => t.has e.gid).map (·.id)) ++
    t.groups.flatMap fun g => (List.range 2).flatMap fun i => [stepKey g.gid .a i, stepKey g.gid .c i]
  let s := t.groups.foldl State.freeGroup s
  let s := match t.life with
    | .stopped _ run units _ => s.updCtx t.ctx fun c => { c with runs := c.runs.erase (run, units) }
    | _ => s
  let s := { s with teams := s.teams.filter fun x => x.id != t.id,
                    accs := s.accs.filter fun a => !t.has a.gid,
                    engs := s.engs.filter fun e => !t.has e.gid,
                    cores := s.cores.map fun (k : Core) => { k with locks := k.locks.filter fun l => !gone.contains l.eng } }
  s.freeWalks.govern

/-! ## The end of a fill (R119, R122) -/

/-- Wakes everything that waits for a block: parked lanes and units are issued again, fragments fetch again, and the
deferred requests of the host and peers are served (R114, R115). -/
def State.wakeBlock (s : State) (die entry blk : Nat) : State :=
  let w : LaneSt := .filling die entry blk
  let lane := fun (l : LaneAcc) => if l.st = w then { l with st := .todo } else l
  let frag := fun (f : Frag) => if f.wait = .block die entry blk then { f with wait := .fetch } else f
  let slice := fun (x : SliceSt) => { x with frags := x.frags.map frag, stack := x.stack.map frag }
  let served := (s.home die).deferred.filter fun (d : Deferred) => d.entry == entry && d.blk == blk
  let s := { s with accs := s.accs.map fun (a : Acc) => { a with lanes := a.lanes.map lane },
                    engs := s.engs.map fun (e : Eng) => { e with parked := e.parked.map fun (u : UnitSt) => if u.st = w then { u with st := .todo } else u },
                    teams := s.teams.map fun (t : Team) => { t with groups := t.groups.map fun (g : Group) => { g with a := slice g.a, c := slice g.c } },
                    due := s.due ++ served.map fun (d : Deferred) => d.msg }
  s.updHome die fun h => { h with deferred := h.deferred.filter fun d => !(d.entry == entry && d.blk == blk) }

/-- The block leaves FILLING: the merge entry of its fill is freed and its waiters are woken. -/
def State.leaveFilling (s : State) (die : Nat) (m : Merge) : State :=
  (s.updHome die fun h => { h with merges := h.merges.erase m }).wakeBlock die m.entry m.blk

/-- Owner stamp of the frame of an IA. -/
def State.stampOf (s : State) (ia : Nat) : Id12 := ((s.phys ia).map fun k => s.stamp (k / 65536)).getD 0xFFF

/-- A fill that fails (R122), with its range as it stood when the fill began (R110): the prompter of this fill is retired, the failure
record written, the block POISONED, the supervisor told, the waiters woken. UNIT of the record names channel 0 of the die (DESIGN CHOICE,
log 99). -/
def State.failFill (s : State) (die entry blk cause sub code : Nat) : State :=
  match s.merge? die entry blk with
  | some m =>
    let p := m.prt
    let s := (s.teams.filter fun t => t.launch == m.launch).foldl State.endTeam s
    let s := { s with launches := s.launches.filter fun l => l.lid != m.launch }
    let v := code % 2 ^ 16 + sub * 2 ^ 20 + cause * 2 ^ 24 + m.depth * 2 ^ 32 + m.rctx * 2 ^ 36 + m.ltag * 2 ^ 48
    let ia := p.base + blk * p.blockSize
    let s := (s.failRecord p blk v).setFillState p blk 3
    let s := s.deviceRecord 0x11 (die * 64) (s.stampOf ia) (cause * 2 ^ 24 + sub * 2 ^ 20 + m.rctx) ia
      (m.ltag * 2 ^ 48 + blk % 2 ^ 32)
    s.leaveFilling die m
  | none => s

/-- The block that a prompter fills, while it is still FILLING by that prompter. -/
def State.filling? (s : State) (t : Team) : Option (Nat × Nat × Nat) :=
  match t.kind with
  | .prompter die entry blk _ _ => (s.merge? die entry blk).bind fun m => if m.launch = t.launch then some (die, entry, blk) else none
  | _ => none

/-! ## Launches (R176, R177) -/

/-- An atomic add of 1 to the 64-bit event at an IA; a poisoned one is not updated. -/
def State.raiseEvent (s : State) (ia : Nat) : State :=
  let s := s.touch ia
  match s.phys ia with
  | some k =>
    let (old, s) := s.homeRead ia k 8
    if (anyPoison old).isSome then s else s.hwWrite ia (leBytes 8 ((leNat (values old) + 1) % 2 ^ 64))
  | none => s

/-- A wait is met (R177). -/
def State.eventMet (s : State) (ia v : W64) : Bool :=
  ia == 0 || ((s.hwNat ia.toNat 8).map fun x => decide (v.toNat ≤ x)).getD false

/-- Tests a launch's readiness; one that becomes ready starts to age and to wait (R179, R181). -/
def State.tested (s : State) (l : Launch) : Launch :=
  let r := s.eventMet l.wait0 l.wval0 && s.eventMet l.wait1 l.wval1
  if r && !l.ready then { l with ready := r, since := s.time, waits := s.time } else { l with ready := r }

/-- Tests the readiness of every taken launch. -/
def State.testReady (s : State) : State := { s with launches := s.launches.map s.tested }

/-- Signals a completion, and then tests readiness; a completion that signals no event tests nothing (R176, R177). -/
def State.signal (s : State) (ev : Nat) : State := if ev = 0 then s else (s.raiseEvent ev).testReady

/-- Writes STATUS, OVERRUN and RESUMESTEP, then signals (R176). -/
def State.writeStatus (s : State) (at_ : Nat) (status ovr resume : Nat) (signal : W64) : State :=
  let s := (s.hwWrite (at_ + 56) (leBytes 4 (status + ovr * 2 ^ 8))).hwWrite (at_ + 144) (leBytes 4 resume)
  s.signal signal.toNat

/-- A launch leaves the dispatcher; a deadline launch releases its cores, and with them its request for DLPL (R187). -/
def State.dropLaunch (s : State) (l : Launch) : State :=
  let t := { s with launches := s.launches.filter fun x => x.lid != l.lid,
                    cores := s.cores.map fun (k : Core) => { k with dlHeld := k.dlHeld.erase l.lid } }
  if l.dl then t.govern else t

/-- Running, or halting until every slice has stopped. -/
def TeamLife.runs : TeamLife → Bool
  | .running => true
  | .halting => true
  | _ => false

/-- The time becomes `t`; a deadline launch that has a team still running past DLTIME overruns (R187). -/
def State.passTime (s : State) (t : W64) : State :=
  { s with time := t,
           launches := s.launches.map fun (l : Launch) =>
             if l.dl ∧ s.time.toNat ≤ l.dltime.toNat ∧ l.dltime.toNat < t.toNat ∧ s.teams.any (fun x => x.launch == l.lid && x.life.runs) then
               { l with overran := true }
             else l }

/-- Completes a launch; a prompter, mesh or tile launch has no packet of its own. OVERRUN tells of a team that ran past DLTIME (R187). -/
def State.completeLaunch (s : State) (l : Launch) (status resume : Nat) : State :=
  let s := s.dropLaunch l
  match l.kind with
  | .compute =>
    s.writeStatus l.at_.toNat status (boolNat l.overran) resume l.signal
  | _ => s

/-- Teams of a launch. -/
def State.teamsOf (s : State) (lid : Nat) : List Team := s.teams.filter fun t => t.launch == lid

def TeamLife.ended : TeamLife → Bool
  | .fatal => true
  | _ => false

/-- Completes a launch whose teams have all ended: DONE, or FATAL when one halted fatally (R176, R191). -/
def State.checkLaunch (s : State) (lid : Nat) : State :=
  match s.launch? lid with
  | none => s
  | some l =>
    let ts := s.teamsOf lid
    if l.abort.isSome then s
    else if l.fatal then (if ts.all fun t => t.life.ended then s.completeLaunch l 4 0 else s)
    else if ts.isEmpty ∧ l.next = l.teams then s.completeLaunch l 1 0 else s

/-! ## Draws (R338, R339, R343) -/

/-- The draw that a team works for. -/
def TeamKind.draw? : TeamKind → Option Nat
  | .mesh d => some d
  | .tile d => some d
  | _ => none

/-- A graphics packet ends: its STATUS is written, and its completion event signalled. -/
def State.endDraw (s : State) (d : Draw) (status : Nat) : State :=
  let s := { s with draws := s.draws.filter fun x => x.did != d.did, launches := s.launches.filter fun l => l.lid != d.launch }
  let s := s.hwWrite (d.at_.toNat + 4) (leBytes 4 status)
  s.signal (leNat ((d.bytes.drop 64).take 8))

/-- A draw that lost a team ends with FATAL once every other team of it has retired. -/
def State.checkDraw (s : State) (k : TeamKind) : State :=
  match k.draw?.bind s.draw? with
  | some d => if d.fatal && s.teams.all (fun t => (t.kind.draw? != some d.did) || t.life.ended) then s.endDraw d 4 else s
  | none => s

/-- A mesh or tile team has halted fatally. -/
def State.failDraw (s : State) (t : Team) : State :=
  match t.kind.draw? with
  | some d => (s.updDraw d fun x => { x with fatal := true }).checkDraw t.kind
  | none => s

/-- The pixels of a retiring group of sub-pass 0 whose lanes left by EXIT become touched. -/
def State.touchPixels (s : State) (t : Team) (g : Group) : State :=
  match t.kind with
  | .tile d =>
    let ps := (lanesOf (g.pixels &&& ~~~g.discarded)).map fun l => 64 * g.grp + l
    let touch := fun (p : TilePass) =>
      if p.team = some t.id ∧ p.sub = 0 then { p with touched := ps.filter (fun i => !p.touched.contains i) ++ p.touched } else p
    s.updDraw d fun x => { x with passes := x.passes.map touch }
  | _ => s

/-- The tile pass of a retired team waits for its next invocation. -/
def State.freePass (s : State) (t : Team) : State :=
  match t.kind with
  | .tile d => s.updDraw d fun x => { x with passes := x.passes.map fun (p : TilePass) => if p.team = some t.id then { p with team := none } else p }
  | _ => s

/-- A team that retired, with the step it had committed (R300). -/
def Team.step (t : Team) : Nat := (t.groups.map (·.step)).foldl min t.minStep

/-- The step of a team that has ended counts in its launch's report (R300). -/
def State.countStep (s : State) (lid step : Nat) : State :=
  s.updLaunch lid fun l => { l with minStep := some (BitVec.ofNat 32 (min step ((l.minStep.map (·.toNat)).getD (2 ^ 32 - 1)))) }

/-- A team has retired its last group. -/
def State.teamRetired (s : State) (t : Team) (step : Nat) : State :=
  let s := ((s.endTeam t).freePass t).countStep t.launch step
  let s := s.updLaunch t.launch fun l => { l with retired := l.retired + 1 }
  (s.checkLaunch t.launch).checkDraw t.kind

/-! ## Collective groups (R193, R300, R301, R367) -/

/-- MEMBERS of a valid entry of the collective group table: bit 0 this device, bit i + 1 peer i; none where the CGID acts as 0, as every one
does while CGTBASE is 0 (R357). -/
def State.groupEntry (s : State) (cgid : BitVec 16) : Option Nat :=
  if cgid = 0 ∨ s.cgtBase = 0 then none
  else ((s.hwNat (s.cgtBase + 8 * cgid.toNat) 8).filter fun e => bitN e 63 && bits e 7 56 == 0).map fun e => bits e 0 7

/-- The members of a collective group; CGID 0 has this device alone. -/
def State.members (s : State) (cgid : BitVec 16) : Nat := (s.groupEntry cgid).getD 1

/-- The collective group number that a launch acts under. -/
def State.groupOf (s : State) (l : Launch) : BitVec 16 := if (s.groupEntry l.cgid).isSome then l.cgid else 0

/-- Halts a team for a cause that its slices did not raise: the trap is charged to its first group's A-slice (DEDUCED, log 18). -/
def State.haltTeam (s : State) (t : Team) (cause info : Nat) : State :=
  match t.groups with
  | [] => s
  | g :: _ =>
    match t.life with
    | .fatal => s
    | .halting => s
    | _ =>
      let x := g.a
      s.fatalTrap g.gid .a cause info (((x.frag? x.served).map (·.pc)).getD x.trap.pc) none 0

/-- A slice stops after its skid: cause 0, the next PC of its served fragment, and the count it issued. -/
def SliceSt.stopSkid (x : SliceSt) : SliceSt :=
  match x.halt with
  | .halted => x
  | .skid n => x.stopWith 0 x.trap.info.toNat (((x.frag? x.served).map (·.pc)).getD x.trap.pc) none (BitVec.ofNat 32 n)
  | .running => x.stopWith 0 x.trap.info.toNat (((x.frag? x.served).map (·.pc)).getD x.trap.pc) none 0

/-- A team that stands stopped, detached or waiting for a place halts where it stands for a slice of one of its groups: its image is given
up (R191, R193). -/
def State.haltAt (s : State) (t : Team) (life : TeamLife) (g : Group) (sl : Slice) (cause info : Nat) (pc : W64) : State :=
  let s := match t.life with
    | .stopped _ run units _ => s.updCtx t.ctx fun c => { c with runs := c.runs.erase (run, units) }
    | _ => s
  s.updTeam t.id fun t =>
    { t with life := life,
             traps := t.traps ++ [{ cause := BitVec.ofNat 8 cause, slice := sl, grp := g.grp, core := g.core, info := BitVec.ofNat 32 info,
                                    pc := pc, time := s.time, step := 0 }],
             groups := t.groups.map fun (g : Group) => { g with life := .halted, a := g.a.stopSkid, c := g.c.stopSkid } }

/-- A standing team of an aborted launch. -/
def State.haltStanding (s : State) (t : Team) (info : Nat) : State :=
  match t.groups with
  | [] => s.endTeam t
  | g :: _ => s.haltAt t .fatal g .a 0x1D info (((g.a.frag? g.a.served).map (·.pc)).getD g.a.trap.pc)

/-- Halts every team of a launch with cause ABORT. -/
def State.abortLaunch (s : State) (lid : Nat) (ext : Bool) (code : Nat) : State :=
  match s.launch? lid with
  | none => s
  | some l =>
    if l.abort.isSome then s else
    let s := s.updLaunch lid fun l => { l with abort := some (ext, BitVec.ofNat 16 code), abortAt := s.time }
    let info := code % 2 ^ 16 + boolNat ext * 2 ^ 16
    (s.teamsOf lid).foldl (fun s t => if t.life.runs || t.life.ended then s.haltTeam t 0x1D info else s.haltStanding t info) s

/-- Sends an ABORT token to the peers of a group (R367). -/
def State.sendAbort (s : State) (cgid : BitVec 16) (code : Nat) : State :=
  ((List.range 6).filter fun i => bitN (s.members cgid) (i + 1)).foldl (fun s i =>
    s.send (9 + i) 0 false 0x09 0 0 (leBytes 2 cgid.toNat ++ leBytes 2 code)) s

/-- The report of a launch: the lowest committed step of its teams; one not yet placed counts 0. -/
def State.report (s : State) (l : Launch) : Nat :=
  if l.next < l.teams then 0
  else ((s.teamsOf l.lid).map Team.step).foldl min ((l.minStep.map (·.toNat)).getD (2 ^ 32 - 1))

/-- Writes the error records of a halted team that fit, and holds the others (R192). -/
def State.writeErrors (s : State) (t : Team) (ltag step : Nat) : State :=
  t.traps.foldl (fun s r =>
    let r := if r.cause = 0x1D then { r with step := BitVec.ofNat 32 step } else r
    let body := errorRecord t ltag r
    if s.errorFits t.ctx && !s.records.any (fun h => h.ctx == t.ctx) then s.putError t.ctx body
    else { s with records := s.records ++ [{ ctx := t.ctx, body := body, team := t.id }] }) s

/-- A fatally halted team whose records are all written is retired, unless DBG keeps it (R192). -/
def State.settleFatal (s : State) (tid : Nat) : State :=
  match s.team? tid with
  | none => s
  | some t =>
    if t.life = .fatal ∧ t.recorded ∧ !s.records.any (fun h => h.team == tid) then
      if (s.ctx t.ctx).dbg then s else (s.countStep t.launch t.step).endTeam t
    else s

/-- Ends an aborted launch once every team has stopped and every member has reported (R193, R367). -/
def State.checkAbort (s : State) (lid : Nat) : State :=
  match s.launch? lid with
  | none => s
  | some l =>
    let ts := s.teamsOf lid
    if l.abort.isNone ∨ !ts.all (fun t => t.life.ended) then s else
    let cg := s.groupOf l
    let (l, s) :=
      if l.steps.any fun x => x.1 == 0 then (l, s) else
        let r := BitVec.ofNat 32 (s.report l)
        let known := if cg = 0 then [] else ((s.collectives.find? fun c => c.cgid == cg).map (·.steps)).getD []
        let l := { l with steps := (0, r) :: known }
        let s := s.updLaunch lid fun _ => l
        let s := if cg = 0 then s else
          ((List.range 6).filter fun i => bitN (s.members cg) (i + 1)).foldl (fun s i =>
            s.send (9 + i) 0 false 0x0A 0 0 (leBytes 2 cg.toNat ++ [0, 0] ++ leBytes 4 r.toNat)) s
        (l, s)
    let need := if cg = 0 then [0] else (List.range 7).filter fun i => i == 0 || bitN (s.members cg) i
    if !need.all (fun i => l.steps.any fun x => x.1 == i) then s else
    let resume := ((l.steps.filter fun x => need.contains x.1).map fun x => x.2.toNat).foldl min (2 ^ 32 - 1)
    let s := (ts.filter fun t => !t.recorded).foldl (fun s t =>
      let s := s.writeErrors t l.ltag.toNat resume
      (s.updTeam t.id fun t => { t with recorded := true }).settleFatal t.id) s
    let s := if s.launches.any fun x => x.cgid == cg && x.lid != lid then s
      else { s with collectives := s.collectives.filter fun c => c.cgid != cg }
    s.completeLaunch l 5 resume

/-! ## Fatal halts (R191, R192) -/

/-- Everything that the slices of a team issued has completed, but for what is parked. -/
def State.quiet (s : State) (t : Team) : Bool :=
  !s.accs.any fun a => t.has a.gid && a.moving

/-- An abort of the collective group of a launch, from this device. -/
def State.abortFrom (s : State) (lid code : Nat) : State :=
  match s.launch? lid with
  | none => s
  | some l =>
    let cg := s.groupOf l
    if cg = 0 then s.abortLaunch lid false code
    else
      let s := s.sendAbort cg code
      let ls := s.launches.filter fun x => x.cgid == cg
      let s := ls.foldl (fun (s : State) x => s.abortLaunch x.lid false code) s
      (ls.filter fun x => x.lid != lid).foldl (fun (s : State) x => s.checkAbort x.lid) s

/-- TEAM_HALT_COMPLETE: every slice of a halted team has stopped; its traps write their records (R191, R192). -/
def State.haltComplete (s : State) (tid : Nat) : State :=
  match s.team? tid with
  | none => s
  | some t =>
    if t.life ≠ .halting ∨ !s.quiet t then s else
    let t := { t with life := .fatal,
                      groups := t.groups.map fun (g : Group) =>
                        { g with life := .halted, a := g.a.stopSkid, c := g.c.stopSkid } }
    let s := s.updTeam tid fun _ => t
    match s.filling? t with
    | some (die, entry, blk) =>
      let s := s.writeErrors t (((s.launch? t.launch).map fun l => l.ltag.toNat).getD 0) 0
      let r := t.traps.head?.map fun r => r.cause.toNat
      let c := r.getD 0
      if c = 0x16 ∨ c = 0x17 ∨ c = 0x18 then s.failFill die entry blk c 0 0
      else s.failFill die entry blk 0x16 3 c
    | none =>
      match s.launch? t.launch with
      | none =>
        let s := s.writeErrors t t.ltag.toNat 0
        ((s.updTeam tid fun t => { t with recorded := true }).settleFatal tid).failDraw t
      | some l =>
        if l.abort.isSome then (s.checkAbort l.lid).failDraw t
        else
          let s := s.writeErrors t l.ltag.toNat 0
          let s := (s.updTeam tid fun t => { t with recorded := true }).settleFatal tid
          let s := (s.updLaunch l.lid fun l => { l with fatal := true }).failDraw t
          let s := if s.groupOf l = 0 then s else s.abortFrom l.lid 0
          (s.checkLaunch l.lid).checkAbort l.lid

def execTeamHaltComplete (team : Nat) (s : State) : Host.Outcome State Fault Refusal := .next (s.haltComplete team)

/-- ERROR_RING_RETRY: the oldest held record of a context is written once it fits (R192). -/
def State.retryError (s : State) (ctx : Nat) : State :=
  match s.records.find? fun h => h.ctx == ctx with
  | some h =>
    if s.errorFits ctx then (({ s with records := s.records.erase h }).putError ctx h.body).settleFatal h.team else s
  | none => s

def execErrorRingRetry (ctx : Nat) (s : State) : Host.Outcome State Fault Refusal := .next (s.retryError ctx)

/-! ## Deferred traps (R400) -/

/-- The lowest lane of an access that ended in a fatal condition, with its cause and TRAPINFO. -/
def Acc.fatalLane (a : Acc) : Option (Nat × Nat × Nat) :=
  a.lanes.findSome? fun l =>
    match l.st with
    | .fatal c i => some (l.lane, c.toNat, i.toNat)
    | _ => none

/-- A slice stops at once for an instruction it issued earlier; the team of a slice that a stop has halted halts where it stands, and is not
restored (R191, R400). -/
def State.deferTrap (s : State) (gid : Nat) (sl : Slice) (cause info : Nat) (pc : W64) (issuedAt : Nat) : State :=
  match s.teamOf? gid with
  | none => s
  | some t =>
    match t.group? gid with
    | none => s
    | some g =>
      let x := g.slice sl
      let next := ((x.frag? x.served).map (·.pc)).getD x.trap.pc
      let skid := BitVec.ofNat 32 (32 + min 31 (x.issued - issuedAt))
      if x.halt ≠ .halted then s.fatalTrap gid sl cause info pc (some next) skid
      else if t.life.runs || t.life.ended then s
      else (s.haltAt t .halting g sl cause info pc).updSlice gid sl fun x => x.stopWith cause info pc (some next) skid

/-- DEFERRED_TRAP: the access performs nothing more, and its slice traps (R400). -/
def State.deferredTrap (s : State) (id : Nat) : State :=
  match s.acc? id with
  | none => s
  | some a =>
    match a.fatalLane with
    | none => s
    | some (_, cause, info) =>
      (s.dropWork id).deferTrap a.gid a.sl cause info a.pc a.issuedAt

def execDeferredTrap (acc : Nat) (s : State) : Host.Outcome State Fault Refusal := .next (s.deferredTrap acc)

/-! ## The team barrier at completion (R169) -/

/-- An AR at scope CORE, or PAIR for a pair team, for every slice that arrives. -/
def State.barrierSync (s : State) (t : Team) : State :=
  let sc : Scope := if t.kern.pair then .pair else .core
  let cs := (t.groups.map (·.core)).eraseDups
  cs.foldl (fun s c => s.acquire c sc) (cs.foldl (fun s c => s.release c sc) s)

/-- Completes the barriers that every lane has reached. -/
def State.checkBarrier (s : State) (tid : Nat) (sl : Slice) : State :=
  match s.team? tid with
  | none => s
  | some t =>
    if t.barrierFull sl then
      t.groups.foldl (fun (s : State) g => s.refill g.gid sl (g.slice sl).stackUse) ((s.barrierSync t).updTeam tid fun t => t.completeBarrier sl)
    else s

/-! ## Exits and the green room (R162, R166, R167, R314) -/

/-- Culled primitives of a mesh group's output (R314). -/
def MeshOut.culled (m : MeshOut) (mprim : Nat) : Nat :=
  ((m.prims.take mprim).zipIdx.filter fun p =>
    let v := p.1.toNat
    decide (m.nprim ≤ p.2) || decide (m.nvert ≤ bits v 0 8) || decide (m.nvert ≤ bits v 8 8) || decide (m.nvert ≤ bits v 16 8)).length

/-- A mesh group's output passes to its draw; a group with no MESHEND passes no primitive. -/
def State.passMesh (s : State) (t : Team) (g : Group) : State :=
  match t.kind with
  | .mesh d =>
    let n := g.mesh.culled t.kern.mprim
    let count := fun (v : Nat) => BitVec.ofNat 32 (bits v 0 16 + min (bits v 16 16 + n) 0xFFFF * 2 ^ 16)
    let s := if g.mesh.ended then s.updGroup g.gid fun (g : Group) => { g with meshdrop := count g.meshdrop.toNat } else s
    s.updDraw d fun x => { x with outputs := x.outputs ++ [(t.num, g.grp, g.mesh, g.core)] }
  | _ => s

/-- Both slices of a group have exited every lane. -/
def Group.allExited (g : Group) : Bool := (g.a.live g.width == 0) && (g.c.live g.width == 0)

/-- QDEADLOCK of a group, charged to one slice: both slices write 0x1B and TRAPINFO with the PC given for each (R157). -/
def State.deadlockTrap (s : State) (gid : Nat) (sl : Slice) (info : Nat) (pcA pcC : W64) : State :=
  let (o, pc, po) : Slice × W64 × W64 := match sl with
    | .a => (.c, pcA, pcC)
    | .c => (.a, pcC, pcA)
  (s.fatalTrap gid sl 0x1B info pc none 0).updSlice gid o fun x => x.stopWith 0x1B info po none 0

/-- The group enters the green room: its queue values are discarded and its mesh output passed on. A store that still
waits for qs data ends in QDEADLOCK; a prompter that has not published fails its fill. -/
def State.greenRoom (s : State) (gid : Nat) : State :=
  match s.teamOf? gid with
  | none => s
  | some t =>
    match t.group? gid with
    | none => s
    | some g =>
      if g.life ≠ .resident ∨ !g.allExited then s else
      let s := s.updGroup gid fun g => { g with life := .green, queues := g.queues.map fun (q : Queue) => { q with entries := [] } }
      let s := s.passMesh t g
      match s.filling? t with
      | some (die, entry, blk) => s.failFill die entry blk 0x16 1 0
      | none =>
        match s.accs.find? fun a => a.gid == gid && a.needQs.isSome with
        | some a =>
          let s := s.deadlockTrap gid .c (8 + 9 * 16) a.pc a.pc
          { s with accs := s.accs.filter fun a => !(a.gid == gid && a.needQs.isSome) }
        | none => s

/-- What follows when lanes have left a slice: queue entries go, barriers may complete, and the group may enter the
green room. -/
def State.afterExit (s : State) (gid : Nat) : State :=
  let s := s.updGroup gid Group.pruneAll
  match s.teamOf? gid with
  | none => s
  | some t => ((s.checkBarrier t.id .a).checkBarrier t.id .c).greenRoom gid

/-- Nothing of a group is outstanding: its copies and stores are acknowledged (R166). -/
def State.drained (s : State) (gid : Nat) : Bool :=
  !s.accs.any (fun a => a.gid == gid) && !s.engs.any (fun e => e.gid == gid) &&
    ((s.group? gid).map fun g => g.a.outs.isEmpty && g.c.outs.isEmpty).getD false

/-- GROUP_RETIRE: a drained green-room group retires; its storage returns, and the team with its last group. -/
def State.groupRetire (s : State) (gid : Nat) : State :=
  match s.teamOf? gid with
  | none => s
  | some t =>
    match t.group? gid with
    | none => s
    | some g =>
      if g.life ≠ .green ∨ t.life ≠ .running ∨ !s.drained gid then s else
      let s := s.touchPixels t g
      if t.groups.all fun x => x.gid == gid then s.teamRetired t (min g.step t.minStep)
      else (s.freeGroup g).updTeam t.id fun t =>
        { t with groups := t.groups.filter fun x => x.gid != gid, minStep := min t.minStep g.step }

def execGroupRetire (gid : Nat) (s : State) : Host.Outcome State Fault Refusal := .next (s.groupRetire gid)

end Sys2Proof.Machine
end

