-- ==== Sys2Proof/Machine/Control.lean ====
section
/-!
DEFINITION. Opcode group 0: control transfer, the branch-mask queues, the plain queue operations, the waits, the software
traps and the register blocks (10 R222 to R242).
-/

namespace Sys2Proof.Machine

/-! ## Control transfer (R211, R225 to R229) -/

def targetOf (m : MB) (pc : W64) : W64 := pc + 12 * m.tgt.signExtend 64
def joinOf (m : MB) (pc : W64) : W64 := pc + 12 * m.join.signExtend 64

/-- MISALIGNED of a transfer to a PC that breaks R197. -/
def transferCheck (e : Env) (tgt : W64) : Chk Unit := trapIf (!pcAligned tgt) 0x13 (lowLane e.f.mask)

/-- A transfer of the lanes of `taken`: all move, none moves, or the fragment splits (R159), its other lanes going on at
`npc`. -/
def transfer (e : Env) (s : State) (taken : Lanes) (npc tgt jn : W64) : Chk Eff :=
  if taken = 0 then pure (Eff.on s) else do
  transferCheck e tgt
  if taken = e.f.mask then pure { s := s.updSlice e.gid e.sl fun x => x.goTo e.slot tgt, moved := true }
  else
    let (id, s) := s.fresh
    let f : Frag := { e.f with wait := .none }
    let s := s.updSlice e.gid e.sl fun x => x.split f id taken npc tgt jn
    s.checkStack e
    pure { s := s, moved := true }

/-- Writes the link pair with PC + 12. -/
def State.link (s : State) (e : Env) (b : Opnd) : State :=
  let r := e.f.pc + 12
  s.updSlice e.gid e.sl fun x =>
    (x.setSreg (e.regNum b) (Val.of (r.setWidth 32))).setSreg (e.regNum b + 1) (Val.of ((r >>> 32).setWidth 32))

def execNop (h : Hdr) (s : State) : Host.Outcome State Fault Refusal := runInstr (.nop h) h (fun _ s => pure (Eff.on s)) s

def braEff (m : MB) (e : Env) (s : State) : Chk Eff :=
  transfer e s e.exec (e.f.pc + 12) (targetOf m e.f.pc) (joinOf m e.f.pc)

def execBra (h : Hdr) (m : MB) (s : State) : Host.Outcome State Fault Refusal := runInstr (.bra h m) h (braEff m) s

/-- BRX: the lanes with the lowest lane's target branch, the others execute it again (R226). -/
def brxEff (a : Opnd) (m : MB) (e : Env) (s : State) : Chk Eff := do
  e.bounds [{ code := 1, o := a, n := 1, even := false }]
  let vs ← s.gather e [{ code := 1, o := a, ty := .s32 }] (.vec 0) 0
  let t := fun (l : Nat) => e.f.pc + 12 * (BitVec.ofNat 32 ((vs.map fun v => v l).headD 0)).signExtend 64
  let t0 := t (lowLane e.exec)
  transfer e s (maskOf fun l => e.exec.getLsbD l && t l == t0) e.f.pc t0 (joinOf m e.f.pc)

def execBrx (h : Hdr) (a : Opnd) (m : MB) (s : State) : Host.Outcome State Fault Refusal := runInstr (.brx h a m) h (brxEff a m) s

def callEff (b : Opnd) (m : MB) (e : Env) (s : State) : Chk Eff :=
  transfer e (s.link e b) e.exec (e.f.pc + 12) (targetOf m e.f.pc) (joinOf m e.f.pc)

def execCall (h : Hdr) (b : Opnd) (m : MB) (s : State) : Host.Outcome State Fault Refusal :=
  runInstr (.call h b m) h (callEff b m) s

/-- The target in a scalar pair, checked under R197 before its poison (R220). -/
def State.pairTarget (s : State) (e : Env) (a : Opnd) : Chk W64 := do
  let vs ← s.peek e [{ code := 1, o := a, ty := .b64, pair := true }] (.vec 0) 0
  let t := BitVec.ofNat 64 (((lvVals vs).map fun v => v (lowLane e.exec)).headD 0)
  transferCheck e t
  poisonCheck e.exec vs
  pure t

/-- CALLX reads its target before it writes the link (R227). -/
def callxEff (a b : Opnd) (e : Env) (s : State) : Chk Eff := do
  let t ← s.pairTarget e a
  transfer e (s.link e b) e.f.mask e.f.pc t e.f.pc

def execCallx (h : Hdr) (a b : Opnd) (m : MB) (s : State) : Host.Outcome State Fault Refusal :=
  runInstr (.callx h a b m) h (callxEff a b) s

def retEff (a : Opnd) (e : Env) (s : State) : Chk Eff := do
  let t ← s.pairTarget e a
  transfer e s e.f.mask e.f.pc t e.f.pc

def execRet (h : Hdr) (a : Opnd) (s : State) : Host.Outcome State Fault Refusal := runInstr (.ret h a) h (retEff a) s

/-- The lanes of exec leave the slice; the others go on (R162, R229). -/
def State.leave (s : State) (e : Env) : State :=
  (s.updSlice e.gid e.sl fun x =>
    let x := x.goTo e.slot (e.f.pc + 12)
    (x.exitLanes e.slot e.exec).settle).afterExit e.gid

def execExitL (h : Hdr) (s : State) : Host.Outcome State Fault Refusal :=
  runInstr (.exitL h) h (fun e s => pure { s := s.leave e, moved := true }) s

/-! ## Branch-mask queues (R230, R231) -/

/-- TRAPINFO of QTAG (R155). -/
def qtagInfo (lane q expected found : Nat) : Nat := lane + (if q = 6 then 0 else 2 ^ 6) + expected * 2 ^ 7 + found * 2 ^ 11

/-- BRQ: pops a bit per lane, checks the tags before poison (R220), and branches with the lanes whose bit is 1. -/
def brqEff (a b : Opnd) (m : MB) (e : Env) (s : State) : Chk Eff := do
  let src : SrcOp := { code := 1, o := a }
  let q := (src.queue?).getD 0
  let tag := match b with
    | .imm i => i.toNat % 16
    | _ => 0
  let vs ← s.peek e [src] (.vec 0) 0
  match (lanesOf e.exec).find? fun l => (e.g.laneTag q l).any fun t => t.toNat != tag with
  | some l => .error (.trap 0x1A (qtagInfo l q tag (((e.g.laneTag q l).map (·.toNat)).getD 0)))
  | none =>
    poisonCheck e.exec vs
    let t := maskOf fun l => e.exec.getLsbD l && bitN (((lvVals vs).map fun v => v l).headD 0) 0
    transfer e (s.consume e [src]) t (e.f.pc + 12) (targetOf m e.f.pc) (joinOf m e.f.pc)

def execBrq (h : Hdr) (a b : Opnd) (m : MB) (s : State) : Host.Outcome State Fault Refusal :=
  runInstr (.brq h a b m) h (brqEff a b m) s

/-- PUSHB: the bits of a predicate, with a tag. -/
def pushbEff (d a : Opnd) (tag : BitVec 4) (e : Env) (s : State) : Chk Eff := do
  let vs ← s.gather e [{ code := 1, o := a }] d 1
  let q := (({ code := 0, o := d } : SrcOp).queue?).getD 0
  pure (Eff.on (s.updGroup e.gid fun g =>
    g.push q e.exec e.exec (laneList g.width fun l => Val.of (BitVec.ofNat 32 ((vs.map fun v => v l).headD 0))) tag none))

def execPushb (h : Hdr) (d a : Opnd) (tag : BitVec 4) (s : State) : Host.Outcome State Fault Refusal :=
  runInstr (.pushb h d a tag) h (pushbEff d a tag) s

/-! ## Plain queue operations (R232 to R235) -/

def execQpush (h : Hdr) (d a : Opnd) (s : State) : Host.Outcome State Fault Refusal :=
  runInstr (.qpush h d a) h (aluEff d false [{ code := 1, o := a }] (on1 fun v => v)) s

/-- QPOP with DISC: the values are popped and discarded. -/
def qdiscEff (a : Opnd) (e : Env) (s : State) : Chk Eff := do
  let src : SrcOp := { code := 1, o := a }
  let _ ← s.gather e [src] (.vec 0) 0
  pure (Eff.on (s.consume e [src]))

def execQpop (h : Hdr) (d a : Opnd) (disc : Bool) (s : State) : Host.Outcome State Fault Refusal :=
  runInstr (.qpop h d a disc) h (if disc then qdiscEff a else aluEff d false [{ code := 1, o := a }] (on1 fun v => v)) s

/-- Queues of a mask that hold an entry. -/
def Group.busyQueues (g : Group) (m : BitVec 8) : List Nat :=
  (List.range 8).filter fun q => m.getLsbD q && !(g.queue q).entries.isEmpty

def execQsync (h : Hdr) (qmask : BitVec 8) (s : State) : Host.Outcome State Fault Refusal :=
  runInstr (.qsync h qmask) h (fun e s => do
    waitIf (!(e.g.busyQueues qmask).isEmpty) (.qsync qmask)
    pure (Eff.on s)) s

/-- The value of a scalar or immediate operand OPA, unsigned; the entry refuses some values before the poison check
(R220). -/
def State.countVal (s : State) (e : Env) (a : Opnd) (refused : Nat → Bool) : Chk Nat := do
  let vs ← s.peek e [{ code := 1, o := a }] (.vec 0) 0
  let n := ((lvVals vs).map fun v => v (lowLane e.exec)).headD 0
  refuseIf (refused n) n
  poisonCheck e.exec vs
  pure n

def anyCount (_ : Nat) : Bool := false

def execSlip (h : Hdr) (a : Opnd) (s : State) : Host.Outcome State Fault Refusal :=
  runInstr (.slip h a) h (fun e s => do
    let n ← s.countVal e a anyCount
    waitIf (decide (n ≤ 128) && decide (n < e.g.slip)) (.slip (BitVec.ofNat 32 n))
    pure (Eff.on s)) s

/-! ## Waits (R236, R237) -/

/-- The counter of a path: the loads counted and not yet delivered in issue order (R86). -/
def SliceSt.counter (x : SliceSt) (p : Path) : Nat := (x.counts.filter fun c => decide (c.path = p)).length

def pathOf (n : BitVec 2) : Path :=
  match n.toNat with
  | 0 => .g
  | 1 => .k
  | 2 => .s
  | _ => .t

def execWaitc (h : Hdr) (a : Opnd) (path : BitVec 2) (s : State) : Host.Outcome State Fault Refusal :=
  runInstr (.waitc h a path) h (fun e s => do
    let n ← s.countVal e a anyCount
    waitIf (decide (n < e.x.counter (pathOf path))) (.ctr (pathOf path) (BitVec.ofNat 32 n))
    pure (Eff.on s)) s

/-- Outstanding results of the lanes of a fragment (R165). -/
def SliceSt.outstanding (x : SliceSt) (m : Lanes) : Bool := x.outs.any fun o => o.pend &&& m != 0

/-- Accesses of a slice in flight. -/
def State.sliceAccs (s : State) (gid : Nat) (sl : Slice) : List Acc := s.accs.filter fun a => a.gid == gid && decide (a.sl = sl)

/-- Waits for some accesses of the slice. -/
def waitAccs (l : List Acc) : Chk Unit := waitIf (!l.isEmpty) (waitOn l)

/-- What WAITALL waits for (R237). -/
def State.allDone (s : State) (gid : Nat) (sl : Slice) (x : SliceSt) (m : Lanes) (mem : Bool) : Bool :=
  !x.outstanding m && x.counts.isEmpty &&
    (!mem || (!(s.accs.any fun a => a.gid == gid && decide (a.sl = sl) && (decide (a.kind ≠ .load) || a.logged)) &&
      (decide (sl = .c) || !s.engs.any fun g => g.gid == gid)))

def execWaitall (h : Hdr) (mem : Bool) (s : State) : Host.Outcome State Fault Refusal :=
  runInstr (.waitall h mem) h (fun e s => do
    if mem then waitAccs ((s.sliceAccs e.gid e.sl).filter fun a => a.needQs.isSome)
    waitIf (!s.allDone e.gid e.sl e.x e.f.mask mem) (.all mem)
    pure (Eff.on s)) s

/-! ## Traps and breakpoints (R238) -/

/-- TRAPINFO of SOFTWARE and BREAKPOINT. -/
def codeInfo (code : BitVec 12) (lane : Nat) : Nat := code.toNat + lane * 2 ^ 12

def execTrap (h : Hdr) (code : BitVec 12) (s : State) : Host.Outcome State Fault Refusal :=
  runInstr (.trap h code) h (fun e _ => .error (.trap 8 (codeInfo code (lowLane e.exec)))) s

def execBkpt (h : Hdr) (code : BitVec 12) (s : State) : Host.Outcome State Fault Refusal :=
  runInstr (.bkpt h code) h (fun e _ => .error (.trap 9 (codeInfo code (lowLane e.exec)))) s

/-! ## Register blocks (R239 to R241) -/

/-- RACQ: raises the block count, waiting for units, or with TRY reporting in a predicate. -/
def racqEff (d a : Opnd) (tryIt : Bool) (e : Env) (s : State) : Chk Eff := do
  let n ← s.countVal e a fun n => decide (e.t.kern.cmax < n)
  let tell := fun (s : State) (v : Bool) =>
    match d with
    | .pred p => s.updSlice e.gid e.sl fun x => x.setPred p e.exec (if v then e.exec else 0)
    | _ => s
  match s.raiseBlocks e.g e.c.owner n with
  | some s => pure (Eff.on (if tryIt && decide (e.g.held < n) then tell s true else s))
  | none => if tryIt then pure (Eff.on (tell s false)) else .error (.wait (.racq n))

def execRacq (h : Hdr) (d a : Opnd) (tryIt : Bool) (s : State) : Host.Outcome State Fault Refusal :=
  runInstr (.racq h d a tryIt) h (racqEff d a tryIt) s

/-- An outstanding result that targets a register at or above 8 × n. -/
def SliceSt.writesAbove (x : SliceSt) (n : Nat) : Bool :=
  x.outs.any fun o =>
    match o.dst with
    | .vec k => decide (8 * n < k + o.regs.length)
    | _ => false

def rrelEff (a : Opnd) (e : Env) (s : State) : Chk Eff := do
  let n ← s.countVal e a fun n => decide (n < e.t.kern.cmin)
  waitIf (e.x.writesAbove n) (.rrel n)
  pure (Eff.on (s.dropBlocks e.g n))

def execRrel (h : Hdr) (a : Opnd) (s : State) : Host.Outcome State Fault Refusal := runInstr (.rrel h a) h (rrelEff a) s

end Sys2Proof.Machine
end

