-- ==== Sys2Proof/Machine/Owners.lean ====
section
/-!
DEFINITION. Surfaces, handles, screen views and passes: what a handle names, on whom a pixel depends, and who permits an
access (06 R131 to R137, R139 to R143, 15 R347).
-/

namespace Sys2Proof.Machine

/-! ## Surfaces (R132, R133, R48) -/

/-- A surface descriptor (Table 6-2). -/
structure Surf where
  index : Nat
  base  : Nat
  block : Bool
  cmp   : Bool
  prot  : Bool
  owner : Id12
  fmt   : Nat
  lbpp  : Nat
  h     : Nat
  w     : Nat
  pitch : Nat
  gen   : Nat
  md    : Nat
  clear : List Byte
  deriving DecidableEq, Repr

/-- A field of a descriptor's bytes. -/
def fieldAt (bs : List Byte) (o n : Nat) : Nat := leNat ((bs.drop o).take n)

def surfOf (i : Nat) (bs : List Byte) : Surf :=
  let w0 := fieldAt bs 0 8
  let w1 := fieldAt bs 8 4
  let w2 := fieldAt bs 12 4
  { index := i, base := bits w0 12 40 * 4096, block := bitN w0 4, cmp := bitN w0 3, prot := bitN w0 2,
    owner := BitVec.ofNat 12 (bits w1 20 12), fmt := bits w1 8 8, lbpp := bits w1 0 3, h := bits w2 16 16 + 1,
    w := bits w2 0 16 + 1, pitch := fieldAt bs 16 4, gen := bits (fieldAt bs 20 4) 0 8, md := bits (fieldAt bs 24 8) 4 48 * 16,
    clear := (bs.drop 32).take 16 }

def Surf.bpp (f : Surf) : Nat := 2 ^ f.lbpp

/-- UW and UH of a pixel size (Table 2-4). -/
def unitDims (lbpp : Nat) : Nat × Nat :=
  match lbpp with
  | 0 => (16, 16)
  | 1 => (16, 8)
  | 2 => (8, 8)
  | 3 => (8, 4)
  | _ => (4, 4)

/-- BW and BH. -/
def blockDims (lbpp : Nat) : Nat × Nat := (4 * (unitDims lbpp).1, 4 * (unitDims lbpp).2)

/-- PB of a block-linear surface. -/
def Surf.pb (f : Surf) : Nat := f.pitch % 65536

/-- Bytes of the storage span. -/
def Surf.span (f : Surf) : Nat :=
  if f.block then 4096 * f.pb * ((f.h + (blockDims f.lbpp).2 - 1) / (blockDims f.lbpp).2) else f.pitch * f.h

/-- Storage offset of a pixel (R48). -/
def Surf.pixelOfs (f : Surf) (x y : Nat) : Nat :=
  if f.block then
    let (uw, uh) := unitDims f.lbpp
    let (bw, bh) := blockDims f.lbpp
    (y / bh * f.pb + x / bw) * 4096 + (y % bh / uh * 4 + x % bw / uw) * 256 + (y % uh * uw + x % uw) * f.bpp
  else y * f.pitch + x * f.bpp

/-- Storage offset of a byte offset in a layout view (R282). -/
def Surf.viewOfs (f : Surf) (o : Nat) : Nat :=
  if f.block then
    let row := (blockDims f.lbpp).1 * f.pb
    let p := o / f.bpp
    f.pixelOfs (p % row) (p / row) + o % f.bpp
  else o

/-- Bytes of a pixel of a format (Table 15-5), none for a code that is no format. -/
def fmtBytes (fmt : Nat) : Option Nat :=
  match fmt with
  | 1 => some 1
  | 2 => some 2
  | 3 => some 4
  | 4 => some 4
  | 5 => some 4
  | 6 => some 2
  | 7 => some 8
  | 8 => some 4
  | 9 => some 8
  | 10 => some 16
  | 11 => some 4
  | _ => none

/-- Formats that the proscenium composes. -/
def composable (fmt : Nat) : Bool := [3, 4, 5, 7].contains fmt

/-- The valid surfaces: the accepted descriptors of the table that SURFBASE names now; none while it is 0 (R131, R132; DEDUCED,
log 97). -/
def State.surfs (s : State) : List Surf :=
  if s.surfBase = 0 then [] else
  (s.descs.filter fun d => decide (s.surfBase ≤ d.1) && decide (d.1 < s.surfBase + 64 * 65536)).map fun d =>
    surfOf ((d.1 - s.surfBase) / 64) d.2

/-- The valid surface whose span holds an IA (R134). -/
def State.surfAt (s : State) (ia : Nat) : Option Surf := s.surfs.find? fun f => decide (f.base ≤ ia) && decide (ia < f.base + f.span)

/-- Whether a descriptor's bytes break Table 6-2 or R133; an IABASE at no C-die home is refused with them (Table 6-2 asks for one: DESIGN
CHOICE, log 144). -/
def State.surfBad (s : State) (i : Nat) (bs : List Byte) : Bool :=
  let f := surfOf i bs
  let w0 := fieldAt bs 0 8
  let zero := bits w0 52 12 == 0 && bits w0 5 7 == 0 && !bitN w0 1 && bits (fieldAt bs 8 4) 16 4 == 0 &&
    bits (fieldAt bs 8 4) 3 5 == 0 && (!f.block || f.pitch / 65536 == 0) && fieldAt bs 20 4 / 256 == 0 &&
    bits (fieldAt bs 24 8) 52 12 == 0 && bits (fieldAt bs 24 8) 0 4 == 0 && (f.cmp || f.md == 0) &&
    (f.clear.drop f.bpp).all (· == 0) && (bs.drop 48).all (· == 0)
  !zero || f.owner == 0xFFF || decide (4 < f.lbpp) || (f.cmp && !f.block) || decide (fmtBytes f.fmt ≠ some f.bpp) ||
    decide (3 < homeOf f.base) || decide (2 ^ 48 < f.base % 2 ^ 48 + f.span) ||
    (s.surfs.any fun g => g.index != i && decide (g.base < f.base + f.span) && decide (f.base < g.base + g.span))

/-- SURFACE_DESCRIPTOR_WRITE: the home of SURFBASE checks an entry as it is written (R133). -/
def State.surfWrite (s : State) (i : Nat) : State :=
  match s.phys (s.surfBase + 64 * i) with
  | none => s
  | some k =>
    let bs := (s.hwRead (s.surfBase + 64 * i) 64).getD []
    let at_ := s.surfBase + 64 * i
    let s := { s with descs := s.descs.filter fun d => d.1 != at_ }
    if s.surfBase = 0 ∨ !bitN (fieldAt bs 0 8) 0 then s
    else if s.surfBad i bs then s.deviceRecord 0x13 (unitOf s.surfBase) (s.stamp (k / 65536)) i at_ 0
    else { s with descs := (at_, bs) :: s.descs }

def execSurfaceDescriptorWrite (index : Nat) (s : State) : Host.Outcome State Fault Refusal := .next (s.surfWrite index)

/-! ## Handles (R131) -/

/-- What a handle names. -/
inductive Named
  | surface (f : Surf)
  | view (n : Nat)
  deriving DecidableEq, Repr

/-- The surface or screen view of a handle; none when the handle is refused. -/
def State.named (s : State) (h : W32) : Option Named :=
  let v := h.toNat
  if bits v 17 7 ≠ 0 then none
  else if bitN v 16 then (if bits v 0 16 ≤ 7 then some (.view (bits v 0 16)) else none)
  else if s.surfBase = 0 then none
  else (s.surfs.find? fun f => f.index == bits v 0 16 && f.gen == bits v 24 8).map .surface

/-! ## Screen views and the blocking map (R135 to R137) -/

/-- A register of a view's block (Tables 6-4 and 15-7). -/
def State.viewReg (s : State) (n off size : Nat) : Nat := s.reg 0 (0x100000 + 0x40 * n + off) size

/-- Active width and height. -/
def State.viewW (s : State) (n : Nat) : Nat := bits (s.viewReg n 0x18 4) 0 16 + 1
def State.viewH (s : State) (n : Nat) : Nat := bits (s.viewReg n 0x18 4) 16 16 + 1

/-- The entry of the latched blocking map for a pixel; an entry that cannot be read counts as 0 (DESIGN CHOICE, log 26). -/
def State.mapEntry (s : State) (n x y : Nat) : Nat :=
  let base := s.viewReg n (if (s.view n).sel then 8 else 0) 8
  (s.hwNat (base + 4 * (y * s.viewW n + x)) 4).getD 0

/-- The effect of an entry: codes 5 to 15 and a nonzero zero field hide (Table 6-3). -/
def mapEffect (e : Nat) : Nat := if bits e 28 4 ≠ 0 ∨ 4 < bits e 24 4 then 4 else bits e 24 4
def mapBad (e : Nat) : Bool := decide (bits e 28 4 ≠ 0) || decide (4 < bits e 24 4)
def mapTop (e : Nat) : Id12 := BitVec.ofNat 12 (bits e 0 12)
def mapUnder (e : Nat) : Id12 := BitVec.ofNat 12 (bits e 12 12)

/-- The owners a pixel of a screen view depends on (R137). -/
def viewOwners (e : Nat) : List Id12 :=
  if 1 ≤ mapEffect e ∧ mapEffect e ≤ 3 then [mapTop e, mapUnder e] else [mapTop e]

/-! ## Passes (R139 to R141) -/

/-- A pass in force for owner `o` from owner `q`. -/
def Pass.allows (p : Pass) (q o : Id12) (handle : W32) (capture : Bool) (x y : Nat) (frame : W32) : Bool :=
  p.grantor == q && p.grantee == o && p.handle == handle && (if capture then p.capture else p.sample) &&
    decide (p.x0 ≤ x) && decide (x < p.x1) && decide (p.y0 ≤ y) && decide (y < p.y1) &&
    decide (p.startf.toNat ≤ frame.toNat) && decide (frame.toNat < p.endf.toNat)

/-- An access by `o` to a pixel that depends on `q` is permitted (R140); `surf` is the owner of the entry's surface. -/
def State.permits (s : State) (q o : Id12) (handle : W32) (surf : Option Id12) (capture : Bool) (x y : Nat)
    (frame : W32) : Bool :=
  q == o || (surf.all (· == q) && s.passes.any fun p => p.allows q o handle capture x y frame)

/-- The owners of a pixel that a handle names. -/
def State.pixelOwners (s : State) (n : Named) (x y : Nat) : List Id12 :=
  match n with
  | .surface f => [f.owner]
  | .view v => viewOwners (s.mapEntry v x y)

def Named.surfOwner : Named → Option Id12
  | .surface f => some f.owner
  | .view _ => none

/-- Owner `o` is permitted to sample a pixel in an access of frame `frame` (R140). -/
def State.sampleOk (s : State) (o : Id12) (n : Named) (handle : W32) (x y : Nat) (frame : W32) : Bool :=
  (s.pixelOwners n x y).all fun q => s.permits q o handle n.surfOwner false x y frame

/-- Owner `o`, in a protected context or not, may sample a pixel (R140, R145). -/
def State.maySample (s : State) (o : Id12) (prot : Bool) (n : Named) (handle : W32) (x y : Nat) (frame : W32) : Bool :=
  let ok := s.sampleOk o n handle x y frame
  match n with
  | .surface f => ok && (!f.prot || (prot && f.owner == o))
  | .view _ => ok

/-- REFUSECNT of a context rises, saturating (R141). -/
def State.refuse (s : State) (ctx n : Nat) : State :=
  s.updCtx ctx fun c => { c with refuse := BitVec.ofNat 32 (min (c.refuse.toNat + n) 0xFFFFFFFF) }

end Sys2Proof.Machine
end

