-- ==== Sys2Proof/Machine/Layout.lean ====
section
/-!
DEFINITION. The layout engine of a home: compression units, path T reads and writes (02 R48 to R51, 06 R134, 12 R282).
-/

namespace Sys2Proof.Machine

/-! ## Compression units (R49, R50) -/

/-- IA of the metadata byte of the unit at a storage offset. -/
def Surf.mdAt (f : Surf) (st : Nat) : Nat := f.md + st / 256

/-- A unit whose every pixel equals the clear value. -/
def Surf.clearUnit (f : Surf) : List Byte := (List.range 256).map fun i => f.clear.getD (i % f.bpp) 0

/-- Stored bytes of a unit under code 0x02 or 0x03, whose arrangement is not defined (DESIGN CHOICE, log 15). -/
def packedUnit (code : Nat) (content : List Byte) : List Byte :=
  let n := if code = 2 then 2 else 1
  (List.range n).flatMap fun k =>
    let w := Config.freeLine (leNat content * 8 + code * 2 + k)
    (List.range 64).map fun i => w.extractLsb' (8 * i) 8

/-- The code of a content: 0x01 for the clear value; which of 0x00, 0x02 and 0x03 another content takes is not defined. -/
def Surf.codeOf (f : Surf) (content : List Byte) : Nat :=
  if content = f.clearUnit then 1 else
  match (Config.metaCode (leNat content)).toNat % 4 with
  | 2 => 2
  | 3 => 3
  | _ => 0

/-- A unit's content; lost when it is poisoned, `reserved` for a code of Table 2-5 that is reserved; unspecified bytes where the metadata
does not match the data. -/
inductive UnitRead
  | ok (content : List PByte)
  | poisoned (reserved : Bool)
  deriving DecidableEq, Repr

/-- Free bytes for a unit that cannot be decoded. -/
def freeUnit (n : Nat) : List Byte :=
  (List.range 4).flatMap fun k =>
    let w := Config.freeLine (n + k)
    (List.range 64).map fun i => w.extractLsb' (8 * i) 8

/-- Bytes that a unit of a metadata code has in storage (Table 2-5). -/
def storedLen (code : Nat) : Nat := if code = 0 then 256 else if code = 2 then 128 else if code = 3 then 64 else 0

/-- The content of a unit under its code, from its stored bytes. Under code 0x00 a poisoned granule is lost alone; under 0x02 and 0x03 it
loses the unit (R50 speaks of a poisoned unit only: DESIGN CHOICE, log 96). -/
def State.decodeUnit (s : State) (f : Surf) (st code : Nat) (stored : List PByte) : UnitRead :=
  match code with
  | 0 => .ok stored
  | 1 => .ok (plain f.clearUnit)
  | 255 => .poisoned false
  | _ =>
    if 3 < code then .poisoned true
    else if (anyPoison stored).isSome then .poisoned false
    else
      match (s.units.find? fun u => u.1 == f.base + st / 256 * 256).map (·.2) with
      | some c => if packedUnit code c = values stored then .ok (plain c) else .ok (plain (freeUnit s.free))
      | none => .ok (plain (freeUnit s.free))

/-- Where a metadata byte lies, with its leaf, which the walk installs (R138); a missing page is handled like the data's own. -/
def State.mdGate (s : State) (ia : Nat) : Except Gate (Nat × Nat) × State :=
  match s.lookup ia with
  | .hit _ b leaf _ => (if entFhome leaf ≤ 3 then .ok (leafKey leaf b ia, leaf) else .error (.fatal fatalWalk), s.touch ia)
  | .miss page b => (.error (.miss page b), s)
  | .bad => (.error (.fatal fatalWalk), s)
  | .noKey => (.error (.fatal fatalEcc), s)
  | .ecc key => (.error (.fatal fatalEcc), s.tableError key)

/-- The error record of a metadata granule (R51, R61). -/
def State.mdRecord (s : State) (ia : Nat) (owner : Id12) : State := s.deviceRecord 0x03 (unitOf ia) owner 0 (ia / 8 * 8) 0

/-- A metadata byte is read through the metadata cache (R49). A fetch that meets an uncorrectable error poisons the granules of its 32 bytes
and sends one record, which names the granule that was wanted. The byte is none when its granule is lost; the second value says that
the loss has just been reported. -/
def State.mdRead (s : State) (ia key leaf : Nat) : Option Nat × Bool × State :=
  let held := (findLine (s.mdcOf (homeOf ia)) (ia / 64)).any fun l => l.phys == key / 64
  let bad := if held then [] else s.flaws.filter fun x => x / 2 == key / 64 && s.flawed (x * 32) 32
  let s := bad.foldl (fun s x => (s.poisonFlaw x).mdRecord (if x = key / 32 then ia else ia + x * 32 - key) (s.stamp (key / 65536))) s
  let s := s.openMdc ia key leaf
  let g := s.memRead (key / 8 * 8) 8
  (if (anyPoison g).isSome then none else some (leNat ((values g).drop (key % 8) |>.take 1)), bad.contains (key / 32), s)

/-! ## Path T reads (R45, R49, R282) -/

/-- Storage bytes `st` to `st + n - 1` of a surface, inside one unit, decoded; `fetch` reads stored bytes by their offset. -/
def State.unitBytes (s : State) (f : Surf) (st n : Nat) (fetch : State → Nat → Nat → Except Gate (List PByte) × State) :
    Except Gate (List PByte) × State :=
  if !f.cmp then fetch s st n else
  match s.mdGate (f.mdAt st) with
  | (.error g, s) => (.error g, s)
  | (.ok (km, leaf), s) =>
    match s.mdRead (f.mdAt st) km leaf with
    | (none, _, s) => (.ok (poisonBytes n hardPoison), s)
    | (some code, _, s) =>
      match if storedLen code = 0 then (.ok [], s) else fetch s (st / 256 * 256) (storedLen code) with
      | (.error g, s) => (.error g, s)
      | (.ok stored, s) =>
        match s.decodeUnit f st code stored with
        | .ok c => (.ok ((c.drop (st % 256)).take n), { s with free := s.free + 4 })
        | .poisoned r => (.ok (poisonBytes n hardPoison), if r then s.mdRecord (f.mdAt st) (s.stamp (km / 65536)) else s)

/-- Stored bytes of a surface as its home reads them. -/
def State.storedAtHome (s : State) (f : Surf) (st n : Nat) : Except Gate (List PByte) × State :=
  match s.phys (f.base + st) with
  | none => (.error (.fatal fatalWalk), s)
  | some key =>
    let (bs, s) := s.homeRead (f.base + st) key n
    (.ok bs, s)

/-- A decompressed 64-byte line of a layout view, in 16-byte parts. -/
def State.viewLine (s : State) (f : Surf) (line : Nat) : Except Gate (List PByte) × State :=
  (List.range 4).foldl (fun acc k =>
    match acc with
    | (.error g, s) => (.error g, s)
    | (.ok bs, s) =>
      match s.unitBytes f (f.viewOfs (line * 64 + 16 * k - f.base)) 16 fun s st n => s.storedAtHome f st n with
      | (.error g, s) => (.error g, s)
      | (.ok b, s) => (.ok (bs ++ b), s)) (.ok [], s)

/-- A path T read inside one line of a view: a line of the tile-layout cache serves it at GRP or CORE, else the home's layout engine
(R67, R73). -/
def State.readT (s : State) (r : Req) (c : Nat) (sc : Scope) (alloc : Bool) (ia n : Nat) : Access × State :=
  let line := ia / 64
  let o := ia % 64
  match (findLine (s.core c).tcache line).filter fun l => r.passes l.owner l.prot && !wide sc with
  | some l => (.ok (l.pbytes o n), s)
  | none =>
    match s.surfAt ia with
    | none => (.blocked (.fatal (if inAperture ia then fatalOwner else fatalSurface)), s)
    | some f =>
      match s.gate r (f.base + f.viewOfs (ia - f.base)) with
      | (.go key ow pr, s) =>
        match s.viewLine f line with
        | (.error g, s) => (.blocked g, s)
        | (.ok bs, s) =>
          let l := (Line.empty line ow pr (key / 65536)).merge bs
          (.ok (l.pbytes o n), if alloc then s.updCore c fun k => { k with tcache := setLine k.tcache l } else s)
      | (.remote _ _ _ _, s) => (.blocked (.fatal fatalSurface), s)
      | (.aperture _ _, s) => (.blocked (.fatal fatalOwner), s)
      | (g, s) => (.blocked g, s)

/-! ## Sampler reads -/

/-- Stored bytes of a surface read at the point of coherence of die `d`, line by line (R45). -/
def State.storedAtPoc (s : State) (r : Req) (d : Nat) (sc : Scope) (f : Surf) (st n : Nat) : Except Gate (List PByte) × State :=
  let ia := f.base + st
  match (linesOf ia n).foldl (fun (acc : Except Gate (List PByte) × State) ln =>
      match acc with
      | (.error g, s) => (.error g, s)
      | (.ok bs, s) =>
        match s.fetchPoc r d ln sc with
        | (.ok b _ _ _, s) => (.ok (bs ++ b), s)
        | (.blocked g, s) => (.error g, s)
        | (.remote _ _, s) => (.error (.fatal fatalSurface), s)) (.ok [], s) with
  | (.ok bs, s) => (.ok ((bs.drop (ia % 64)).take n), s)
  | x => x

/-- A path S read inside one line: the raw bytes, or the decoded content of a compressed surface (DEDUCED, log 28). -/
def State.readS (s : State) (r : Req) (c : Nat) (sc : Scope) (ia n : Nat) : Access × State :=
  let line := ia / 64
  match (s.surfAt ia).filter fun f => f.cmp with
  | none => s.readKS r c sc true true ia n
  | some f =>
    match (findLine (s.core c).scache line).filter fun l => r.passes l.owner l.prot with
    | some l => (.ok (l.pbytes (ia % 64) n), s)
    | none =>
      match s.gate r ia with
      | (.go key ow pr, s) =>
        match s.unitBytes f (line * 64 - f.base) 64 fun s st n => s.storedAtPoc r (dieOf c) sc f st n with
        | (.error g, s) => (.blocked g, s)
        | (.ok bs, s) =>
          let l := (Line.empty line ow pr (key / 65536)).merge bs
          (.ok (l.pbytes (ia % 64) n), s.updCore c fun k => { k with scache := setLine k.scache l })
      | (.remote _ _ _ _, s) => (.blocked (.fatal fatalSurface), s)
      | (.aperture _ _, s) => (.blocked (.fatal fatalOwner), s)
      | (g, s) => (.blocked g, s)

/-! ## Path T writes (R50, R51) -/

/-- Bytes written into one unit, as offsets in it; later entries win. -/
abbrev UnitWrite := List (Nat × PByte)

def UnitWrite.covers (w : UnitWrite) : Bool := (List.range 256).all fun i => w.any fun x => x.1 == i

def UnitWrite.apply (w : UnitWrite) (bs : List PByte) : List PByte :=
  w.foldl (fun bs x => updAt bs x.1 fun _ => x.2) bs

/-- The written bytes as runs of consecutive offsets. -/
def UnitWrite.runs (w : UnitWrite) : List (Nat × List PByte) :=
  ((List.range 256).foldl (fun (acc : List (Nat × List PByte)) i =>
    match w.reverse.find? fun x => x.1 == i with
    | none => acc
    | some x =>
      match acc with
      | (o, bs) :: r => if o + bs.length = i then (o, bs ++ [x.2]) :: r else (i, [x.2]) :: acc
      | [] => [(i, [x.2])]) []).reverse

/-- Writes the bytes to a unit that is stored as it is. -/
def State.writeRuns (s : State) (ia key : Nat) (w : UnitWrite) : State :=
  w.runs.foldl (fun s r => s.homeWrite (ia + r.1) (key + r.1) r.2) s

/-- Writes a unit's new content with its code and metadata byte. Where the granule of that byte is lost, every other code of it
becomes 0xFF (R51). A unit with poisoned bytes is stored as it is (R60). -/
def State.encodeUnit (s : State) (f : Surf) (st key km : Nat) (lost : Bool) (content : List PByte) : State :=
  let code := if (anyPoison content).isSome then 0 else f.codeOf (values content)
  let ia := f.base + st / 256 * 256
  let stored := if code = 0 then content else if code = 1 then [] else plain (packedUnit code (values content))
  let s := if stored.isEmpty then s else s.homeWrite ia key stored
  let s := if code = 2 ∨ code = 3 then { s with units := assocSet s.units ia (values content) } else s
  if lost then s.homeWrite (f.mdAt st / 8 * 8) (km / 8 * 8) (plain (updAt (List.replicate 8 0xFF) (km % 8) fun _ => BitVec.ofNat 8 code))
  else s.homeWrite (f.mdAt st) km (plain [BitVec.ofNat 8 code])

/-- One T write of a unit, one indivisible step at the home, and what keeps it from being performed. A granule that is lost is written anew with
0xFF in every byte, and reported once (R51). -/
def State.writeUnit (s : State) (f : Surf) (st key : Nat) (w : UnitWrite) (owner : Id12) : Option Gate × State :=
  let ia := f.base + st / 256 * 256
  if !f.cmp then (none, s.writeRuns ia key w) else
  match s.mdGate (f.mdAt st) with
  | (.error g, s) => (some g, s)
  | (.ok (km, leaf), s) =>
    let (code, told, s) := s.mdRead (f.mdAt st) km leaf
    let tell := fun (s : State) => if told then s else s.mdRecord (f.mdAt st) owner
    match code with
    | none =>
      if w.covers then (none, tell (s.encodeUnit f st key km true (w.apply (plain (List.replicate 256 0)))))
      else (none, tell (s.homeWrite (f.mdAt st / 8 * 8) (km / 8 * 8) (plain (List.replicate 8 0xFF))))
    | some code =>
      if w.covers then (none, s.encodeUnit f st key km false (w.apply (plain (List.replicate 256 0)))) else
      let (stored, s) := if storedLen code = 0 then ([], s) else s.homeRead ia key (storedLen code)
      match s.decodeUnit f st code stored with
      | .poisoned r =>
        let s := if r then s.mdRecord (f.mdAt st) owner else s
        (none, s.deviceRecord 0x05 (unitOf ia) owner 0 ia 0)
      | .ok c =>
        if (anyPoison c).isNone then (none, { s with free := s.free + 4 }.encodeUnit f st key km false (w.apply c))
        else (none, s.writeRuns ia key w)

end Sys2Proof.Machine
end

