-- ==== Sys2Proof/Machine/Access.lean ====
section
/-!
DEFINITION. Memory accesses from issue to performance: addresses, range locks, what an access waits for, releases and
acquires, and how one lane is performed (01 R7 to R12, R26, R27, 03 R68 to R82, R86, R89, 08 R400, 12 R274 to R286).
-/

namespace Sys2Proof.Machine

/-! ## Atomic operations (R285, R286) -/

/-- n of AMAX. -/
def amax (v o : Nat) : Nat :=
  let m := v % 2 ^ 31
  let m := if 0x7F800000 < m then 0x7FC00000 else m
  if o < m then m else o

/-- Sum of two codes of a format, rounded RNE. -/
def fltAdd (f : Fmt) (a b : Nat) : Nat := f.round .rne false (exactSum false [f.val a, f.val b])

/-- n of an operation on the old value o and the operand v; `c` is the new value of CAS (Table 12-4). -/
def atomVal (aop : Nat) (ty : Ty) (o v c : Nat) : Nat :=
  match aop with
  | 0 =>
    match ty with
    | .f32 => fltAdd f32 o v
    | .f16x2 => fltAdd f16 (o % 65536) (v % 65536) + fltAdd f16 (o / 65536 % 65536) (v / 65536 % 65536) * 65536
    | .bf16x2 => fltAdd bf16 (o % 65536) (v % 65536) + fltAdd bf16 (o / 65536 % 65536) (v / 65536 % 65536) * 65536
    | _ => wrapInt ty (intVal ty o + intVal ty v)
  | 1 => if ty = .f32 then f32.minMax false o v else if intVal ty v < intVal ty o then v else o
  | 2 => if ty = .f32 then f32.minMax true o v else if intVal ty o < intVal ty v then v else o
  | 3 => o &&& v
  | 4 => o ||| v
  | 5 => o ^^^ v
  | 6 => v
  | 7 => if o = v then c else o
  | 8 => if v ≤ o then 0 else o + 1
  | 9 => if o = 0 ∨ v < o then v else o - 1
  | _ => amax v o

/-- The new bytes of an atomic: `data` holds the operand, and for CAS the compare value and then the new value. -/
def atomBytes (aop : Nat) (ty : Ty) (data old : List Byte) : List Byte :=
  let n := ty.size
  leBytes n (atomVal aop ty (leNat old) (leNat (data.take n)) (leNat ((data.drop n).take n)))

/-! ## One lane at its home -/

/-- Bytes of one lane. -/
def Acc.size (a : Acc) : Nat := a.ty.size * a.nvec

def AccKind.writes : AccKind → Bool
  | .load => false
  | .sample _ => false
  | _ => true

def AccKind.reads : AccKind → Bool
  | .store => false
  | .atom _ true => false
  | _ => true

def AccKind.isSample : AccKind → Bool
  | .sample _ => true
  | _ => false

/-- A lane of SMP that still reads its sampler-state entry (R348). -/
def Acc.readsState (a : Acc) (l : LaneAcc) : Bool := a.taps.any fun x => x.waiting && x.lane == l.lane

/-- The request of a lane (R129). The sampler's read of another owner's surface under a pass goes through no window, and R108 asks nothing of it
(DESIGN CHOICE, log 134). -/
def State.accReq (s : State) (a : Acc) (l : LaneAcc) : Option Req :=
  match s.teamOf? a.gid with
  | none => none
  | some t =>
    match t.group? a.gid with
    | none => none
    | some g =>
      let c := s.ctx t.ctx
      some { core := g.core, ctx := c.num, owner := c.owner, prot := c.prot, wprot := l.prot,
             pwin := if l.exempt || a.readsState l then none else some l.pwin, write := a.kind.writes, exempt := l.exempt, level := t.level,
             team := some t.id, writer := [(a.gid, a.sl)] }

/-- Performs a lane: its read, its write or its atomic. An SC load of scope PAIR to DIE takes the dirty bytes of its line out of the L1
first, and is performed at the point of coherence; one of DEV or SYS takes them out of the RDC too, and is performed at the home (R73). Path
T writes are the layout engine's. -/
def State.performLane (s : State) (r : Req) (a : Acc) (l : LaneAcc) : Access × State :=
  let ia := l.ia.toNat
  let c := r.core
  match a.kind with
  | .load =>
    match a.path with
    | .k => s.readKS r c a.scope false (!a.nol1) ia a.size
    | .t => s.readT r c a.scope (!a.nol1) ia a.size
    | _ =>
      let s := if decide (a.ord = .sc) && wide a.scope then
          (if scopeNum a.scope ≤ 4 then s.expelL1 c (ia / 64) else s.expel c (ia / 64)) else s
      s.readG r c a.scope (!a.nol1) ia a.size
  | .sample _ => if a.readsState l then s.readKS r c a.scope true true ia l.data.length else s.readS r c a.scope ia l.data.length
  | .store => s.writeG r c a.scope ia (plain l.data)
  | .atom aop red => s.atomicG r red c a.scope ia a.size fun old => atomBytes aop a.ty l.data old

/-! ## Path T -/

/-- Storage bytes that an access names on a path: a compression unit on a compressed surface (R48, R49). -/
def State.storage (s : State) (p : Path) (ia n : Nat) : Nat × Nat :=
  match if p = .t then s.surfAt ia else none with
  | some f =>
    let st := f.viewOfs (ia - f.base)
    if f.cmp then (f.base + st / 256 * 256, 256) else (f.base + st, n)
  | none => (ia, n)

/-- The home of a path T access decides it by its surface and by the page of its storage (R134). -/
def State.gateT (s : State) (r : Req) (ia : Nat) : Gate × State :=
  match s.surfAt ia with
  | none => (.fatal (if inAperture ia then fatalOwner else fatalSurface), s)
  | some f =>
    match s.gate r (f.base + f.viewOfs (ia - f.base)) with
    | (.remote _ _ _ _, s) => (.fatal fatalSurface, s)
    | (.aperture _ _, s) => (.fatal fatalOwner, s)
    | x => x

/-- How a lane would stop now, if it would: what its home decides. -/
def State.laneStop (s : State) (a : Acc) (l : LaneAcc) : Option (Nat × Gate) :=
  match s.accReq a l with
  | none => none
  | some r =>
    if a.kind = .store ∧ a.path = .t then
      match (s.gateT r l.ia.toNat).1 with
      | .go _ _ _ => none
      | g => some (r.ctx, g)
    else
      match (s.performLane r a l).1 with
      | .blocked g => some (r.ctx, g)
      | _ => none

/-- PAGE_FATAL that a lane would meet now, as TRAPINFO without the lane (Table 1-8). -/
def State.laneFatal (s : State) (a : Acc) (l : LaneAcc) : Option Nat :=
  match s.laneStop a l with
  | some (_, .fatal info) => some info
  | some (ctx, .miss _ _) => if s.queueOk ctx then none else some fatalQueue
  | _ => none

/-- The lane would be kept in the operand log (R20, R114, R116). -/
def State.laneLogs (s : State) (a : Acc) (l : LaneAcc) : Bool :=
  match s.laneStop a l with
  | some (_, .miss _ _) => true
  | some (_, .filling _ _ _) => true
  | some (_, .full) => true
  | _ => false

/-- Entries that the operand log of a slice holds, or will hold for accesses that a home stops now. -/
def State.logAhead (s : State) (gid : Nat) (sl : Slice) : List Nat :=
  s.logEntries gid sl ++ ((s.accs.filter fun a => a.gid == gid && decide (a.sl = sl) && !a.logged && a.lanes.any fun l => s.laneLogs a l).map (·.id))

/-- SPILL_FAULT of an access that needs an entry of the operand log when the spill that makes room for it fails (R26, R188). -/
def State.spillAtIssue (s : State) (a : Acc) : Chk Unit :=
  trapIf (s.logFull a.gid (s.logAhead a.gid a.sl) && a.lanes.any fun l => s.laneLogs a l) 0x1E 0

/-- The PAGE_FATAL that a load or an atomic takes at issue (R188): the lowest failing lane. Then its SPILL_FAULT. -/
def State.fatalAtIssue (s : State) (a : Acc) : Chk Unit :=
  match a.lanes.findSome? fun l => (s.laneFatal a l).map fun i => (l.lane, i) with
  | some (l, i) => .error (.trap 0x12 (i + l))
  | none => s.spillAtIssue a

/-! ## Range locks (R80, R81) -/

def Span.overlaps (x : Span) (spad : Option Nat) (lo hi : Nat) : Bool :=
  decide (x.spad = spad) && decide (x.lo < hi) && decide (lo < x.hi)

/-- The lock that a thread access of a core meets. -/
def Core.lockHit (k : Core) (spad : Option Nat) (lo n : Nat) (write : Bool) : Option Lock :=
  k.locks.find? fun x => x.span.overlaps spad lo (lo + n) && (x.dest || write)

/-- TRAPINFO of RANGE_LOCK. -/
def lockInfo (lane : Nat) (x : Lock) : Nat := lane + boolNat x.dest * 2 ^ 6 + x.entry % 128 * 2 ^ 7

/-- RANGE_LOCK of the lowest lane that meets a lock. -/
def State.lockCheck (s : State) (e : Env) (spad : Option Nat) (lanes : List Nat) (at_ : Nat → Nat) (n : Nat) (write : Bool) :
    Chk Unit :=
  let k := s.core e.g.core
  match lanes.findSome? fun l => (k.lockHit spad (at_ l) n write).map fun x => (l, x) with
  | some (l, x) => .error (.trap 0x14 (lockInfo l x))
  | none => .ok ()

/-! ## What an access waits for at issue (R27, R69, R71, R73, R86) -/

def acquires (o : Order) : Bool := o == .acq || o == .ar || o == .sc
def releases (o : Order) : Bool := o == .rel || o == .ar || o == .sc

/-- Every access of a slice waits for its earlier acquiring reads. -/
def State.afterAcquires (s : State) (e : Env) : Chk Unit :=
  waitAccs ((s.sliceAccs e.gid e.sl).filter fun a => acquires a.ord && a.kind.reads && a.isOpen)

/-- An engine operation of a group has parked units. -/
def State.engParked (s : State) (gid : Nat) : List Eng := s.engs.filter fun g => g.gid == gid && g.logged

/-- A slice has a logged store, atomic or write-engine operation: later stores, atomics, fences and releases wait (R27). -/
def State.afterLogged (s : State) (e : Env) : Chk Unit := do
  waitAccs ((s.sliceAccs e.gid e.sl).filter fun a => a.logged && a.kind.writes && a.isOpen)
  waitIf (decide (e.sl = .a) && !(s.engParked e.gid).isEmpty) (.accs ((s.engParked e.gid).map (·.id)))

/-- A release waits for every earlier write of the slice: its W holds writes only, and a load still parked does not hold it
(R71; DEDUCED, log 36). -/
def State.afterWrites (s : State) (e : Env) : Chk Unit :=
  waitAccs ((s.sliceAccs e.gid e.sl).filter fun a => a.kind.writes && a.isOpen)

/-- A fence with ACQ makes every earlier load act as an acquire, and one with REL orders a later store after every earlier access: it waits for
the loads (R74). -/
def State.afterReads (s : State) (e : Env) : Chk Unit :=
  waitAccs ((s.sliceAccs e.gid e.sl).filter fun a => a.kind.reads && a.isOpen)

/-- Bytes that a lane of an access names. -/
def LaneAcc.meets (l : LaneAcc) (n lo m : Nat) : Bool := decide (l.ia.toNat < lo + m) && decide (lo < l.ia.toNat + n)

/-- A lane of access `b` names a byte of a span that another access names on path `p`; bytes of different paths meet in storage. -/
def State.clash (s : State) (b : Acc) (l : LaneAcc) (p : Path) (lo n : Nat) : Bool :=
  if decide (b.path = .t) = decide (p = .t) then l.meets b.size lo n else
  let x := s.storage b.path l.ia.toNat b.size
  let y := s.storage p lo n
  decide (x.1 < y.1 + y.2) && decide (y.1 < x.1 + x.2)

/-- Stores that wait for qs data and name a byte of a span that is reached on a path. -/
def State.qsStores (s : State) (gid : Nat) (sl : Slice) (p : Path) (lo n : Nat) : List Acc :=
  (s.sliceAccs gid sl).filter fun a => a.needQs.isSome && a.lanes.any fun l => s.clash a l p lo n

/-- Every store of the slice that waits for qs data: fences, releases and SC accesses wait for them all (R69). -/
def State.afterQs (s : State) (e : Env) : Chk Unit := waitAccs ((s.sliceAccs e.gid e.sl).filter fun a => a.needQs.isSome)

/-- The waits of one access, by its kind, order and lanes. -/
def State.accessWaits (s : State) (e : Env) (a : Acc) : Chk Unit := do
  s.afterAcquires e
  if a.kind.writes then s.afterLogged e
  let lines := a.lanes.map fun l => l.ia.toNat / 64
  waitAccs ((s.sliceAccs e.gid e.sl).filter fun b =>
    !a.kind.writes && b.logged && b.kind.writes && b.lanes.any fun l => l.st.open && lines.contains (l.ia.toNat / 64))
  if (releases a.ord && a.kind.writes) || a.ord == .sc then s.afterWrites e
  if a.kind ≠ .store then waitAccs (a.lanes.flatMap fun l => s.qsStores e.gid e.sl a.path l.ia.toNat a.size)

/-! ## Releases (R39, R44, R71, R89) -/

/-- WRITE and ATOMIC requests sent to endpoints and not yet acknowledged. -/
def State.unacked (s : State) : List (Nat × W32) :=
  s.streams.flatMap fun x => (x.out.filter Msg.writes).map fun m => (x.slot, m.seq)

/-- A release by the issuing fragment: its pushes, and the messages that it must wait for. From DIE on these are all that are under way, by
whichever group they were pushed: its W may hold them (R44, R71, R89; DEDUCED, log 100). A fragment that has waited for them has made its
release. -/
def State.releaseFor (s : State) (e : Env) (sc : Scope) : State × List (Nat × W32) :=
  match e.f.wait with
  | .msgs _ => (s, [])
  | _ =>
    let s := s.release e.g.core sc
    (s, if 4 ≤ scopeNum sc then s.unacked else [])

/-- A store of the slice that has been ended because every allowed port had failed makes the next release at SYS take PAGE_FATAL (R363). -/
def State.failedStore (s : State) (gid : Nat) (sl : Slice) : Option Nat :=
  (s.lost.find? fun x => x.1 == gid && decide (x.2.1 = sl)).map fun x => fatalLink + x.2.2

/-- Makes the release of an instruction, then goes on; the fragment waits when messages must be acknowledged first. -/
def State.withRelease (s : State) (e : Env) (sc : Scope) (k : State → Chk Eff) : Chk Eff := do
  match if sc = .sys then s.failedStore e.gid e.sl else none with
  | some i => .error (.trap 0x12 i)
  | none =>
    let (s, ms) := s.releaseFor e sc
    if ms.isEmpty then k s
    else pure { s := s.stays e (.msgs ms), moved := true }

/-! ## Destinations of loads (R277, R278) -/

/-- Starts the delivery of an access: queue entries or an outstanding result, `n` of them, with the lanes of each. -/
def State.reserve (s : State) (e : Env) (id : Nat) (d : Opnd) (n : Nat) (counted : Option Path) (lanes : Nat → Lanes) : State × Deliver :=
  match d with
  | .que q =>
    let s := s.updGroup e.gid fun g => (List.range n).foldl (fun g i =>
      g.push (q.toNat + i) (lanes i) 0 (laneList g.width fun _ => Val.zero) 0 (some id)) g
    (s, .queue q.toNat n)
  | _ =>
    let (oid, s) := s.fresh
    let o : Out := { id := oid, dst := e.dst d, regs := List.replicate n [], pend := e.dstLanes d, ready := 0, acc := some id,
                     path := counted, mat := false }
    let s := s.updSlice e.gid e.sl fun x =>
      { x with outs := x.outs ++ [o],
               counts := match counted with
                 | some p => x.counts ++ [{ path := p, acc := id }]
                 | none => x.counts }
    (s, .out oid)

/-- A counted load waits while its counter holds 63; a queue load waits for room in each queue. -/
def loadRoom (e : Env) (d : Opnd) (n : Nat) (p : Path) : Chk Unit :=
  match d with
  | .que q => waitIf (!e.g.roomFor q.toNat n) (.push q.toNat n)
  | _ => waitIf (decide (63 ≤ e.x.counter p)) (.ctrFull p)

end Sys2Proof.Machine
end

