-- ==== Sys2Proof/Machine/Memory.lean ====
section
/-!
DEFINITION. Opcode group 4 but for the sampler and the transforms: loads, stores, atomics, the scratchpad, prefetch and
fences (12 R273 to R289, 03 R71 to R75, 02 R52 to R55).
-/

namespace Sys2Proof.Machine

/-! ## Address operands (R274 to R276) -/

def baseSrc (a : Opnd) : SrcOp := { code := 1, o := a, ty := .b64, pair := true }
def indexSrc (b : Opnd) : SrcOp := { code := 2, o := b, ty := .s32 }

/-- Registers of OPA and OPB of a memory address. -/
def addrUses (a b : Opnd) : List RegUse := [{ code := 1, o := a, n := 2, even := true }, { code := 2, o := b, n := 1, even := false }]

def mmSize (m : MM) : Nat := m.ty.size * nvecCount m.aop

/-- ea(l), of `size` bytes per lane. -/
def effAddr (base index : Nat) (iscale : BitVec 2) (ofs : BitVec 8) (size : Nat) : Nat :=
  (((base : Int) + (BitVec.ofNat 32 index).toInt * 2 ^ iscale.toNat + ofs.toInt * size) % 2 ^ 64).toNat

/-- so(l). -/
def spadAddr32 (base index : Nat) (iscale : BitVec 2) (ofs : BitVec 8) (size : Nat) : Nat :=
  (((base : Int) + (BitVec.ofNat 32 index).toInt * 2 ^ iscale.toNat + ofs.toInt * size) % 2 ^ 32).toNat

/-- A value of a list of lane functions. -/
def valAt (vs : List (Nat → Nat)) (i l : Nat) : Nat := (vs.getD i fun _ => 0) l

/-- The register `i` above the one an operand names. -/
def shiftOpnd (o : Opnd) (i : Nat) : Opnd :=
  match o with
  | .vec n => .vec (n + BitVec.ofNat 8 i)
  | .ind b ix => .ind (b + BitVec.ofNat 8 i) ix
  | .sca n => .sca (n + BitVec.ofNat 6 i)
  | o => o

/-- The requests of the lanes of exec. -/
def Env.laneAccs (e : Env) (va : Nat → Nat) (data : Nat → List Byte) : List LaneAcc :=
  (lanesOf e.exec).filterMap fun l => (e.c.window? (va l)).map fun w =>
    { lane := l, va := BitVec.ofNat 64 (va l), ia := BitVec.ofNat 52 (w.iaOf (va l)), pwin := w.p, prot := w.prot, exempt := false,
      data := data l, st := .todo }

/-- The IA of a lane's address. -/
def Env.iaAt (e : Env) (va : Nat → Nat) (l : Nat) : Nat := ((e.c.window? (va l)).map fun w => w.iaOf (va l)).getD 0

/-- A new access of the issuing fragment. -/
def Env.newAcc (e : Env) (id : Nat) (kind : AccKind) (path : Path) (m : MM) (nvec : Nat) (lanes : List LaneAcc) : Acc :=
  { id := id, gid := e.gid, sl := e.sl, pc := e.f.pc, issuedAt := e.x.issued + 1, kind := kind, path := path, ty := m.ty,
    nvec := nvec, scope := m.scope, ord := m.ord, nol1 := m.hint == 2, lanes := lanes, logged := false, needQs := none,
    deliver := .none, taps := [] }

def State.addAcc (s : State) (a : Acc) : State := { s with accs := s.accs ++ [a] }

/-- The address checks of an access with its range locks; the result gives the lanes' addresses. -/
def State.addressed (s : State) (e : Env) (va : Nat → Nat) (size : Nat) (rights : Window → Bool) (write : Bool) : Chk Unit := do
  let lanes := lanesOf e.exec
  e.c.addrChecks lanes va size rights
  s.lockCheck e none lanes (e.iaAt va) size write

/-! ## Loads (R277, R278, R280, R281) -/

/-- A load on a path. -/
def loadEff (p : Path) (rights : Window → Bool) (d a b : Opnd) (m : MM) (e : Env) (s : State) : Chk Eff := do
  let n := nvecCount m.aop
  let regs := Encoding.accRegs m.ty m.aop
  e.bounds ({ code := 0, o := d, n := regs, even := m.ty == .b64 } :: addrUses a b)
  let vs ← s.peek e [baseSrc a, indexSrc b] (.vec 0) 0
  let va := fun l => effAddr (valAt (lvVals vs) 0 l) (valAt (lvVals vs) 1 l) m.iscale m.ofs (mmSize m)
  s.addressed e va (mmSize m) rights false
  poisonCheck e.exec vs
  let acc := e.newAcc s.nextId .load p m n (e.laneAccs va fun _ => [])
  s.accessWaits e acc
  loadRoom e d regs p
  s.fatalAtIssue acc
  let (id, s) := (s.consume e [indexSrc b]).fresh
  let (s, del) := s.reserve e id d regs (if isQueue d then none else some p) fun _ => e.exec
  pure (Eff.on (s.addAcc { acc with deliver := del }))

/-- Rights of Table 1-2. -/
def loadRights (w : Window) : Bool := w.rd && !w.l
def storeRights (w : Window) : Bool := w.wr && !w.l
def atomRights (w : Window) : Bool := w.rd && w.wr && !w.l
def constRights (w : Window) : Bool := w.rd && w.k && !w.l
def viewLoadRights (w : Window) : Bool := w.l && w.rd && !w.p
def viewStoreRights (w : Window) : Bool := w.l && w.wr && !w.p

def execLdq (h : Hdr) (d a b : Opnd) (m : MM) (s : State) : Host.Outcome State Fault Refusal :=
  runInstr (.ldq h d a b m) h (loadEff .g loadRights d a b m) s

def execLdr (h : Hdr) (d a b : Opnd) (m : MM) (s : State) : Host.Outcome State Fault Refusal :=
  runInstr (.ldr h d a b m) h (loadEff .g loadRights d a b m) s

def execLdk (h : Hdr) (d a b : Opnd) (m : MM) (s : State) : Host.Outcome State Fault Refusal :=
  runInstr (.ldk h d a b m) h (loadEff .k constRights d a b m) s

def execLdt (h : Hdr) (d a b : Opnd) (m : MM) (s : State) : Host.Outcome State Fault Refusal :=
  runInstr (.ldt h d a b m) h (loadEff .t viewLoadRights d a b m) s

/-! ## Stores (R69, R277, R279 to R281) -/

/-- The sources that hold store data: one per element. -/
def dataSrcs (d : Opnd) (ty : Ty) (n : Nat) : List SrcOp :=
  match d with
  | .que _ => []
  | .imm i => List.replicate n { code := 0, o := .imm i, ty := .b64, pair := true }
  | _ => (List.range n).map fun i =>
      { code := 0, o := shiftOpnd d (if ty == .b64 then 2 * i else i), ty := ty, pair := ty == .b64 }

/-- The bytes of a lane's elements. -/
def elemBytes (ty : Ty) (vs : List (Nat → Nat)) (l : Nat) : List Byte := vs.flatMap fun v => leBytes ty.size (v l)

def dataUse (d : Opnd) (m : MM) : RegUse := { code := 0, o := d, n := Encoding.accRegs m.ty m.aop, even := m.ty == .b64 }

/-- Stores of a slice that hold an entry of the store buffer: those that wait for qs data, and those behind one of them that they overlap
(R69). -/
def State.buffered (s : State) (gid : Nat) (sl : Slice) : List Acc :=
  (s.sliceAccs gid sl).foldl (fun (acc : List Acc) a =>
    if a.kind = .store ∧ (a.needQs.isSome || a.lanes.any fun l => l.st.open && acc.any fun b => b.lanes.any fun x =>
        x.st.open && s.clash b x a.path l.ia.toNat a.size) then acc ++ [a] else acc) []

/-- Room in the store buffer of 32 for one more store that needs an entry. -/
def State.storeRoom (s : State) (e : Env) (a : Acc) : Chk Unit :=
  let need := a.needQs.isSome || a.lanes.any fun l => (s.buffered e.gid e.sl).any fun b => b.lanes.any fun x =>
    x.st.open && s.clash b x a.path l.ia.toNat a.size
  waitIf (need && decide (32 ≤ (s.buffered e.gid .a).length + (s.buffered e.gid .c).length)) .storeBuffer

/-- A store on a path. -/
def storeEff (p : Path) (rights : Window → Bool) (d a b : Opnd) (m : MM) (e : Env) (s : State) : Chk Eff := do
  let n := nvecCount m.aop
  e.bounds (dataUse d m :: addrUses a b)
  let vs ← s.peek e (baseSrc a :: indexSrc b :: dataSrcs d m.ty n) (.vec 0) 0
  let va := fun l => effAddr (valAt (lvVals vs) 0 l) (valAt (lvVals vs) 1 l) m.iscale m.ofs (mmSize m)
  s.addressed e va (mmSize m) rights true
  poisonCheck e.exec vs
  let acc := e.newAcc s.nextId .store p m n (e.laneAccs va fun l => elemBytes m.ty ((lvVals vs).drop 2) l)
  let acc := if isQueue d then { acc with needQs := some e.exec } else acc
  s.accessWaits e acc
  s.storeRoom e acc
  s.spillAtIssue acc
  let go := fun (s : State) =>
    let (id, s) := (s.consume e [indexSrc b]).fresh
    (pure (Eff.on (s.addAcc { acc with id := id })) : Chk Eff)
  if releases m.ord then s.withRelease e m.scope go else go s

def execSt (h : Hdr) (d a b : Opnd) (m : MM) (s : State) : Host.Outcome State Fault Refusal :=
  runInstr (.st h d a b m) h (storeEff .g storeRights d a b m) s

def execStt (h : Hdr) (d a b : Opnd) (m : MM) (s : State) : Host.Outcome State Fault Refusal :=
  runInstr (.stt h d a b m) h (storeEff .t viewStoreRights d a b m) s

/-! ## Atomics (R284 to R286) -/

def isCas (m : MM) : Bool := m.aop == 7

/-- Registers of OPB of an atomic: the operand, or for CAS the compare value and the new value. -/
def atomRegs (m : MM) : Nat := (if isCas m then 2 else 1) * (if m.ty == .b64 then 2 else 1)

def atomSrcs (b : Opnd) (m : MM) : List SrcOp :=
  (List.range (if isCas m then 2 else 1)).map fun i =>
    { code := 2, o := shiftOpnd b (if m.ty == .b64 then 2 * i else i), ty := m.ty, pair := m.ty == .b64 }

def atomUse (b : Opnd) (m : MM) : RegUse := { code := 2, o := b, n := atomRegs m, even := decide (1 < atomRegs m) }

/-- A CAS of B64 needs four registers from a multiple of four, also when it names them by an index register. -/
def Env.quadCheck (e : Env) (b : Opnd) (m : MM) : Chk Unit :=
  trapIf (isCas m && m.ty == .b64 && b.kind == 2 && e.regNum b % 4 != 0) 4
    (e.regNum b % 256 + 2 * 2 ^ 8 + 2 ^ 10 + e.regNum b / 256 % 2 * 2 ^ 11)

/-- An operand that gives every lane of a fragment the same value. -/
def oneValue : Opnd → Bool
  | .sca _ => true
  | .imm _ => true
  | _ => false

/-- An atomic whose operands are scalars or immediates and that returns nothing acts once for the fragment, for its lowest
lane (R199; the counters of R387 and R395 need it; DEDUCED, log 35). -/
def Env.once (e : Env) (ret : Bool) (a b : Opnd) : Env :=
  if !ret && oneValue a && oneValue b then { e with exec := maskOf fun l => l == lowLane e.exec } else e

/-- ATOM and RED. -/
def atomEff (d : Option Opnd) (a b : Opnd) (m : MM) (e : Env) (s : State) : Chk Eff := do
  let e := e.once d.isSome a b
  let dst := d.getD (.vec 0)
  let n := if m.ty == .b64 then 2 else 1
  e.bounds [{ code := 1, o := a, n := 2, even := true }, atomUse b m]
  e.quadCheck b m
  let vs ← s.peek e (baseSrc a :: atomSrcs b m) (.vec 0) 0
  let va := fun l => effAddr (valAt (lvVals vs) 0 l) 0 0 m.ofs m.ty.size
  s.addressed e va m.ty.size atomRights true
  poisonCheck e.exec vs
  let acc := e.newAcc s.nextId (.atom m.aop.toNat d.isNone) .g m 1
    (e.laneAccs va fun l => elemBytes m.ty ((lvVals vs).drop 1) l)
  s.accessWaits e acc
  if d.isSome then loadRoom e dst n .g
  s.fatalAtIssue acc
  let go := fun (s : State) =>
    let (id, s) := s.fresh
    let (s, del) := if d.isSome then s.reserve e id dst n none fun _ => e.exec else (s, .none)
    (pure (Eff.on (s.addAcc { acc with id := id, deliver := del })) : Chk Eff)
  if releases m.ord then s.withRelease e m.scope go else go s

def execAtom (h : Hdr) (d a b : Opnd) (m : MM) (s : State) : Host.Outcome State Fault Refusal :=
  runInstr (.atom h d a b m) h (atomEff (some d) a b m) s

def execRed (h : Hdr) (a b : Opnd) (m : MM) (s : State) : Host.Outcome State Fault Refusal :=
  runInstr (.red h a b m) h (atomEff none a b m) s

/-! ## The scratchpad (R52 to R55, R283) -/

/-- Base of a team's allocation on a core. -/
def Team.spadBase (t : Team) (core : Nat) : Nat := ((t.scrBase.find? fun x => x.1 == core).map (·.2)).getD 0

/-- Byte of the core's scratchpad that an offset reaches, and the offset within the allocation. -/
def Env.spadOff (e : Env) (o : Nat) : Nat := if e.t.scrBytes = 0 then 0 else o % e.t.scrBytes
def Env.spadAt (e : Env) (o : Nat) : Nat := e.t.spadBase e.g.core + e.spadOff o

/-- ILLEGAL_ENCODING of a team with no allocation (R275). -/
def Env.needSpad (e : Env) : Chk Unit := refuseIf (decide (e.t.scrBytes = 0)) 0xFF

/-- Bytes of a scratchpad, each with the poison of its word (R60). -/
def Core.spadRead (k : Core) (at_ n : Nat) : List PByte :=
  (List.range n).map fun i => (cellRead memDefault k.spad (at_ + i), markAt k.spadPoison 4 (at_ + i))

def Core.spadWrite (k : Core) (at_ : Nat) (bs : List PByte) : Core :=
  { k with spad := cellWrites memDefault k.spad at_ (values bs), spadPoison := poisonAfter k.spadPoison at_ bs 4 }

/-- The offset of word (r, c) of the tile at tb. -/
def tileWord (tb r c : Nat) : Nat := tb / 4096 * 4096 + (r * 32 + c) * 4

/-- The lanes' offsets in the three modes (R55). -/
def spadOfs (m : MM) (a b l : Nat) : Nat :=
  match m.hint.toNat with
  | 0 => spadAddr32 a b m.iscale m.ofs (mmSize m)
  | 1 => tileWord a ((b % 32 + l / 32) % 32) ((b / 32 % 32 + l) % 32)
  | _ => tileWord a ((b / 32 % 32 + l) % 32) ((b % 32 + l / 32) % 32)

def spadUses (a b : Opnd) : List RegUse := [{ code := 1, o := a, n := 1, even := false }, { code := 2, o := b, n := 1, even := false }]
def spadSrcs (a b : Opnd) : List SrcOp := [{ code := 1, o := a }, indexSrc b]

/-- Bank of a scratchpad word (R54); `base` is where the allocation starts. -/
def spadBank (alloc base o : Nat) : Nat :=
  let w := o / 4
  let k := if 4096 ≤ alloc then 0 else 8 * (base / 1024 % 4)
  (w / 32 % 32 + w % 32 + k) % 32

/-- Words of the span of a scratchpad transform that lie in a bank, as offsets from its start. -/
def State.bankWords (s : State) (e : Eng) (b : Nat) : List Nat :=
  let alloc := s.allocOf e.team
  let base := ((s.team? e.team).map fun t => t.spadBase e.core).getD 0
  ((List.range (e.len / 4)).map (4 * ·)).filter fun o => spadBank alloc base (reduceOfs alloc (e.dst + o)) == b

/-- Scratchpad accesses of a slice wait for its earlier transforms to perform their parts in the banks of their words (R58). -/
def State.spadBankWait (s : State) (e : Env) (so : Nat → Nat) (size : Nat) : Chk Unit :=
  let base := e.t.spadBase e.g.core
  let busy := s.engs.filter fun (g : Eng) => decide (e.sl = .a) && g.gid == e.gid && g.kind.transform && g.dsp &&
    (lanesOf e.exec).any fun l => (List.range ((size + 3) / 4)).any fun i =>
      let b := spadBank e.t.scrBytes base (e.spadOff (so l + 4 * i))
      !g.done.contains b && !(s.bankWords g b).isEmpty
  waitIf (!busy.isEmpty) (.accs (busy.map (·.id)))

/-- Alignment and range locks of scratchpad offsets. -/
def State.spadChecks (s : State) (e : Env) (so : Nat → Nat) (size : Nat) (write : Bool) : Chk Unit := do
  let lanes := lanesOf e.exec
  laneTrap lanes (fun l => so l % size != 0) 0x13 id
  s.lockCheck e (some e.t.id) lanes (fun l => e.spadOff (so l)) size write

/-- The register values of loaded bytes, each with the poison of its own bytes (R60, R277). -/
def loadRegs (ty : Ty) (n : Nat) (bs : List PByte) : List Val :=
  let v := fun (x : List PByte) => ({ bits := BitVec.ofNat 32 (leNat (values x)), poison := anyPoison x } : Val)
  (List.range n).flatMap fun i =>
    let x := (bs.drop (i * ty.size)).take ty.size
    if ty == .b64 then [v (x.take 4), v (x.drop 4)] else [v x]

/-- Delivers loaded values at once: to registers, or one push per queue. -/
def State.writeLoaded (s : State) (e : Env) (d : Opnd) (regs : Nat) (v : Nat → List Val) : State :=
  let f := fun (i l : Nat) => (v l).getD i Val.zero
  match d with
  | .que q => s.updGroup e.gid fun g => (List.range regs).foldl (fun g i =>
      g.push (q.toNat + i) e.exec e.exec (laneList g.width (f i)) 0 none) g
  | _ => s.updSlice e.gid e.sl fun x => x.writeRegs e d ((List.range regs).map f)

def ldspEff (d a b : Opnd) (m : MM) (e : Env) (s : State) : Chk Eff := do
  let regs := Encoding.accRegs m.ty m.aop
  e.bounds (dataUse d m :: spadUses a b)
  let vs ← s.peek e (spadSrcs a b) d regs
  e.needSpad
  let so := fun l => spadOfs m (valAt (lvVals vs) 0 l) (valAt (lvVals vs) 1 l) l
  s.spadChecks e so (mmSize m) false
  poisonCheck e.exec vs
  s.afterAcquires e
  s.spadBankWait e so (mmSize m)
  let k := s.core e.g.core
  let v := fun l => loadRegs m.ty (nvecCount m.aop) (k.spadRead (e.spadAt (so l)) (mmSize m))
  pure (Eff.on ((s.consume e [indexSrc b]).writeLoaded e d regs v))

def execLdsp (h : Hdr) (d a b : Opnd) (m : MM) (s : State) : Host.Outcome State Fault Refusal :=
  runInstr (.ldsp h d a b m) h (ldspEff d a b m) s

def stspEff (d a b : Opnd) (m : MM) (e : Env) (s : State) : Chk Eff := do
  e.bounds (dataUse d m :: spadUses a b)
  let vs ← s.peek e (spadSrcs a b ++ dataSrcs d m.ty (nvecCount m.aop)) (.vec 0) 0
  e.needSpad
  let so := fun l => spadOfs m (valAt (lvVals vs) 0 l) (valAt (lvVals vs) 1 l) l
  s.spadChecks e so (mmSize m) true
  poisonCheck e.exec vs
  s.afterAcquires e
  s.spadBankWait e so (mmSize m)
  s.afterLogged e
  if releases m.ord then s.afterWrites e
  let go := fun (s : State) =>
    (pure (Eff.on ((s.consume e [indexSrc b]).updCore e.g.core fun k => (lanesOf e.exec).foldl (fun (k : Core) l =>
      k.spadWrite (e.spadAt (so l)) (plain (elemBytes m.ty ((lvVals vs).drop 2) l))) k)) : Chk Eff)
  if releases m.ord then s.withRelease e m.scope go else go s

def execStsp (h : Hdr) (d a b : Opnd) (m : MM) (s : State) : Host.Outcome State Fault Refusal :=
  runInstr (.stsp h d a b m) h (stspEff d a b m) s

/-- ATSP with no return names p7 (Table 12-3). -/
def atspReturns (d : Opnd) : Bool := d.kind != 3

/-- The lanes of ATSP, one after another: the scratchpad and the old values. -/
def atspRun (e : Env) (m : MM) (so : Nat → Nat) (data : Nat → List Byte) (k : Core) : Core × List (Nat × Nat × Option Poison) :=
  (lanesOf e.exec).foldl (fun (acc : Core × List (Nat × Nat × Option Poison)) l =>
    let at_ := e.spadAt (so l)
    let r := acc.1.spadRead at_ m.ty.size
    let p := anyPoison r
    let k := if p.isSome then acc.1 else acc.1.spadWrite at_ (plain (atomBytes m.aop.toNat m.ty (data l) (values r)))
    (k, acc.2 ++ [(l, leNat (values r), p)])) (k, [])

def atspEff (d a b : Opnd) (m : MM) (e : Env) (s : State) : Chk Eff := do
  let ret := atspReturns d
  let e := e.once ret a b
  let n := if m.ty == .b64 then 2 else 1
  e.bounds [{ code := 0, o := if ret then d else .imm 0, n := n, even := m.ty == .b64 }, { code := 1, o := a, n := 1, even := false },
    atomUse b m]
  e.quadCheck b m
  let vs ← s.peek e ({ code := 1, o := a } :: atomSrcs b m) d n
  e.needSpad
  let so := fun l => spadAddr32 (valAt (lvVals vs) 0 l) 0 0 m.ofs m.ty.size
  s.spadChecks e so m.ty.size true
  poisonCheck e.exec vs
  s.afterAcquires e
  s.spadBankWait e so m.ty.size
  s.afterLogged e
  if releases m.ord then s.afterWrites e
  let go := fun (s : State) =>
    let r := atspRun e m so (fun l => elemBytes m.ty ((lvVals vs).drop 1) l) (s.core e.g.core)
    let s := s.updCore e.g.core fun _ => r.1
    let old := fun l => ((r.2.find? fun x => x.1 == l).map (·.2)).getD (0, none)
    let val := fun (i l : Nat) => ({ bits := BitVec.ofNat 32 ((old l).1 / 2 ^ (32 * i)), poison := (old l).2 } : Val)
    if ret then
      match d with
      | .que _ => (pure (Eff.on (s.writeLoaded e d n fun l => (List.range n).map fun i => val i l)) : Chk Eff)
      | _ => pure (Eff.on (s.lateDst e d false ((List.range n).map val)))
    else pure (Eff.on (r.2.foldl (fun s x =>
      if x.2.2.isSome then s.deviceRecord 0x07 (e.g.core / 40 * 64 + e.g.core % 40 / 4 % 8 * 8) e.c.owner e.c.num 0 0 else s) s))
  if releases m.ord then s.withRelease e m.scope go else go s

def execAtsp (h : Hdr) (d a b : Opnd) (m : MM) (s : State) : Host.Outcome State Fault Refusal :=
  runInstr (.atsp h d a b m) h (atspEff d a b m) s

/-! ## Prefetch (R287) -/

/-- A procedural block of an IA is FILLED, or the IA lies in no range. -/
def State.blockReady (s : State) (ia : Nat) : Bool :=
  match if homeOf ia ≤ 3 then s.prt? ia else none with
  | some p => s.fillState (homeOf ia) p (p.blockOf ia) == 2
  | none => true

/-- Brings a line to its point of coherence and, unless NOL1, to the L1; a lane that would miss, fail a check or meet a block
that is not FILLED is dropped. A line of a host or peer home is READ, and joins the caches when it comes (R287). -/
def State.prefetch (s : State) (e : Env) (alloc : Bool) (size va : Nat) : State :=
  if va / 2 ^ 56 ≠ 0 then s else
  match e.c.window? va with
  | none => s
  | some w =>
    let ia := w.iaOf va / 64 * 64
    let r := e.req w false e.t.level
    if !loadRights w || va % size != 0 || inAperture ia || !s.blockReady ia then s else
    match (s.gate r ia).1 with
    | .go _ _ _ =>
      match s.readG r e.g.core .grp alloc ia 64 with
      | (.ok _, s) => s
      | _ => s
    | .remote _ _ _ _ =>
      match s.readG r e.g.core .grp alloc ia 64 with
      | (.ok _, s) => s
      | (.remote slot addr _, s) =>
        let p : Prefetch := { slot := slot, tag := s.nextSeq slot, ia := ia, core := e.g.core, ctx := e.c.num, wprot := w.prot, alloc := alloc }
        let s := s.send slot 1 false 0x01 p.tag (BitVec.ofNat 64 (addr / 64 * 64)) (leBytes 2 64 ++ [0, 0])
        { s with prefetches := s.prefetches ++ [p] }
      | _ => s
    | _ => s

def pfxEff (a b : Opnd) (m : MM) (e : Env) (s : State) : Chk Eff := do
  e.bounds (addrUses a b)
  let vs ← s.gather e [baseSrc a, indexSrc b] (.vec 0) 0
  let va := fun l => effAddr (valAt vs 0 l) (valAt vs 1 l) m.iscale m.ofs (mmSize m)
  pure (Eff.on ((lanesOf e.exec).foldl (fun s l => s.prefetch e (m.hint != 2) (mmSize m) (va l)) (s.consume e [indexSrc b])))

def execPfx (h : Hdr) (a b : Opnd) (m : MM) (s : State) : Host.Outcome State Fault Refusal :=
  runInstr (.pfx h a b m) h (pfxEff a b m) s

/-! ## Fences (R73 to R75, R288, R289) -/

def fenceEff (sc : Scope) (o : Order) (e : Env) (s : State) : Chk Eff := do
  s.afterLogged e
  s.afterQs e
  if acquires o || releases o then s.afterReads e
  if releases o then s.afterWrites e
  let go := fun (s : State) => (pure (Eff.on (if acquires o then s.acquire e.g.core sc else s)) : Chk Eff)
  if releases o then s.withRelease e sc go else go s

def execFence (h : Hdr) (m : MM) (s : State) : Host.Outcome State Fault Refusal :=
  runInstr (.fence h m) h (fenceEff m.scope m.ord) s

/-- Cores within a scope of a core (Table 3-1). -/
def coresIn (sc : Scope) (c : Nat) : List Nat :=
  match sc with
  | .grp | .core => [c]
  | .pair => (List.range 2).map fun i => c / 2 * 2 + i
  | .clu => (List.range 4).map fun i => c / 4 * 4 + i
  | .die => (List.range 40).map fun i => c / 40 * 40 + i
  | _ => List.range 160

/-- Step 4 of R75; a fill under way joins none of the caches that have been invalidated. -/
def State.pathInval (s : State) (sc : Scope) (c : Nat) (dst : BitVec 4) : State :=
  let s := (coresIn sc c).foldl (fun s c => s.updCore c fun k =>
    { k with l1 := if dst.getLsbD 0 then keepDirty k.l1 else k.l1, kcache := if dst.getLsbD 1 then [] else k.kcache,
             scache := if dst.getLsbD 2 then [] else k.scache, tcache := if dst.getLsbD 3 then [] else k.tcache }) s
  let s := if dst.toNat % 8 = 0 then s else s.spoil (fun k => (coresIn sc c).contains k) fun _ => true
  if 5 ≤ scopeNum sc then ((List.range 4).foldl State.acquireRdc s).spoil (fun _ => true) fun _ => true else s

def pfenceEff (sc : Scope) (src dst : BitVec 4) (e : Env) (s : State) : Chk Eff := do
  s.afterLogged e
  s.afterWrites e
  let s := if src.getLsbD 0 && dst &&& 0xE != 0 then s.pushL1 e.g.core .pair else s
  s.withRelease e sc fun s => pure (Eff.on (s.pathInval sc e.g.core dst))

def execPfence (h : Hdr) (scope : Scope) (src dst : BitVec 4) (s : State) : Host.Outcome State Fault Refusal :=
  runInstr (.pfence h scope src dst) h (pfenceEff scope src dst) s

end Sys2Proof.Machine
end

