-- ==== Sys2Proof/Machine/Barriers.lean ====
section
/-!
DEFINITION. The team barrier and the transaction barriers (03 R83 to R85, 07 R169, 12 R292, R293).
-/

namespace Sys2Proof.Machine

/-! ## SYNCT (R169, R292) -/

def Team.arrive (t : Team) (sl : Slice) (gid : Nat) (lanes : Lanes) (now : W64) : Team :=
  match sl with
  | .a => { t with barA := t.barA ++ [{ gid := gid, lanes := lanes, at_ := now }] }
  | .c => { t with barC := t.barC ++ [{ gid := gid, lanes := lanes, at_ := now }] }

/-- SYNCT: the lanes of exec arrive, and the fragment parks at its own PC until the barrier completes. -/
def synctEff (sw : Bool) (e : Env) (s : State) : Chk Eff := do
  s.afterLogged e
  s.afterWrites e
  let s := s.updFrag e.gid e.sl e.slot fun (f : Frag) => { f with wait := .barrier sw }
  let s := s.updTeam e.t.id fun t => t.arrive e.sl e.gid e.exec s.time
  pure { s := s.checkBarrier e.t.id e.sl, moved := true }

def execSynct (h : Hdr) (s : State) : Host.Outcome State Fault Refusal := runInstr (.synct h) h (synctEff h.sw) s

/-! ## The barrier object (R83, R84) -/

/-- The fields of Table 3-4; the zero field is not kept. -/
structure BarObj where
  posted  : W32
  landed  : W32
  quota   : BitVec 16
  arrived : BitVec 16
  epoch   : BitVec 16
  deriving DecidableEq, Repr

def BarObj.ofBytes (bs : List Byte) : BarObj :=
  { posted := BitVec.ofNat 32 (leNat (bs.take 4)), landed := BitVec.ofNat 32 (leNat ((bs.drop 4).take 4)),
    arrived := BitVec.ofNat 16 (leNat ((bs.drop 8).take 2)), quota := BitVec.ofNat 16 (leNat ((bs.drop 10).take 2)),
    epoch := BitVec.ofNat 16 (leNat ((bs.drop 12).take 2)) }

def BarObj.bytes (o : BarObj) : List Byte :=
  leBytes 4 o.posted.toNat ++ leBytes 4 o.landed.toNat ++ leBytes 2 o.arrived.toNat ++ leBytes 2 o.quota.toNat ++
    leBytes 2 o.epoch.toNat ++ [0, 0]

/-- The end of every update: an epoch that is complete closes. -/
def BarObj.close (o : BarObj) : BarObj :=
  if o.arrived = o.quota ∧ o.landed = o.posted then { o with epoch := o.epoch + 1, arrived := 0 } else o

/-- An arrival of n; arrivals beyond the quota are discarded. -/
def BarObj.arrive (o : BarObj) (n : Nat) : BarObj :=
  { o with arrived := BitVec.ofNat 16 (min (o.arrived.toNat + n) o.quota.toNat) }

def BarObj.expect (o : BarObj) (e : Nat) : BarObj := { o with posted := o.posted + BitVec.ofNat 32 e }
def BarObj.land (o : BarObj) (n : Nat) : BarObj := { o with landed := o.landed + BitVec.ofNat 32 n }

/-- EPOCH has reached ticket t. -/
def BarObj.reached (o : BarObj) (t : Nat) : Bool := decide ((o.epoch - BitVec.ofNat 16 t).toNat < 2 ^ 15)

def BarObj.ticket (o : BarObj) : BitVec 16 := o.epoch + 1

/-- The object at a byte of a core's scratchpad. -/
def State.barObj (s : State) (core at_ : Nat) : BarObj := BarObj.ofBytes (values ((s.core core).spadRead at_ 16))

/-- One step at the bank of the object. -/
def State.barStep (s : State) (core at_ : Nat) (f : BarObj → BarObj) : State :=
  s.updCore core fun k => k.spadWrite at_ (plain (f (s.barObj core at_)).bytes)

/-- Byte of a team's scratchpad on a core that an offset reaches. -/
def Team.spadByte (t : Team) (core o : Nat) : Nat := t.spadBase core + (if t.scrBytes = 0 then 0 else o % t.scrBytes)

/-- Bytes land at a barrier of a team. -/
def State.landBytes (s : State) (team core off n : Nat) : State :=
  match s.team? team with
  | some t => s.barStep core (t.spadByte core off) fun o => (o.land n).close
  | none => s

/-! ## The MB family (R293) -/

def uniformVals (e : Env) (vs : List (Nat × (Nat → LV))) : List Nat := (lvVals vs).map fun v => v (lowLane e.exec)

/-- Offset and count of an MB instruction, with its entry checks: the allocation, the count, and the alignment. -/
def State.mbArgs (s : State) (e : Env) (a b : Opnd) (refused : Nat → Bool) : Chk (Nat × Nat) := do
  let vs ← s.peek e [{ code := 1, o := a }, { code := 2, o := b }] (.vec 0) 0
  let off := (uniformVals e vs).getD 0 0
  let n := (uniformVals e vs).getD 1 0
  e.needSpad
  refuseIf (refused n) n
  trapIf (off % 16 != 0) 0x13 (lowLane e.exec)
  poisonCheck e.exec vs
  pure (off, n)

/-- A scalar, predicate or absent result. -/
def State.status (s : State) (e : Env) (d : Opnd) (v : Nat) : State :=
  match d with
  | .sca _ => s.writeDst e d false fun _ => v
  | .pred _ => s.writeDst e d false fun _ => v
  | _ => s

def mbinitEff (a b : Opnd) (e : Env) (s : State) : Chk Eff := do
  let (off, c) ← s.mbArgs e a b fun n => decide (n < 1) || decide (65535 < n)
  pure (Eff.on (s.barStep e.g.core (e.spadAt off) fun _ =>
    { posted := 0, landed := 0, quota := BitVec.ofNat 16 c, arrived := 0, epoch := 0 }))

def execMbinit (h : Hdr) (a b : Opnd) (s : State) : Host.Outcome State Fault Refusal :=
  runInstr (.mbinit h a b) h (mbinitEff a b) s

/-- MBARV and MBEXP: one step at the object, the ticket, and for an arrival that is not RLX a release at CORE. -/
def mbUpdate (d : Opnd) (off : Nat) (rel : Bool) (f : BarObj → BarObj) (e : Env) (s : State) : Chk Eff := do
  let go := fun (s : State) =>
    let t := (s.barObj e.g.core (e.spadAt off)).ticket
    (pure (Eff.on ((s.barStep e.g.core (e.spadAt off) fun o => (f o).close).status e d t.toNat)) : Chk Eff)
  if rel then
    s.afterLogged e
    s.afterWrites e
    s.withRelease e .core go
  else go s

def mbarvEff (d a b : Opnd) (rlx : Bool) (e : Env) (s : State) : Chk Eff := do
  let (off, n) ← s.mbArgs e a b fun n => decide (65535 < n)
  mbUpdate d off (!rlx) (fun o => o.arrive n) e s

def execMbarv (h : Hdr) (d a b : Opnd) (rlx : Bool) (s : State) : Host.Outcome State Fault Refusal :=
  runInstr (.mbarv h d a b rlx) h (mbarvEff d a b rlx) s

def mbexpEff (d a b : Opnd) (rlx arv : Bool) (e : Env) (s : State) : Chk Eff := do
  let (off, n) ← s.mbArgs e a b anyCount
  mbUpdate d off (arv && !rlx) (fun o => if arv then (o.expect n).arrive 1 else o.expect n) e s

def execMbexp (h : Hdr) (d a b : Opnd) (rlx arv : Bool) (s : State) : Host.Outcome State Fault Refusal :=
  runInstr (.mbexp h d a b rlx arv) h (mbexpEff d a b rlx arv) s

def mbwaitEff (a b : Opnd) (e : Env) (s : State) : Chk Eff := do
  let (off, t) ← s.mbArgs e a b anyCount
  waitIf (!(s.barObj e.g.core (e.spadAt off)).reached t) (.ticket (BitVec.ofNat 32 off) (BitVec.ofNat 16 t))
  pure (Eff.on (s.acquire e.g.core .core))

def execMbwait (h : Hdr) (a b : Opnd) (s : State) : Host.Outcome State Fault Refusal :=
  runInstr (.mbwait h a b) h (mbwaitEff a b) s

def mbtestEff (d a b : Opnd) (e : Env) (s : State) : Chk Eff := do
  let (off, t) ← s.mbArgs e a b anyCount
  let r := (s.barObj e.g.core (e.spadAt off)).reached t
  let s := if r then s.acquire e.g.core .core else s
  pure (Eff.on (s.status e d (boolNat r)))

def execMbtest (h : Hdr) (d a b : Opnd) (s : State) : Host.Outcome State Fault Refusal :=
  runInstr (.mbtest h d a b) h (mbtestEff d a b) s

end Sys2Proof.Machine
end

