-- ==== Sys2Proof/Machine/Sampler.lean ====
section
/-!
DEFINITION. SMP and SLD: handles, sampler states, taps and their checks, and the filter (12 R290, R291, 15 R347 to R349, 06
R141).
-/

namespace Sys2Proof.Machine

/-! ## Texel values (R347) -/

/-- c ÷ (2^n − 1). -/
def unorm (n c : Nat) : Exact := .fin false (c % 2 ^ n) (2 ^ n - 1)

def exactZero : Exact := .fin false 0 1
def exactOne : Exact := .fin false 1 1

/-- R, G, B, A of a texel. -/
def texelOf (fmt : Nat) (bs : List Byte) : List Exact :=
  let v := leNat bs
  let u8 := fun (i : Nat) => unorm 8 (v / 2 ^ (8 * i))
  match fmt with
  | 1 => [u8 0, exactZero, exactZero, exactOne]
  | 2 => [u8 0, u8 1, exactZero, exactOne]
  | 3 => [u8 0, u8 1, u8 2, u8 3]
  | 4 => [u8 2, u8 1, u8 0, u8 3]
  | 5 => [unorm 10 v, unorm 10 (v / 2 ^ 10), unorm 10 (v / 2 ^ 20), unorm 2 (v / 2 ^ 30)]
  | 6 => [f16.val (v % 65536), exactZero, exactZero, exactOne]
  | 7 => (List.range 4).map fun i => f16.val (v / 2 ^ (16 * i) % 65536)
  | 8 => [f32.val (v % 2 ^ 32), exactZero, exactZero, exactOne]
  | 9 => [f32.val (v % 2 ^ 32), f32.val (v / 2 ^ 32 % 2 ^ 32), exactZero, exactOne]
  | 10 => (List.range 4).map fun i => f32.val (v / 2 ^ (32 * i) % 2 ^ 32)
  | _ => [.fin false (v % 2 ^ 32) 1, exactZero, exactZero, exactOne]

/-- A channel in [0, 1]; NaN reads 0. -/
def clampUnit (c : Exact) : Exact :=
  match c with
  | .fin s n d => if s || n == 0 then exactZero else if d < n then exactOne else .fin false n d
  | c => if c.isNan then exactZero else if exactZero.lt c then exactOne else exactZero

/-- c × (2^n − 1), rounded RNE. -/
def toUnorm (n : Nat) (c : Exact) : Nat :=
  match clampUnit c with
  | .fin _ m d => roundNat .rne false (m * (2 ^ n - 1)) d
  | _ => 0

/-- R, G, B, A in a composable format. -/
def encodePixel (fmt : Nat) (ch : List Exact) : List Byte :=
  let c := fun (i : Nat) => ch.getD i exactZero
  let u := fun (n i : Nat) => toUnorm n (c i)
  match fmt with
  | 3 => leBytes 4 (u 8 0 + u 8 1 * 2 ^ 8 + u 8 2 * 2 ^ 16 + u 8 3 * 2 ^ 24)
  | 4 => leBytes 4 (u 8 2 + u 8 1 * 2 ^ 8 + u 8 0 * 2 ^ 16 + u 8 3 * 2 ^ 24)
  | 5 => leBytes 4 (u 10 0 + u 10 1 * 2 ^ 10 + u 10 2 * 2 ^ 20 + u 2 3 * 2 ^ 30)
  | _ => (List.range 4).flatMap fun i => leBytes 2 (f16.round .rne false (c i))

/-- A composed pixel at the depth of an output, 10 bits per channel, A among them (R352, R354; DEDUCED, log 25). -/
def outWord (ch : List Exact) : BitVec 40 :=
  BitVec.ofNat 40 (((List.range 4).map fun i => toUnorm 10 (ch.getD i exactZero) * 2 ^ (10 * i)).sum)

/-- Channels of a pixel at the depth of an output. -/
def outPix (p : BitVec 40) : List Exact := (List.range 4).map fun i => .fin false (bits p.toNat (10 * i) 10) 1023

/-! ## Addressing (R348, R349) -/

/-- A coordinate; NaN and infinities are replaced by +0. -/
def coord (v : W32) : Exact :=
  match f32.val v.toNat with
  | .fin s n d => .fin s n d
  | _ => exactZero

/-- A finite value as a signed fraction. -/
def fracOf : Exact → Int × Nat
  | .fin s n d => (if s then -(n : Int) else n, d)
  | _ => (0, 1)

/-- The tap's index and the fraction beside it: coordinate × size, less one half when bilinear. -/
def tapPos (v : W32) (size : Nat) (bilinear : Bool) : Int × (Int × Nat) :=
  let (n, d) := fracOf (coord v)
  let (n, d) := if bilinear then (2 * n * size - d, 2 * d) else (n * size, d)
  let i := n / (d : Int)
  (i, (n - i * d, d))

/-- addr of R349; none outside in border mode. -/
def tapAddr (mode : Nat) (i : Int) (size : Nat) : Option Nat :=
  match mode with
  | 0 => some (i % (size : Int)).toNat
  | 1 => some (min (max i 0) (size - 1)).toNat
  | _ => if 0 ≤ i ∧ i < size then some i.toNat else none

def SampLane.bilinear (x : SampLane) : Bool := x.state.getLsbD 0
def SampLane.au (x : SampLane) : Nat := bits x.state.toNat 1 2
def SampLane.av (x : SampLane) : Nat := bits x.state.toNat 3 2

/-- The taps in order, each as its texel, none for the border. -/
def SampLane.coords (x : SampLane) : List (Option (Nat × Nat)) :=
  let i := (tapPos x.u x.w x.bilinear).1
  let j := (tapPos x.v x.h x.bilinear).1
  let at_ := fun (i j : Int) =>
    match tapAddr x.au i x.w, tapAddr x.av j x.h with
    | some a, some b => some (a, b)
    | _, _ => none
  if x.bilinear then [at_ i j, at_ (i + 1) j, at_ i (j + 1), at_ (i + 1) (j + 1)] else [at_ i j]

/-- The weights of the taps, as fractions over one denominator. -/
def SampLane.weights (x : SampLane) : List Exact :=
  if !x.bilinear then [exactOne] else
  let (fx, dx) := (tapPos x.u x.w true).2
  let (fy, dy) := (tapPos x.v x.h true).2
  let d := dx * dy
  [ofFrac ((dx - fx) * (dy - fy)) d, ofFrac (fx * (dy - fy)) d, ofFrac ((dx - fx) * fy) d, ofFrac (fx * fy) d]

/-! ## The filter (R349) -/

/-- One channel: the exact weighted sum over the taps of nonzero weight, rounded once. -/
def filterChannel (ty : Ty) (taps : List (Exact × List Exact)) (c : Nat) : Nat :=
  let terms := (taps.filter fun t => !t.1.isZero).map fun t => exactMul t.1 (t.2.getD c exactZero)
  (if ty.isH then f16 else f32).round .rne false (exactSum false terms)

/-- The value of a tap. -/
def SampLane.tapVal (x : SampLane) (got : List (List Byte)) (t : TexSrc) : List Exact :=
  match t with
  | .border => x.border.map fun w => f32.val w.toNat
  | .refused => List.replicate 4 exactZero
  | .view p => outPix p
  | .fetch i => texelOf x.fmt (got.getD i [])

/-- The registers that SMP delivers to a lane. -/
def SampLane.filter (x : SampLane) (ty : Ty) (nch : Nat) (got : List (List Byte)) : List W32 :=
  let taps := x.weights.zip (x.taps.map (x.tapVal got))
  let ch := (List.range nch).map (filterChannel ty taps)
  if ty.isH then (List.range ((nch + 1) / 2)).map fun i => BitVec.ofNat 32 (ch.getD (2 * i) 0 + ch.getD (2 * i + 1) 0 * 65536)
  else ch.map (BitVec.ofNat 32)

/-- The registers that SLD delivers to a lane: the texel's bytes, those of a screen view in format 5 (DEDUCED, log 25). -/
def SampLane.raw (x : SampLane) (got : List (List Byte)) : List W32 :=
  let bs := match x.taps with
    | [.fetch i] => got.getD i []
    | [.view p] => encodePixel 5 (outPix p)
    | _ => []
  (List.range ((x.bpp + 3) / 4)).map fun i => BitVec.ofNat 32 (leNat ((bs.drop (4 * i)).take 4))

/-! ## Issue (R131, R290, R291, R348) -/

/-- SSBASE of a context, 0 when it has no valid graphics context entry. -/
def State.ssBase (s : State) (ctx : Nat) : Nat := ((s.gfx.find? fun g => g.1 == ctx).map fun g => bits (fieldAt g.2 24 8) 5 47 * 32).getD 0

/-- What a lane of SMP knows of its sampler state. -/
inductive StateRead
  | known (state : W32) (border : List W32)
  | refused
  /-- Its page is missing, or its block FILLING: the lane parks (R20). -/
  | missing (ia : Nat)
  deriving DecidableEq, Repr

/-- The request for a sampler-state entry: the context's own, through no window (R129; DEDUCED, log 27). -/
def Env.stateReq (e : Env) : Req :=
  { core := e.g.core, ctx := e.c.num, owner := e.c.owner, prot := e.c.prot, wprot := false, pwin := none, write := false, exempt := false,
    level := e.t.level, team := some e.t.id }

/-- A sampler-state entry (Table 15-6); one that breaks the table, or reads poisoned, refuses the lane. -/
def stateOf (bs : List PByte) : StateRead :=
  let v := values bs
  let w := fieldAt v 0 4
  if (anyPoison bs).isSome ∨ w / 32 ≠ 0 ∨ bits w 1 2 = 3 ∨ bits w 3 2 = 3 ∨ fieldAt v 4 12 ≠ 0 then .refused
  else .known (BitVec.ofNat 32 w) ((List.range 4).map fun i => BitVec.ofNat 32 (fieldAt v (16 + 4 * i) 4))

/-- The sampler-state entry of an SMP, read on path S (R348). The read is the sampler unit's, and is held against no range lock (R81 speaks of
thread accesses: DESIGN CHOICE, log 133). -/
def State.sampState (s : State) (e : Env) (sc : Scope) (ssi : Nat) : StateRead × State :=
  let base := s.ssBase e.c.num
  let ia := base + 32 * ssi
  if base = 0 then (.refused, s) else
  match s.readKS e.stateReq e.g.core sc true true ia 32 with
  | (.ok bs, s) => (stateOf bs, s)
  | (.blocked _, s) => (.missing ia, s)
  | (_, s) => (.refused, s)

/-- The window whose IA range holds a surface's base; one with the rights of R11 where there is one. -/
def Ctx.surfWindow (c : Ctx) (base : Nat) : Option Window :=
  let ws := c.windows.filter fun w => decide (w.ia ≤ base) && decide (base < w.ia + w.len)
  (ws.find? fun w => w.rd && w.s).orElse fun _ => ws.head?

def State.ownSurface (s : State) (e : Env) (h : W32) : Option Surf :=
  match s.named h with
  | some (.surface f) => if f.owner = e.c.owner then some f else none
  | _ => none

/-- ACCESS_RANGE and ACCESS_RIGHTS of the lanes that name a surface of their own owner. -/
def State.surfChecks (s : State) (e : Env) (handle : Nat → W32) : Chk Unit := do
  let lanes := lanesOf e.exec
  laneTrap lanes (fun l => (s.ownSurface e (handle l)).any fun f => (e.c.surfWindow f.base).isNone) 0x10 rangeInfo
  laneTrap lanes (fun l => (s.ownSurface e (handle l)).any fun f => (e.c.surfWindow f.base).any fun w => !(w.rd && w.s)) 0x11
    fun l => rightsInfo l ((((s.ownSurface e (handle l)).bind fun f => e.c.surfWindow f.base).map (·.num)).getD 0)

/-- VA at which the window of a surface maps an IA, 0 when it does not (R22). -/
def vaOf (w : Option Window) (ia : Nat) : Nat :=
  match w with
  | some w => if w.ia ≤ ia ∧ ia < w.ia + w.len then w.base + (ia - w.ia) else 0
  | none => 0

/-- The window that holds the surface that is named. -/
def Named.window (n : Named) (c : Ctx) : Option Window :=
  match n with
  | .surface f => c.surfWindow f.base
  | .view _ => none

/-- The texels of one lane: its taps, the requests they need, and the number of refused texels. A permitted texel of another owner's surface is
exempt from the comparison of owners inside the span of the surface (R140). -/
def State.tapsOf (s : State) (c : Ctx) (n : Named) (h : W32) (frame : W32) (l : Nat) (pts : List (Option (Nat × Nat))) :
    List TexSrc × List LaneAcc × Nat :=
  pts.foldl (fun (acc : List TexSrc × List LaneAcc × Nat) p =>
    match p with
    | none => (acc.1 ++ [.border], acc.2.1, acc.2.2)
    | some (x, y) =>
      if !s.maySample c.owner c.prot n h x y frame then (acc.1 ++ [.refused], acc.2.1, acc.2.2 + 1) else
      match n with
      | .view v => (acc.1 ++ [.view ((s.view v).masked.getD (y * s.viewW v + x) 0)], acc.2.1, acc.2.2)
      | .surface f =>
        let own := f.owner == c.owner
        let w := if own then c.surfWindow f.base else none
        let ia := f.base + f.pixelOfs x y
        let r : LaneAcc := { lane := l, va := BitVec.ofNat 64 (vaOf w ia), ia := BitVec.ofNat 52 ia, pwin := (w.map (·.p)).getD false,
                             prot := (w.map (·.prot)).getD false, exempt := !own && decide (ia + f.bpp ≤ f.base + f.span), data := List.replicate f.bpp 0, st := .todo }
        (acc.1 ++ [.fetch acc.2.1.length], acc.2.1 ++ [r], acc.2.2)) ([], [], 0)

/-- Size, format and pixel bytes of what a handle names. -/
def State.shape (s : State) : Named → Nat × Nat × Nat × Nat
  | .surface f => (f.w, f.h, f.fmt, f.bpp)
  | .view v => (s.viewW v, s.viewH v, 5, 4)

/-- A lane refused as a whole. -/
def refusedLane (l fmt bpp : Nat) : SampLane :=
  { lane := l, handle := 0, frame := 0, waiting := false, fmt := fmt, bpp := bpp, w := 1, h := 1, u := 0, v := 0, state := 0, border := [], taps := [.refused] }

/-- One lane of SMP or SLD (`st` is the sampler state of SMP, which SLD does not look at). -/
def State.sampLane (s : State) (c : Ctx) (smp : Bool) (st : StateRead) (h frame u v : W32) (l : Nat) : SampLane × List LaneAcc × Nat :=
  match s.named h with
  | none => (refusedLane l 0 4, [], 1)
  | some n =>
    let (w, ht, fmt, bpp) := s.shape n
    let x : SampLane := { lane := l, handle := h, frame := frame, waiting := false, fmt := fmt, bpp := bpp, w := w, h := ht, u := u, v := v,
                          state := 0, border := [], taps := [] }
    if smp then
      match st with
      | .refused => (refusedLane l fmt bpp, [], 1)
      | .known state border =>
        let x := { x with state := state, border := border }
        let (ts, rs, k) := s.tapsOf c n h frame l x.coords
        ({ x with taps := ts }, rs, k)
      | .missing ia =>
        ({ x with waiting := true, taps := [.refused] },
         [{ lane := l, va := BitVec.ofNat 64 (vaOf (n.window c) ia), ia := BitVec.ofNat 52 ia, pwin := false, prot := false, exempt := false, data := List.replicate 32 0, st := .todo }],
         0)
    else if w ≤ u.toNat ∨ ht ≤ v.toNat then (refusedLane l fmt bpp, [], 0)
    else
      let (ts, rs, k) := s.tapsOf c n h frame l [some (u.toNat, v.toNat)]
      ({ refusedLane l fmt bpp with u := u, v := v, taps := ts }, rs, k)

/-- A lane goes on once its sampler-state entry has come: its requests take the place of the read, and the texels now refused count
(R141, R348). A texel in a locked destination span takes its RANGE_LOCK now that its address is known, as a deferred trap (R81; DESIGN CHOICE,
log 133). -/
def State.sampResume (s : State) (a : Acc) (i : Nat) (c : Ctx) (bs : List PByte) : State :=
  match (a.lanes[i]?).bind fun l => a.taps.find? fun x => x.waiting && x.lane == l.lane with
  | none => s
  | some x =>
    let (y, rs, k) := s.sampLane c true (stateOf bs) x.handle x.frame x.u x.v x.lane
    let core := s.core (s.coreOf a.gid)
    let rs := rs.map fun r => match core.lockHit none r.ia.toNat r.data.length false with
      | some k => { r with st := .fatal 0x14 (BitVec.ofNat 32 (lockInfo r.lane k)) }
      | none => r
    let s := s.updAcc a.id fun a =>
      { a with lanes := a.lanes.take i ++ rs ++ a.lanes.drop (i + 1),
               taps := a.taps.map fun z => if z.lane = x.lane then y else z }
    if k = 0 then s else s.refuse c.num k

/-- Registers of a lane's result. -/
def sampRegs (smp : Bool) (ty : Ty) (nch : Nat) (x : SampLane) : Nat :=
  if smp then (if ty.isH then (nch + 1) / 2 else nch) else (x.bpp + 3) / 4

/-- RANGE_LOCK of the lowest lane that reads a byte of a locked destination span (R81). -/
def State.texelLocks (s : State) (e : Env) (rs : List LaneAcc) : Chk Unit :=
  let k := s.core e.g.core
  match rs.findSome? fun r => (k.lockHit none r.ia.toNat r.data.length false).map fun x => (r.lane, x) with
  | some (l, x) => .error (.trap 0x14 (lockInfo l x))
  | none => .ok ()

/-- SMP and SLD. -/
def sampEff (smp : Bool) (d a b : Opnd) (m : MSmp) (e : Env) (s : State) : Chk Eff := do
  let nch := 2 ^ m.nch.toNat
  let srcs : List SrcOp := [baseSrc a, { code := 2, o := b }]
  let vs ← s.peek e srcs (.vec 0) 0
  let u := fun l => BitVec.ofNat 32 (valAt (lvVals vs) 0 l)
  let v := fun l => BitVec.ofNat 32 (valAt (lvVals vs) 0 l / 2 ^ 32)
  let h := fun l => BitVec.ofNat 32 (valAt (lvVals vs) 1 l)
  let (st, s1) := if smp then s.sampState e m.scope m.ssi.toNat else (.refused, s)
  let frame := (s.owner e.c.owner).frameno
  let lanes := (lanesOf e.exec).map fun l => s1.sampLane e.c smp st (h l) frame (u l) (v l) l
  let regs := lanes.foldl (fun n x => max n (sampRegs smp m.ty nch x.1)) 0
  e.bounds [{ code := 0, o := d, n := regs, even := false }, { code := 1, o := a, n := 2, even := true },
    { code := 2, o := b, n := 1, even := false }]
  match d with
  | .que q => trapIf (decide (4 < q.toNat + regs)) 2 (1 * 256 + 4)
  | _ => pure ()
  s.surfChecks e h
  s1.texelLocks e (lanes.flatMap fun x => x.2.1)
  poisonCheck e.exec vs
  s1.afterAcquires e
  loadRoom e d regs .s
  let mm : MM := { ty := m.ty, scope := m.scope, ord := .rlx, iscale := 0, hint := 0, aop := 0, ofs := 0 }
  let acc := { e.newAcc s1.nextId (.sample smp) .s mm nch (lanes.flatMap fun x => x.2.1) with
               taps := lanes.map (·.1) }
  waitAccs (acc.lanes.flatMap fun l => s1.qsStores e.gid e.sl .s l.ia.toNat l.data.length)
  s1.fatalAtIssue acc
  let (id, s) := s1.fresh
  let refused := (lanes.map fun x => x.2.2).sum
  let s := if refused = 0 then s else s.refuse e.c.num refused
  let (s, del) := s.reserve e id d regs (if isQueue d then none else some .s)
    fun i => maskOf fun l => lanes.any fun x => x.1.lane == l && decide (i < sampRegs smp m.ty nch x.1)
  pure (Eff.on (s.addAcc { acc with id := id, deliver := del }))

def execSmp (h : Hdr) (d a b : Opnd) (smp : MSmp) (s : State) : Host.Outcome State Fault Refusal :=
  runInstr (.smp h d a b smp) h (sampEff true d a b smp) s

def execSld (h : Hdr) (d a b : Opnd) (sld : MSmp) (s : State) : Host.Outcome State Fault Refusal :=
  runInstr (.sld h d a b sld) h (sampEff false d a b sld) s

end Sys2Proof.Machine
end

