-- ==== Sys2Proof/Machine/Requests.lean ====
section
/-!
DEFINITION. Requests in flight: how a home performs or parks a lane, fault batches, replays, the return of loaded data,
outstanding results, store data from qs, and T writes (01 R16 to R28, 02 R50, R399, 03 R68, R69, R86, R89, 05 R114 to R121, 07
R165, 08 R400, 12 R278, 16 R360). The `lane` of an event is the position of the request in its access.
-/

namespace Sys2Proof.Machine

/-! ## Fault batches (R20, R22 to R24) -/

def pathCode : Path → Nat
  | .g => 0 | .k => 1 | .s => 2 | .t => 3

/-- The byte for which a lane misses a page: its own, through path T its byte of the storage or of the metadata; a sampler record names the
texel's byte whatever page is missing (R22, R49; the VA of a path T record stays the lane's: DESIGN CHOICE, log 101). -/
def State.missedIa (s : State) (a : Acc) (l : LaneAcc) (page b : Nat) : Nat :=
  let ia := l.ia.toNat
  let at_ := match if a.path = .t then s.surfAt ia else none with
    | some f =>
      let st := f.viewOfs (ia - f.base)
      [f.base + st] ++ (if f.cmp then [f.mdAt st] else [])
    | none => []
  (((at_ ++ [ia]).find? fun x => x / 2 ^ b * 2 ^ b == page).getD ia)

/-- Writes the batch of an access whose missed lanes have all been found. -/
def State.logMisses (s : State) (id : Nat) : State :=
  match s.acc? id with
  | none => s
  | some a =>
    if a.moving then s else
    let ms : List Missed := a.lanes.filterMap fun l =>
      match l.st with
      | .parked page b true => some { lane := l.lane, va := l.va.toNat, ia := s.missedIa a l page b, page := page, bits := b }
      | _ => none
    if ms.isEmpty then s else
    match s.teamOf? a.gid with
    | none => s
    | some t =>
      match t.group? a.gid with
      | none => s
      | some g =>
        let (tag, s) := s.fresh
        let h : FaultHead := { path := pathCode a.path, write := a.kind.writes, slice := sliceNum a.sl, core := g.core, gslot := g.slot,
                               ctx := t.ctx, itag := tag }
        let s := s.updAcc id fun (a : Acc) => { a with logged := true, lanes := a.lanes.map fun (l : LaneAcc) =>
          match l.st with
          | .parked page b true => { l with st := .parked page b false }
          | _ => l }
        (s.faultBatch t.ctx id (threadBatch h ms)).checkLog a.gid a.sl id a.pc

/-! ## The state of one request -/

def State.setLane (s : State) (id i : Nat) (st : LaneSt) : State :=
  s.updAcc id fun (a : Acc) => { a with lanes := updAt a.lanes i fun (l : LaneAcc) => { l with st := st } }

/-- The operand log keeps an access with parked or waiting lanes (R26). -/
def State.keepLogged (s : State) (id : Nat) : State :=
  match s.acc? id with
  | none => s
  | some a => if a.logged then s else (s.updAcc id fun (a : Acc) => { a with logged := true }).checkLog a.gid a.sl id a.pc

/-- Drops counted loads that have delivered every lane, in issue order of each path (R86). -/
def SliceSt.pruneCounts (x : SliceSt) (live : Nat → Bool) : SliceSt :=
  { x with counts := x.counts.foldl (fun (acc : List Counted) c =>
      if live c.acc || acc.any (fun k => decide (k.path = c.path)) then acc ++ [c] else acc) [] }

/-- An access with nothing left to perform or to deliver leaves. -/
def State.endAcc (s : State) (id : Nat) : State :=
  match s.acc? id with
  | none => s
  | some a =>
    if !a.lanes.isEmpty || !a.taps.isEmpty then s else
    let s := { s with accs := s.accs.filter fun x => x.id != id }
    s.updSlice a.gid a.sl fun x => x.pruneCounts fun i => s.accs.any fun (y : Acc) => y.id == i

/-- A request leaves its access. -/
def State.dropLane (s : State) (a : Acc) (i : Nat) : State :=
  (s.updAcc a.id fun (b : Acc) => { b with lanes := b.lanes.eraseIdx i }).endAcc a.id

/-- A lane has been performed. A store or a RED is done with it; a load keeps its bytes until they are delivered; the last lane
of an acquiring access makes its acquire. The read of a sampler-state entry gives way to the requests of its lane's taps. -/
def State.laneDone (s : State) (a : Acc) (i : Nat) (r : Req) (bytes : List PByte) : State :=
  if (a.lanes[i]?).any a.readsState then s.sampResume a i (s.ctx r.ctx) bytes
  else if a.kind.reads then
    let s := s.setLane a.id i (.got bytes)
    match s.acc? a.id with
    | some b => if acquires b.ord && !b.isOpen then s.acquire r.core b.scope else s
    | none => s
  else
    s.dropLane a i

/-- A lane has not been performed, and its home can still decide it. -/
def LaneSt.undecided : LaneSt → Bool
  | .todo | .walking | .queued | .returned => true
  | _ => false

/-- A lane ends in PAGE_FATAL: the access reports the lowest lane that fails now, and walks no more (R17, R18, R400). -/
def State.laneFails (s : State) (a : Acc) (i info : Nat) : State :=
  let own := (i, info + ((a.lanes[i]?).map (·.lane)).getD 0)
  let x := ((a.lanes.zipIdx.take i).findSome? fun x =>
    if x.1.st.undecided then (s.laneFatal a x.1).map fun n => (x.2, n + x.1.lane) else none).getD own
  ((s.setLane a.id x.1 (.fatal 0x12 (BitVec.ofNat 32 x.2))).updAcc a.id fun (a : Acc) =>
    { a with lanes := a.lanes.map fun (l : LaneAcc) => if l.st = .walking then { l with st := .todo } else l }).freeWalks

/-- What follows a request that could not be performed: R16, R20, R114, R116, R120, R121, R129. A lane whose prompter is refused when it has
no fill left to end stays to be tried again (R120 gives no fate: DESIGN CHOICE, log 102). -/
def State.laneBlocked (s : State) (a : Acc) (i : Nat) (r : Req) (g : Gate) : State :=
  match g with
  | .miss page b =>
    if s.queueOk r.ctx then s.setLane a.id i (.parked page b true) else s.laneFails a i fatalQueue
  | .fatal info => s.laneFails a i info
  | .filling die entry blk => (s.setLane a.id i (.filling die entry blk)).keepLogged a.id
  | .full => (s.setLane a.id i .returned).keepLogged a.id
  | .refused cause =>
    match (r.team.bind s.team?).bind s.filling? with
    | some (die, entry, blk) => s.failFill die entry blk cause 0 0
    | none => s.setLane a.id i .todo
  | _ => s.setLane a.id i .todo

/-- Sends the request of a lane to an endpoint; `line` is a READ in place of an atomic or a store (R38, R77, R360). A READ waits for the
acknowledgement of what
writes its line (R68, R73). -/
def State.sendLane (s : State) (a : Acc) (i : Nat) (slot addr n : Nat) (line : Bool) : State :=
  match a.lanes[i]? with
  | none => s
  | some l =>
    let so := BitVec.ofNat 8 (scopeNum a.scope + (match a.ord with
      | .rlx => 0 | .acq => 1 | .rel => 2 | .ar => 3 | .sc => 4) * 8)
    let tag := s.nextSeq slot
    let eight := fun (bs : List Byte) => (bs ++ List.replicate 8 0).take 8
    let ia := l.ia.toNat
    match if line then .load else a.kind with
    | .store => (s.sendWrite [(a.gid, a.sl)] slot 1 0x02 tag ia l.data.length addr (writeBody l.data so)).setLane a.id i (.sent slot tag)
    | .atom aop _ => (s.sendWrite [(a.gid, a.sl)] slot 1 0x03 tag ia a.ty.size addr
        ([BitVec.ofNat 8 (aop + a.ty.code.toNat * 16), so, 0, 0] ++ eight (l.data.take a.ty.size) ++
          eight ((l.data.drop a.ty.size).take a.ty.size))).setLane a.id i (.sent slot tag)
    | _ =>
      if s.lineBusy slot addr then s.setLane a.id i .todo else
      (s.send slot 1 false 0x01 tag (BitVec.ofNat 64 (if n = 64 then addr / 64 * 64 else addr)) (leBytes 2 n ++ [so, 0])).setLane a.id i (.sent slot tag)

/-! ## When a request may be performed (R68, R69, R89, R286) -/

/-- Accesses through paths G and T keep a slice's order on a byte; K and S do not (R68). -/
def ordered (p q : Path) : Bool := (p == .g || p == .t) && (q == .g || q == .t)

/-- The team of a group is not stopped. -/
def State.runsGid (s : State) (gid : Nat) : Bool := ((s.teamOf? gid).map fun t => t.life.runs).getD false

/-- Two requests name bytes of one 64-byte line of a host or peer home. -/
def sameRemote (x y : Nat) : Bool := decide (8 ≤ homeOf x) && x / 64 == y / 64

/-- Earlier accesses of the slice whose open requests must be performed before a span that an access names: those of the same bytes (R68), and
for a write to a host or peer home the writes of the same line (R89). -/
def State.before (s : State) (a : Acc) (lo n : Nat) : Bool :=
  (s.sliceAccs a.gid a.sl).any fun b => decide (b.id < a.id) && b.lanes.any fun x => x.st.open &&
    ((ordered b.path a.path && s.clash b x a.path lo n) || (a.kind.writes && b.kind.writes && sameRemote x.ia.toNat lo))

/-- An earlier request of a writing access names a byte of request `i`, or is a write of the same line of a host or peer home. -/
def Acc.leads (a : Acc) (x l : LaneAcc) : Bool :=
  a.kind.writes && x.st.open && (x.meets a.size l.ia.toNat a.size || sameRemote x.ia.toNat l.ia.toNat)

/-- The state of an earlier request of the access that waits for a page or a block, and that request `i` must follow: it waits with it (R20,
R22). -/
def Acc.leader (a : Acc) (i : Nat) : Option LaneSt :=
  match a.lanes[i]? with
  | none => none
  | some l => ((a.lanes.take i).find? fun x => a.leads x l && (match x.st with
      | .parked _ _ _ => true
      | .filling _ _ _ => true
      | .returned => true
      | _ => false)).map fun x => x.st

/-! ## The order of a bank (R58) -/

/-- Bank of an L2: a byte's channel slice and its bank within the slice (R42). -/
def l2Bank (ia : Nat) : Nat := bits ia 8 7

/-- The 256-byte sectors of a span. -/
def sectorsOf (lo n : Nat) : Nat := if n = 0 then 0 else (lo + n - 1) / 256 + 1 - lo / 256

/-- A sector of an L2 transform that lies in the bank of a byte of its home is not performed yet. -/
def Eng.partLeft (e : Eng) (ia : Nat) : Bool :=
  let k := e.dst / 256
  let n := sectorsOf e.dst e.len
  let first := (l2Bank ia + 128 - k % 128) % 128
  homeOf e.dst == homeOf ia && (List.range (n / 128 + 1)).any fun i =>
    decide (first + 128 * i < n) && !e.done.contains (first + 128 * i)

/-- A transform of a slice before an identity, none of its parts parked, has still to perform its part in the bank of a byte. -/
def State.bankLeft (s : State) (gid : Nat) (sl : Slice) (id ia : Nat) : List Eng :=
  if sl = .c ∨ 3 < homeOf ia then [] else s.engs.filter fun (e : Eng) =>
    e.gid == gid && decide (e.id < id) && !e.logged && e.kind.transform && !e.dsp && e.partLeft ia

/-- The same of the byte that an access reaches. -/
def State.bankBusy (s : State) (a : Acc) (ia : Nat) : Bool := !(s.bankLeft a.gid a.sl a.id ia).isEmpty

/-- Request `i` may be performed now: no earlier access of the slice, and no earlier request of its own access, still has to perform a byte of
it; its bank's earlier commands of the slice are done; an access that has met a fatal condition performs nothing more. -/
def State.mayPerform (s : State) (a : Acc) (i : Nat) : Bool :=
  match a.lanes[i]? with
  | none => false
  | some l =>
    let lo := l.ia.toNat
    let n := if a.kind.isSample then l.data.length else a.size
    s.runsGid a.gid && a.needQs.isNone && a.fatalLane.isNone && !((a.lanes.take i).any fun x => a.leads x l) &&
      !s.before a lo n && !s.bankBusy a (s.storage a.path lo n).1 &&
      !(a.kind.isSample && (s.qsStores a.gid a.sl a.path lo n).any fun b => decide (b.id < a.id))

/-! ## Walk slots (R18) -/

def State.startWalk (s : State) (a i ia : Nat) : State :=
  (s.updHome (homeOf ia) fun h => { h with walks := h.walks ++ [(walkPage ia, a)] }).setLane a i .walking

def State.endWalk (s : State) (a ia : Nat) : State :=
  s.updHome (homeOf ia) fun h => { h with walks := h.walks.erase (walkPage ia, a) }

/-- The IA whose page a request walks. -/
def State.walkIa (s : State) (a : Acc) (l : LaneAcc) : Nat := (s.storage a.path l.ia.toNat 1).1

/-- Whether performing a request walked: the translation cache grew, or the walk ended in a miss or a fault. -/
def walked (s t : State) (x : Access) (ia : Nat) : Bool :=
  translates (homeOf ia) && (s.tlb? ia).isNone &&
    ((t.tlb? ia).isSome ||
      match x with
      | .blocked (.miss _ _) => true
      | .blocked (.fatal _) => true
      | _ => false)

/-! ## HOME_ACCESS -/

/-- Performs request `i` of an access, or parks it. -/
def State.performAt (s : State) (a : Acc) (i : Nat) (l : LaneAcc) (r : Req) : State :=
  let (x, t) := s.performLane r a l
  match x with
  | .ok bytes => t.laneDone a i r bytes
  | .remote slot addr n => t.sendLane a i slot addr n false
  | .fetch slot addr => t.sendLane a i slot addr 64 true
  | .probe slot addr => t.sendLane a i slot addr 1 true
  | .blocked g => t.laneBlocked a i r g

/-- A request reaches its home: it takes a walk slot when it must walk, and is then performed or parked. What an access keeps in the spill
area is read back first (R26). -/
def State.homeAccess (s : State) (id i : Nat) : State :=
  match s.acc? id with
  | none => s
  | some a =>
    match a.lanes[i]?, (a.lanes[i]?).bind (s.accReq a) with
    | some l, some r =>
      if a.kind == .store && a.path == .t then s else
      match if l.st = .todo then a.leader i else none with
      | some st => (s.setLane id i st).logMisses id
      | none =>
      if !s.mayPerform a i then s else
      let ia := s.walkIa a l
      match l.st with
      | .todo =>
        if a.logged && s.refillFails a.gid a.sl id then (s.dropWork id).fatalTrap a.gid a.sl 0x1E 0 a.pc none 0 else
        let x := s.performLane r a l
        if x.1 = .blocked .held ∧ (s.tlb? ia).isNone && !(s.home (homeOf ia)).walkRoom ia then s.setLane id i .queued
        else if walked s x.2 x.1 ia then s.startWalk id i ia
        else (s.performAt a i l r).logMisses id
      | .walking => ((s.endWalk id ia).performAt a i l r).logMisses id
      | _ => s
    | _, _ => s

def execHomeAccess (acc lane : Nat) (s : State) : Host.Outcome State Fault Refusal := .next (s.homeAccess acc lane)

/-- WALK_SLOT_FREE: a request that waits in the request buffer starts its walk once a slot is free (R18). -/
def State.walkSlotFree (s : State) (id : Nat) : State :=
  match s.acc? id with
  | none => s
  | some a =>
    match a.lanes.findIdx? fun l => l.st == .queued with
    | none => s
    | some i =>
      let ia := ((a.lanes[i]?).map fun l => s.walkIa a l).getD 0
      if (s.home (homeOf ia)).walkRoom ia then s.startWalk id i ia else s

def execWalkSlotFree (acc : Nat) (s : State) : Host.Outcome State Fault Refusal := .next (s.walkSlotFree acc)

/-! ## Replay and retry (R19, R28, R115, R116) -/

/-- A woken lane or engine unit is issued again. -/
def State.reissue (s : State) (id i : Nat) : State :=
  if s.batchHeld id then s else
  match s.acc? id with
  | some a =>
    match ((a.lanes[i]?).map fun (l : LaneAcc) => l.st : Option LaneSt) with
    | some (.parked _ _ _) => s.setLane id i .todo
    | _ => s
  | none => s.updEng id fun (e : Eng) => { e with parked := e.parked.map fun (u : UnitSt) =>
      if u.unit = i then
        match u.st with
        | .parked _ _ _ => { u with st := .todo }
        | _ => u
      else u }

def execReplayReissue (acc lane : Nat) (s : State) : Host.Outcome State Fault Refusal := .next (s.reissue acc lane)

/-- A request returned for a full merge table is sent again (R116). -/
def State.fillRetry (s : State) (id i : Nat) : State :=
  match ((s.acc? id).bind fun a => (a.lanes[i]?).map fun (l : LaneAcc) => l.st : Option LaneSt) with
  | some .returned => s.setLane id i .todo
  | _ => s.updEng id fun (e : Eng) => { e with parked := e.parked.map fun (u : UnitSt) =>
      if u.unit = i ∧ u.st = .returned then { u with st := .todo } else u }

def execFillRequestRetry (acc lane : Nat) (s : State) : Host.Outcome State Fault Refusal := .next (s.fillRetry acc lane)

/-- Requests and units of an access or operation, by its identity, in a state go back to their start. -/
def State.restart (s : State) (p : Nat → LaneSt → Bool) : State :=
  { s with accs := s.accs.map fun (a : Acc) => { a with lanes := a.lanes.map fun (l : LaneAcc) => if p a.id l.st then { l with st := .todo } else l },
           engs := s.engs.map fun (e : Eng) => { e with parked := e.parked.map fun (u : UnitSt) => if p e.id u.st then { u with st := .todo } else u } }

/-- A request of this device that an endpoint answered with retry is sent again (R115). -/
def execHostFillRetry (slot : Nat) (tag : W32) (s : State) : Host.Outcome State Fault Refusal :=
  .next (s.restart fun _ st => st == .retry slot tag)

/-- Bits of the page that an endpoint's report of a miss names: the model's own status codes, 4 + PGSZ. -/
def reportedBits (status : Nat) : Nat := if status = 4 then 12 else if status = 5 then 16 else 21

/-- The page that an endpoint's report names around an IA. -/
def reportedPage (status ia : Nat) : LaneSt := .parked (ia / 2 ^ reportedBits status * 2 ^ reportedBits status) (reportedBits status) true

/-- A peer reports a page resolved: what is parked on it is replayed, and code and headers of it are read again (R19), unless the batch of the
miss is still held (R24). -/
def State.peerResolved (s : State) (slot ia : Nat) : State :=
  let on := fun (page b : Nat) => b != 0 && homeOf page == slot && ia / 2 ^ b * 2 ^ b == page
  let s := s.restart fun id st =>
    match st with
    | .parked page b _ => on page b && !s.batchHeld id
    | _ => false
  let frag := fun (gid : Nat) (sl : Slice) (f : Frag) =>
    match f.wait with
    | .page p b => if on p.toNat b && !s.batchHeld (pageKey gid sl p.toNat) then { f with wait := .fetch } else f
    | _ => f
  let slice := fun (gid : Nat) (sl : Slice) (x : SliceSt) => { x with frags := x.frags.map (frag gid sl), stack := x.stack.map (frag gid sl) }
  let hdr := fun (ctx : Nat) (h : Option (IA × Nat)) =>
    h.map fun x => if on x.1.toNat x.2 && !s.batchHeld (headKey ctx x.1.toNat) then (x.1, 0) else x
  { s with teams := s.teams.map fun (t : Team) => { t with groups := t.groups.map fun (g : Group) => { g with a := slice g.gid .a g.a, c := slice g.gid .c g.c } },
           launches := s.launches.map fun (l : Launch) => { l with header := hdr l.ctx l.header },
           draws := s.draws.map fun (d : Draw) => { d with header := hdr d.ctx d.header } }

def execPeerPageResolved (slot : Nat) (ia : IA) (s : State) : Host.Outcome State Fault Refusal := .next (s.peerResolved slot ia.toNat)

/-! ## The return of loaded data (R60, R165, R278) -/

/-- The values that an access holds for a lane, none until they have all come. -/
def Acc.laneVals (a : Acc) (l : Nat) : Option (List Val) :=
  match a.kind with
  | .sample smp =>
    match a.taps.find? fun x => x.lane == l with
    | none => none
    | some x =>
      let rs := a.lanes.filter fun r => r.lane == l
      if rs.any fun r => r.st.open then none else
      let got := rs.map fun r => match r.st with
        | .got bs => bs
        | _ => []
      let used := fun (i : Nat) => !smp || (x.taps.zip x.weights).any fun t => decide (t.1 = .fetch i) && !t.2.isZero
      let p := (rs.zipIdx).findSome? fun r => match r.1.st with
        | .got bs => if used r.2 then anyPoison bs else none
        | _ => none
      let vs := got.map values
      some (((if smp then x.filter a.ty a.nvec vs else x.raw vs)).map fun w => { bits := w, poison := p })
  | _ =>
    match a.lanes.find? fun r => r.lane == l with
    | some r =>
      match r.st with
      | .got bs => some (loadRegs a.ty a.nvec bs)
      | _ => none
    | none => none

/-- Fills the entries of a load with the values of some lanes. -/
def Queue.fill (q : Queue) (id : Nat) (m : Lanes) (v : Nat → Val) : Queue :=
  { q with entries := q.entries.map fun (e : QEntry) =>
      if e.acc = some id then
        { e with ready := e.ready ||| (m &&& e.mask),
                 vals := e.vals.mapIdx fun l old => if (m &&& e.mask).getLsbD l then v l else old }
      else e }

/-- Writes the values of some lanes of an outstanding result, or a scalar when its lane is among them; a lane whose list is shorter writes fewer
registers. -/
def SliceSt.writeOut (x : SliceSt) (o : Out) (m : Lanes) (v : Nat → List Val) : SliceSt :=
  let m := m &&& o.pend
  let has := fun (i : Nat) => maskOf fun l => m.getLsbD l && decide (i < (v l).length)
  let x := (List.range o.regs.length).foldl (fun x i =>
    let f := fun (l : Nat) => (v l).getD i Val.zero
    match o.dst with
    | .vec n => x.setVreg (n + i) (has i) f
    | .sca n low => if (has i).getLsbD low then x.setSreg (n + i) (f low) else x
    | .pred n => if i = 0 then x.setPred (BitVec.ofNat 3 n) m (maskOf fun l => (f l).bits.getLsbD 0) else x
    | .none => x) x
  let left := match o.dst with
    | .sca _ low => if m.getLsbD low then 0 else o.pend
    | _ => o.pend &&& ~~~m
  let outs : List Out := x.outs.map fun (y : Out) => if y.id = o.id then ({ y with pend := left } : Out) else y
  { x with outs := outs.filter fun (y : Out) => y.pend != 0 }

/-- A queue destination of any access but LDQ makes a queue edge: its values wait for the slice's earlier accesses (R70). -/
def State.edgeWaits (s : State) (a : Acc) : Bool :=
  match a.deliver with
  | .queue _ _ => !(decide (a.kind = .load) && decide (a.path = .g)) && (s.openAccs a.gid a.sl).any fun b => decide (b.id < a.id)
  | _ => false

/-- LOAD_DATA_RETURN: the values of some lanes fill their queue entries or registers. An acquiring load delivers once it is
performed whole. -/
def State.dataReturn (s : State) (id : Nat) (lanes : Lanes) : State :=
  match s.acc? id with
  | none => s
  | some a =>
    if !a.kind.reads || (acquires a.ord && a.isOpen) || !s.runsGid a.gid || s.edgeWaits a then s else
    let m := maskOf fun l => lanes.getLsbD l && (a.laneVals l).isSome
    if m = 0 then s else
    let v := fun (l : Nat) => (a.laneVals l).getD []
    let s := match a.deliver with
      | .queue q n => s.updGroup a.gid fun g => (List.range n).foldl (fun g i =>
          (g.updQueue (q + i) fun x => x.fill id m fun l => (v l).getD i Val.zero).prune (q + i)) g
      | .out o => s.updSlice a.gid a.sl fun x =>
          match x.outs.find? fun (y : Out) => y.id == o with
          | some out => x.writeOut out m v
          | none => x
      | .none => s
    (s.updAcc id fun (b : Acc) =>
      { b with lanes := b.lanes.filter fun r => !m.getLsbD r.lane, taps := b.taps.filter fun x => !m.getLsbD x.lane }).endAcc id

def execLoadDataReturn (acc : Nat) (lanes : Lanes) (s : State) : Host.Outcome State Fault Refusal := .next (s.dataReturn acc lanes)

/-- VARLAT_RESULT_WRITE: some lanes of a result whose values are known are written; matrix results in their order (R165). -/
def State.varlatWrite (s : State) (gid : Nat) (sl : Slice) (res : Nat) (lanes : Lanes) : State :=
  if !s.runsGid gid then s else
  s.updSlice gid sl fun x =>
    match x.outs.find? fun o => o.id == res with
    | none => x
    | some o =>
      let m := lanes &&& o.pend &&& o.ready
      if o.acc.isSome || m == 0 || (o.mat && (x.outs.takeWhile fun y => y.id != res).any fun y => y.mat && y.pend &&& m != 0) then x
      else x.writeOut o m fun l => o.regs.map fun r => r.getD l Val.zero

def execVarlatResultWrite (gid : Nat) (sl : Slice) (res : Nat) (lanes : Lanes) (s : State) : Host.Outcome State Fault Refusal :=
  .next (s.varlatWrite gid sl res lanes)

/-! ## Store data from qs (R69, R400) -/

/-- QS_STORE_DATA: the oldest waiting store takes its lanes' values from qs. -/
def State.qsData (s : State) (id : Nat) : State :=
  match s.acc? id with
  | none => s
  | some a =>
    match a.needQs, s.group? a.gid with
    | some m, some g =>
      let earlier := s.accs.any fun b => b.gid == a.gid && b.needQs.isSome && decide (b.id < id)
      if earlier || !s.runsGid a.gid || (lanesOf m).any fun l => (g.laneVal 4 l 0).isNone then s else
      let v := fun l => (g.laneVal 4 l 0).getD Val.zero
      let bad := (lanesOf m).find? fun l => (v l).poison.isSome
      let s := s.updGroup a.gid fun (g : Group) => g.pop 4 m
      s.updAcc id fun (a : Acc) =>
        { a with needQs := none, lanes := a.lanes.map fun (l : LaneAcc) =>
            let l := { l with data := leBytes a.size (v l.lane).bits.toNat }
            match (v l.lane).poison with
            | some p => if bad = some l.lane then { l with st := .fatal p.cause (BitVec.ofNat 32 (poisonInfo p l.lane 0)) } else l
            | none => l }
    | _, _ => s

def execQsStoreData (acc : Nat) (s : State) : Host.Outcome State Fault Refusal := .next (s.qsData acc)

/-! ## Late write-backs (R399) -/

/-- The home would drop a write-back of this line. -/
def State.lineLost (s : State) (l : Line) : Bool :=
  translates (homeOf (l.line * 64)) &&
    match s.lookup (l.line * 64) with
    | .hit _ _ leaf _ => entOwner leaf != l.owner || entProt leaf != l.prot
    | _ => true

/-- DIRTY_WRITE_DROPPED: a dirty line of a page that has changed is written back, dropped at its home and reported. -/
def State.dropDirty (s : State) (c : CacheId) (line : Nat) : State :=
  match c with
  | .l1 core =>
    match findLine (s.core core).l1 line with
    | some l => if l.isDirty && s.lineLost l then (s.updCore core fun k => { k with l1 := dropLine k.l1 line }).dropRecord l else s
    | none => s
  | .rdc die =>
    match findLine (s.rdc die) line with
    | some l => if l.isDirty && s.lineLost l then (s.updRdc die fun rs => dropLine rs line).dropRecord l else s
    | none => s
  | .l2 die =>
    match findLine (s.l2Of die) line with
    | some l => if l.isDirty && s.lineLost l then s.evictL2 die l else s
    | none => s
  | .mdc die =>
    match findLine (s.mdcOf die) line with
    | some l => if l.isDirty && s.lineLost l then s.evictMdc die l else s
    | none => s

def execDirtyWriteDropped (cache : CacheId) (line : Nat) (s : State) : Host.Outcome State Fault Refusal := .next (s.dropDirty cache line)

/-! ## T writes (R50, R51, R282) -/

/-- The requests of an STT not performed yet that fall in unit `u` of a surface, with their positions. -/
def unitLanes (a : Acc) (f : Surf) (u : Nat) : List (Nat × LaneAcc) :=
  (a.lanes.zipIdx.filter fun x =>
    x.1.st.open && decide (f.base ≤ x.1.ia.toNat) && decide (x.1.ia.toNat < f.base + f.span) &&
      decide (f.viewOfs (x.1.ia.toNat - f.base) / 256 = u)).map fun x => (x.2, x.1)

/-- The lanes of one unit wait together for what its home decides. -/
def State.unitBlocks (s : State) (a : Acc) (ls : List (Nat × LaneAcc)) (r : Req) (g : Gate) : State :=
  match g with
  | .fatal _ => s.laneBlocked a ((ls.head?.map (·.1)).getD 0) r g
  | _ => (ls.foldl (fun s x => s.laneBlocked a x.1 r g) s).logMisses a.id

/-- LAYOUT_T_WRITE: the layout engine performs the lanes of one STT in one unit as one write, once all of them are to be performed (R50). -/
def State.layoutWrite (s : State) (id i : Nat) : State :=
  match s.acc? id with
  | none => s
  | some a =>
    match a.lanes[i]?, (a.lanes[i]?).bind (s.accReq a) with
    | some l, some r =>
      if !decide (a.kind = .store) || !decide (a.path = .t) || !decide (l.st = .todo) || a.needQs.isSome || a.fatalLane.isSome ||
          !s.runsGid a.gid || a.lanes.any fun x => x.st.open && s.before a x.ia.toNat a.size then s else
      if a.logged && s.refillFails a.gid a.sl id then (s.dropWork id).fatalTrap a.gid a.sl 0x1E 0 a.pc none 0 else
      match s.surfAt l.ia.toNat with
      | none => s.laneBlocked a i r (.fatal fatalSurface)
      | some f =>
        let st := f.viewOfs (l.ia.toNat - f.base)
        let ls := unitLanes a f (st / 256)
        if s.bankBusy a (f.base + st) || ls.any fun x => x.2.st != .todo then s else
        match s.gateT r l.ia.toNat with
        | (.go key ow _, t) =>
          let w : UnitWrite := ls.flatMap fun x =>
            x.2.data.mapIdx fun j b => (f.viewOfs (x.2.ia.toNat - f.base) % 256 + j, (b, none))
          match t.writeUnit f st (key - st % 256) w ow with
          | (some g, t) => t.unitBlocks a ls r g
          | (none, t) =>
            let lines := ls.map fun x => x.2.ia.toNat / 64
            let t := t.updCore r.core fun k => { k with tcache := k.tcache.filter fun l => !lines.contains l.line }
            ((t.updAcc id fun (b : Acc) =>
              { b with lanes := (b.lanes.zipIdx.filter fun x => !ls.any fun y => y.1 == x.2).map (·.1) }).endAcc id).logMisses id
        | (g, t) => t.unitBlocks a ls r g
    | _, _ => s

def execLayoutTWrite (acc lane : Nat) (s : State) : Host.Outcome State Fault Refusal := .next (s.layoutWrite acc lane)

end Sys2Proof.Machine
end

