-- ==== Sys2Proof/Machine/Engines.lean ====
section
/-!
DEFINITION. The copy, gather and transform engines: issue, units, bank parts, misses, completion (01 R20 to R28, 02 R57, R58,
R60, 03 R80 to R85, 08 R400, 12 R294 to R296).
-/

namespace Sys2Proof.Machine

/-! ## Shape of an operation -/

/-- Lowest and one past the highest byte of some rows. -/
def envelope (rows : List Int) (len : Nat) : Int × Int :=
  match rows with
  | [] => (0, 0)
  | r :: rs => (rs.foldl min r, rs.foldl max r + len)

def Eng.srcSpan (e : Eng) : Int × Int := envelope ((List.range e.rows).map e.srcRow) e.len
def Eng.dstSpan (e : Eng) : Int × Int := envelope ((List.range e.rows).map e.dstRow) e.len

/-- Every unit of an operation: 2^24 × row + sector, or for a scratchpad transform the bank. -/
def State.unitsOf (s : State) (e : Eng) : List Nat :=
  if e.kind.transform && e.dsp then (List.range 32).filter fun b => !(s.bankWords e b).isEmpty
  else (List.range e.rows).flatMap fun r =>
    (List.range (sectorsOf (s.rowStart e r) e.len)).map fun j => r * 2 ^ 24 + j

/-! ## Bytes with their poison (R60) -/

/-- Cuts bytes from position `o` on at multiples of `g`. -/
def chunks (g : Nat) : Nat → List PByte → List (Nat × List PByte)
  | _, [] => []
  | o, b :: bs =>
    match chunks g (o + 1) bs with
    | (p, c) :: r => if p % g = 0 then (o, [b]) :: (p, c) :: r else (o, b :: c) :: r
    | [] => [(o, [b])]

/-- Writes bytes to a scratchpad allocation; each word that takes a poisoned byte is poisoned. -/
def State.spadPut (s : State) (team core : Nat) (o : Int) (bs : List PByte) : State :=
  match s.team? team with
  | none => s
  | some t =>
    let o0 := reduceOfs t.scrBytes o
    s.updCore core fun k => (chunks 4 o0 bs).foldl (fun (k : Core) c => k.spadWrite (t.spadByte core c.1) c.2) k

/-- Reads bytes of a scratchpad allocation. -/
def State.spadGet (s : State) (team core : Nat) (o : Int) (n : Nat) : List PByte :=
  match s.team? team with
  | none => []
  | some t =>
    let k := s.core core
    (List.range n).flatMap fun (i : Nat) => k.spadRead (t.spadBase core + reduceOfs t.scrBytes (o + (i : Int))) 1

/-! ## Reads and writes of a unit (R82, R296) -/

/-- The request of an operation through its source or its destination window. -/
def State.engReq (s : State) (e : Eng) (dest : Bool) : Req :=
  let c := s.ctx e.ctx
  { core := e.core, ctx := e.ctx, owner := c.owner, prot := c.prot, wprot := if dest then e.dprot else e.sprot,
    pwin := some (if dest then e.dpwin else e.spwin), write := dest, exempt := false,
    level := ((s.team? e.team).map (·.level)).getD 0, team := some e.team }

/-- How a unit's read or write went. -/
inductive UnitIO
  | ok (bs : List PByte)
  | blocked (g : Gate)
  | remote (slot addr : Nat)
  deriving DecidableEq, Repr

/-- Reads bytes of one sector as a load of scope DEV does, line by line. -/
def State.engRead (s : State) (e : Eng) (ia n : Nat) : UnitIO × State :=
  if inAperture ia then (.blocked (.fatal fatalOwner), s) else
  (linesOf ia n).foldl (fun (acc : UnitIO × State) ln =>
    match acc with
    | (.ok bs, s) =>
      let p := partOf ia n ln
      match s.readG (s.engReq e false) e.core .dev false (ln * 64 + p.1) p.2 with
      | (.ok b, s) => (.ok (bs ++ b), s)
      | (.blocked g, s) => (.blocked g, s)
      | (.remote slot addr _, s) => (.remote slot (addr / 256 * 256), s)
      | (.fetch slot addr, s) => (.remote slot (addr / 256 * 256), s)
      | (.probe slot addr, s) => (.remote slot (addr / 256 * 256), s)
    | x => x) (.ok [], s)

/-- Writes bytes within one sector of memory; nothing remains of a write to a POISONED block. -/
def State.engWrite (s : State) (e : Eng) (ia : Nat) (bs : List PByte) : UnitIO × State :=
  match s.gate (s.engReq e true) ia with
  | (.go key _ _, s) => (.ok [], s.homeWrite ia key bs)
  | (.poisoned _ _ _ _, s) => (.ok [], s.poisonedWrite (s.engReq e true) ia)
  | (.remote slot addr _ _, s) => (.remote slot addr, s)
  | (.aperture _ _, s) => (.blocked (.fatal fatalOwner), s)
  | (g, s) => (.blocked g, s)

/-! ## Misses of units (R20 to R25, R296) -/

/-- IA and VA of the first byte that a started unit still needs, and how many it needs. -/
def State.unitAt (s : State) (e : Eng) (u : UnitSt) : Nat × Nat × Nat :=
  let r := u.unit / 2 ^ 24
  let (o, n) := s.unitPart e u.unit
  if u.dest then
    let ia := e.dstRow r + o + u.wr
    (ia.toNat, (ia + e.dofs).toNat, n - u.wr)
  else
    let ia := e.srcRow r + o
    (ia.toNat, (ia + e.sofs).toNat, n)

/-- A missed unit: the first and the last byte that it misses on its page, and whether it is a write that misses. -/
structure UnitMiss where
  ia   : Nat
  last : Nat
  va   : Nat
  page : Nat
  bits : Nat
  dest : Bool
  deriving DecidableEq, Repr

def State.unitMisses (s : State) (e : Eng) : List UnitMiss :=
  e.parked.filterMap fun (u : UnitSt) =>
    match u.st with
    | .parked page b true =>
      let a := s.unitAt e u
      some { ia := a.1, last := min (a.1 + a.2.2) (page + 2 ^ b) - 1, va := a.2.1, page := page, bits := b, dest := u.dest }
    | _ => none

/-- Distinct pages that parked units wait for. -/
def Eng.openPages (e : Eng) : Nat :=
  ((e.parked.filterMap fun (u : UnitSt) =>
    match u.st with
    | .parked page b _ => some (page, b)
    | _ => none).eraseDups).length

def pathOfEng : EngKind → Nat
  | .gather _ => 5
  | .copy => 4
  | .copy2 => 4
  | _ => 6

/-- Sorts by ascending address. -/
def insertMiss (m : UnitMiss) : List UnitMiss → List UnitMiss
  | [] => [m]
  | x :: xs => if m.ia ≤ x.ia then m :: x :: xs else x :: insertMiss m xs

/-- A later unit is held, so this one was issued before it (R25: units issue in ascending order). -/
def Eng.passed (e : Eng) (u : Nat) : Bool := e.parked.any fun p => decide (u < p.unit)

/-- Every unit that may issue is performed or held: all of them, or with 64 pages open those before the last held one (R25). -/
def State.engIssued (s : State) (e : Eng) : Bool :=
  (s.unitsOf e).all fun u => e.done.contains u || (e.parked.any fun p => p.unit == u) || (decide (64 ≤ e.openPages) && !e.passed u)

/-- Writes a batch with one record per page that the operation's held units miss. -/
def State.engMisses (s : State) (id : Nat) : State :=
  match s.eng? id with
  | none => s
  | some e =>
    let ms := (s.unitMisses e).foldr insertMiss []
    if ms.isEmpty || !s.engIssued e || e.parked.any fun (u : UnitSt) => decide (u.st = .todo) || u.st.flying then s else
    match s.group? e.gid with
    | none => s
    | some g =>
      let (tag, s) := s.fresh
      let pages := ms.foldl (fun (acc : List UnitMiss) m => if acc.any fun x => x.page == m.page && x.bits == m.bits then acc else acc ++ [m]) []
      let recs := pages.mapIdx fun i m =>
        let here := ms.filter fun x => x.page == m.page && x.bits == m.bits
        let holds := fun (x : UnitMiss) (j : Nat) => decide (x.ia / 256 ≤ m.ia / 256 + j) && decide (m.ia / 256 + j ≤ x.last / 256)
        let h : FaultHead := { path := pathOfEng e.kind, write := here.any (·.dest), slice := 0, core := e.core, gslot := g.slot,
                               ctx := e.ctx, itag := tag }
        faultRecord h m.va m.ia m.bits i 0 (i + 1 == pages.length) (here.any fun x => decide (m.ia / 256 + 32 ≤ x.last / 256))
          (((List.range 32).map fun j => if here.any fun x => holds x j then 2 ^ j else 0).sum + e.id % 2 ^ 32 * 2 ^ 32)
      let s := s.updEng id fun (e : Eng) => { e with parked := e.parked.map fun (u : UnitSt) =>
        match u.st with
        | .parked page b true => { u with st := .parked page b false }
        | _ => u }
      (s.faultBatch e.ctx id recs).checkLog e.gid .a id e.pc

/-! ## Progress of a unit -/

def State.setUnit (s : State) (id : Nat) (u : UnitSt) : State :=
  s.updEng id fun (e : Eng) => { e with parked := u :: e.parked.filter fun (x : UnitSt) => x.unit != u.unit }

/-- Removes an operation and its locks. -/
def State.endEng (s : State) (e : Eng) : State :=
  let s := { s with engs := s.engs.filter fun x => x.id != e.id }
  s.updCore e.core fun k => { k with locks := k.locks.filter fun l => l.eng != e.id }

/-- A PAGE_FATAL of a unit is a deferred trap of the A-slice; the other units are abandoned (R296, R400). -/
def State.engFatal (s : State) (e : Eng) (info : Nat) : State :=
  (s.endEng e).deferTrap e.gid .a 0x12 info e.pc e.issuedAt

/-- SPILL_FAULT of an operation whose entry cannot be read back from the spill area (R26). -/
def State.engUnspilled (s : State) (e : Eng) : State := (s.endEng e).fatalTrap e.gid .a 0x1E 0 e.pc none 0

/-- The invalidations of a completed operation (R58, R82). -/
def State.engInval (s : State) (e : Eng) : State :=
  if e.dsp then s else
  let (lo, hi) := e.dstSpan
  s.dropSpan e.core lo.toNat (hi - lo).toNat (e.kind.transform || homeOf lo.toNat != dieOf e.core)

/-- Units performed: their bytes land at the barrier, after the invalidations and before the locks go when they are the
last. -/
def State.unitsDone (s : State) (id : Nat) (us : List Nat) (bytes : Nat) : State :=
  let s := s.updEng id fun (e : Eng) =>
    { e with done := e.done ++ us, parked := e.parked.filter fun (x : UnitSt) => !us.contains x.unit }
  match s.eng? id with
  | none => s
  | some e =>
    if (s.unitsOf e).all fun u => e.done.contains u then
      ((s.engInval e).landBytes e.team e.core e.bar.toNat bytes).endEng e
    else s.landBytes e.team e.core e.bar.toNat bytes

/-- An operation with its first parked unit takes an entry of the operand log (R26, R114). -/
def State.engLogs (s : State) (e : Eng) : State := if e.logged then s else s.checkLog e.gid .a e.id e.pc

/-- A unit that could not go on (R16, R20, R114, R116, R120, R121; a refused prompter with no fill left: log 102). -/
def State.unitBlocked (s : State) (e : Eng) (u : UnitSt) (g : Gate) : State :=
  match g with
  | .miss page b =>
    if s.queueOk e.ctx then s.setUnit e.id { u with st := .parked page b true } else s.engFatal e fatalQueue
  | .fatal info => s.engFatal e info
  | .filling die entry blk => (s.setUnit e.id { u with st := .filling die entry blk }).engLogs e
  | .full => (s.setUnit e.id { u with st := .returned }).engLogs e
  | .refused cause =>
    match (s.team? e.team).bind s.filling? with
    | some (die, entry, blk) => s.failFill die entry blk cause 0 0
    | none => s
  | _ => s

/-- Sends the WRITE of a unit to an endpoint, in the bulk class. -/
def State.engSend (s : State) (e : Eng) (u : UnitSt) (slot addr ia : Nat) (bs : List Byte) : State :=
  let tag := s.nextSeq slot
  (s.sendWrite [] slot 2 0x02 tag ia bs.length addr (writeBody bs 5)).setUnit e.id { u with st := .sent slot tag }

/-- Writes the bytes of a unit that it has read, sector by sector of the destination; `fuel` bounds the sectors. -/
def State.unitWrite (s : State) (e : Eng) (n : Nat) : Nat → UnitSt → State
  | 0, _ => s
  | fuel + 1, u =>
    if u.data.length ≤ u.wr then s.unitsDone e.id [u.unit] n else
    let at_ := e.dstRow (u.unit / 2 ^ 24) + (s.unitPart e u.unit).1 + u.wr
    let rest := u.data.drop u.wr
    if e.dsp then (s.spadPut e.team e.core at_ rest).unitsDone e.id [u.unit] n
    else
      let ia := at_.toNat
      let part := rest.take (256 - ia % 256)
      let u : UnitSt := { u with dest := true }
      match s.engWrite e ia part with
      | (.ok _, s) => s.unitWrite e n fuel { u with wr := u.wr + part.length }
      | (.remote slot addr, s) => s.engSend e u slot addr ia (values part)
      | (.blocked g, s) => s.unitBlocked e u g

/-- Reads the source of a unit, then writes it. -/
def State.unitRun (s : State) (e : Eng) (u : UnitSt) : State :=
  let (o, n) := s.unitPart e u.unit
  if !u.data.isEmpty then s.unitWrite e n 3 u else
  let u := { u with dest := false }
  let at_ := e.srcRow (u.unit / 2 ^ 24) + o
  if e.ssp then s.unitWrite e n 3 { u with data := s.spadGet e.team e.core at_ n }
  else
    match s.engRead e at_.toNat n with
    | (.ok bs, s) => s.unitWrite e n 3 { u with data := bs }
    | (.remote slot addr, s) =>
      if (s.stream slot).out.any fun m => m.meets addr 256 then s else
      let tag := s.nextSeq slot
      (s.send slot 2 false 0x01 tag (BitVec.ofNat 64 addr) (leBytes 2 256 ++ [5, 0])).setUnit e.id { u with st := .sent slot tag }
    | (.blocked g, s) => s.unitBlocked e u g

/-- The response to a unit's READ: the bytes of its sector, with the dirty bytes of the core and its die over them. -/
def State.unitGot (s : State) (e : Eng) (u : UnitSt) (data : List Byte) : State :=
  let (o, n) := s.unitPart e u.unit
  let ia := (e.srcRow (u.unit / 2 ^ 24) + o).toNat
  let (bs, s) := (linesOf ia n).foldl (fun (acc : List PByte × State) ln =>
    let p := partOf ia n ln
    let (b, s) := acc.2.readGot (s.engReq e false) e.core .dev false false true (ln * 64 + p.1) p.2
      (plain ((data.drop (ln * 64 + p.1 - ia / 256 * 256)).take p.2))
    (acc.1 ++ b, s)) ([], s)
  s.unitWrite e n 3 { u with data := bs, st := .todo }

/-- A unit's WRITE has been acknowledged. -/
def State.unitAcked (s : State) (e : Eng) (u : UnitSt) : State :=
  let (o, n) := s.unitPart e u.unit
  let ia := (e.dstRow (u.unit / 2 ^ 24) + o + u.wr).toNat
  s.unitWrite e n 3 { u with wr := min u.data.length (u.wr + (256 - ia % 256)), st := .todo }

/-! ## ENGINE_UNIT_DONE and TRANSFORM_BANK_PART -/

/-- No earlier access of the issuing slice to a byte of the spans is still open; the bytes of a layout view are those of its storage. -/
def State.engClear (s : State) (e : Eng) (lo n : Nat) : Bool :=
  !(s.sliceAccs e.gid .a).any fun a => decide (a.id < e.id) && a.lanes.any fun l => l.st.open && s.clash a l .g lo n

/-- No earlier access of the issuing slice to bank `b` of the span's home is still open (R58). -/
def State.bankClear (s : State) (e : Eng) (b : Nat) : Bool :=
  !(s.sliceAccs e.gid .a).any fun a => decide (a.id < e.id) && a.lanes.any fun l =>
    let ia := (s.storage a.path l.ia.toNat 1).1
    l.st.open && homeOf ia == homeOf e.dst && l2Bank ia == b

/-- The operation may act: its team is not stopped. -/
def State.engRuns (s : State) (e : Eng) : Bool := ((s.team? e.team).map fun t => t.life.runs).getD false

/-- The state of a unit that may act now: not performed, and either issued again, or not started while fewer than 64 pages are
unresolved and no woken unit waits, or passed by a later unit before that (R25). -/
def Eng.ready (e : Eng) (u : Nat) : Option UnitSt :=
  if e.done.contains u then none else
  match e.parked.find? fun p => p.unit == u with
  | some p => if p.st = .todo then some p else none
  | none =>
    if (decide (e.openPages < 64) && !e.parked.any fun p => decide (p.st = .todo)) || e.passed u then
      some { unit := u, st := .todo, data := [], wr := 0, dest := false }
    else none

/-- Before its first write, the dirty bytes of the destination span go home (R58, R82). -/
def State.engStart (s : State) (e : Eng) : State :=
  if e.started then s else
  let (lo, hi) := e.dstSpan
  let s := if e.dsp then s else s.flushSpan e.core lo.toNat (hi - lo).toNat
  s.updEng e.id fun (e : Eng) => { e with started := true }

def spanLen (x : Int × Int) : Nat := (x.2 - x.1).toNat

/-- Issue of a unit: a page that its source, or else its first destination byte, misses parks it before it acts (R20, R25,
R296). -/
def State.unitProbe (s : State) (e : Eng) (x : UnitSt) : State :=
  let row := x.unit / 2 ^ 24
  let o := (s.unitPart e x.unit).1
  let dst := if e.kind.transform then (e.dst : Int) + (sectorPart e.dst e.len x.unit).1 else e.dstRow row + o + x.wr
  match if e.ssp || e.kind.transform || !x.data.isEmpty then none else some (s.gate (s.engReq e false) (e.srcRow row + o).toNat) with
  | some (.miss page b, t) => t.unitBlocked e { x with dest := false } (.miss page b)
  | _ =>
    if e.dsp then s else
    match s.gate (s.engReq e true) dst.toNat with
    | (.miss page b, t) => t.unitBlocked e { x with dest := true } (.miss page b)
    | _ => s

/-- Issues, in ascending order, the units that are not started yet: those that miss a page park (R25). -/
def State.unitsIssue (s : State) (id : Nat) : List Nat → State
  | [] => s
  | u :: us =>
    match s.eng? id with
    | none => s
    | some e =>
      if e.done.contains u || e.parked.any fun p => p.unit == u then s.unitsIssue id us else
      match e.ready u with
      | some x => (s.unitProbe e x).unitsIssue id us
      | none => s

/-- Issues the units before unit `u`. -/
def State.issueBefore (s : State) (e : Eng) (u : Nat) : State :=
  s.unitsIssue e.id ((s.unitsOf e).filter fun v => decide (v < u) && !e.done.contains v)

/-- A unit that has its turn: performed, or parked. -/
def State.unitTurn (s : State) (id u : Nat) : State :=
  match s.eng? id with
  | none => s
  | some e =>
    match e.ready u with
    | none => s.engMisses id
    | some x =>
      let (o, n) := s.unitPart e u
      let row := u / 2 ^ 24
      if (!e.ssp && !s.engClear e (e.srcRow row + o).toNat n) || (!e.dsp && !s.engClear e (e.dstRow row + o).toNat n) then
        (s.unitProbe e x).engMisses id
      else
        let s := s.engStart e
        (s.unitRun e x).engMisses id

/-- ENGINE_UNIT_DONE: one sector of a copy or gather is performed, or parks; the units before it have been issued. -/
def State.engineUnit (s : State) (id u : Nat) : State :=
  match s.eng? id with
  | none => s
  | some e =>
    if e.kind.transform || !s.engRuns e || (s.unitPart e u).2 = 0 || !decide (u / 2 ^ 24 < e.rows) then s
    else if e.logged && s.refillFails e.gid .a id then s.engUnspilled e
    else (s.issueBefore e u).unitTurn id u

def execEngineUnitDone (eng unit : Nat) (s : State) : Host.Outcome State Fault Refusal := .next (s.engineUnit eng unit)

/-- The new content of a whole or partial L2 sector: `o` is its first byte within the sector. -/
def transformBytes (k : EngKind) (old : List PByte) : List PByte :=
  match k with
  | .zero => old.map fun _ => (0, none)
  | .fill p => old.mapIdx fun i _ => (p.extractLsb' (8 * (i % 4)) 8, none)
  | _ => (List.range 256).map fun i => old.getD ((i / 4 % 8 * 8 + i / 32) * 4 + i % 4) (0, none)

/-- Transforms the part of one sector that lies in the span. -/
def State.transformSector (s : State) (e : Eng) (ia n : Nat) : UnitIO × State :=
  match s.gate (s.engReq e true) ia with
  | (.go key _ _, s) =>
    let (old, s) := if e.kind = .transpose then s.homeRead ia key n else (plain (List.replicate n 0), s)
    (.ok [], s.homeWrite ia key (transformBytes e.kind old))
  | (.poisoned _ _ _ _, s) => (.ok [], s.poisonedWrite (s.engReq e true) ia)
  | (.aperture _ _, s) => (.blocked (.fatal fatalOwner), s)
  | (.remote _ _ _ _, s) => (.blocked (.fatal fatalWalk), s)
  | (g, s) => (.blocked g, s)

/-- Sectors of an L2 transform that lie in a bank and may act now, ascending. -/
def State.bankSectors (s : State) (e : Eng) (b : Nat) : List UnitSt :=
  (s.unitsOf e).filterMap fun u => if l2Bank ((e.dst / 256 + u) * 256) = b then e.ready u else none

/-- One sector of a bank part: performed, or parked. -/
def State.bankSector (s : State) (id : Nat) (u : UnitSt) : State :=
  match s.eng? id with
  | none => s
  | some e =>
    let (o, n) := sectorPart e.dst e.len u.unit
    match s.transformSector e (e.dst + o) n with
    | (.ok _, s) => s.unitsDone id [u.unit] n
    | (.blocked g, s) => s.unitBlocked e { u with dest := true } g
    | _ => s

/-- Words of one bank of a scratchpad transform. In an allocation smaller than a tile the words of a transposed tile lie over each other, and the
spec gives no result: they take free values (DESIGN CHOICE, log 103). -/
def State.bankSpad (s : State) (e : Eng) (b : Nat) : State :=
  let ws := s.bankWords e b
  let get := fun (o : Nat) => s.spadGet e.team e.core (e.dst + o) 4
  let s' := ws.foldl (fun (t : State) (o : Nat) =>
    match e.kind with
    | .zero => t.spadPut e.team e.core (e.dst + o) (plain (leBytes 4 0))
    | .fill p => t.spadPut e.team e.core (e.dst + o) (plain (leBytes 4 p.toNat))
    | _ =>
      let from_ : Nat := o / 4096 * 4096 + (o / 4 % 32 * 32 + o / 128 % 32) * 4
      let old := get from_
      if s.allocOf e.team < 4096 then
        let (w, t) := t.freeW
        t.spadPut e.team e.core (e.dst + o) ((leBytes 4 w.toNat).map fun b => (b, anyPoison old))
      else t.spadPut e.team e.core (e.dst + o) old) s
  s'.unitsDone e.id [b] (4 * ws.length)

/-- TRANSFORM_BANK_PART: one bank performs its part of an XFORM in one step, after the slice's earlier accesses to the span and to the bank
(R58). -/
def State.bankPart (s : State) (id b : Nat) : State :=
  match s.eng? id with
  | none => s
  | some e =>
    if !e.kind.transform || !s.engRuns e || (!e.dsp && !(s.engClear e e.dst e.len && s.bankClear e b)) then s
    else if e.logged && s.refillFails e.gid .a id then s.engUnspilled e
    else if e.dsp then
      if e.done.contains b || (s.bankWords e b).isEmpty then s else (s.engStart e).bankSpad e b
    else
      let s := s.unitsIssue id (s.unitsOf e)
      match s.eng? id with
      | none => s
      | some e =>
        let us := s.bankSectors e b
        if us.isEmpty then s.engMisses id else (us.foldl (fun s u => s.bankSector id u) (s.engStart e)).engMisses id

def execTransformBankPart (eng part : Nat) (s : State) : Host.Outcome State Fault Refusal := .next (s.bankPart eng part)

/-! ## Range locks at issue (R80, R81) -/

/-- The locked spans of a byte range: rounded outward, and cut where a scratchpad allocation wraps. -/
def lockSpans (spad : Option Nat) (alloc : Nat) (lo : Int) (n : Nat) : List Span :=
  if n = 0 then [] else
  match spad with
  | none => [{ spad := none, lo := lo.toNat / 64 * 64, hi := (lo.toNat + n + 63) / 64 * 64 }]
  | some t =>
    if alloc ≤ n + 3 then [{ spad := some t, lo := 0, hi := alloc }] else
    let o := reduceOfs alloc lo
    let a := o / 4 * 4
    let b := (o + n + 3) / 4 * 4
    if b ≤ alloc then [{ spad := some t, lo := a, hi := b }]
    else [{ spad := some t, lo := a, hi := alloc }, { spad := some t, lo := 0, hi := b - alloc }]

/-- The ranges that an operation registers: each is one entry, with its spans and whether it is a destination. -/
def State.engRanges (s : State) (e : Eng) : List (Bool × List Span) :=
  let alloc := s.allocOf e.team
  let sp := fun (b : Bool) => if b then some e.team else none
  let src := match e.kind with
    | .gather _ => (List.range e.rows).map fun r => (false, lockSpans (sp e.ssp) alloc (e.srcRow r) e.len)
    | .copy => [(false, lockSpans (sp e.ssp) alloc e.srcSpan.1 (spanLen e.srcSpan))]
    | .copy2 => [(false, lockSpans (sp e.ssp) alloc e.srcSpan.1 (spanLen e.srcSpan))]
    | _ => []
  src ++ [(true, lockSpans (sp e.dsp) alloc e.dstSpan.1 (spanLen e.dstSpan))]

/-- Entries of a core's table that are free, lowest first. -/
def Core.freeLocks (k : Core) : List Nat := (List.range 128).filter fun i => !k.locks.any fun l => l.entry == i

/-- Registers ranges under a holder. -/
def State.addLocks (s : State) (core holder : Nat) (rs : List (Bool × List Span)) : State :=
  s.updCore core fun k =>
    { k with locks := k.locks ++ (rs.zip k.freeLocks).flatMap fun x => x.1.2.map fun (sp : Span) =>
        ({ entry := x.2, eng := holder, dest := x.1.1, span := sp } : Lock) }

/-- Holders of locks that new ranges conflict with: a destination with any locked span, a source with a locked
destination. -/
def Core.conflicts (k : Core) (rs : List (Bool × List Span)) : List Nat :=
  (k.locks.filter fun l => rs.any fun r => (r.1 || l.dest) && r.2.any fun (sp : Span) => l.span.overlaps sp.spad sp.lo sp.hi).map (·.eng)

/-- Waits at issue until the ranges can be registered. -/
def lockWaits (k : Core) (rs : List (Bool × List Span)) : Chk Unit := do
  waitIf (!(k.conflicts rs).isEmpty) (.accs (k.conflicts rs))
  waitIf (decide (k.freeLocks.length < rs.length)) (.locks rs.length)

/-! ## Issue (R294, R295) -/

/-- One side of an operation: its start, as an IA or an offset, and the window it lies in. -/
structure Side where
  start : Nat
  ofs   : Int
  prot  : Bool
  pwin  : Bool
  num   : Nat
  deriving DecidableEq, Repr

/-- A memory side: its envelope must lie in one window with rights. -/
def Ctx.side (c : Ctx) (start : Nat) (span : Int × Int) (rights : Window → Bool) : Chk Side :=
  if span.1 < 0 ∨ (2 : Int) ^ 56 ≤ span.1 then .error (.trap 0x10 (rangeInfo 0)) else
  match c.window? span.1.toNat with
  | none => .error (.trap 0x10 (rangeInfo 0))
  | some w => do
    trapIf (decide ((w.base + w.len : Int) < span.2)) 0x10 (rangeInfo 0)
    trapIf (!rights w) 0x11 (rightsInfo 0 w.num)
    pure { start := ((start : Int) - w.base + w.ia).toNat, ofs := (w.base : Int) - w.ia, prot := w.prot, pwin := w.p, num := w.num }

def spadSide (start : Nat) : Side := { start := start, ofs := 0, prot := false, pwin := false, num := 0 }

/-- The scalar registers of an operation block and of BAR, as sources. -/
def blockSrcs (a : Opnd) (n : Nat) (bar : BitVec 6) : List SrcOp :=
  ((List.range n).map fun i => { code := 1, o := shiftOpnd a i }) ++ [{ code := 1, o := .sca bar }]

def signed32 (n : Nat) : Int := (BitVec.ofNat 32 n).toInt

/-- A pair of block registers as a VA, or its even one as a scratchpad offset. -/
def blockAddr (r : List Nat) (i : Nat) (sp : Bool) : Nat :=
  r.getD i 0 + (if sp then 0 else r.getD (i + 1) 0 * 2 ^ 32)

/-- An operation before its windows are known: starts stand as VAs or offsets. -/
def Env.engOf (e : Env) (kind : EngKind) (m : MEng) (r : List Nat) (bar : Nat) : Eng :=
  let src := if kind.transform then blockAddr r 0 m.dsp else blockAddr r 0 m.ssp
  let dst := if kind.transform then src else blockAddr r 2 m.dsp
  let len := if kind.transform then r.getD 2 0 else r.getD 4 0
  let rows := match kind with
    | .copy2 => r.getD 5 0
    | .gather idx => idx.length
    | _ => 1
  let sp := match kind with
    | .copy2 => signed32 (r.getD 6 0)
    | .gather _ => signed32 (r.getD 6 0)
    | _ => 0
  let dp : Int := match kind with
    | .copy2 => signed32 (r.getD 7 0)
    | .gather _ => len
    | _ => 0
  { id := 0, gid := e.gid, team := e.t.id, core := e.g.core, ctx := e.c.num, pc := e.f.pc, issuedAt := e.x.issued + 1, kind := kind,
    ssp := if kind.transform then m.dsp else m.ssp, dsp := m.dsp, src := src, dst := dst, rows := rows, len := len, spitch := sp,
    dpitch := dp, sprot := false, dprot := false, spwin := false, dpwin := false, sofs := 0, dofs := 0, bar := BitVec.ofNat 32 bar,
    started := false, done := [], parked := [] }

/-- Rights of Table 1-2. -/
def copySrcRights (w : Window) : Bool := w.rd && !w.l
def copyDstRights (w : Window) : Bool := w.wr && !w.l

/-- Alignment of an XFORM span. -/
def xformAlign (kind : EngKind) (dsp : Bool) : Nat :=
  match kind with
  | .transpose => if dsp then 4096 else 256
  | _ => if dsp then 4 else 64

/-- The windows of an operation, and the home of an XFORM. -/
def engPlace (e : Env) (g : Eng) : Chk Eng := do
  let x ← if g.ssp || g.kind.transform then pure (spadSide g.src) else e.c.side g.src g.srcSpan copySrcRights
  let y ← if g.dsp then pure (spadSide g.dst) else e.c.side g.dst g.dstSpan copyDstRights
  trapIf (g.kind.transform && !g.dsp && decide (3 < homeOf y.start)) 0x11 (rightsInfo 0 y.num)
  let x := if g.kind.transform then y else x
  pure { g with src := x.start, sofs := x.ofs, sprot := x.prot, spwin := x.pwin, dst := y.start, dofs := y.ofs, dprot := y.prot, dpwin := y.pwin }

/-- Copy and gather operations in flight on a core. -/
def State.copiesOn (s : State) (core : Nat) : Nat := (s.engs.filter fun g => g.core == core && !g.kind.transform).length

/-- The block registers that an operation reads: the odd register of a scratchpad pair and the unused words of Table 12-8 are ignored. -/
def EngKind.blockRegs (k : EngKind) (m : MEng) : List Nat :=
  let pair := fun (i : Nat) (sp : Bool) => if sp then [i] else [i, i + 1]
  match k with
  | .zero => pair 0 m.dsp ++ [2]
  | .transpose => pair 0 m.dsp ++ [2]
  | .fill _ => pair 0 m.dsp ++ [2, 3]
  | .copy => pair 0 m.ssp ++ pair 2 m.dsp ++ [4]
  | .copy2 => pair 0 m.ssp ++ pair 2 m.dsp ++ [4, 5, 6, 7]
  | .gather _ => pair 0 m.ssp ++ pair 2 m.dsp ++ [4, 6]

/-- The index operand of a gather. -/
def indexSrcs (b : Option Opnd) : List SrcOp := b.elim [] fun o => [{ code := 2, o := o }]

/-- Issue of an engine operation of `n` block registers. -/
def engEff (n : Nat) (kind : List Nat → List W32 → EngKind) (a : Opnd) (b : Option Opnd) (m : MEng) (e : Env) (s : State) :
    Chk Eff := do
  let bsrc := indexSrcs b
  e.bounds (bsrc.map SrcOp.use)
  let vs ← s.peek e (blockSrcs a n m.bar ++ bsrc) (.vec 0) 0
  let r := uniformVals e vs
  let bar := r.getD n 0
  let idx := (List.range e.g.width).map fun l => BitVec.ofNat 32 (valAt (lvVals vs) (n + 1) l)
  let g := e.engOf (kind r (if b.isSome then idx else [])) m r bar
  let used := (vs.zipIdx.filter fun x => decide (n ≤ x.2) || (g.kind.blockRegs m).contains x.2).map (·.1)
  e.needSpad
  refuseIf (decide (2 ^ 30 < g.rows * g.len) || decide (65536 < g.rows)) 0
  trapIf (bar % 16 != 0) 0x13 0
  let al := xformAlign g.kind m.dsp
  trapIf (g.kind.transform && (g.dst % al != 0 || g.len % al != 0)) 0x13 0
  if g.rows * g.len = 0 then
    poisonCheck e.exec used
    pure (Eff.on s)
  else
    let g ← engPlace e g
    poisonCheck e.exec used
    s.afterAcquires e
    s.afterLogged e
    let spans := (if g.ssp then [] else [g.srcSpan]) ++ (if g.dsp then [] else [g.dstSpan])
    waitAccs (spans.flatMap fun x => s.qsStores e.gid e.sl .g x.1.toNat (spanLen x))
    waitIf (!g.kind.transform && decide (64 ≤ s.copiesOn e.g.core)) .engines
    lockWaits (s.core e.g.core) (s.engRanges g)
    let (id, s) := s.fresh
    let g := { g with id := id }
    pure (Eff.on ({ s with engs := s.engs ++ [g] }.addLocks e.g.core id (s.engRanges g)))

def execBcopy (h : Hdr) (a : Opnd) (eng : MEng) (s : State) : Host.Outcome State Fault Refusal :=
  runInstr (.bcopy h a eng) h (engEff 5 (fun _ _ => .copy) a none eng) s

def execBcopy2 (h : Hdr) (a : Opnd) (eng : MEng) (s : State) : Host.Outcome State Fault Refusal :=
  runInstr (.bcopy2 h a eng) h (engEff 8 (fun _ _ => .copy2) a none eng) s

def execBgath (h : Hdr) (a b : Opnd) (eng : MEng) (s : State) : Host.Outcome State Fault Refusal :=
  runInstr (.bgath h a b eng) h (engEff 7 (fun _ idx => .gather idx) a (some b) eng) s

def execXformZero (h : Hdr) (a : Opnd) (eng : MEng) (s : State) : Host.Outcome State Fault Refusal :=
  runInstr (.xformZero h a eng) h (engEff 4 (fun _ _ => .zero) a none eng) s

def execXformFill (h : Hdr) (a : Opnd) (eng : MEng) (s : State) : Host.Outcome State Fault Refusal :=
  runInstr (.xformFill h a eng) h (engEff 4 (fun r _ => .fill (BitVec.ofNat 32 (r.getD 3 0))) a none eng) s

def execXformTranspose (h : Hdr) (a : Opnd) (eng : MEng) (s : State) : Host.Outcome State Fault Refusal :=
  runInstr (.xformTranspose h a eng) h (engEff 4 (fun _ _ => .transpose) a none eng) s

end Sys2Proof.Machine
end

