-- ==== Sys2Proof/Machine/Homes.lean ====
section
/-!
DEFINITION. Instructions that wait for a home's answer, and collective steps: work lists, procedural ranges, CSTEP and CABORT
(05 R113, R119, R122, R124, 08 R193, 12 R297 to R301).
-/

namespace Sys2Proof.Machine

/-! ## Answers of a home at issue -/

/-- The fragment waits, and executes its instruction again. -/
def State.parkAt (s : State) (e : Env) (w : Wait) : Chk Eff :=
  pure { s := s.stays e w, moved := true }

/-- The fault records of an instruction that waits at issue for missing pages (R20). -/
def State.issueMiss (s : State) (e : Env) (write : Bool) (page : Nat) (ms : List Missed) : State :=
  let (tag, s) := s.fresh
  let h : FaultHead := { path := 0, write := write, slice := sliceNum e.sl, core := e.g.core, gslot := e.g.slot, ctx := e.c.num, itag := tag }
  s.faultBatch e.c.num (pageKey e.gid e.sl page) (threadBatch h ms)

/-- The home does not let a lane's request be performed: the fragment traps, or waits and executes its instruction again; `ms` names what
misses a page. A prompter refused with no fill left to end tries again (log 102). -/
def State.issueBlock (s : State) (e : Env) (write : Bool) (lane : Nat) (ms : List Missed) (g : Gate) : Chk Eff :=
  match g with
  | .miss page b =>
    if s.queueOk e.c.num then (s.issueMiss e write page ms).parkAt e (.page (BitVec.ofNat 52 page) b)
    else .error (.trap 0x12 (fatalQueue + lane))
  | .fatal info => .error (.trap 0x12 (info + lane))
  | .filling die entry blk => s.parkAt e (.block die entry blk)
  | .full => s.parkAt e .none
  | .held => s.parkAt e .none
  | .poisoned p _ _ _ => .error (.trap p.cause.toNat (poisonInfo p lane 1))
  | .refused cause =>
    match s.filling? e.t with
    | some (die, entry, blk) => pure { s := s.failFill die entry blk cause 0 0, moved := true }
    | none => .error (.wait .none)
  | .remote _ _ _ _ => .error (.trap 0x12 (fatalWalk + lane))
  | .aperture _ _ => .error (.trap 0x12 (fatalOwner + lane))
  | .go _ _ _ => .error (.wait .none)

/-- Goes on with the key of an IA once its home lets a request of the fragment be performed. -/
def State.answer (s : State) (e : Env) (r : Req) (va ia : Nat) (k : Nat → State → Chk Eff) : Chk Eff :=
  match s.gate r ia with
  | (.go key _ _, s) => k key s
  | (.miss page b, s) => s.issueBlock e r.write (lowLane e.exec)
      ((lanesOf e.exec).map fun l => { lane := l, va := va, ia := ia, page := page, bits := b }) (.miss page b)
  | (g, s) => s.issueBlock e r.write (lowLane e.exec) [] g

/-! ## Work lists (R297, R298) -/

/-- A work-list header (Table 12-9). -/
structure WorkList where
  ring : Nat
  log  : Nat
  head : W32
  tail : W32
  busy : W32
  deriving DecidableEq, Repr

def WorkList.ofBytes (bs : List Byte) : WorkList :=
  { ring := bits (fieldAt bs 0 8) 6 46 * 64, log := fieldAt bs 8 4, head := BitVec.ofNat 32 (fieldAt bs 12 4),
    tail := BitVec.ofNat 32 (fieldAt bs 16 4), busy := BitVec.ofNat 32 (fieldAt bs 20 4) }

/-- A header at IA `ia` that follows Table 12-9. -/
def wlOk (ia : Nat) (bs : List Byte) : Bool :=
  let w := WorkList.ofBytes bs
  bits (fieldAt bs 0 8) 52 12 == 0 && bits (fieldAt bs 0 8) 0 6 == 0 && decide (4 ≤ w.log) && decide (w.log ≤ 24) &&
    (bs.drop 24).all (· == 0) && homeOf w.ring == homeOf ia

def WorkList.count (w : WorkList) : Nat := (w.tail - w.head).toNat

/-- IA of item k. -/
def WorkList.item (w : WorkList) (k : Nat) : Nat := w.ring + 4 * (k % 2 ^ w.log)

/-- HEAD, TAIL and BUSY as stored. -/
def WorkList.counts (w : WorkList) : List Byte := leBytes 4 w.head.toNat ++ leBytes 4 w.tail.toNat ++ leBytes 4 w.busy.toNat

/-- The header VA in a scalar pair, with its address checks (R7, R297). -/
def State.wlAddr (s : State) (e : Env) (vs : List (Nat × (Nat → LV))) : Chk (Nat × Window) := do
  let va := (uniformVals e vs).getD 0 0
  s.addressed e (fun _ => va) 64 atomRights true
  match e.c.window? va with
  | some w => pure (va, w)
  | none => .error (.trap 0x10 (rangeInfo (lowLane e.exec)))

/-- A work-list instruction waits for the slice's earlier transforms to perform their parts in the banks of the bytes it names (R58). -/
def State.listBankWait (s : State) (e : Env) (ias : List Nat) : Chk Unit :=
  let busy := ias.flatMap fun ia => s.bankLeft e.gid e.sl s.nextId ia
  waitIf (!busy.isEmpty) (.accs (busy.map (·.id)))

/-- Reads the header at its home and goes on with it and its key. -/
def State.withList (s : State) (e : Env) (va : Nat) (w : Window) (k : Nat → WorkList → State → Chk Eff) : Chk Eff :=
  let ia := w.iaOf va
  if 3 < homeOf ia then .error (.trap 0x12 fatalList) else do
  s.listBankWait e [ia]
  s.answer e (e.req w true e.t.level) va ia fun key s =>
    let (bs, s) := (s.expel e.g.core (ia / 64)).homeRead ia key 64
    match anyPoison bs with
    | some p => .error (.trap p.cause.toNat (poisonInfo p (lowLane e.exec) 1))
    | none => if wlOk ia (values bs) then k key (WorkList.ofBytes (values bs)) s else .error (.trap 0x12 fatalList)

/-- The VA at which a window maps an IA, 0 when it does not (DESIGN CHOICE, log 104). -/
def Window.vaOf (w : Window) (ia : Nat) : Nat := if w.ia ≤ ia ∧ ia < w.ia + w.len then w.base + (ia - w.ia) else 0

/-- Goes on once the home lets the items of some lanes, from item `k0` on, be reached through the header's window (R81, R108). -/
def State.withItems (s : State) (e : Env) (w : Window) (l : WorkList) (k0 : Nat) (lanes : List Nat) (write : Bool) (k : State → Chk Eff) :
    Chk Eff := do
  let at_ := fun (lane : Nat) => l.item (k0 + lanes.idxOf lane)
  s.lockCheck e none lanes at_ 4 write
  s.listBankWait e (lanes.map at_)
  let r := e.req w true e.t.level
  let gs := lanes.map fun lane => (lane, (s.gate r (at_ lane)).1)
  let ms : List Missed := gs.filterMap fun x =>
    match x.2 with
    | .miss page b => some { lane := x.1, va := w.vaOf (at_ x.1), ia := at_ x.1, page := page, bits := b }
    | _ => none
  let stops := fun (g : Gate) => match g with
    | .go _ _ _ => false
    | .poisoned _ _ _ _ => false
    | _ => true
  match gs.find? fun x => stops x.2 with
  | some (lane, g) => (s.gate r (at_ lane)).2.issueBlock e true lane ms g
  | none => k s

/-- The items of some lanes are written, as stores of scope DEV are. -/
def State.putItems (s : State) (e : Env) (w : Window) (l : WorkList) (items : List (Nat × Nat)) : State :=
  items.zipIdx.foldl (fun (s : State) x =>
    (s.writeG (e.req w true e.t.level) e.g.core .dev (l.item (l.tail.toNat + x.2)) (plain (leBytes 4 x.1.2))).2) s

/-- The items of some lanes are read, as loads of scope DEV are. -/
def State.getItems (s : State) (e : Env) (w : Window) (l : WorkList) (lanes : List Nat) : List (Nat × Val) × State :=
  lanes.zipIdx.foldl (fun (acc : List (Nat × Val) × State) x =>
    match acc.2.readG (e.req w true e.t.level) e.g.core .dev false (l.item (l.head.toNat + x.2)) 4 with
    | (.ok bs, s) => (acc.1 ++ [(x.1, { bits := BitVec.ofNat 32 (leNat (values bs)), poison := anyPoison bs })], s)
    | (_, s) => (acc.1, s)) ([], s)

/-- Writes the counts of a header. -/
def State.putList (s : State) (ia key : Nat) (l : WorkList) : State := s.homeWrite (ia + 12) (key + 12) (plain l.counts)

/-- The bits of a status predicate for the lanes of exec. -/
def State.statusBits (s : State) (e : Env) (d : Opnd) (m : Lanes) : State :=
  match d with
  | .pred p => s.updSlice e.gid e.sl fun x => x.setPred p e.exec m
  | _ => s

def wlpushEff (d a b : Opnd) (e : Env) (s : State) : Chk Eff := do
  e.bounds [{ code := 2, o := b, n := 1, even := false }]
  let srcs : List SrcOp := [baseSrc a, { code := 2, o := b }]
  let vs ← s.peek e srcs (.vec 0) 0
  let (va, w) ← s.wlAddr e vs
  poisonCheck e.exec vs
  s.afterAcquires e
  s.afterLogged e
  s.afterWrites e
  s.withRelease e .dev fun s => s.withList e va w fun key l s =>
    let lanes := lanesOf e.exec
    let n := lanes.length
    if 2 ^ l.log < l.count + n then pure (Eff.on ((s.consume e srcs).statusBits e d 0))
    else s.withItems e w l l.tail.toNat lanes true fun s =>
      let s := (s.consume e srcs).putItems e w l (lanes.map fun lane => (lane, valAt (lvVals vs) 1 lane))
      let s := s.putList (w.iaOf va) key { l with tail := l.tail + BitVec.ofNat 32 n }
      pure (Eff.on (s.statusBits e d e.exec))

def execWlpush (h : Hdr) (d a b : Opnd) (s : State) : Host.Outcome State Fault Refusal :=
  runInstr (.wlpush h d a b) h (wlpushEff d a b) s

def wlpopEff (d a b : Opnd) (e : Env) (s : State) : Chk Eff := do
  e.bounds [{ code := 0, o := d, n := 1, even := false }]
  let vs ← s.peek e [baseSrc a] (.vec 0) 0
  let (va, w) ← s.wlAddr e vs
  poisonCheck e.exec vs
  s.afterAcquires e
  s.afterLogged e
  s.withList e va w fun key l s =>
    let lanes := lanesOf e.exec
    let n := min lanes.length l.count
    s.withItems e w l l.head.toNat (lanes.take n) false fun s =>
      let (got, s) := s.getItems e w l (lanes.take n)
      let m := maskOf fun l => (lanes.take n).contains l
      let v := fun (l : Nat) => ((got.find? fun x => x.1 == l).map (·.2)).getD Val.zero
      let s := s.putList (w.iaOf va) key { l with head := l.head + BitVec.ofNat 32 n, busy := l.busy + BitVec.ofNat 32 n }
      let s := if n = 0 then s else s.updSlice e.gid e.sl fun x => x.writeRegs { e with exec := m } d [v]
      pure (Eff.on ((s.statusBits e b m).acquire e.g.core .dev))

def execWlpop (h : Hdr) (d a b : Opnd) (s : State) : Host.Outcome State Fault Refusal :=
  runInstr (.wlpop h d a b) h (wlpopEff d a b) s

def wlquietEff (d a b : Opnd) (e : Env) (s : State) : Chk Eff := do
  let vs ← s.peek e [baseSrc a, { code := 2, o := b }] (.vec 0) 0
  let (va, w) ← s.wlAddr e vs
  poisonCheck e.exec vs
  s.afterAcquires e
  s.afterLogged e
  s.afterWrites e
  s.withRelease e .dev fun s => s.withList e va w fun key l s =>
    let f := (uniformVals e vs).getD 1 0
    let l := { l with busy := BitVec.ofNat 32 (l.busy.toNat - min f l.busy.toNat) }
    let q := decide (l.head = l.tail) && decide (l.busy = 0)
    pure (Eff.on (((s.putList (w.iaOf va) key l).status e d (boolNat q)).acquire e.g.core .dev))

def execWlquiet (h : Hdr) (d a b : Opnd) (s : State) : Host.Outcome State Fault Refusal :=
  runInstr (.wlquiet h d a b) h (wlquietEff d a b) s

/-! ## Procedural ranges (R299) -/

/-- Accesses of a group that still have work directed at a block. -/
def State.blockAccs (s : State) (gid lo n : Nat) : List Acc :=
  s.accs.filter fun a => a.gid == gid && a.lanes.any fun l => l.st.open && l.meets a.size lo n

/-- Engine operations of a group with a span that meets a block. -/
def State.blockEngs (s : State) (gid lo n : Nat) : List Eng :=
  s.engs.filter fun g => g.gid == gid &&
    ((!g.ssp && decide (g.srcSpan.1 < lo + n) && decide ((lo : Int) < g.srcSpan.2)) ||
      (!g.dsp && decide (g.dstSpan.1 < lo + n) && decide ((lo : Int) < g.dstSpan.2)))

def filldoneEff (d : Opnd) (e : Env) (s : State) : Chk Eff :=
  match s.filling? e.t with
  | none => pure (Eff.on (s.status e d 0))
  | some (die, entry, blk) =>
    match s.merge? die entry blk with
    | none => pure (Eff.on (s.status e d 0))
    | some m => do
      let p := m.prt
      let lo := p.base + blk * p.blockSize
      waitAccs (s.blockAccs e.gid lo p.blockSize)
      waitIf (!(s.blockEngs e.gid lo p.blockSize).isEmpty) (.accs ((s.blockEngs e.gid lo p.blockSize).map (·.id)))
      s.afterLogged e
      s.afterWrites e
      s.withRelease e .dev fun s =>
        pure (Eff.on (((s.setFillState p blk 2).leaveFilling die m).status e d 1))

def execFilldone (h : Hdr) (d : Opnd) (s : State) : Host.Outcome State Fault Refusal :=
  runInstr (.filldone h d) h (filldoneEff d) s

def fillfailEff (d a : Opnd) (e : Env) (s : State) : Chk Eff := do
  let code ← s.countVal e a anyCount
  match s.filling? e.t with
  | some (die, entry, blk) => pure { s := s.failFill die entry blk 0x16 2 code, moved := true }
  | none => pure (Eff.on (s.status e d 0))

def execFillfail (h : Hdr) (d a : Opnd) (s : State) : Host.Outcome State Fault Refusal :=
  runInstr (.fillfail h d a) h (fillfailEff d a) s

/-- The block that the VA of a scalar pair names, through a P window with some right. -/
def State.blockArg (s : State) (e : Env) (a : Opnd) (right : Window → Bool) : Chk (Nat × Prt × Nat) := do
  let vs ← s.peek e [baseSrc a] (.vec 0) 0
  let va := (uniformVals e vs).getD 0 0
  let lane := lowLane e.exec
  e.c.addrChecks [lane] (fun _ => va) 1 fun w => right w && !w.l && w.p
  poisonCheck e.exec vs
  match e.c.window? va with
  | none => .error (.trap 0x10 (rangeInfo lane))
  | some w =>
    let ia := w.iaOf va
    let r := e.req w false e.t.level
    match if homeOf ia ≤ 3 then s.prt? ia else none with
    | none => .error (.trap 0x12 (fatalWindow + lane))
    | some p =>
      match s.lookup ia with
      | .hit _ _ leaf _ =>
        if r.passes (entOwner leaf) (entProt leaf) then pure (homeOf ia, p, p.blockOf ia)
        else .error (.trap 0x12 (fatalOwner + lane))
      | .miss _ _ => pure (homeOf ia, p, p.blockOf ia)
      | .bad => .error (.trap 0x12 (fatalWalk + lane))
      | .noKey => .error (.trap 0x12 (fatalEcc + lane))
      | .ecc _ => .error (.trap 0x12 (fatalEcc + lane))

/-- PREVICT at the home: the status, and the block EMPTY and zeroed (R124). -/
def State.evictBlock (s : State) (die : Nat) (p : Prt) (b : Nat) : Nat × State :=
  match s.fillState die p b with
  | 0 => (2, s)
  | 1 => (3, s)
  | st =>
    if s.pinned p b then (1, s) else
    let s := if st = 3 then s.failRecord p b 0 else s
    (0, (s.setFillState p b 0).zeroBlock p b)

def previctEff (d a : Opnd) (e : Env) (s : State) : Chk Eff := do
  let (die, p, b) ← s.blockArg e a (·.wr)
  s.afterLogged e
  s.afterWrites e
  s.withRelease e .dev fun s =>
    let (st, s) := s.evictBlock die p b
    pure (Eff.on (s.status e d st))

def execPrevict (h : Hdr) (d a : Opnd) (s : State) : Host.Outcome State Fault Refusal :=
  runInstr (.previct h d a) h (previctEff d a) s

def fillqEff (d a : Opnd) (e : Env) (s : State) : Chk Eff := do
  let (die, p, b) ← s.blockArg e a (·.rd)
  pure (Eff.on (s.status e d (s.fillState die p b + 4 * boolNat (s.pinned p b))))

def execFillq (h : Hdr) (d a : Opnd) (s : State) : Host.Outcome State Fault Refusal :=
  runInstr (.fillq h d a) h (fillqEff d a) s

/-! ## Collective steps (R300, R301) -/

/-- CSTEP: the span is registered as a source while the release at SYS is made; then the step counts and the bytes land. -/
def cstepEff (a b : Opnd) (bar : BitVec 6) (e : Env) (s : State) : Chk Eff := do
  let spanned := decide (b.kind = 1)
  let bsrc : List SrcOp := if spanned then
      [{ code := 2, o := b, ty := .b64, pair := true }, { code := 2, o := shiftOpnd b 2 }, { code := 2, o := .sca bar }]
    else []
  let vs ← s.peek e ({ code := 1, o := a } :: bsrc) (.vec 0) 0
  let n := (uniformVals e vs).getD 0 0
  let va := (uniformVals e vs).getD 1 0
  let len := (uniformVals e vs).getD 2 0
  let off := (uniformVals e vs).getD 3 0
  let key := stepKey e.gid e.sl e.slot
  let count := fun (s : State) => s.updGroup e.gid fun (g : Group) => { g with step := max g.step n }
  if !spanned then
    poisonCheck e.exec vs
    s.afterLogged e
    s.afterWrites e
    s.withRelease e .sys fun s => pure (Eff.on (count s))
  else
    e.needSpad
    trapIf (off % 16 != 0) 0x13 0
    let x ← if len = 0 then pure (spadSide 0) else e.c.side va (va, va + len) fun w => !w.l
    poisonCheck e.exec vs
    s.afterLogged e
    let k := s.core e.g.core
    let held := k.locks.any fun l => l.eng == key
    let rs := [(false, lockSpans none 0 x.start len)]
    if len ≠ 0 ∧ !held then lockWaits k rs else .ok ()
    let s := if len = 0 ∨ held then s else s.addLocks e.g.core key rs
    let waiting := (s.sliceAccs e.gid e.sl).filter fun a => a.kind.writes && a.isOpen
    if !waiting.isEmpty then s.parkAt e (waitOn waiting)
    else s.withRelease e .sys fun s =>
      let s := (count s).landBytes e.t.id e.g.core off len
      pure (Eff.on (s.updCore e.g.core fun k => { k with locks := k.locks.filter fun l => l.eng != key }))

def execCstep (h : Hdr) (a b : Opnd) (bar : BitVec 6) (s : State) : Host.Outcome State Fault Refusal :=
  runInstr (.cstep h a b bar) h (cstepEff a b bar) s

/-- CABORT: the abort token of the collective group (R193). -/
def cabortEff (a : Opnd) (e : Env) (s : State) : Chk Eff := do
  let code ← s.countVal e a anyCount
  pure (Eff.on (s.abortFrom e.t.launch (code % 65536)))

def execCabort (h : Hdr) (a : Opnd) (s : State) : Host.Outcome State Fault Refusal :=
  runInstr (.cabort h a) h (cabortEff a) s

end Sys2Proof.Machine
end

