-- ==== Sys2Proof/Machine/Power.lean ====
section
/-!
DEFINITION. The power instructions (13 R309, R310, R319).
-/

namespace Sys2Proof.Machine

/-! ## SPL and GPL (R309, R310) -/

/-- The request of SPL and of a SETS of PLREQ: the result and the state after it. -/
def State.requestLevel (s : State) (ctx req : Nat) : Nat × State :=
  let c := s.ctx ctx
  let lvl := bits req 0 4
  let rat := bits req 4 2
  let l := min lvl c.plmax
  let tell := fun (r : Nat) (s : State) => (r, s.updCtx ctx fun c => { c with plstat := (c.plstat &&& ~~~3) ||| BitVec.ofNat 32 r })
  if rat = 3 ∨ (rat = 2 ∧ !doubleOk lvl) then tell 3 s
  else if levelMv l < s.limFloor then tell 2 s
  else
    let p := BitVec.ofNat 32 (l + rat * 16)
    let (r, s) := tell (if c.plmax < lvl then 1 else 0) s
    if p = c.plreq then (r, s)
    else (r, (s.updCtx ctx fun c => { c with plreq := p, plstat := c.plstat ||| 4 }).govern)

/-- The value of the lowest lane of exec. -/
def State.lowVal (s : State) (e : Env) (src : SrcOp) : Chk Nat := do
  let vs ← s.peek e [src] (.vec 0) 0
  poisonCheck (laneBit (lowLane e.exec)) vs
  pure (((lvVals vs).map fun v => v (lowLane e.exec)).headD 0)

def splEff (d a : Opnd) (e : Env) (s : State) : Chk Eff := do
  let src : SrcOp := { code := 1, o := a }
  e.bounds [src.use]
  let req ← s.lowVal e src
  let (r, s) := s.requestLevel e.c.num req
  pure (Eff.on (s.status e d (boolNat (decide (r ≤ 1)))))

def execSpl (h : Hdr) (d a : Opnd) (s : State) : Host.Outcome State Fault Refusal := runInstr (.spl h d a) h (splEff d a) s

/-- PLGNT of a cluster: what it has settled at, also in the course of a change (R310, R386; DEDUCED, log 138). -/
def Cluster.granted (k : Cluster) : Nat := k.gnt

def gplEff (d : Opnd) (wait : Bool) (e : Env) (s : State) : Chk Eff := do
  e.bounds [dstUse d false]
  waitIf (wait && e.c.plstat.getLsbD 2) .power
  pure (Eff.on (s.writeDst e d false fun _ => (s.cluster (cluOf e.g.core)).granted))

def execGpl (h : Hdr) (d : Opnd) (wait : Bool) (s : State) : Host.Outcome State Fault Refusal :=
  runInstr (.gpl h d wait) h (gplEff d wait) s

end Sys2Proof.Machine
end

