-- ==== Sys2Proof/Machine/Launches.lean ====
section
/-!
DEFINITION. The dispatcher before placement: context descriptors, kernel headers, launch packets, kicks and the admission of
deadline launches (07 R149, 08 R171 to R178, R186, 05 R117).
-/

namespace Sys2Proof.Machine

/-! ## Context descriptors (R171 to R173) -/

/-- Bytes of device memory read by the device's own units in 64-byte pieces; unmapped pieces read as zero. -/
def State.hwBytes (s : State) (ia n : Nat) : List Byte :=
  (List.range (n / 64)).flatMap fun i => (s.hwRead (ia + 64 * i) 64).getD (List.replicate 64 0)

/-- A C-die home. -/
def dieHome (ia : Nat) : Bool := decide (homeOf ia ≤ 3)

/-- Every TRAPMASK bit that a handled cause has (R189). -/
def trapMaskBits : Nat := 0x07FB03FE

/-- The live context that descriptor `ctx` describes (Table 8-7). -/
def ctxOf (n : Nat) (bs : List Byte) (old : Ctx) : Ctx :=
  let w0 := fieldAt bs 0 4
  { num := n, valid := true, prot := bitN w0 30, dbg := bitN w0 29, maxlvl := bits w0 24 5, owner := BitVec.ofNat 12 (bits w0 12 12),
    agelim := bits (fieldAt bs 4 4) 0 24, plmax := bits (fieldAt bs 76 4) 0 8, trapmask := BitVec.ofNat 32 (fieldAt bs 28 4),
    lqbase := BitVec.ofNat 52 (fieldAt bs 8 8), lqlog := bits (fieldAt bs 16 4) 0 4,
    lqcons := BitVec.ofNat 32 (fieldAt bs 24 4), fqprod := BitVec.ofNat 32 (fieldAt bs 48 4), errprod := BitVec.ofNat 32 (fieldAt bs 88 4), fqbase := BitVec.ofNat 52 (fieldAt bs 32 8),
    fqlog := bits (fieldAt bs 40 4) 0 5, errbase := BitVec.ofNat 52 (fieldAt bs 80 8), savebase := BitVec.ofNat 52 (fieldAt bs 96 8),
    savelen := fieldAt bs 104 4, spillbase := BitVec.ofNat 52 (fieldAt bs 112 8), spilllen := fieldAt bs 120 4,
    trapvec := BitVec.ofNat 64 (fieldAt bs 64 8), barto := BitVec.ofNat 32 (fieldAt bs 72 4),
    prdepth := if bits w0 0 3 = 0 then 4 else bits w0 0 3,
    vrg := (List.range 64).map fun i => BitVec.ofNat 32 (fieldAt bs (128 + 4 * i) 4), refuse := 0, plreq := old.plreq,
    plstat := old.plstat, runs := [] }

/-- Every valid VRG image would be accepted by SETS (R9). -/
def Ctx.vrgImageOk (c : Ctx) : Bool :=
  (List.range 16).all fun n => !bitN (c.vrgWord n 0) 0 || c.vrgOk n (c.vrgWord n 0)

/-- A descriptor with V = 1 that R172 refuses. -/
def descBad (n : Nat) (bs : List Byte) : Bool :=
  let w0 := fieldAt bs 0 4
  let base := fun (o lo : Nat) => bits (fieldAt bs o 8) 52 12 == 0 && fieldAt bs o 8 % 2 ^ lo == 0 && dieHome (fieldAt bs o 8)
  let zero := bits w0 3 9 == 0 && bits (fieldAt bs 4 4) 24 8 == 0 && bits (fieldAt bs 16 4) 4 28 == 0 &&
    bits (fieldAt bs 40 4) 5 27 == 0 && fieldAt bs 44 4 == 0 && fieldAt bs 56 8 == 0 && bits (fieldAt bs 76 4) 8 24 == 0 &&
    fieldAt bs 108 4 == 0 && fieldAt bs 124 4 == 0 && (bs.drop 384).all (· == 0)
  let c := ctxOf n bs (Ctx.blank n)
  !zero || c.owner == 0xFFF || decide (22 < c.maxlvl ∧ c.owner ≠ 0) || decide (23 < c.maxlvl) || decide (c.lqlog < 4) ||
    decide (12 < c.lqlog) || !base 8 6 || !base 32 5 || !base 80 6 || !base 96 16 || !base 112 16 || decide (c.fqlog < 6) ||
    decide (16 < c.fqlog) || decide (c.trapmask.toNat &&& trapMaskBits ≠ c.trapmask.toNat) || !c.vrgImageOk

/-- The context has a team that is resident, stopped or waits, or a taken launch of its ring that is not complete (R173). -/
def State.ctxBusy (s : State) (n : Nat) : Bool :=
  s.teams.any (fun t => t.ctx == n) || s.launches.any fun l => l.ctx == n && l.kind == .compute

/-- Accepts a descriptor: its live state is loaded, and every bit of the restore mask set. -/
def State.acceptCtx (s : State) (n : Nat) (bs : List Byte) : State :=
  (s.updCtx n fun c => ctxOf n bs c).setSave { s.save n with mask := BitVec.allOnes 64 }

/-- CONTEXT_DESCRIPTOR_WRITE: the dispatcher checks bytes 0–3 as they are written. While V = 1 only a clear of V acts. -/
def State.ctxWrite (s : State) (n : Nat) : State :=
  if s.ctxBase = 0 then s else
  let bs := s.hwBytes (s.descAt n) 512
  if !bitN (fieldAt bs 0 4) 31 then s.updCtx n fun c => { c with valid := false }
  else if (s.ctx n).valid then s
  else if descBad n bs ∨ s.ctxBusy n then
    s.deviceRecord 0x14 (unitOf s.ctxBase) (s.stampOf (s.descAt n)) n (s.descAt n) 0
  else s.acceptCtx n bs

def execContextDescriptorWrite (ctx : Nat) (s : State) : Host.Outcome State Fault Refusal := .next (s.ctxWrite ctx)

/-! ## Kernel headers (R149, R174) -/

def kernelOf (bs : List Byte) : Kernel :=
  let w0 := fieldAt bs 0 4
  let w1 := fieldAt bs 4 4
  let w2 := fieldAt bs 8 4
  { cmax := bits w0 26 6, cmin := bits w0 20 6, ablk := bits w0 16 4, grps := bits w0 6 5 + 1, gen := bitN w0 5, pair := bitN w0 4,
    width := 16 * 2 ^ bits w0 0 2, scr := if bits w1 20 4 = 0 then 0 else 2 ^ (bits w1 20 4 - 1) * 1024,
    qd := (List.range 4).map fun i => bits w1 (5 * i) 5 + 1, mprim := bits w2 9 9, mvert := bits w2 0 9 }

/-- Q of R153 in KiB. -/
def Kernel.queueUnits (k : Kernel) : Nat := (4 * k.width * (k.qd.sum + 24) + 1023) / 1024 + 1

/-- Groups of a team on its (even) core. -/
def Kernel.coreGroups (k : Kernel) : Nat := if k.pair then (k.grps + 1) / 2 else k.grps

/-- Register units of a team on one core. -/
def Kernel.units (k : Kernel) : Nat := (k.coreGroups * (k.ablk + k.cmin) * quartersOf k.width + 3) / 4

/-- A header that breaks Table 8-2. -/
def headerForm (bs : List Byte) : Bool :=
  let w0 := fieldAt bs 0 4
  let w1 := fieldAt bs 4 4
  let w2 := fieldAt bs 8 4
  let k := kernelOf bs
  bits w0 11 5 != 0 || bits w0 2 2 != 0 || bits w1 24 8 != 0 || bits w2 18 14 != 0 || (bs.drop 12).any (· != 0) ||
    bits w0 0 2 == 3 || decide (k.cmax < 1) || decide (32 < k.cmax) || decide (k.cmin < 1) || decide (k.cmax < k.cmin) ||
    decide (k.ablk < 1) || decide (8 < k.ablk) || (!k.pair && decide (16 < k.grps)) || decide (9 < bits w1 20 4) ||
    decide (256 < k.mprim) || decide (256 < k.mvert)

/-- More groups or register units than one core has for a team (R149). -/
def Kernel.tooLarge (k : Kernel) : Bool := decide (31 < k.coreGroups) || decide (240 < k.units)

/-- More queue storage than one core has (R149). -/
def Kernel.tooDeep (k : Kernel) : Bool := decide (96 < k.coreGroups * k.queueUnits)

/-- A header that is invalid or breaks R149. -/
def headerBad (bs : List Byte) : Bool := headerForm bs || (kernelOf bs).tooLarge || (kernelOf bs).tooDeep

/-- What a header read gives: its bytes, a failure, or a wait for a page or, with no bits, for an answer or a fill. -/
inductive HdrRead
  | ok (bs : List Byte)
  | bad
  /-- An endpoint has no page there (R19). -/
  | miss (page bits : Nat)
  | wait (ia bits : Nat)
  deriving DecidableEq, Repr

/-- A read of 64 bytes at a host or peer home, as a READ message whose answer is kept until it is taken. -/
def State.remoteRead (s : State) (slot addr : Nat) (owner : Id12) (reader : Nat) (sc : Scope) : HdrRead × State :=
  match s.reads.find? fun r => r.slot == slot && r.ia == addr && r.owner == owner && r.reader == reader with
  | none =>
    let tag := s.nextSeq slot
    let s := s.send slot 1 false 0x01 tag (BitVec.ofNat 64 addr) (leBytes 2 64 ++ [BitVec.ofNat 8 (scopeNum sc), 0])
    (.wait addr 0, { s with reads := s.reads ++ [{ slot := slot, tag := tag, ia := addr, owner := owner, reader := reader, got := none }] })
  | some r =>
    match r.got with
    | none => (.wait addr 0, s)
    | some (st, bs) =>
      let s := { s with reads := s.reads.erase r }
      if st = 0 then (.ok bs, s) else if st = 2 then (.wait addr 0, s)
      else if 4 ≤ st then (.miss (addr / 2 ^ reportedBits st * 2 ^ reportedBits st) (reportedBits st), s) else (.bad, s)

/-- A read of code or of a header. -/
def State.remoteCode (s : State) (slot addr : Nat) (owner : Id12) : HdrRead × State := s.remoteRead slot addr owner 0 .dev

/-- The dispatcher's read of the header below an entry, through the windows of a context. In an EMPTY block it starts a fill as a requester of
depth 0 with the launch's level, for a prompter's header too (R117; DESIGN CHOICE, log 142). -/
def State.readHeader (s : State) (ctx level : Nat) (entry : W64) : HdrRead × State :=
  let c := s.ctx ctx
  if entry.toNat % 192 ≠ 0 ∨ entry.toNat < 64 then (.bad, s) else
  let va := entry.toNat - 64
  match c.fetchWindow va with
  | .error _ => (.bad, s)
  | .ok w =>
    let ia := w.iaOf va
    let r : Req := { core := 0, ctx := ctx, owner := c.owner, prot := c.prot, wprot := w.prot, pwin := some w.p, write := false,
                     exempt := false, level := level, team := none }
    let missed := fun (page b : Nat) (s : State) =>
      if !s.queueOk ctx then (HdrRead.bad, s) else
      let (tag, s) := s.fresh
      let h : FaultHead := { path := 7, write := false, slice := 0, core := 0xFF, gslot := 0x1F, ctx := ctx, itag := tag }
      (.wait page b, s.faultBatch ctx (headKey ctx page) [faultRecord h va ia b 0 0 true false 0])
    match s.gate r ia with
    | (.go key _ _, s) =>
      let (bs, s) := s.homeRead ia key 64
      if (anyPoison bs).isSome then (.bad, s) else (.ok (values bs), s)
    | (.miss page b, s) => missed page b s
    | (.filling _ _ _, s) => (.wait ia 0, s)
    | (.full, s) => (.wait ia 0, s)
    | (.held, s) => (.wait ia 0, s)
    | (.remote slot addr _ _, s) =>
      match s.remoteCode slot addr c.owner with
      | (.miss page b, s) => missed page b s
      | x => x
    | (_, s) => (.bad, s)

/-! ## Launch packets (R175, R176, R186) -/

/-- IA of packet k of a context's launch ring. -/
def Ctx.packetAt (c : Ctx) (k : Nat) : Nat := c.lqbase.toNat + 192 * (k % 2 ^ c.lqlog)

/-- The launch of a packet, with its kernel still unread. -/
def launchOf (lid ctx k at_ : Nat) (now : W64) (bs : List Byte) : Launch :=
  let w := fieldAt bs 12 4
  let d := fieldAt bs 140 4
  { lid := lid, ctx := ctx, pkt := BitVec.ofNat 32 k, at_ := BitVec.ofNat 52 at_, entry := BitVec.ofNat 64 (fieldAt bs 0 8),
    teams := fieldAt bs 8 4 + 1, level := bits w 24 5, raised := 0, dl := bitN w 23, ltag := BitVec.ofNat 16 (bits w 0 16),
    wait0 := BitVec.ofNat 64 (fieldAt bs 16 8), wval0 := BitVec.ofNat 64 (fieldAt bs 24 8), wait1 := BitVec.ofNat 64 (fieldAt bs 32 8),
    wval1 := BitVec.ofNat 64 (fieldAt bs 40 8), signal := BitVec.ofNat 64 (fieldAt bs 48 8),
    cgid := BitVec.ofNat 16 (fieldAt bs 60 2), param := (List.range 16).map fun i => BitVec.ofNat 32 (fieldAt bs (64 + 4 * i) 4),
    dltime := BitVec.ofNat 64 (fieldAt bs 128 8), overran := false, wrun := fieldAt bs 136 4, dlpl := bits d 24 4, npair := bits d 16 8,
    fpair := bits d 0 8, tlead := 0, kern := kernelOf (List.replicate 64 0), kind := .compute, next := 0, retired := 0,
    ready := false, takenAt := now, since := now, waits := now, checked := false, header := none, holding := false, fatal := false, abort := none, abortAt := 0,
    steps := [], minStep := none, resv := none }

/-- SHAPE as far as the packet goes. -/
def packetBad (bs : List Byte) : Bool :=
  let w := fieldAt bs 12 4
  let d := fieldAt bs 140 4
  bits w 29 3 != 0 || bits w 16 7 != 0 || bits (fieldAt bs 56 4) 9 23 != 0 || bits (fieldAt bs 60 4) 16 16 != 0 ||
    bits d 28 4 != 0 || bits d 8 8 != 0 || (bs.drop 148).any (· != 0) ||
    (if bitN w 23 then bits d 16 8 == 0 || decide (80 < bits d 0 8 + bits d 16 8) else ((bs.drop 128).take 16).any (· != 0))

/-- T_lead in ns: T_preempt,max, 2 µs and WRUN (R186). -/
def State.leadTime (s : State) (l : Launch) : Nat :=
  let cls := ((List.range l.npair).map fun i => (l.fpair + i) / 2).eraseDups
  let budget := (cls.map fun c => s.reg 0 (0x30000 + 4 * c) 4).foldl max 0
  let f := levelMhz s.floorLevel
  1500 + 39520 + (budget * 1000 + f - 1) / f + 2000 + l.wrun * 1000

/-- T_start of a deadline launch. -/
def Launch.start (l : Launch) : Int := (l.dltime.toNat : Int) - l.tlead

/-- An admitted deadline launch shares a pair and a part of its window with this one. -/
def State.overcommits (s : State) (l : Launch) : Bool :=
  s.launches.any fun m => m.dl && m.checked && m.lid != l.lid &&
    decide (m.fpair < l.fpair + l.npair) && decide (l.fpair < m.fpair + m.npair) &&
    decide (m.start ≤ l.dltime.toNat) && decide (l.start ≤ m.dltime.toNat)

/-- The status of a refused packet with its header, the first in the order SHAPE, LEVEL, LATE, OVERCOMMIT. -/
def State.refusal (s : State) (l : Launch) (pkt hdr : List Byte) : Option Nat :=
  let c := s.ctx l.ctx
  if packetBad pkt || headerBad hdr || (kernelOf hdr).gen then some 2
  else if c.maxlvl < l.level ∨ (l.dl ∧ (l.level ≠ 23 ∨ c.owner ≠ 0)) ∨ (!l.dl ∧ l.level = 23) then some 3
  else if l.dl ∧ l.start < l.takenAt.toNat then some 6
  else if l.dl ∧ s.overcommits l then some 7
  else none

/-- Reads the header of a taken launch and admits it, refuses it, or holds it for a page. -/
def State.admitLaunch (s : State) (lid : Nat) : State :=
  match s.launch? lid with
  | none => s
  | some l =>
    if l.checked then s else
    match s.readHeader l.ctx l.level l.entry with
    | (.wait ia b, s) => s.updLaunch lid fun l => { l with header := some (BitVec.ofNat 52 ia, b) }
    | (.miss _ _, s) => s
    | (.bad, s) => s.completeLaunch l 8 0
    | (.ok bs, s) =>
      let pkt := s.hwBytes l.at_.toNat 192
      let l := { l with kern := kernelOf bs, header := none, checked := true }
      match s.refusal l pkt bs with
      | some st => s.completeLaunch l st 0
      | none => s.updLaunch lid fun _ => { l with since := s.time, waits := s.time }

/-- Takes packet k: LQCONS is written, the lead time of a deadline launch fixed, its readiness tested, and the packet checked
(R177, R178, R186). -/
def State.takePacket (s : State) (ctx k : Nat) : State :=
  let a := (s.ctx ctx).packetAt k
  let (lid, s) := s.fresh
  let l := launchOf lid ctx k a s.time (s.hwBytes a 192)
  let l := s.tested { l with tlead := if l.dl then s.leadTime l else 0 }
  let k1 := (k + 1) % 2 ^ 32
  let s := (s.updCtx ctx fun c => { c with lqcons := BitVec.ofNat 32 k1 }).setDesc ctx 24 k1
  { s with launches := s.launches ++ [l] }.admitLaunch lid

/-- Packets between two counts, and whether their ring was overrun (R178). -/
def ringCount (prod cons : Nat) : Nat := (prod + 2 ^ 32 - cons) % 2 ^ 32

/-- A kick of the launch ring of a context. -/
def State.kickLaunches (s : State) (ctx : Nat) : State :=
  let c := s.ctx ctx
  if s.ctxBase = 0 ∨ !c.valid then s else
  let cons := c.lqcons.toNat
  let n := ringCount (s.descNat ctx 20) cons
  if 2 ^ c.lqlog < n then s.deviceRecord 0x18 0 c.owner ctx 0 0
  else (List.range n).foldl (fun (s : State) i => s.takePacket ctx ((cons + i) % 2 ^ 32)) s

/-! ## Prompters (R117) -/

/-- Reads the header of a prompter launch: its kernel is taken, its fill fails, or it waits for a page. A header that breaks Table 8-2
without breaking the limits of a prompter ends the fill with SUB 5 (DESIGN CHOICE, log 108). -/
def State.admitPrompter (s : State) (l : Launch) : State :=
  match l.kind with
  | .prompter die entry blk _ _ =>
    let c := s.ctx l.ctx
    if !c.valid then s.failFill die entry blk 0x16 6 0 else
    match s.readHeader l.ctx l.level l.entry with
    | (.wait ia b, s) => s.updLaunch l.lid fun l => { l with header := some (BitVec.ofNat 52 ia, b) }
    | (.miss _ _, s) => s
    | (.bad, s) => s.failFill die entry blk 0x16 6 0
    | (.ok bs, s) =>
      let k := kernelOf bs
      if headerBad bs ∨ !k.gen ∨ k.pair ∨ k.grps ≠ 1 ∨ 32 < k.cmin * quartersOf k.width ∨ 16 < k.queueUnits ∨ 16384 < k.scr then
        s.failFill die entry blk 0x16 5 0
      else s.updLaunch l.lid fun l => { l with kern := k, header := none, checked := true }
  | _ => s

/-- Reads again the headers that waited for an answer or a fill, and those of prompters not read yet. A prompter whose context has lost its
descriptor before it was placed cannot be launched. -/
def State.readHeaders (s : State) : State :=
  s.launches.foldl (fun (s : State) l =>
    match l.kind with
    | .prompter die entry blk _ _ =>
      if l.next = 0 ∧ !(s.ctx l.ctx).valid then s.failFill die entry blk 0x16 6 0
      else if !l.checked && l.header.all (fun h => h.2 == 0) then s.admitPrompter l else s
    | .compute => if l.header.any fun h => h.2 == 0 then s.admitLaunch l.lid else s
    | _ => s) s

/-- IAINV reads again the headers that wait for a page in a range (R28). -/
def State.wakeHeaders (s : State) (lo hi : Nat) : State :=
  s.launches.foldl (fun (s : State) l =>
    match l.header with
    | some (ia, b) =>
      if b ≠ 0 ∧ lo < ia.toNat + 2 ^ b ∧ ia.toNat < hi ∧ !s.batchHeld (headKey l.ctx ia.toNat) then
        match l.kind with
        | .prompter _ _ _ _ _ => s.admitPrompter l
        | .compute => s.admitLaunch l.lid
        | _ => s
      else s
    | none => s) s

end Sys2Proof.Machine
end

