-- ==== Sys2Proof/Machine/Aes.lean ====
section
/-!
DEFINITION. HMAC-SHA-256, AES-256 and its Galois counter mode, which seal the images of protected contexts (08 R196).
-/

namespace Sys2Proof.Machine

/-! ## HMAC-SHA-256 -/

/-- HMAC-SHA-256 under a key of at most 64 bytes. -/
def hmac (key msg : List Byte) : List Byte :=
  let k := key ++ List.replicate (64 - key.length) 0
  sha256 (k.map (· ^^^ 0x5C) ++ sha256 (k.map (· ^^^ 0x36) ++ msg))

/-- The low `n` bytes of a number, most significant first. -/
def bigBytes (n v : Nat) : List Byte := (leBytes n v).reverse

/-! ## AES-256 -/

/-- Multiplication by x in the field of AES. -/
def aesDouble (a : Byte) : Byte := (a <<< 1) ^^^ (if a.getLsbD 7 then 0x1B else 0)

/-- Product in the field of AES, over the bits of `b` from the highest. -/
def aesMul (a b : Byte) : Byte :=
  (List.range 8).foldl (fun (r : Byte) i => aesDouble r ^^^ (if b.getLsbD (7 - i) then a else 0)) 0

/-- Inverse in the field of AES, 0 for 0: the power 254. -/
def aesInv (a : Byte) : Byte :=
  let a2 := aesMul a a
  let a3 := aesMul a2 a
  let a6 := aesMul a3 a3
  let a12 := aesMul a6 a6
  let a15 := aesMul a12 a3
  let a30 := aesMul a15 a15
  let a60 := aesMul a30 a30
  let a120 := aesMul a60 a60
  let a126 := aesMul a120 a6
  let a127 := aesMul a126 a
  aesMul a127 a127

/-- The substitution box. -/
def aesBox (a : Byte) : Byte :=
  let b := aesInv a
  b ^^^ b.rotateLeft 1 ^^^ b.rotateLeft 2 ^^^ b.rotateLeft 3 ^^^ b.rotateLeft 4 ^^^ 0x63

def xorBytes (a b : List Byte) : List Byte := List.zipWith (· ^^^ ·) a b

/-- Extends a key schedule, a list of 4-byte words with the latest first, by `n` words; `rc` is the next round constant. -/
def aesExpand : Nat → Byte → List (List Byte) → List (List Byte)
  | 0, _, w => w
  | n + 1, rc, w =>
    let last := w.headD []
    let old := w.getD 7 []
    if w.length % 8 = 0 then
      let t := (last.drop 1 ++ last.take 1).map aesBox
      aesExpand n (aesDouble rc) (xorBytes old (xorBytes t [rc, 0, 0, 0]) :: w)
    else if w.length % 8 = 4 then aesExpand n rc (xorBytes old (last.map aesBox) :: w)
    else aesExpand n rc (xorBytes old last :: w)

/-- The 15 round keys of a 32-byte key. -/
def aesKeys (key : List Byte) : List (List Byte) :=
  let w := ((List.range 8).map fun i => (key.drop (4 * i)).take 4).reverse
  let all := (aesExpand 52 1 w).reverse.flatten
  (List.range 15).map fun i => (all.drop (16 * i)).take 16

/-- SubBytes, then ShiftRows. -/
def aesShift (s : List Byte) : List Byte :=
  let t := s.map aesBox
  (List.range 16).map fun i => t.getD ((i % 4 + 4 * (i / 4 + i % 4)) % 16) 0

/-- MixColumns. -/
def aesMix (s : List Byte) : List Byte :=
  (List.range 16).map fun i =>
    let b := fun k => s.getD (i / 4 * 4 + (i + k) % 4) 0
    aesDouble (b 0) ^^^ aesDouble (b 1) ^^^ b 1 ^^^ b 2 ^^^ b 3

/-- AES-256 of a block of 16 bytes under some round keys. -/
def aesBlock (keys : List (List Byte)) (b : List Byte) : List Byte :=
  let s := xorBytes b (keys.getD 0 [])
  let s := ((keys.drop 1).take 13).foldl (fun s k => xorBytes (aesMix (aesShift s)) k) s
  xorBytes (aesShift s) (keys.getD 14 [])

/-! ## Galois counter mode -/

/-- Product in the field of GHASH, whose bit 0 is the most significant. -/
def ghashMul (x y : BitVec 128) : BitVec 128 :=
  ((List.range 128).foldl (fun (a : BitVec 128 × BitVec 128) i =>
    (if x.getLsbD (127 - i) then a.1 ^^^ a.2 else a.1,
     if a.2.getLsbD 0 then (a.2 >>> 1) ^^^ 0xE1000000000000000000000000000000 else a.2 >>> 1)) (0, y)).1

/-- Bytes filled up with zeros to whole blocks. -/
def padBlocks (bs : List Byte) : List Byte := bs ++ List.replicate ((16 - bs.length % 16) % 16) 0

/-- GHASH of whole blocks. -/
def ghash (h : BitVec 128) (bs : List Byte) : BitVec 128 :=
  (List.range (bs.length / 16)).foldl (fun y i => ghashMul (y ^^^ BitVec.ofNat 128 (bigNat ((bs.drop (16 * i)).take 16) 0)) h) 0

/-- Bytes combined with the key stream of a 12-byte initialisation vector, whose counter starts at 2. -/
def gcmStream (keys : List (List Byte)) (iv bs : List Byte) : List Byte :=
  (List.range ((bs.length + 15) / 16)).flatMap fun i =>
    xorBytes ((bs.drop (16 * i)).take 16) (aesBlock keys (iv ++ bigBytes 4 (i + 2)))

/-- The tag of additional data and a ciphertext. -/
def gcmTag (keys : List (List Byte)) (iv aad ct : List Byte) : List Byte :=
  let h := BitVec.ofNat 128 (bigNat (aesBlock keys (List.replicate 16 0)) 0)
  let g := ghash h (padBlocks aad ++ padBlocks ct ++ bigBytes 8 (8 * aad.length) ++ bigBytes 8 (8 * ct.length))
  xorBytes (bigBytes 16 g.toNat) (aesBlock keys (iv ++ bigBytes 4 1))

end Sys2Proof.Machine
end

