-- ==== Sys2Proof/Machine/Consent.lean ====
section
/-!
DEFINITION. The pass table, ownership questions and the present queues (06 R136 to R143, 13 R311 to R313, R326, 15 R353).
-/

namespace Sys2Proof.Machine

/-! ## GRANT, REVOKE and PASSQ (R139, R143, R311, R312) -/

/-- The `n` scalar registers of a block, lowest lane. -/
def State.blockVals (s : State) (e : Env) (a : Opnd) (n : Nat) : Chk (List Nat) := do
  let vs ← s.peek e ((List.range n).map fun i => ({ code := 1, o := shiftOpnd a i } : SrcOp)) (.vec 0) 0
  poisonCheck e.exec vs
  pure (uniformVals e vs)

/-- The issuing owner owns the named surface, or is the house for a screen view. -/
def Named.grantable (n : Named) (o : Id12) : Bool :=
  match n with
  | .surface f => f.owner == o
  | .view _ => o == 0

def Named.isProt : Named → Bool
  | .surface f => f.prot
  | .view _ => false

/-- The reason for which a GRANT is refused, the first of 5, 4, 2, 3, 1. -/
def State.grantRefusal (s : State) (o : Id12) (h w1 w2 w3 : Nat) : Option Nat :=
  if bits w1 12 2 = 0 ∨ bits w3 0 16 ≤ bits w2 0 16 ∨ bits w3 16 16 ≤ bits w2 16 16 ∨ bits w1 14 18 ≠ 0 then some 5 else
  match s.named (BitVec.ofNat 32 h) with
  | none => some 4
  | some n =>
    if !n.grantable o then some 2
    else if n.isProt then some 3
    else if 1024 ≤ s.passes.length then some 1
    else none

/-- The entries of the pass table that are not valid. -/
def State.freePasses (s : State) : List Nat := (List.range 1024).filter fun i => !s.passes.any fun p => p.idx == i

/-- GRANT at the pass table: the result and the state after it. Which free entry is taken is a free choice. -/
def State.grant (s : State) (o : Id12) (h w1 w2 w3 start : Nat) : Nat × State :=
  match s.grantRefusal o h w1 w2 w3 with
  | some r => (2 ^ 31 + r * 2 ^ 28, s)
  | none =>
    let grantee := BitVec.ofNat 12 w1
    let (w, s) := s.freeW
    let free := s.freePasses
    let i := free.getD (w.toNat % free.length) 0
    let p : Pass :=
      { idx := i, sample := bitN w1 12, capture := bitN w1 13, grantee := grantee, grantor := o, handle := BitVec.ofNat 32 h,
        x0 := bits w2 0 16, y0 := bits w2 16 16, x1 := bits w3 0 16, y1 := bits w3 16 16,
        startf := BitVec.ofNat 32 (max start ((s.owner grantee).frameno.toNat + 1)), endf := 0xFFFFFFFF }
    (i, { s with passes := p :: s.passes })

def grantEff (d a : Opnd) (e : Env) (s : State) : Chk Eff := do
  let v ← s.blockVals e a 5
  let (r, s) := s.grant e.c.owner (v.getD 0 0) (v.getD 1 0) (v.getD 2 0) (v.getD 3 0) (v.getD 4 0)
  pure (Eff.on (s.status e d r))

def execGrant (h : Hdr) (d a : Opnd) (s : State) : Host.Outcome State Fault Refusal := runInstr (.grant h d a) h (grantEff d a) s

def State.pass? (s : State) (i : Nat) : Option Pass := s.passes.find? fun p => p.idx == i

/-- REVOKE at the pass table: ENDF falls to the grantee's next frame, and an entry that was never in force is freed. -/
def State.revoke (s : State) (o : Id12) (i : Nat) : Nat × State :=
  match s.pass? i with
  | none => (1, s)
  | some p =>
    if p.grantor ≠ o then (2, s) else
    let e := min p.endf.toNat ((s.owner p.grantee).frameno.toNat + 1)
    if e ≤ p.startf.toNat then (0, { s with passes := s.passes.filter fun x => x.idx != i })
    else (0, { s with passes := updWhere s.passes (fun x => x.idx == i) fun (x : Pass) => { x with endf := BitVec.ofNat 32 e } })

def revokeEff (d a : Opnd) (e : Env) (s : State) : Chk Eff := do
  let i ← s.countVal e a anyCount
  let (r, s) := s.revoke e.c.owner i
  pure (Eff.on (s.status e d r))

def execRevoke (h : Hdr) (d a : Opnd) (s : State) : Host.Outcome State Fault Refusal := runInstr (.revoke h d a) h (revokeEff d a) s

/-- The eight words of an entry (Table 6-6). -/
def Pass.words (p : Pass) : List Nat :=
  [2 ^ 31 + boolNat p.sample * 2 ^ 30 + boolNat p.capture * 2 ^ 29 + p.grantee.toNat * 2 ^ 12 + p.grantor.toNat, p.handle.toNat,
   p.x0 + p.y0 * 2 ^ 16, p.x1 + p.y1 * 2 ^ 16, p.startf.toNat, p.endf.toNat, 0, 0]

def passqEff (d a : Opnd) (e : Env) (s : State) : Chk Eff := do
  let i ← s.countVal e a anyCount
  let ws := match s.pass? i with
    | some p => if p.grantor = e.c.owner ∨ p.grantee = e.c.owner ∨ e.c.owner = 0 then p.words else List.replicate 8 0
    | none => List.replicate 8 0
  pure (Eff.on (s.updSlice e.gid e.sl fun x => x.writeRegs e d (ws.map fun w => fun _ => Val.of (BitVec.ofNat 32 w))))

def execPassq (h : Hdr) (d a : Opnd) (s : State) : Host.Outcome State Fault Refusal := runInstr (.passq h d a) h (passqEff d a) s

/-! ## OWNQ (R313) -/

/-- The surface of the frame that view `v` has latched for an owner. -/
def State.latchedSurf (s : State) (v : Nat) (o : Id12) : Option Surf :=
  ((s.view v).latched.find? fun x => x.owner == o).bind fun x =>
    match s.named x.handle with
    | some (.surface f) => some f
    | _ => none

/-- Owner `o` may capture pixel (x, y) of view `v` under its frame: every owner it depends on permits it, and no protected
surface contributes (R140, R142). -/
def State.mayCapture (s : State) (o : Id12) (v : Nat) (handle : W32) (x y : Nat) (frame : W32) : Bool :=
  (viewOwners (s.mapEntry v x y)).all fun q =>
    s.permits q o handle none true x y frame && !(s.latchedSurf v q).any fun f => f.prot

/-- What owner `o` may do to a pixel: bit 1 is the permission of R140 alone. -/
def State.ownBits (s : State) (o : Id12) (h : W32) (x y : Nat) : Nat :=
  match s.named h with
  | none => 0
  | some n =>
    let fr := (s.owner o).frameno
    let size := s.shape n
    if size.1 ≤ x ∨ size.2.1 ≤ y then 0 else
    let own := match n with
      | .surface f => f.owner == o
      | .view v => mapTop (s.mapEntry v x y) == o
    let cap := match n with
      | .surface f => !f.prot && (f.owner == o || s.passes.any fun p => p.allows f.owner o h true x y fr)
      | .view v => s.mayCapture o v h x y fr
    boolNat own + 2 * boolNat (s.sampleOk o n h x y (s.owner o).frameno) + 4 * boolNat cap

def ownqEff (d a b : Opnd) (e : Env) (s : State) : Chk Eff := do
  let srcs : List SrcOp := [{ code := 1, o := a, ty := .b64, pair := true }, { code := 2, o := b }]
  e.bounds (dstUse d false :: srcs.map SrcOp.use)
  let vs ← s.gather e srcs (.vec 0) 0
  pure (Eff.on (s.writeDst e d false fun l =>
    let xy := valAt vs 0 l
    s.ownBits e.c.owner (BitVec.ofNat 32 (valAt vs 1 l)) (bits xy 0 32) (bits xy 32 32)))

def execOwnq (h : Hdr) (d a b : Opnd) (s : State) : Host.Outcome State Fault Refusal := runInstr (.ownq h d a b) h (ownqEff d a b) s

/-! ## Present queues (R326, R353) -/

/-- A register of an owner block (Table 15-8). -/
def State.ownerReg (s : State) (o : Id12) (off size : Nat) : Nat := s.reg 0 (0x110000 + 16 * o.toNat + off) size

def State.curtain (s : State) (o : Id12) : W32 := BitVec.ofNat 32 (s.ownerReg o 0 4)
def State.presentMode (s : State) (o : Id12) : Nat := bits (s.ownerReg o 4 4) 2 2
def State.presentDepth (s : State) (o : Id12) : Nat := max 1 (bits (s.ownerReg o 4 4) 0 2)

/-- A frame leaves its queue: its number is written to RELEV. -/
def State.depart (s : State) (o : Id12) (f : QFrame) : State :=
  let r := s.ownerReg o 8 8
  if r = 0 then s else s.hwWrite r (leBytes 8 f.frameno.toNat)

def State.viewEn (s : State) (v : Nat) : Bool := bitN (s.viewReg v 0x1C 4) 31

/-- The next field of a view, once its time has come: its number k and t_f = EPOCH + k × PERIOD, PERIOD in units of 2^−16 ns (R351). -/
def State.fieldNow (s : State) (v : Nat) : Option (Int × Nat) :=
  let per : Int := s.viewReg v 0x20 8
  let ep : Int := s.viewReg v 0x28 8
  let k := -((ep - (s.view v).nextField.toNat) * 65536 / per)
  let tf := ep + k * per / 65536
  if per ≠ 0 ∧ tf ≤ (s.time.toNat : Int) then some (k, tf.toNat) else none

/-- The enabled outputs whose next field has come. -/
def State.fieldsDue (s : State) : List Instr :=
  ((List.range 8).filter fun v => s.viewEn v && (s.fieldNow v).isSome).map fun v => .fieldStart v

/-- Frames leave a queue when every enabled output has latched a newer frame of their owner; with no output enabled that holds
of each (R353, DEDUCED, log 37). -/
def State.departures (s : State) (o : OwnerSt) : State :=
  let outs := (List.range 8).filter s.viewEn
  let newer := fun (f : QFrame) => outs.all fun v => (s.view v).latched.any fun x =>
    x.owner == o.owner && decide (f.frameno.toNat < x.frameno.toNat)
  let gone := o.queue.filter newer
  let s := s.setOwner { o with queue := o.queue.filter fun f => !newer f }
  gone.foldl (fun (s : State) f => s.depart o.owner f) s

/-- Enters a frame into its owner's queue and increments FRAMENO; under LATEST it replaces the newest frame that has not
been latched. -/
def State.present (s : State) (o : Id12) (handle : W32) (target : W64) : State :=
  let x := s.owner o
  let f : QFrame := { frameno := x.frameno + 1, handle := handle, target := target, at_ := s.time, latched := false }
  let old := if s.presentMode o = 1 then (x.queue.filter fun q => !q.latched).getLast? else none
  let keep := x.queue.filter fun q => some q != old
  let s := s.setOwner { x with frameno := x.frameno + 1, queue := keep ++ [f] }
  let s := match old with
    | some q => s.depart o q
    | none => s
  s.departures (s.owner o)

def presentEff (d a b : Opnd) (e : Env) (s : State) : Chk Eff := do
  let vs ← s.peek e [{ code := 1, o := a }, { code := 2, o := b, ty := .b64, pair := true }] (.vec 0) 0
  poisonCheck e.exec vs
  let h := BitVec.ofNat 32 ((uniformVals e vs).getD 0 0)
  let t := BitVec.ofNat 64 ((uniformVals e vs).getD 1 0)
  s.afterAcquires e
  s.afterLogged e
  s.afterWrites e
  s.withRelease e .dev fun s =>
    match s.ownSurface e h with
    | none => pure (Eff.on (s.status e d 2))
    | some _ =>
      let o := e.c.owner
      if s.presentMode o ≠ 1 ∧ s.presentDepth o ≤ (s.owner o).queue.length then s.parkAt e .present
      else pure (Eff.on ((s.present o h t).status e d 0))

def execPresent (h : Hdr) (d a b : Opnd) (s : State) : Host.Outcome State Fault Refusal :=
  runInstr (.present h d a b) h (presentEff d a b) s

end Sys2Proof.Machine
end

