-- ==== Sys2Proof/Machine/Placement.lean ====
section
/-!
DEFINITION. Placing teams: the resources of a core, the place of a team, and the creation of its groups (02 R46, R52, R53, 05 R125, 07
R147 to R153, R164, R166, 08 R180).
-/

namespace Sys2Proof.Machine

/-! ## Free resources of a core (Table 7-1) -/

/-- Puts an element into a list ascending by a key. -/
def insertBy {α : Type} (key : α → Nat) (a : α) : List α → List α
  | [] => [a]
  | x :: xs => if key a ≤ key x then a :: x :: xs else x :: insertBy key a xs

/-- Numbers below `hi`, at or above `lo`, that are not used. -/
def freeNums (lo hi : Nat) (used : List Nat) : List Nat := ((List.range (hi - lo)).map (· + lo)).filter fun i => !used.contains i

/-- Scratchpad spans in use on a core: allocations of teams and tile memories (R52, R342). -/
def State.scratchUsed (s : State) (c : Nat) : List (Nat × Nat) :=
  ((s.teams.filter fun t => t.life.holds).flatMap fun t => (t.scrBase.filter fun x => x.1 == c).map fun x => (x.2, x.2 + t.scrBytes)) ++
    s.draws.flatMap fun d => (d.passes.filter fun p => p.core == c).map fun p => (p.base, p.base + 2 ^ (bits (fieldAt d.bytes 28 4) 4 4 + 2) * 1024)

/-- A free span of `n` bytes, a power of two, aligned to its size; the top 16 KiB are held for prompters where the core
holds their slot. -/
def State.scratchFor (s : State) (c n : Nat) (own : Bool) : Option Nat :=
  if n = 0 then some 0 else
  let used := s.scratchUsed c
  let top := if holdsPrompters c && !own then 0x3C000 else 0x40000
  let lo := if own then 0x3C000 else 0
  ((List.range (0x40000 / n)).map (· * n)).find? fun b =>
    decide (lo ≤ b) && decide (b + n ≤ top) && used.all fun u => decide (b + n ≤ u.1) || decide (u.2 ≤ b)

/-- Queue units in use on a core. -/
def State.queueUsed (s : State) (c : Nat) : List Nat := (s.coreGroups c).flatMap (·.qunits)

/-- Queue units that ordinary groups leave free for prompters: 16 KiB (R125). -/
def State.queueKept (s : State) (c : Nat) (own : Bool) : Nat :=
  if holdsPrompters c && !own then
    16 - (((s.coreGroups c).filter fun g => g.slot == 31).map fun g => g.qunits.length).sum
  else 0

/-- The free queue units of 1 KiB for one group. The queues of an invocation of 16 groups of width 64 never fit one core
(R149, R339): such a group takes the units that are free, if any (DESIGN CHOICE, log 41). -/
def State.queueFor (s : State) (c : Nat) (k : Kernel) (own : Bool) (taken : List Nat) : Option (List Nat) :=
  let free := freeNums 0 96 (s.queueUsed c ++ taken)
  let kept := s.queueKept c own
  if k.tooDeep then some (free.take (min k.queueUnits (free.length - kept)))
  else if k.queueUnits + kept ≤ free.length then some (free.take k.queueUnits) else none

/-- The resources of one group: its slot, register quarters and queue units. -/
structure GroupFit where
  slot     : Nat
  quarters : List Nat
  qunits   : List Nat
  deriving DecidableEq, Repr

/-- Resources for groups of some numbers of blocks on a core, none taken twice. -/
def State.groupFits (s : State) (c : Nat) (k : Kernel) (own : Bool) : List Nat → List GroupFit → Option (List GroupFit)
  | [], acc => some acc
  | b :: bs, acc =>
    let slots := (s.coreGroups c).map (·.slot) ++ acc.map (·.slot)
    let slot := if own then (freeNums 31 32 slots).head? else (freeNums 0 (if holdsPrompters c then 31 else 32) slots).head?
    let used := s.usedQuarters c ++ acc.flatMap (·.quarters)
    match slot, takeQuarters (quartersOf k.width) b used, s.queueFor c k own (acc.flatMap (·.qunits)) with
    | some sl, some qs, some us => s.groupFits c k own bs (acc ++ [{ slot := sl, quarters := qs, qunits := us }])
    | _, _, _ => none

/-- What groups of some numbers of blocks would take on a core: their resources and the scratchpad base. -/
def State.coreFit (s : State) (c : Nat) (k : Kernel) (blocks : List Nat) (own : Bool) : Option (List GroupFit × Nat) :=
  match s.groupFits c k own blocks [], s.scratchFor c k.scr own with
  | some gs, some b =>
    let used := s.usedQuarters c ++ gs.flatMap (·.quarters)
    let keep := (s.core c).reserveUnits + (if own then 0 else s.prompterUnits c)
    if keep ≤ wholeFree used then some (gs, b) else none
  | _, _ => none

/-! ## Which cores may take a team (R125, R180, R181, R379) -/

/-- Core `c` may take a team of a launch of level `lv`. -/
def State.coreOpen (s : State) (l : Launch) (lv c : Nat) : Bool :=
  let k := s.core c
  !(s.cluster (cluOf c)).disabled &&
    (if l.dl then k.dlHeld.contains l.lid else k.dlHeld.isEmpty && k.held.all fun h => h.1 == l.ctx) &&
    (match k.kept.bind s.launch? with
     | some m => decide (m.raised + m.level ≤ lv) || m.lid == l.lid
     | none => true)

/-- Effective level of a launch. -/
def Launch.lv (l : Launch) : Nat := l.level + l.raised

/-- The prompter slot of core `c` serves a fill of depth `d`: no waiting fill that it serves stands before it, by depth where the slot
serves every depth, by level, and by launch time (R125). -/
def State.slotServes (s : State) (l : Launch) (c d : Nat) : Bool :=
  let pos := cluOf c % 10
  let any := decide (6 < pos)
  let before := fun (m : Launch) (e : Nat) =>
    if e = d then decide (l.lv < m.lv) || (m.lv == l.lv && decide (m.lid < l.lid)) else any && decide (d < e)
  holdsPrompters c && (any || d == pos + 1) &&
    !s.launches.any fun m =>
      match m.kind with
      | .prompter _ _ _ e _ => m.checked && m.header.isNone && m.next == 0 && before m e
      | _ => false

/-- Resident groups of a core. -/
def State.load (s : State) (c : Nat) : Nat := (s.coreGroups c).length

/-- Where a team goes: its core, or the even one of its pair, whether in the prompter slot, and what it takes on each core. -/
structure Spot where
  core : Nat
  own  : Bool
  fits : List (Nat × List GroupFit × Nat)
  deriving DecidableEq, Repr

/-- What a team asks of the cores from `c` on: for each, the blocks of its groups. -/
def Kernel.shares (k : Kernel) (blocks : List (Nat × Nat)) (c : Nat) : List (Nat × List Nat) :=
  if k.pair then
    [(c, (blocks.filter fun b => b.1 % 2 == 0).map (·.2)), (c + 1, (blocks.filter fun b => b.1 % 2 == 1).map (·.2))]
  else [(c, blocks.map (·.2))]

/-- The blocks of each group of a new team: its A allotment and its C minimum. -/
def Kernel.newBlocks (k : Kernel) : List (Nat × Nat) := (List.range k.grps).map fun i => (i, k.ablk + k.cmin)

/-- A team's place at core `c`, when it fits there. -/
def State.spotAt (s : State) (k : Kernel) (blocks : List (Nat × Nat)) (own : Bool) (c : Nat) : Option Spot :=
  let fits := (k.shares blocks c).map fun x => (s.coreFit x.1 k x.2 own).map fun f => (x.1, f.1, f.2)
  if fits.all Option.isSome then some { core := c, own := own, fits := fits.filterMap id } else none

/-- The place of a team: the core, or pair, that can hold it and has the fewest resident groups; ties go to the lowest. -/
def State.spotFor (s : State) (l : Launch) (k : Kernel) (blocks : List (Nat × Nat)) : Option Spot :=
  let depth := match l.kind with
    | .prompter _ _ _ d _ => some d
    | _ => none
  let cands := (List.range 160).filterMap fun c =>
    if k.pair ∧ c % 2 = 1 then none
    else if !(k.shares blocks c).all fun x => s.coreOpen l l.lv x.1 then none
    else
      match s.spotAt k blocks false c with
      | some p => some p
      | none => if depth.any (s.slotServes l c) then s.spotAt k blocks true c else none
  let cost := fun (p : Spot) => ((k.shares blocks p.core).map fun x => s.load x.1).sum
  cands.foldl (fun (b : Option Spot) p =>
    match b with
    | none => some p
    | some q => if cost p < cost q then some p else b) none

/-! ## Creating a team (R148 to R153, R164, R46, R53) -/

def TrapRegs.zero : TrapRegs := { cause := 0, pc := 0, resume := 0, info := 0, skid := 0 }

/-- A slice at the creation of its group (Table 7-2). -/
def freshSlice (entry : W64) (lanes : Lanes) (width : Nat) (param : List W32) (vregs : List (List Val)) : SliceSt :=
  { scal := (List.range 64).map fun i => Val.of (param.getD i 0), preds := List.replicate 8 0, ixs := List.replicate 4 0,
    vregs := vregs,
    frags := if lanes = 0 then [] else [{ slot := 0, pc := entry, mask := lanes, join := none, wait := .none, handler := false, run := 0 }],
    stack := [], joins := [], served := 0, counts := [], outs := [], trap := TrapRegs.zero, timeh := 0,
    exited := allLanes width &&& ~~~lanes, halt := .running, issued := 0 }

/-- The queues of a group at creation. -/
def freshQueues (k : Kernel) : List Queue :=
  (List.range 8).map fun q => { depth := if q < 4 then k.qd.getD q 8 else fixedDepth q, entries := [] }

/-- Zeroes the granules of a scratchpad span whose stamp differs, and stamps them (R53). -/
def State.claimScratch (s : State) (c base n : Nat) (owner : Id12) : State :=
  s.updCore c fun k => (List.range (n / 1024)).foldl (fun (k : Core) i =>
    let g := base / 1024 + i
    if ((k.spadOwner.find? fun x => x.1 == g).map (·.2)).getD 0xFFF = owner then k else
    { k with spad := cellClear k.spad (g * 1024) (g * 1024 + 1024),
             spadPoison := k.spadPoison.filter fun p => !(decide (g * 256 ≤ p.idx) && decide (p.idx < g * 256 + 256)),
             spadOwner := assocSet k.spadOwner g owner }) k

/-- Stamps queue units (R153). -/
def State.claimQueues (s : State) (c : Nat) (owner : Id12) (us : List Nat) : State :=
  s.updCore c fun k => { k with qOwner := us.foldl (fun l u => assocSet l u owner) k.qOwner }

/-- The caches that the start of a launch on a core invalidates (R46, R164). -/
def State.startCaches (s : State) (c : Nat) : State := s.updCore c fun k => { k with kcache := [], scache := [], icache := [] }

/-- `n` free 32-bit values. -/
def State.freeWords (s : State) (n : Nat) : List W32 × State :=
  ((List.range n).map fun i => Config.freeWord (s.free + i), { s with free := s.free + n })

/-- Creates a group on a core with its registers cleared as their stamps say; its A-slice starts at ENTRY and its C-slice at
ENTRY + 12 (R158, R331). It is resident once GROUP_CLEARED has come. -/
def State.newGroup (s : State) (team core grp : Nat) (k : Kernel) (owner : Id12) (entry : W64) (param : List W32) (lanes : Lanes)
    (f : GroupFit) : Group × State :=
  let (gid, s) := s.fresh
  let nq := quartersOf k.width
  let aq := f.quarters.take (k.ablk * nq)
  let cq := f.quarters.drop (k.ablk * nq)
  let av := s.blockRegs core k.width owner aq
  let s := s.stampQuarters core owner aq
  let cv := s.blockRegs core k.width owner cq
  let s := s.stampQuarters core owner cq
  let s := s.claimQueues core owner f.qunits
  let (ms, s) := s.freeWords (k.mvert * 16 + k.mprim)
  let mesh : MeshOut :=
    { verts := (List.range k.mvert).map fun i => (ms.drop (16 * i)).take 16, prims := ms.drop (16 * k.mvert), ended := false, nvert := 0, nprim := 0 }
  ({ gid := gid, team := team, core := core, grp := grp, slot := f.slot, width := k.width, life := .created,
     a := freshSlice entry lanes k.width param av, c := freshSlice (entry + 12) lanes k.width param cv, queues := freshQueues k,
     ablk := k.ablk, held := cq.length / nq, reserve := 0, quarters := f.quarters, qunits := f.qunits, slipl := 0, lodcnt := 0,
     qmaskf := 0, meshdrop := 0, codebook := List.replicate 16 0, mesh := mesh, step := 0, discarded := 0,
     pixels := lanes }, s)

/-- Creates the groups of a team in ascending %grp; `lanes` gives the lanes that each starts with, none for a group that is
not created. -/
def State.newGroups (s : State) (team : Nat) (p : Spot) (k : Kernel) (owner : Id12) (entry : W64) (param : List W32)
    (lanes : Nat → Option Lanes) : List Group × State :=
  (List.range k.grps).foldl (fun (acc : List Group × State) i =>
    let second := k.pair && i % 2 == 1
    let core := p.core + boolNat second
    let f := (p.fits.find? fun x => x.1 == core).bind fun x => x.2.1[if k.pair then i / 2 else i]?
    match f, lanes i with
    | some f, some m =>
      let (g, s) := acc.2.newGroup team core i k owner entry param m f
      (acc.1 ++ [g], s)
    | _, _ => acc) ([], s)

/-- A team as it is created. -/
def newTeam (id : Nat) (kind : TeamKind) (launch ctx : Nat) (pkt : W32) (ltag : BitVec 16) (num count level : Nat)
    (entry : W64) (k : Kernel) (p : Spot) (groups : List Group) : Team :=
  { id := id, kind := kind, launch := launch, ctx := ctx, pkt := pkt, ltag := ltag, num := num, count := count, level := level, entry := entry, kern := k,
    core := p.core, scrBytes := k.scr, scrBase := p.fits.map fun x => (x.1, x.2.2), scratch := [], barA := [], barC := [], life := .running,
    traps := [], recorded := false, minStep := 2 ^ 32 - 1, pushes := [], groups := groups }

/-- A team of a launch has been placed: no core is kept for it any more, and its intervals begin again (R179, R181). -/
def State.placed (s : State) (lid : Nat) : State :=
  { s with cores := s.cores.map fun (k : Core) => if k.kept = some lid then { k with kept := none } else k }.updLaunch lid fun l =>
    { l with resv := none, since := s.time, waits := s.time }

/-- Places the next team of a launch at a spot. -/
def State.placeTeam (s : State) (l : Launch) (p : Spot) : State :=
  let owner := (s.ctx l.ctx).owner
  let (id, s) := s.fresh
  let s := p.fits.foldl (fun (s : State) x => (s.startCaches x.1).claimScratch x.1 x.2.2 l.kern.scr owner) s
  let (gs, s) := s.newGroups id p l.kern owner l.entry l.param fun _ => some (allLanes l.kern.width)
  let t := newTeam id l.kind l.lid l.ctx l.pkt l.ltag l.next l.teams l.lv l.entry l.kern p gs
  (({ s with teams := s.teams ++ [t] }.updLaunch l.lid fun l => { l with next := l.next + 1 }).placed l.lid).govern

/-- A launch that has a team to place. -/
def Launch.waiting (l : Launch) : Bool :=
  l.checked && l.header.isNone && !l.fatal && l.abort.isNone && decide (l.next < l.teams) && (if l.dl then l.holding else l.ready)

/-- GROUP_CLEARED: the clearing of a created group completes, and it becomes resident (R166). -/
def State.groupCleared (s : State) (gid : Nat) : State :=
  s.updGroup gid fun g => if g.life = .created then { g with life := .resident } else g

def execGroupCleared (gid : Nat) (s : State) : Host.Outcome State Fault Refusal := .next (s.groupCleared gid)

end Sys2Proof.Machine
end

