-- ==== Sys2Proof/Machine/Preemption.lean ====
section
/-!
DEFINITION. Stopping and restoring teams, context images, PREEMPT, CSAVE and CREST (08 R184 to R187, R194 to R196, R401, 13
R321 to R325, 03 R87).
-/

namespace Sys2Proof.Machine

/-! ## Image geometry (R194, R324) -/

/-- Bytes of a block of a group. -/
def Group.blockBytes (g : Group) : Nat := 32 * g.width

/-- Bytes of a group's queue storage. -/
def Team.queueBytes (t : Team) : Nat := t.kern.queueUnits * 1024

/-- Cores of a team. -/
def Team.spans (t : Team) : Nat := if t.kern.pair then 2 else 1

def Team.bodyLen (t : Team) : Nat :=
  256 + t.scrBytes * t.spans + (t.groups.map fun g => 4096 + g.blockBytes * (g.ablk + g.held) + t.queueBytes).sum

def Team.imageLen (t : Team) : Nat := 80 + t.bodyLen

/-- S_c of a team on one core (R185). -/
def Team.coreBytes (t : Team) (c : Nat) : Nat :=
  (if t.scrBase.any fun x => x.1 == c then t.scrBytes else 0) +
    ((t.groups.filter fun g => g.core == c).map fun g => 4096 + g.blockBytes * (g.ablk + g.held) + t.queueBytes).sum

/-! ## Images -/

/-- The contents of a team's allocations, the even core's first. -/
def State.scratchOf (s : State) (t : Team) : List (List PByte) :=
  if t.scratch.isEmpty then t.scrBase.map fun x => (s.core x.1).spadRead x.2 t.scrBytes else t.scratch

/-- Registers of a slice, register by register, lane by lane. -/
def regBytes (w : Nat) (vregs : List (List Val)) : List Byte :=
  vregs.flatMap fun r => (List.range w).flatMap fun l => leBytes 4 (r.getD l Val.zero).bits.toNat

/-- Bytes of the body whose arrangement is the device's own: `n` bytes from offset `o`. -/
def ownBytes (key o n : Nat) : List Byte := (List.range n).map fun i => Config.imageByte key (o + i)

/-- The body of an image that is not encrypted: the team section, the allocations, and for each group its section, its A and
C registers and its queue storage. -/
def plainBody (key : Nat) (t : Team) (scr : List (List Byte)) : List Byte :=
  let start := ownBytes key 0 256 ++ scr.flatten
  t.groups.foldl (fun (bs : List Byte) g =>
    let bs := bs ++ ownBytes key bs.length 4096 ++ regBytes g.width g.a.vregs ++ regBytes g.width g.c.vregs
    bs ++ ownBytes key bs.length t.queueBytes) start

/-- The number under which the bytes of an image are known. -/
def imageKey (ctx : Nat) (seq : W32) : Nat := ctx * 2 ^ 32 + seq.toNat

/-- The header of Table 13-9. -/
def imageHeader (c : Ctx) (t : Team) (seq : W32) (fatal : Bool) : List Byte :=
  leBytes 4 1 ++ leBytes 4 seq.toNat ++ leBytes 4 (c.num + c.owner.toNat * 2 ^ 12) ++ leBytes 4 (boolNat c.prot + 2 * boolNat fatal) ++
    leBytes 4 t.ltag.toNat ++ leBytes 4 t.num ++ leBytes 8 t.bodyLen ++ leBytes 8 t.entry.toNat ++ leBytes 4 t.pkt.toNat ++
    List.replicate 20 0

/-- X of R196: OWNER × 4,096 + CTX, most significant byte first. -/
def imageX (owner : Id12) (ctx : Nat) : List Byte := bigBytes 3 (owner.toNat * 4096 + ctx)

/-- The round keys of K_ctx, with the label "GWP7-CTX" (R196). -/
def imageKeys (owner : Id12) (ctx : Nat) : List (List Byte) :=
  aesKeys (hmac (bigBytes 32 Config.rootKey.toNat)
    ([0, 0, 0, 1, 0x47, 0x57, 0x50, 0x37, 0x2D, 0x43, 0x54, 0x58, 0] ++ imageX owner ctx ++ [0, 0, 1, 0]))

/-- The initialisation vector of an image (R196). -/
def imageIv (owner : Id12) (ctx : Nat) (seq : W32) : List Byte := bigBytes 4 seq.toNat ++ [0] ++ imageX owner ctx ++ [0, 0, 0, 0]

/-- The body of a protected image encrypted, or decrypted. -/
def imageStream (owner : Id12) (ctx : Nat) (seq : W32) (body : List Byte) : List Byte :=
  gcmStream (imageKeys owner ctx) (imageIv owner ctx seq) body

/-- The tag of a protected image. -/
def imageTag (owner : Id12) (ctx : Nat) (seq : W32) (h body : List Byte) : List Byte :=
  gcmTag (imageKeys owner ctx) (imageIv owner ctx seq) h body

/-- The image of a team under number `seq`. -/
def State.image (s : State) (t : Team) (seq : W32) (fatal : Bool) : List Byte :=
  let c := s.ctx t.ctx
  let h := imageHeader c t seq fatal
  let body := plainBody (imageKey t.ctx seq) t ((s.scratchOf t).map values)
  if c.prot then
    let ct := imageStream c.owner c.num seq body
    h ++ ct ++ imageTag c.owner c.num seq h ct
  else h ++ body ++ List.replicate 16 0

/-- The registers of a slice from the bytes of an image; a register whose bytes are unchanged keeps its poison. -/
def regsFrom (w : Nat) (old : List (List Val)) (bs : List Byte) : List (List Val) :=
  old.mapIdx fun r row => (List.range w).map fun l =>
    let b := BitVec.ofNat 32 (fieldAt bs (4 * (r * w + l)) 4)
    let v := row.getD l Val.zero
    if v.bits = b then v else Val.of b

/-- Bytes of an image over those saved; a byte that is unchanged keeps its poison. -/
def bytesFrom (old : List PByte) (bs : List Byte) : List PByte :=
  bs.zipIdx.map fun b => match old[b.2]? with
    | some o => if o.1 = b.1 then o else (b.1, none)
    | none => (b.1, none)

/-- A team with the allocations and registers that a plain body holds. -/
def Team.fromBody (t : Team) (body : List Byte) : Team :=
  let n := t.scrBytes
  let scr := (List.range t.spans).map fun i => bytesFrom (t.scratch.getD i []) ((body.drop (256 + n * i)).take n)
  let (gs, _) := t.groups.foldl (fun (acc : List Group × Nat) g =>
    let a := acc.2 + 4096
    let c := a + g.blockBytes * g.ablk
    let q := c + g.blockBytes * g.held
    (acc.1 ++ [{ g with a := { g.a with vregs := regsFrom g.width g.a.vregs (body.drop a) },
                        c := { g.c with vregs := regsFrom g.width g.c.vregs (body.drop c) } }], q + t.queueBytes)) ([], 256 + n * t.spans)
  { t with scratch := scr, groups := gs }

/-! ## Save counters (R195) -/

/-- The bit of a number in the mask. -/
def SaveCtr.bit (k : SaveCtr) (seq : Nat) : Bool := k.mask.getLsbD (seq % 64)

/-- Sets the bit of a number, when M still covers it (R195). -/
def SaveCtr.mark (k : SaveCtr) (seq : Nat) : SaveCtr :=
  if k.c.toNat ≤ seq + 63 ∧ seq ≤ k.c.toNat then { k with mask := k.mask ||| BitVec.ofNat 64 (2 ^ (seq % 64)) } else k

/-- Takes the next number: its bit is cleared. -/
def SaveCtr.take (k : SaveCtr) : SaveCtr :=
  { k with c := k.c + 1, mask := k.mask &&& ~~~(BitVec.ofNat 64 (2 ^ ((k.c.toNat + 1) % 64))) }

def SaveCtr.exhausted (k : SaveCtr) : Bool := k.c == 0xFFFFFFFF

/-- An image of this number is current. -/
def SaveCtr.current (k : SaveCtr) (seq : Nat) : Bool :=
  decide (1 ≤ seq) && decide (k.c.toNat ≤ seq + 63) && decide (seq ≤ k.c.toNat) && !k.bit seq

/-! ## Save areas (R401) -/

/-- Units of 64 KiB that an image takes. -/
def Team.saveUnits (t : Team) : Nat := (t.imageLen + 65535) / 65536

/-- The lowest run of `n` free units of a context's save area. -/
def Ctx.freeRun (c : Ctx) (n : Nat) : Option Nat :=
  (List.range (c.savelen + 1)).find? fun i => decide (i + n ≤ c.savelen + 1) && c.runs.all fun r => decide (i + n ≤ r.1) || decide (r.1 + r.2 ≤ i)

/-- A team can be saved now. -/
def State.canSave (s : State) (t : Team) : Bool := !(s.save t.ctx).exhausted && ((s.ctx t.ctx).freeRun t.saveUnits).isSome

/-- The number and the run that the image of a team takes. -/
def State.takeRun (s : State) (t : Team) : State :=
  ((s.setSave (s.save t.ctx).take).updCtx t.ctx fun c => { c with runs := c.runs ++ [((c.freeRun t.saveUnits).getD 0, t.saveUnits)] })

/-- Teams that can all be saved by one stop, one after the other. -/
def State.canSaveAll (s : State) : List Team → Bool
  | [] => true
  | t :: ts => s.canSave t && (s.takeRun t).canSaveAll ts

/-- Writes bytes by the device, in 64-byte pieces. -/
def State.hwPut (s : State) (ia : Nat) (bs : List Byte) : State :=
  (List.range ((bs.length + 63) / 64)).foldl (fun (s : State) i => s.hwWrite (ia + 64 * i) ((bs.drop (64 * i)).take 64)) s

/-- Reads bytes by the device; unmapped pieces read as zero. -/
def State.hwGet (s : State) (ia n : Nat) : List Byte := (s.hwBytes ia ((n + 63) / 64 * 64)).take n

/-! ## Stopping a team (R184, R87) -/

/-- A team that a stop takes: it holds cores, and neither a deadline launch nor a fatal halt nor a tile pass owns it. -/
def State.stoppable (s : State) (t : Team) : Bool :=
  t.life == .running && !((s.launch? t.launch).any fun l => l.dl) &&
    (match t.kind with
     | .tile _ => false
     | _ => true)

/-- Teams of a launch that wait for a place again: stopped with no hold, or brought back by CREST (R184, R325). -/
def State.returning (s : State) (lid : Nat) : List Team :=
  s.teams.filter fun t => t.launch == lid &&
    match t.life with
    | .placing => true
    | .stopped _ _ _ none => true
    | _ => false

/-- A launch that had nothing to place in the state `b`, and has a team that returns, starts to age and to wait (R179, R181). -/
def State.waitsAgain (s b : State) (lid : Nat) : State :=
  if (s.returning lid).isEmpty ∨ !(b.returning lid).isEmpty then s else
  s.updLaunch lid fun l => if l.waiting then l else { l with since := s.time, waits := s.time }

/-- Stores and atomics on their way are performed before the stop completes, as far as they can be. -/
def State.drainWrites (s : State) (t : Team) : State :=
  (s.accs.filter fun a => t.has a.gid && a.kind.writes).foldl (fun (s : State) a =>
    (List.range a.lanes.length).foldl (fun (s : State) i => if a.path = .t ∧ a.kind = .store then s.layoutWrite a.id i else s.homeAccess a.id i) s) s

/-- Loads on their way are abandoned and kept in the operand log for re-issue; walks end. -/
def State.abandonLoads (s : State) (t : Team) : State :=
  let back := fun (st : LaneSt) =>
    match st with
    | .walking => LaneSt.todo
    | .queued => .todo
    | .returned => .todo
    | .filling _ _ _ => .todo
    | x => x
  { s with accs := s.accs.map fun (a : Acc) => if t.has a.gid then { a with lanes := a.lanes.map fun (l : LaneAcc) => { l with st := back l.st } } else a,
           engs := s.engs.map fun (e : Eng) => if t.has e.gid then { e with parked := e.parked.map fun (u : UnitSt) => { u with st := back u.st } } else e }.freeWalks

/-- A group gives back what it holds on its core. -/
def Group.vacate (g : Group) : Group :=
  { g with slot := 32, quarters := [], qunits := [], reserve := 0, life := if g.life = .green then .green else .halted }

/-- Locks of a team's operations leave its cores. -/
def State.dropLocks (s : State) (t : Team) : State :=
  let ids := (s.engs.filter fun e => t.has e.gid).map (·.id)
  { s with cores := s.cores.map fun (k : Core) => { k with locks := k.locks.filter fun l => !ids.contains l.eng } }

/-- The fatal conditions that the writes of a team have met become deferred traps (R400). -/
def State.trapFatal (s : State) (t : Team) : State := (s.accs.filter fun a => t.has a.gid).foldl (fun (s : State) a => s.deferredTrap a.id) s

/-- Stops a team: its writes are performed, its slices halt with cause 0, its cores release their L1, and its image goes to the save area.
A fatal condition that its writes meet prevails: the team halts, and nothing is saved (R191). What the release has sent must be acknowledged
before the team runs again (R44, R87, R184). -/
def State.stopTeam (s : State) (t : Team) (hold : Option (Nat × Nat)) : State :=
  let s := (s.drainWrites t).trapFatal t
  if (s.team? t.id).any fun u => u.life != .running then s else
  let s := s.updTeam t.id fun t => { t with groups := t.groups.map fun (g : Group) => { g with a := g.a.stopSkid, c := g.c.stopSkid } }
  let s := s.abandonLoads t
  let s := ((t.groups.map (·.core)).eraseDups).foldl (fun (s : State) c => s.release c .dev) s
  match s.team? t.id with
  | none => s
  | some t =>
    let k := (s.save t.ctx).take
    let c := s.ctx t.ctx
    let run := (c.freeRun t.saveUnits).getD 0
    let s := (s.hwPut (c.savebase.toNat + run * 65536) (s.image t k.c false)).takeRun t
    let scr := s.scratchOf t
    let s := (t.groups.foldl State.freeGroup s).dropLocks t
    ((s.updTeam t.id fun t =>
      { t with life := .stopped k.c run t.saveUnits hold, scrBase := [], scratch := scr, pushes := s.unacked,
               groups := t.groups.map Group.vacate }).waitsAgain s t.launch).govern

/-- The teams that a stop of some cores takes, in the order of their images. -/
def State.teamsOn (s : State) (cores : List Nat) : List Team :=
  (s.teams.filter fun t => s.stoppable t && t.groups.any fun g => cores.contains g.core).mergeSort fun a b =>
    decide (a.pkt.toNat < b.pkt.toNat) || (a.pkt == b.pkt && decide (a.num ≤ b.num))

/-- Stops the teams on some cores; one that cannot be saved halts fatally (R184). -/
def State.stopCores (s : State) (cores : List Nat) (hold : Option (Nat × Nat)) : State :=
  (s.teamsOn cores).foldl (fun (s : State) t =>
    match s.team? t.id with
    | none => s
    | some t => if s.canSave t then s.stopTeam t hold else s.haltTeam t 0x1D 0x20000) s

/-- A tile pass runs on one of some cores. -/
def State.passesOn (s : State) (cores : List Nat) : Bool := s.draws.any fun d => d.passes.any fun p => cores.contains p.core

/-! ## Restoring a team (R184, R194, R195) -/

/-- CTX_IMAGE to the supervisor (R361). -/
def State.ctxImage (s : State) (ctx status : Nat) : State :=
  (s.deviceRecord 0x16 0 (s.ctx ctx).owner (status + ctx * 2 ^ 12) 0 0).event 4 ctx (status + 0x20 * 256)

/-- The tag of an image of a context is genuine (R196). -/
def tagGood (owner : Id12) (ctx : Nat) (h body tag : List Byte) : Bool :=
  imageTag owner ctx (BitVec.ofNat 32 (fieldAt h 4 4)) h body == tag

/-- Urxia's check of a stopped team's save-area image: its status, 0 when it is good. -/
def State.checkSaved (s : State) (t : Team) (bs : List Byte) : Nat :=
  let c := s.ctx t.ctx
  let h := bs.take 64
  if c.prot ∧ !tagGood c.owner c.num h ((bs.drop 64).take t.bodyLen) (bs.drop (64 + t.bodyLen)) then 2
  else if (s.save t.ctx).current (fieldAt h 4 4) then 0
  else 1

/-- The plain body of an image of a context. -/
def Ctx.bodyOf (c : Ctx) (h body : List Byte) : List Byte :=
  if c.prot then imageStream c.owner c.num (BitVec.ofNat 32 (fieldAt h 4 4)) body else body

/-- Rebuilds a team at a spot: its groups take their new resources, its allocations their contents, its operations their
locks; an acquire at DEV comes before any group issues. -/
def State.rebuild (s : State) (t : Team) (p : Spot) : State :=
  let owner := (s.ctx t.ctx).owner
  let pick := fun (core : Nat) (i : Nat) => ((p.fits.find? fun x => x.1 == core).bind fun x => x.2.1[i]?)
  let (gs, _) := t.groups.foldl (fun (acc : List Group × List Nat) g =>
    let core := p.core + (if t.kern.pair then g.grp % 2 else 0)
    match pick core (acc.2.count core) with
    | some f =>
      let life : Life := if g.life = .green then .green else .resident
      (acc.1 ++ [{ g with core := core, slot := f.slot, quarters := f.quarters, qunits := f.qunits, life := life,
                          a := { g.a with halt := .running }, c := { g.c with halt := .running } }], acc.2 ++ [core])
    | none => (acc.1 ++ [g], acc.2)) ([], [])
  let s := gs.foldl (fun (s : State) g => (s.stampQuarters g.core owner g.quarters).claimQueues g.core owner g.qunits) s
  let s := (p.fits.zipIdx).foldl (fun (s : State) x =>
    let s := s.claimScratch x.1.1 x.1.2.2 t.scrBytes owner
    s.updCore x.1.1 fun k => k.spadWrite x.1.2.2 (t.scratch.getD x.2 [])) s
  let s := s.updTeam t.id fun _ =>
    { t with core := p.core, life := .running, groups := gs, scratch := [], pushes := [], scrBase := p.fits.map fun x => (x.1, x.2.2) }
  let move := fun (e : Eng) =>
    match gs.find? fun g => g.gid == e.gid with
    | some g => { e with core := g.core }
    | none => e
  let s := { s with engs := s.engs.map move }
  let s := (s.engs.filter fun e => t.has e.gid).foldl (fun (s : State) e => s.addLocks e.core e.id (s.engRanges e)) s
  (((gs.map (·.core)).eraseDups).foldl (fun (s : State) c => s.acquire c .dev) s).govern

/-- Blocks of the groups of a team that is restored. -/
def Team.blocks (t : Team) : List (Nat × Nat) := t.groups.map fun g => (g.grp, g.ablk + g.held)

/-- Halts a team whose image fails its check, with ABORT (R195). -/
def State.refuseRestore (s : State) (t : Team) (status : Nat) : State :=
  let s := s.updTeam t.id fun t => { t with life := .running }
  (s.haltTeam { t with life := .running } 0x1D 0x40000).ctxImage t.ctx status

/-- The messages that a team sent when it was stopped are acknowledged (R44, R87). -/
def State.pushedOut (s : State) (t : Team) : Bool := !s.unacked.any fun m => t.pushes.contains m

/-- A stopped team that nothing holds back is rebuilt at a spot from its image, whose number's bit is set, unless the image fails its check
(R184, R195). -/
def State.restoreTeam (s : State) (t : Team) (p : Spot) : State :=
  match t.life with
  | .stopped _ run units none =>
    let c := s.ctx t.ctx
    let bs := s.hwGet (c.savebase.toNat + run * 65536) t.imageLen
    let st := s.checkSaved t bs
    let s := s.updCtx t.ctx fun c => { c with runs := c.runs.erase (run, units) }
    if st ≠ 0 then s.refuseRestore t st else
    let h := bs.take 64
    ((s.setSave ((s.save t.ctx).mark (fieldAt h 4 4))).rebuild (t.fromBody (c.bodyOf h ((bs.drop 64).take t.bodyLen))) p).placed t.launch
  | _ => s

/-! ## Tile passes that are given up (R345) -/

/-- Bytes of a draw's tile memory. -/
def Draw.tileBytes (d : Draw) : Nat := 2 ^ (bits (fieldAt d.bytes 28 4) 4 4 + 2) * 1024

/-- A pass leaves its core, with its tile done or to be run again. -/
def State.endPass (s : State) (did : Nat) (p : TilePass) (fin : Bool) : State :=
  s.updDraw did fun d => { d with passes := d.passes.filter fun q => q.tile != p.tile,
                                  doneTiles := if fin then p.tile :: d.doneTiles else d.doneTiles }

/-- A tile pass is given up: its tile memory is cleared and its tile runs again. -/
def State.dropPass (s : State) (d : Draw) (p : TilePass) : State :=
  let s := match p.team.bind s.team? with
    | some t => s.endTeam t
    | none => s
  let s := s.updCore p.core fun k =>
    { k with spad := cellClear k.spad p.base (p.base + d.tileBytes),
             spadPoison := k.spadPoison.filter fun q => !(decide (p.base ≤ q.idx * 4) && decide (q.idx * 4 < p.base + d.tileBytes)) }
  s.endPass d.did p false

/-- TILEBUDGET FCLK at the cluster's present clock have passed since a core was held (R345; DESIGN CHOICE, log 111). -/
def State.budgetSpent (s : State) (c : Nat) : Bool :=
  let f := levelMhz (s.cluster (cluOf c)).level
  decide (((s.core c).heldAt.toNat + s.reg 0 (0x30000 + 4 * cluOf c) 4 * 1000 / f) ≤ s.time.toNat)

/-- A tile pass on a held core has not finished within TILEBUDGET of the hold. -/
def State.passSpent (s : State) (p : TilePass) : Bool :=
  ((s.core p.core).held.isSome || !(s.core p.core).dlHeld.isEmpty) && s.budgetSpent p.core

/-- Gives up every tile pass that is past its budget. -/
def State.abandonSpent (s : State) : State :=
  s.draws.foldl (fun (s : State) d => d.passes.foldl (fun (s : State) p => if s.passSpent p then s.dropPass d p else s) s) s

/-! ## DEADLINE_HOLD (R187) -/

/-- Cores of the declared pairs. -/
def Launch.cores (l : Launch) : List Nat := (List.range (2 * l.npair)).map (· + 2 * l.fpair)

/-- At T_start the dispatcher holds the declared pairs and stops their teams. -/
def State.deadlineHold (s : State) (lid : Nat) : State :=
  match s.launch? lid with
  | none => s
  | some l =>
    if !l.dl ∨ !l.checked ∨ l.holding ∨ (s.time.toNat : Int) < l.start then s else
    let s := l.cores.foldl (fun (s : State) c => s.updCore c fun k => { k with dlHeld := k.dlHeld ++ [lid], heldAt := s.time }) s
    let s := s.updLaunch lid fun l => { l with holding := true }
    (s.stopCores l.cores none).abandonSpent.govern

def execDeadlineHold (launch : Nat) (s : State) : Host.Outcome State Fault Refusal := .next (s.deadlineHold launch)

/-! ## PREEMPT (R321, R322) -/

/-- The pairs that PREEMPT may choose for a context, with the bytes to save on each. -/
def State.pairsOf (s : State) (ctx : Nat) : List (Nat × Nat) :=
  (List.range 80).filterMap fun p =>
    let cs := [2 * p, 2 * p + 1]
    let on := s.teams.filter fun t => t.life.holds && t.groups.any fun g => cs.contains g.core
    let stop := s.teamsOn cs
    if on.any (fun t => t.ctx == ctx) && cs.all (fun c => (s.core c).held.isNone && (s.core c).dlHeld.isEmpty) && s.canSaveAll stop then
      some (p, ((cs.flatMap fun c => stop.map fun t => t.coreBytes c).sum))
    else none

/-- The cores that PREEMPT chooses: the pairs with the fewest bytes to save whose teams can all be saved together. -/
def State.chosenCores (s : State) (ctx n : Nat) : List Nat :=
  let ps := (s.pairsOf ctx).mergeSort fun a b => decide (a.2 < b.2) || (a.2 == b.2 && decide (a.1 ≤ b.1))
  ps.foldl (fun (cs : List Nat) p =>
    let more := cs ++ [2 * p.1, 2 * p.1 + 1]
    if (n + 1) / 2 * 2 ≤ cs.length ∨ !s.canSaveAll (s.teamsOn more) then cs else more) []

/-- Holds `n` cores of a context for the issuing one, and stops their teams. -/
def State.preempt (s : State) (issuer ctx n : Nat) : List Nat × State :=
  let cs := s.chosenCores ctx n
  let s := cs.foldl (fun (s : State) c => s.updCore c fun k => { k with held := some (issuer, ctx), heldAt := s.time }) s
  (cs, (s.stopCores cs (some (issuer, ctx))).abandonSpent)

/-- The cores that a context holds for another. -/
def State.heldCores (s : State) (issuer ctx : Nat) : List Nat := (List.range 160).filter fun c => (s.core c).held == some (issuer, ctx)

/-- PREEMPT waits until the tile passes on the cores it holds have ended. -/
def preemptEff (d a b : Opnd) (e : Env) (s : State) : Chk Eff := do
  let vs ← s.peek e [{ code := 1, o := a }, { code := 2, o := b }] (.vec 0) 0
  poisonCheck e.exec vs
  let ctx := (uniformVals e vs).getD 0 0 % 4096
  let n := (uniformVals e vs).getD 1 0
  let finish := fun (s : State) (n : Nat) => (pure (Eff.on (s.status e d n)) : Chk Eff)
  match e.f.wait with
  | .holding k => if s.passesOn (s.heldCores e.c.num ctx) then .error (.wait (.holding k)) else finish s k
  | _ =>
    let (cs, s) := s.preempt e.c.num ctx n
    if s.passesOn cs then s.parkAt e (.holding cs.length) else finish s cs.length

def execPreempt (h : Hdr) (d a b : Opnd) (s : State) : Host.Outcome State Fault Refusal :=
  runInstr (.preempt h d a b) h (preemptEff d a b) s

/-- PREEMPT.REL: the hold ends, and the stopped teams may be restored. -/
def State.releaseHold (s : State) (issuer ctx : Nat) : Nat × State :=
  let cs := s.heldCores issuer ctx
  let free := fun (k : Core) => if k.held = some (issuer, ctx) then { k with held := none } else k
  let wake := fun (t : Team) =>
    match t.life with
    | .stopped q r u h => if h = some (issuer, ctx) then { t with life := .stopped q r u none } else t
    | _ => t
  (cs.length, s.launches.foldl (fun (u : State) l => u.waitsAgain s l.lid) { s with cores := s.cores.map free, teams := s.teams.map wake })

def preemptRelEff (d a : Opnd) (e : Env) (s : State) : Chk Eff := do
  let ctx ← s.countVal e a anyCount
  let (n, s) := s.releaseHold e.c.num (ctx % 4096)
  pure (Eff.on (s.status e d n))

def execPreemptRel (h : Hdr) (d a : Opnd) (s : State) : Host.Outcome State Fault Refusal :=
  runInstr (.preemptRel h d a) h (preemptRelEff d a) s

/-! ## Spans of CSAVE and CREST (R323, R325) -/

/-- The checks of R7 and R11 over a whole span. -/
def Ctx.spanOk (c : Ctx) (va n : Nat) (right : Window → Bool) : Bool :=
  decide (va + n ≤ 2 ^ 56) &&
    ([va, va + n - 1] ++ (List.range (n / 65536 + 1)).map fun i => min (va + n - 1) (va + 65536 * i)).all fun a =>
      (c.window? a).any fun w => right w && !w.l

/-- A piece of a span that lies in one line: its VA, IA, length and window. -/
structure Piece where
  va  : Nat
  ia  : Nat
  n   : Nat
  win : Window
  deriving DecidableEq, Repr

/-- The pieces of a span, one for each 64-byte line of its VAs. -/
def Ctx.pieces (c : Ctx) (va n : Nat) : List Piece :=
  (List.range ((va + n + 63) / 64 - va / 64)).filterMap fun i =>
    let lo := max va ((va / 64 + i) * 64)
    let hi := min (va + n) ((va / 64 + i + 1) * 64)
    if hi ≤ lo then none else (c.window? lo).map fun w => { va := lo, ia := w.iaOf lo, n := hi - lo, win := w }

/-- What the homes of a span have said: a failure, the bytes that miss their pages, and another wait. -/
structure Reached where
  stop   : Bool
  missed : List Missed
  wait   : Option Wait
  deriving DecidableEq, Repr

def Reached.none : Reached := { stop := false, missed := [], wait := Option.none }

/-- A byte of a piece whose page its lanes miss. -/
def Env.missedAt (e : Env) (p : Piece) (page b : Nat) : List Missed :=
  (lanesOf e.exec).map fun l => { lane := l, va := p.va, ia := p.ia, page := page, bits := b }

/-- The home of a piece does not let it be performed. -/
def Reached.blocked (r : Reached) (s : State) (e : Env) (p : Piece) (g : Gate) : Reached :=
  match g with
  | .miss page b => if s.queueOk e.c.num then { r with missed := r.missed ++ e.missedAt p page b } else { r with stop := true }
  | .filling die entry blk => { r with wait := some (.block die entry blk) }
  | .full => { r with wait := some .none }
  | .held => { r with wait := some .none }
  | _ => { r with stop := true }

/-- Goes on once every piece is performed; else it fails, or waits and executes its instruction again, the missing pages recorded in one batch. -/
def State.onceReached (s : State) (e : Env) (write : Bool) (r : Reached) (fail go : State → Chk Eff) : Chk Eff :=
  if r.stop then fail s else
  match r.missed, r.wait with
  | m :: ms, _ => (s.issueMiss e write m.page (m :: ms)).parkAt e (.page (BitVec.ofNat 52 m.page) m.bits)
  | [], some w => s.parkAt e w
  | [], none => go s

/-! ## CSAVE (R323) -/

/-- The halted team that CSAVE names. -/
def State.savable (s : State) (ctx pkt num : Nat) : Option Team :=
  s.teams.find? fun t => t.ctx == ctx && t.pkt.toNat == pkt && t.num == num &&
    (match t.kind with
     | .compute => true
     | _ => false) &&
    (match t.life with
     | .fatal => t.recorded
     | .stopped _ _ _ _ => true
     | _ => false)

/-- Writes the pieces of an image at their homes, up to one that fails; requests to endpoints go as WRITE messages. -/
def State.putPieces (s : State) (e : Env) (va : Nat) (bs : List Byte) (ps : List Piece) : Reached × State :=
  ps.foldl (fun (acc : Reached × State) p =>
    if acc.1.stop then acc else
    let s := acc.2.expel e.g.core (p.ia / 64)
    let part := (bs.drop (p.va - va)).take p.n
    match s.gate (e.req p.win true e.t.level) p.ia with
    | (.go key _ _, s) => (acc.1, s.homeWrite p.ia key (plain part))
    | (.remote slot addr _ _, s) =>
      (acc.1, s.sendWrite [] slot 2 0x02 (s.nextSeq slot) p.ia part.length addr (writeBody part 6))
    | (g, s) => (acc.1.blocked s e p g, s)) (Reached.none, s)

/-- Takes the image's number; a team kept by DBG retires, and a stopped one is detached. -/
def State.detach (s : State) (t : Team) : State :=
  let k := (s.save t.ctx).take
  match t.life with
  | .stopped old run units _ =>
    let s := s.setSave (k.mark old.toNat)
    let s := s.updCtx t.ctx fun c => { c with runs := c.runs.erase (run, units) }
    s.updTeam t.id fun t => { t with life := .detached k.c }
  | _ => (((s.setSave k).countStep t.launch t.step).endTeam t).checkLaunch t.launch

/-- CSAVE of a team whose image is written, once every message that carries it is acknowledged. -/
def State.saved (s : State) (e : Env) (d a : Opnd) (t : Team) : State :=
  let s := s.detach t
  (s.updSlice e.gid e.sl fun x => x.setSreg (e.regNum a + 5) (Val.of (BitVec.ofNat 32 t.imageLen))).status e d 0

def csaveEff (d a : Opnd) (e : Env) (s : State) : Chk Eff := do
  let v ← s.blockVals e a 6
  let va := v.getD 0 0 + v.getD 1 0 * 2 ^ 32
  let tell := fun (n : Nat) (s : State) => (pure (Eff.on (s.status e d n)) : Chk Eff)
  match s.savable (v.getD 2 0) (v.getD 3 0) (v.getD 4 0) with
  | none => tell 1 s
  | some t =>
    if e.f.wait = .saveLost then tell 4 s else
    if (s.save t.ctx).exhausted then tell 3 s
    else if v.getD 5 0 < t.imageLen then tell 2 s
    else if !e.c.spanOk va t.imageLen (·.wr) then tell 4 s else
    let seq := (s.save t.ctx).take.c
    let sent : Bool := match e.f.wait with
      | .saving q _ => q == seq
      | _ => false
    if sent then pure (Eff.on (s.saved e d a t)) else
    let old := s.unacked
    let (r, s) := s.putPieces e va (s.image t seq (decide (t.life = .fatal))) (e.c.pieces va t.imageLen)
    s.onceReached e true r (tell 4) fun s =>
      let ms := s.unacked.filter fun m => !old.contains m
      if ms.isEmpty then pure (Eff.on (s.saved e d a t)) else s.parkAt e (.saving seq ms)

def execCsave (h : Hdr) (d a : Opnd) (s : State) : Host.Outcome State Fault Refusal := runInstr (.csave h d a) h (csaveEff d a) s

/-! ## CREST (R325) -/

/-- The READ messages of the pieces at endpoints are sent, each once no write of its line is under way, and whether all are answered. -/
def State.askPieces (s : State) (e : Env) (ps : List Piece) : Bool × State :=
  ps.foldl (fun (acc : Bool × State) p =>
    match acc.2.gate (e.req p.win false e.t.level) p.ia with
    | (.remote slot addr _ _, s) =>
      let a := addr / 64 * 64
      match s.reads.find? fun r => r.slot == slot && r.ia == a && r.reader == stepKey e.gid e.sl e.slot with
      | some r => (acc.1 && r.got.isSome, s)
      | none => (false, if s.lineBusy slot a then s else (s.remoteRead slot a e.c.owner (stepKey e.gid e.sl e.slot) .sys).2)
    | (_, s) => (acc.1, s)) (true, s)

/-- Reads the pieces of an image, up to one that fails or is poisoned; the answers of endpoints are taken. -/
def State.getPieces (s : State) (e : Env) (ps : List Piece) : Reached × List Byte × State :=
  ps.foldl (fun (acc : Reached × List Byte × State) p =>
    if acc.1.stop then acc else
    match acc.2.2.gate (e.req p.win false e.t.level) p.ia with
    | (.go key _ _, s) =>
      let (bs, s) := s.homeRead p.ia key p.n
      ({ acc.1 with stop := (anyPoison bs).isSome }, acc.2.1 ++ values bs, s)
    | (.remote slot addr _ _, s) =>
      match s.remoteRead slot (addr / 64 * 64) e.c.owner (stepKey e.gid e.sl e.slot) .sys with
      | (.ok bs, s) => (acc.1, acc.2.1 ++ (bs.drop (addr % 64)).take p.n, s)
      | (.wait _ _, s) => ({ acc.1 with wait := some .none }, acc.2.1, s)
      | (.miss page b, s) => (acc.1.blocked s e p (.miss page b), acc.2.1, s)
      | (.bad, s) => ({ acc.1 with stop := true }, acc.2.1, s)
    | (g, s) => (acc.1.blocked s e p g, acc.2.1, s)) (Reached.none, [], s)

/-- The header of an image keeps Table 13-9's zero fields and FORMAT. -/
def imageHeaderOk (h : List Byte) : Bool :=
  fieldAt h 0 4 == 1 && bits (fieldAt h 8 4) 24 8 == 0 && bits (fieldAt h 12 4) 2 30 == 0 && bits (fieldAt h 16 4) 16 16 == 0 &&
    (h.drop 44).all (· == 0)

/-- The team that an image brings back: detached by CSAVE under the image's number, of an incomplete launch. -/
def State.detached (s : State) (ctx : Nat) (h : List Byte) : Option Team :=
  s.teams.find? fun t => t.ctx == ctx && t.pkt.toNat == fieldAt h 40 4 && t.num == fieldAt h 20 4 && (s.launch? t.launch).isSome &&
    t.life == .detached (BitVec.ofNat 32 (fieldAt h 4 4))

/-- The plain body is one that the device accepts: its own bytes stand as they were written. -/
def bodyOk (t : Team) (seq : W32) (body : List Byte) : Bool :=
  let b := t.fromBody body
  decide (body.length = t.bodyLen) && body == plainBody (imageKey t.ctx seq) b (b.scratch.map values)

/-- Checks 2 to 6 on the bytes of an image: the status, and the state after it. -/
def State.crest (s : State) (bs : List Byte) : Nat × State :=
  let h := bs.take 64
  let n := fieldAt h 24 8
  let body := (bs.drop 64).take n
  let ctx := bits (fieldAt h 8 4) 0 12
  let c := s.ctx ctx
  let seq := fieldAt h 4 4
  if !imageHeaderOk h ∨ bs.length < 80 + n then (4, s)
  else if !c.valid ∨ c.owner.toNat ≠ bits (fieldAt h 8 4) 12 12 then (3, s)
  else if bitN (fieldAt h 12 4) 0 ∧ !tagGood c.owner ctx h body ((bs.drop (64 + n)).take 16) then (2, s.ctxImage ctx 2)
  else if !(s.save ctx).current seq then (1, s.ctxImage ctx 1)
  else
    match if bitN (fieldAt h 12 4) 1 then none else s.detached ctx h with
    | none => (3, s)
    | some t =>
      let body := c.bodyOf h body
      if bitN (fieldAt h 12 4) 0 ≠ c.prot ∨ !bodyOk t (BitVec.ofNat 32 seq) body then (3, s) else
      (0, ((s.setSave ((s.save ctx).mark seq)).updTeam t.id fun _ => { t.fromBody body with life := .placing }).waitsAgain s t.launch)

def crestEff (d a : Opnd) (e : Env) (s : State) : Chk Eff := do
  let v ← s.blockVals e a 3
  let va := v.getD 0 0 + v.getD 1 0 * 2 ^ 32
  let n := v.getD 2 0
  s.afterLogged e
  s.afterWrites e
  if n < 80 ∨ !e.c.spanOk va n (·.rd) then pure (Eff.on (s.status e d 4)) else
  let ps := e.c.pieces va n
  let s := ps.foldl (fun (s : State) p => s.expel e.g.core (p.ia / 64)) s
  let (all, s) := s.askPieces e ps
  if !all then s.parkAt e .none else
  let (r, bs, s) := s.getPieces e ps
  let s := if r.wait.isSome then s else { s with reads := s.reads.filter fun x => x.reader != stepKey e.gid e.sl e.slot }
  s.onceReached e false r (fun s => pure (Eff.on (s.status e d 4))) fun s =>
    let (st, s) := s.crest bs
    pure (Eff.on (s.status e d st))

def execCrest (h : Hdr) (d a : Opnd) (s : State) : Host.Outcome State Fault Refusal := runInstr (.crest h d a) h (crestEff d a) s

end Sys2Proof.Machine
end

