-- ==== Sys2Proof/Machine/Cycle.lean ====
section
/-!
DEFINITION. The issue of a core: which waits have ended, the emergency reserve, the age matrix, the fetch slot and the fills of the instruction cache, and
the two stalls that trap (07 R151, R157, R163 to R165, R169, 08 R182, 01 R11, R20).
-/

namespace Sys2Proof.Machine

/-! ## The ends of waits (R166) -/

/-- The accesses and operations of a list that are not performed yet. -/
def State.pendingOf (s : State) (ids : List Nat) : Bool :=
  (s.accs.any fun a => ids.contains a.id && a.isOpen) || s.engs.any fun g => ids.contains g.id && g.logged

/-- The next instruction of a fragment is not in the instruction cache. -/
def State.codeMissing (s : State) (t : Team) (g : Group) (f : Frag) : Bool :=
  let c := s.ctx t.ctx
  match c.fetchWindow f.pc.toNat with
  | .ok w => ((s.core g.core).code? (w.iaOf f.pc.toNat) c.owner (c.prot && w.prot)).isNone
  | .error _ => false

/-- What a fragment waits for has come; the waits that another step ends stand until it does. -/
def State.waitOver (s : State) (t : Team) (g : Group) (sl : Slice) (f : Frag) : Bool :=
  let x := g.slice sl
  match f.wait with
  | .none => true
  | .marker => !x.outstanding f.mask
  | .pop q m k => (lanesOf m).all fun l => (g.laneVal q l k).isSome
  | .push q n => g.roomFor q n
  | .qsync m => (g.busyQueues m).isEmpty
  | .slip n => decide (g.slip ≤ n.toNat)
  | .ctr p n => decide (x.counter p ≤ n.toNat)
  | .ctrFull p => decide (x.counter p < 63)
  | .all mem => s.allDone g.gid sl x f.mask mem
  | .accs ids => !s.pendingOf ids
  | .qs ids => !s.pendingOf ids
  | .storeBuffer => decide ((s.buffered g.gid .a).length + (s.buffered g.gid .c).length < 32)
  | .locks n => decide (n ≤ (s.core g.core).freeLocks.length)
  | .engines => decide (s.copiesOn g.core < 64)
  | .barrier _ => false
  | .ticket off n => (s.barObj g.core (t.spadByte g.core off.toNat)).reached n.toNat
  | .racq n => decide (n ≤ g.held)
  | .rrel n => !x.writesAbove n
  | .fetch => !s.codeMissing t g f
  | .page _ _ => false
  | .msgs l => !s.unacked.any fun m => l.contains m
  | .saving _ l => !s.unacked.any fun m => l.contains m
  | .saveLost => true
  | .block _ _ _ => false
  | .power => !(s.ctx t.ctx).plstat.getLsbD 2
  | .present => decide ((s.owner (s.ctx t.ctx).owner).queue.length < s.presentDepth (s.ctx t.ctx).owner)
  | .holding _ => true

/-! ## The emergency reserve (R151) -/

/-- The fragment waits and nothing is in flight for it: no line of instructions, no fill and no replay (R151). -/
def Wait.still : Wait → Bool
  | .none => false
  | .fetch => false
  | .page _ _ => false
  | .block _ _ _ => false
  | _ => true

/-- Nothing of a core's resident groups is outstanding, and no fragment of them can issue (R151). -/
def State.coreIdle (s : State) (c : Nat) : Bool :=
  let gs := (s.coreGroups c).filter fun g => g.life == .resident
  gs.all fun g =>
    let rests := fun (sl : Slice) => (g.slice sl).stopped || (g.slice sl).frags.all fun f =>
      f.wait.still && !(s.teamOf? g.gid).any fun t => s.waitOver t g sl f
    !s.accs.any (fun a => a.gid == g.gid) && !s.engs.any (fun e => e.gid == g.gid) && g.a.outs.isEmpty && g.c.outs.isEmpty &&
      rests .a && rests .c

/-- The oldest group on an idle core that waits in RACQ receives the blocks it still lacks: free ones, and the others from
the reserve (R151). -/
def State.reserveGrant (s : State) (c : Nat) : State :=
  if !s.coreIdle c then s else
  match ((s.coreGroups c).filter fun g => g.life == .resident).find? fun g => g.racq?.isSome with
  | none => s
  | some g =>
    let n := (g.racq?.getD 0) - g.held
    let owner := ((s.teamOf? g.gid).map fun t => (s.ctx t.ctx).owner).getD 0xFFF
    let free := ((List.range (n + 1)).reverse.find? fun k => (s.generalBlocks c g.width k g.ownSlot).isSome).getD 0
    let lack := (n - free) * quartersOf g.width
    if (s.core c).reserve < lack then s else
    match takeQuarters (quartersOf g.width) n (s.usedQuarters c) with
    | none => s
    | some qs => (s.addBlocks g owner qs lack).wakeRacq g.gid

def execEmergencyReserveGrant (core : Nat) (s : State) : Host.Outcome State Fault Refusal := .next (s.reserveGrant core)

/-! ## ISSUE_CYCLE (R182) -/

/-- Fragments whose marker has come stand at their next instruction, where they may join (R160, R165). -/
def SliceSt.unmark (x : SliceSt) : SliceSt :=
  let un := fun (f : Frag) => if f.wait == .marker && !x.outstanding f.mask then { f with wait := .none } else f
  ({ x with frags := x.frags.map un, stack := x.stack.map un }).settle

/-- Classes of instructions that the age matrix keeps apart. -/
inductive Class | matrix | memory | special | other
  deriving DecidableEq, Repr

def classOf (opc : Nat) : Class :=
  if 0x300 ≤ opc ∧ opc < 0x380 then .matrix
  else if (0x200 ≤ opc ∧ opc < 0x280) ∨ [0x286, 0x287, 0x288].contains opc then .memory
  else if 0x10A ≤ opc ∧ opc ≤ 0x112 then .special
  else .other

/-- Class of the instruction that a fragment would issue. -/
def State.classAt (s : State) (w : Issuer) : Class :=
  match s.fetch w with
  | .run i => classOf (opcOf i)
  | _ => .other

/-- The served fragment of a slice, when it waits for nothing that it has met so far. -/
def State.readyFrag (s : State) (t : Team) (g : Group) (sl : Slice) : List Issuer :=
  let x := g.slice sl
  match x.frag? x.served with
  | some f =>
    if t.life.runs && g.life == .resident && !x.stopped && s.waitOver t g sl f then [{ gid := g.gid, sl := sl, slot := f.slot }] else []
  | none => []

/-- The served fragments of a core that wait for nothing, oldest group first, the A-slice before the C-slice. -/
def State.candidates (s : State) (core : Nat) : List Issuer :=
  let gs := s.teams.flatMap fun t => (t.groups.filter fun g => g.core == core).map fun g => (t, g)
  (gs.foldr (insertBy fun x => x.2.gid) []).flatMap fun x => s.readyFrag x.1 x.2 .a ++ s.readyFrag x.1 x.2 .c

/-! ## The fetch slot (R163) -/

/-- The other live fragment of a slice waits for nothing, so that it could issue. -/
def State.otherReady (s : State) (t : Team) (g : Group) (sl : Slice) : Bool :=
  let x := g.slice sl
  (x.frag? (1 - x.served)).any fun o => s.waitOver t g sl o

/-- The fetch slot may move: the served fragment is gone, or waits, or has issued 32 instructions in a row while the other could. -/
def State.switchDue (s : State) (t : Team) (g : Group) (sl : Slice) : Bool :=
  let x := g.slice sl
  match x.frag? (1 - x.served), x.frag? x.served with
  | none, _ => false
  | some _, none => true
  | some _, some f => !f.handler && (!s.waitOver t g sl f || (decide (32 ≤ f.run) && s.otherReady t g sl))

/-- Moves the fetch slot of a slice where a test of its group says so. -/
def State.switchIf (s : State) (gid : Nat) (sl : Slice) (due : Team → Group → Bool) : State :=
  match s.teamOf? gid with
  | none => s
  | some t =>
    match t.group? gid with
    | none => s
    | some g => if due t g then s.updSlice gid sl SliceSt.switch else s

/-- FETCH_SLOT_SWITCH. -/
def State.fetchSwitch (s : State) (gid : Nat) (sl : Slice) : State := s.switchIf gid sl fun t g => s.switchDue t g sl

/-- The switches that must be made before a core picks: those after which the other fragment can go on. -/
def State.steer (s : State) (gid : Nat) (sl : Slice) : State := s.switchIf gid sl fun t g => s.switchDue t g sl && s.otherReady t g sl

def execFetchSlotSwitch (gid : Nat) (sl : Slice) (s : State) : Host.Outcome State Fault Refusal := .next (s.fetchSwitch gid sl)

/-! ## ISSUE_CYCLE (R182) -/

/-- Groups of a core. -/
def State.groupsOn (s : State) (core : Nat) : List Group := s.teams.flatMap fun t => t.groups.filter fun g => g.core == core

/-- Every fetch slot of a core serves the fragment that it must. -/
def State.steered (s : State) (core : Nat) : State :=
  (s.groupsOn core).foldl (fun (s : State) g => (s.steer g.gid .a).steer g.gid .c) s

/-- ISSUE_CYCLE: time passes, the fields that have come start at once, and the age matrix of a core is offered the served fragments that wait for
nothing; which of them are ready,
and picked, the step after this finds out. -/
def State.issueCycle (s : State) (core : Nat) : State :=
  let gs := s.groupsOn core
  let s := (s.passTime (s.time + Config.freeTime s.free)).abandonSpent
  let s := { s with free := s.free + 1,
                    teams := s.teams.map fun (t : Team) => { t with groups := t.groups.map fun (g : Group) =>
                      if g.core = core then { g with a := g.a.unmark, c := g.c.unmark } else g } }
  let s := gs.foldl (fun (s : State) g => (s.refill g.gid .a g.a.stackUse).refill g.gid .c g.c.stackUse) s
  let s := s.steered core
  { s with offered := s.candidates core, due := s.due ++ s.fieldsDue }

def execIssueCycle (core : Nat) (s : State) : Host.Outcome State Fault Refusal := .next (s.issueCycle core)

/-! ## ICACHE_FILL (R11, R20, R164) -/

/-- How the read of some instruction bytes went. -/
inductive CodeIO
  | ok (bs : List PByte)
  /-- It waits; nothing was read. -/
  | later
  | wait (w : Wait)
  | miss (va ia page bits : Nat)
  | trap (cause info : Nat)
  deriving DecidableEq, Repr

/-- Bytes of code at a VA, inside one 4 KiB page. -/
def State.codePiece (s : State) (w : Issuer) (x : Team × Group × Frag) (va n : Nat) : CodeIO × State :=
  let e := s.fetchEnv w x
  match e.c.fetchWindow va with
  | .error (.trap c i) => (.trap c i, s)
  | .error (.wait _) => (.later, s)
  | .ok win =>
    let ia := win.iaOf va
    match s.gate (e.req win false e.t.level) ia with
    | (.go key _ _, s) =>
      let (bs, s) := s.homeRead ia key n
      (.ok bs, s)
    | (.remote slot addr ow _, s) =>
      match s.remoteCode slot (addr / 64 * 64) ow with
      | (.ok bs, s) => (.ok (plain ((bs.drop (addr % 64)).take n)), s)
      | (.wait _ _, s) => (.later, s)
      | (.miss page b, s) => (.miss va ia page b, s)
      | (.bad, s) => (.trap 0x12 fatalOwner, s)
    | (.miss page b, s) => (.miss va ia page b, s)
    | (.fatal i, s) => (.trap 0x12 i, s)
    | (.filling die entry blk, s) => (.wait (.block die entry blk), s)
    | (.poisoned p _ _ _, s) => (.ok (poisonBytes n p), s)
    | (.refused cause, s) =>
      match s.filling? e.t with
      | some (die, entry, blk) => (.later, s.failFill die entry blk cause 0 0)
      | none => (.later, s)
    | (.aperture _ _, s) => (.trap 0x12 fatalOwner, s)
    | (_, s) => (.later, s)

/-- The pieces of a span, cut at 64-byte boundaries. -/
def codeCuts (va n : Nat) : List (Nat × Nat) :=
  let k := min n (64 - va % 64)
  if k < n then [(va, k), (va + k, n - k)] else [(va, n)]

/-- The 12 bytes of an instruction. -/
def State.codeWord (s : State) (w : Issuer) (x : Team × Group × Frag) (va : Nat) : CodeIO × State :=
  (codeCuts va 12).foldl (fun (acc : CodeIO × State) c =>
    match acc with
    | (.ok bs, s) =>
      match s.codePiece w x c.1 c.2 with
      | (.ok b, s) => (.ok (bs ++ b), s)
      | r => r
    | r => r) (.ok [], s)

/-- A core takes a fill. -/
def Core.takeCode (k : Core) (c : CodeSlot) : Core :=
  { k with icache := c :: k.icache.filter fun x => !(x.ia == c.ia && x.owner == c.owner && x.prot == c.prot) }

/-- A resident group of a core has the EX window of its kernel over an IA, and the same owner. -/
def State.codeWanted (s : State) (core : Nat) (ia : Nat) (owner : Id12) : Bool :=
  s.teams.any fun t => (t.groups.any fun g => g.core == core && g.life == .resident) && (s.ctx t.ctx).owner == owner &&
    match (s.ctx t.ctx).fetchWindow t.entry.toNat with
    | .ok w => decide (w.ia ≤ ia) && decide (ia < w.ia + w.len)
    | .error _ => false

/-- The fill goes to the core that asked and to every other core of its die that has use for it. -/
def State.sendCode (s : State) (core : Nat) (c : CodeSlot) : State :=
  (List.range 160).foldl (fun (s : State) k =>
    if k = core then s.updCore k fun x => x.takeCode c
    else if k / 40 = core / 40 ∧ (s.core k).code? c.ia.toNat c.owner c.prot = none ∧ s.codeWanted k c.ia.toNat c.owner then
      s.updCore k fun x => x.takeCode c
    else s) s

/-- The instruction at a VA comes into the cache, when it can be read at once. -/
def State.fillWord (s : State) (w : Issuer) (x : Team × Group × Frag) (va : Nat) : CodeIO × State :=
  let e := s.fetchEnv w x
  match e.c.fetchWindow va, s.codeWord w x va with
  | .ok win, (.ok bs, s) =>
    (.ok bs, s.sendCode e.g.core
      { ia := BitVec.ofNat 52 (win.iaOf va), frame := (s.phys (win.iaOf va)).map (· / 65536), word := BitVec.ofNat 96 (leNat (values bs)),
        poison := anyPoison bs, owner := e.c.owner, prot := e.c.prot && win.prot })
  | _, r => r

/-- The other instructions of the 192-byte line that can be read without a wait, a record or a trap. -/
def State.fillLine (s : State) (w : Issuer) (x : Team × Group × Frag) (va : Nat) : State :=
  (List.range 16).foldl (fun (s : State) i =>
    let a := va / 192 * 192 + 12 * i
    if a = va then s else
    match s.fillWord w x a with
    | (.ok _, s) => s
    | _ => s) s

/-- ICACHE_FILL: the line that a fragment of a slice waits for is filled, or the fragment traps or waits for its page. -/
def State.icacheFill (s : State) (gid : Nat) (sl : Slice) : State :=
  match s.teamOf? gid with
  | none => s
  | some t =>
    match t.group? gid with
    | none => s
    | some g =>
      match (g.slice sl).frags.find? fun f => f.wait == .fetch && s.codeMissing t g f with
      | none => s
      | some f =>
        let w : Issuer := { gid := gid, sl := sl, slot := f.slot }
        match s.issuer w with
        | none => s
        | some x =>
          let e := s.fetchEnv w x
          let park := fun (v : Wait) (s : State) => s.updFrag gid sl f.slot fun f => { f with wait := v }
          match s.fillWord w x f.pc.toNat with
          | (.ok _, s) => s.fillLine w x f.pc.toNat
          | (.later, s) => s
          | (.wait v, s) => park v s
          | (.trap c i, s) => s.trapIn e c i
          | (.miss va ia page b, s) =>
            if !s.queueOk e.c.num then s.trapIn e 0x12 fatalQueue else
            let (tag, s) := s.fresh
            let h : FaultHead := { path := 7, write := false, slice := sliceNum sl, core := g.core, gslot := g.slot, ctx := e.c.num, itag := tag }
            park (.page (BitVec.ofNat 52 page) b) (s.faultBatch e.c.num (pageKey e.gid e.sl page) [faultRecord h va ia b 0 0 true false 0])

def execIcacheFill (gid : Nat) (sl : Slice) (s : State) : Host.Outcome State Fault Refusal := .next (s.icacheFill gid sl)

/-! ## BARRIER_STALL (R169) -/

/-- Lanes have been missing for BARTO µs after the first arrival. -/
def State.barrierStall (s : State) (tid : Nat) (sl : Slice) : State :=
  match s.team? tid with
  | none => s
  | some t =>
    let c := s.ctx t.ctx
    match (t.arrivals sl).head?, (t.groups.foldr (insertBy Group.grp) []).find? fun g => t.missing sl g != 0 with
    | some a, some g =>
      if c.barto = 0 ∨ t.life ≠ .running ∨ s.time.toNat < a.at_.toNat + c.barto.toNat * 1000 then s
      else s.fatalTrap g.gid sl 0x1C (g.grp + sliceNum sl * 32) (g.slice sl).servedPc none 0
    | _, _ => s

def execBarrierStall (team : Nat) (sl : Slice) (s : State) : Host.Outcome State Fault Refusal := .next (s.barrierStall team sl)

/-! ## QDEADLOCK (R157) -/

/-- Queue code of a wait that blocks a slice: 8 behind a store that waits for qs (R157, R234, R235). A push that SLIPL alone holds counts with the
code of its queue (DESIGN CHOICE, log 132). -/
def Group.waitCode (g : Group) : Wait → Option Nat
  | .pop q _ _ => some q
  | .push q n => some (((List.range n).find? fun i => decide ((g.queue (q + i)).depth ≤ (g.queue (q + i)).entries.length)).getD 0 + q)
  | .slip _ => some 0
  | .qsync m => some (((List.range 8).find? fun q => m.getLsbD q).getD 0)
  | .qs _ => some 8
  | _ => none

/-- A slice is queue-blocked by its fragments' waits or by its exit. -/
def State.slicePend (s : State) (t : Team) (g : Group) (sl : Slice) : Bool :=
  let x := g.slice sl
  if x.live g.width = 0 then true
  else !x.frags.isEmpty && x.frags.all fun f => (g.waitCode f.wait).isSome && !s.waitOver t g sl f

/-- A store is next to take its data from qs, and they are there. -/
def Group.storeMoves (g : Group) (s : State) (a : Acc) (m : Lanes) : Bool :=
  (lanesOf m).all (fun l => (g.laneVal 4 l 0).isSome) && !s.accs.any fun b => b.gid == a.gid && b.needQs.isSome && decide (b.id < a.id)

/-- A lane of an access stands behind one of some earlier stores of its slice that name a byte of it (R69). -/
def State.standsBehind (s : State) (stuck : List Acc) (a : Acc) (l : LaneAcc) : Bool :=
  stuck.any fun b => decide (b.sl = a.sl) && b.lanes.any fun x => s.clash b x a.path l.ia.toNat a.size

/-- The stores of a group that wait for qs data, or in the store buffer behind such a store: they wait on qs, and are no requests in flight
(R69). -/
def State.stuckStores (s : State) (g : Group) : List Acc :=
  (s.accs.filter fun a => a.gid == g.gid).foldl (fun stuck a =>
    match a.needQs with
    | some m => if g.storeMoves s a m then stuck else stuck ++ [a]
    | none =>
      if decide (a.kind = .store) && a.isOpen && a.lanes.all (fun l => decide (l.st = .todo) && s.standsBehind stuck a l) then stuck ++ [a]
      else stuck) []

/-- Nothing of a group is in flight. -/
def State.groupQuiet (s : State) (g : Group) : Bool :=
  g.a.outs.isEmpty && g.c.outs.isEmpty && !(s.accs.any fun a => a.gid == g.gid && !(s.stuckStores g).contains a) &&
    !(s.engs.any fun e => e.gid == g.gid) && !(s.offered ++ s.picked).any fun w => w.gid == g.gid

/-- Both slices of a group are queue-blocked with nothing in flight, and one has not exited. -/
def State.deadlocked (s : State) (t : Team) (g : Group) : Bool :=
  g.life == .resident && !g.allExited && s.slicePend t g .a && s.slicePend t g .c && s.groupQuiet g && !g.a.stopped && !g.c.stopped

/-- Queue code of the served fragment's wait, 9 for an exited slice. -/
def Group.servedCode (g : Group) (sl : Slice) : Nat :=
  let x := g.slice sl
  if x.live g.width = 0 then 9
  else (((x.frag? x.served).orElse fun _ => x.frags.head?).bind fun f => g.waitCode f.wait).getD 9

/-- Bits of QMASKF for the live fragments of a slice, and whether one waits behind a qs store. -/
def Group.queueBits (g : Group) (sl : Slice) : Nat × Bool :=
  let cs := (g.slice sl).frags.filterMap fun f => g.waitCode f.wait
  (((List.range 8).map fun n => if cs.contains n then 2 ^ n else 0).sum, cs.contains 8)

def Group.qmask (g : Group) : W32 :=
  let a := g.queueBits .a
  let c := g.queueBits .c
  BitVec.ofNat 32 (a.1 + c.1 * 2 ^ 8 + boolNat a.2 * 2 ^ 16 + boolNat c.2 * 2 ^ 17)

/-- QDEADLOCK: the lowest deadlocked group is charged, and both its slices stop. -/
def State.qdeadlock (s : State) (tid : Nat) : State :=
  match s.team? tid with
  | none => s
  | some t =>
    match (t.groups.foldr (insertBy Group.grp) []).find? fun g => s.deadlocked t g with
    | none => s
    | some g =>
      if t.life ≠ .running then s else
      let info := g.servedCode .a + g.servedCode .c * 16
      let sl : Slice := if g.a.live g.width = 0 then .c else .a
      let s := s.updGroup g.gid fun (g : Group) => { g with qmaskf := g.qmask }
      s.deadlockTrap g.gid sl info (g.slice .a).servedPc (g.slice .c).servedPc

def execQdeadlock (team : Nat) (s : State) : Host.Outcome State Fault Refusal := .next (s.qdeadlock team)

end Sys2Proof.Machine
end

