-- ==== Sys2Proof/Machine/Errors.lean ====
section
/-!
DEFINITION. Errors in the device's storage: where they show, what becomes of what is stored there, and the records and counts of Table 2-7
(02 R59 to R61). When and where errors show is free (DESIGN CHOICE, log 19).
-/

namespace Sys2Proof.Machine

/-- A place in the storage of Table 2-7 where an error shows. -/
inductive ErrorSite
  /-- A 32-byte block of device memory. -/
  | memory (block : Nat)
  /-- A granule of a line of an L2, an RDC, an L1 or a metadata cache. -/
  | data (cache : CacheId) (line granule : Nat)
  /-- A tag of the set in which a line of an L2, an RDC or an L1 lies. -/
  | tag (cache : CacheId) (line : Nat)
  /-- A line of a core's constant, sampler and tile-layout caches, and of its instruction cache. -/
  | parity (core line : Nat)
  /-- A 32-bit word of a core's scratchpad. -/
  | scratch (core word : Nat)
  | scalar (gid : Nat) (sl : Slice) (reg : Nat)
  | vector (gid : Nat) (sl : Slice) (reg lane : Nat)
  /-- A lane of an entry of a queue. -/
  | queue (gid q entry lane : Nat)
  deriving DecidableEq, Repr, Inhabited

/-! ## The caches by name -/

def State.cached (s : State) : CacheId → List Line
  | .l1 c => (s.core c).l1
  | .rdc d => s.rdc d
  | .l2 d => s.l2Of d
  | .mdc d => s.mdcOf d

def State.updCached (s : State) (c : CacheId) (f : List Line → List Line) : State :=
  match c with
  | .l1 c => s.updCore c fun k => { k with l1 := f k.l1 }
  | .rdc d => s.updRdc d f
  | .l2 d => s.updL2 d f
  | .mdc d => s.updMdc d f

/-- The die on which a cache stands. -/
def cacheDie : CacheId → Nat
  | .l1 c => dieOf c
  | .rdc d => d
  | .l2 d => d
  | .mdc d => d

/-- Sets of a cache (Table 2-1); the set of a line is its number modulo them (DEDUCED, log 116). -/
def cacheSets : CacheId → Nat
  | .l1 _ => 256
  | .rdc _ => 16384
  | .l2 _ => 65536
  | .mdc _ => 1

/-- A line leaves a cache; its dirty bytes go where that cache writes back (R38, R44, R399). -/
def State.evict (s : State) (c : CacheId) (line : Nat) : State :=
  match findLine (s.cached c) line with
  | none => s
  | some l =>
    match c with
    | .l1 k => (s.updCore k fun k => { k with l1 := dropLine k.l1 line }).writePoc (dieOf k) l
    | .rdc d => (s.updRdc d fun rs => dropLine rs line).writeHome l
    | .l2 d => s.evictL2 d l
    | .mdc d => s.evictMdc d l

/-! ## Counts and records -/

/-- A corrected error counts in CECNT of the channel of a byte, on some die (Table 16-1; for a cache, the die on which it stands: DESIGN
CHOICE, log 116). -/
def State.countError (s : State) (die ia : Nat) : State :=
  let off := 0x100 + 8 * bits ia 8 3
  s.setReg die off 8 (min (s.reg die off 8 + 1) (2 ^ 64 - 1))

/-- The error record of a line of a cache: none for an L1 (R61). -/
def State.lineRecord (s : State) (c : CacheId) (kind : Nat) (l : Line) (ia : Nat) : State :=
  match c with
  | .l1 _ => s
  | _ => s.deviceRecord kind (cacheDie c * 64 + bits ia 8 3 * 8) l.owner 0 ia 0

/-- KIND of an error in the data of a cache (Table 16-5). -/
def dataKind : CacheId → Nat
  | .mdc _ => 3
  | _ => 2

/-- What R61 names: the metadata granule, else the line. -/
def dataIa (c : CacheId) (line g : Nat) : Nat :=
  match c with
  | .mdc _ => line * 64 + 8 * g
  | _ => line * 64

/-! ## What is lost -/

def spoilMark (ps : List PoisonAt) (i : Nat) : List PoisonAt := { idx := i, poison := hardPoison } :: ps.filter fun q => q.idx != i

def Line.dirtyAt (l : Line) (g : Nat) : Bool := l.dirty &&& spanMask (8 * g) 8 != 0

/-- A granule that holds a dirty byte is poisoned. -/
def Line.loseGranule (l : Line) (g : Nat) : Line := { l with poison := spoilMark l.poison g }

/-- A granule with no dirty byte is fetched again; a clean line leaves the cache for that. -/
def Line.refetch (l : Line) (g : Nat) : Option Line :=
  if l.isDirty then some { l with valid := l.valid &&& ~~~spanMask (8 * g) 8, poison := l.poison.filter fun q => q.idx != g } else none

/-- Every dirty granule of a line whose tag is lost is poisoned; a clean line goes. -/
def Line.loseTag (l : Line) : Option Line :=
  if l.isDirty then some ((List.range 8).foldl (fun l g => if l.dirtyAt g then l.loseGranule g else l) l) else none

/-- An uncorrectable error in a granule of a cached line. It counts where a clean line is fetched again, and is recorded where a granule
is poisoned (DEDUCED, log 116). -/
def State.dataError (s : State) (c : CacheId) (line g : Nat) : State :=
  match findLine (s.cached c) line with
  | none => s
  | some l =>
    let put := fun (x : Option Line) (s : State) => s.updCached c fun ls => ls.filterMap fun y => if y.line = line then x else some y
    if l.dirtyAt g then (put (some (l.loseGranule g)) s).lineRecord c (dataKind c) l (dataIa c line g)
    else (put (l.refetch g) s).countError (cacheDie c) (line * 64)

/-- An uncorrectable error in a tag of a set of an L2, an RDC or an L1: one record, which names the line whose tag it is (R61). -/
def State.tagError (s : State) (c : CacheId) (line : Nat) : State :=
  let inSet := fun (l : Line) => l.line % cacheSets c == line % cacheSets c
  match findLine (s.cached c) line with
  | none => s
  | some l => (s.updCached c fun ls => ls.filterMap fun x => if inSet x then x.loseTag else some x).lineRecord c 4 l (line * 64)

/-- A corrected error of a core's scratchpad, register files or queues. -/
def State.countCore (s : State) (c : Nat) : State := s.updCore c fun k => { k with corrected := k.corrected + 1 }

def Val.lost (v : Val) : Val := { v with poison := some hardPoison }

/-- An error that shows: corrected, or not when `hard`. -/
def State.storageError (s : State) (hard : Bool) : ErrorSite → State
  | .memory b =>
    if 3 < b * 32 / 2 ^ 48 then s
    else if hard then (if s.flaws.contains b then s else { s with flaws := b :: s.flaws })
    else s.countError (b * 32 / 2 ^ 48) (b * 32)
  | .data c line g =>
    if 8 ≤ g then s else if hard then s.dataError c line g
    else if (findLine (s.cached c) line).isSome then s.countError (cacheDie c) (line * 64) else s
  | .tag c line =>
    match c with
    | .mdc _ => s
    | _ => if hard then s.tagError c line else s
  | .parity c line =>
    s.updCore c fun k => { k with kcache := dropLine k.kcache line, scache := dropLine k.scache line, tcache := dropLine k.tcache line,
                                  icache := k.icache.filter fun x => x.ia.toNat / 64 != line }
  | .scratch c w =>
    if 65536 ≤ w then s else if hard then s.updCore c fun k => { k with spadPoison := spoilMark k.spadPoison w } else s.countCore c
  | .scalar gid sl r => if hard then s.updSlice gid sl fun x => { x with scal := updAt x.scal r Val.lost } else s.countCore (s.coreOf gid)
  | .vector gid sl r l => if hard then s.updSlice gid sl fun x => { x with vregs := updAt x.vregs r fun vs => updAt vs l Val.lost }
    else s.countCore (s.coreOf gid)
  | .queue gid q e l =>
    if hard then
      s.updGroup gid fun g => { g with queues := updAt g.queues q fun (x : Queue) =>
        { x with entries := updAt x.entries e fun (y : QEntry) => { y with vals := updAt y.vals l Val.lost } } }
    else s.countCore (s.coreOf gid)

end Sys2Proof.Machine
end

