-- ==== Sys2Proof/Machine/Migration.lean ====
section
/-!
DEFINITION. Page migration at a home, and the home's copy of the procedural range table with its fill timeouts (01 R29 to R32,
05 R109, R110, R122).
-/

namespace Sys2Proof.Machine

/-! ## The migration ring (R29, R30) -/

/-- Die and aperture offset of MIGBASE of a home; MIGPROD lies 8 and MIGCONS 12 bytes above. -/
def migRegs (h : Nat) : Nat × Nat := if h = 8 then (0, 0x10100) else (h, 0x10)

def State.migBase (s : State) (h : Nat) : Nat := s.reg (migRegs h).1 (migRegs h).2 8
def State.migProd (s : State) (h : Nat) : Nat := s.reg (migRegs h).1 ((migRegs h).2 + 8) 4
def State.migCons (s : State) (h : Nat) : Nat := s.reg (migRegs h).1 ((migRegs h).2 + 12) 4

/-- MIGPROD_WRITE: the doorbell is taken, or ignored with a record when more than 64 commands would be outstanding; so it is where MIGBASE
names no C-die home (DESIGN CHOICE, log 106). -/
def State.migDoorbell (s : State) (h v : Nat) : State :=
  if s.migBase h = 0 ∨ 3 < homeOf (s.migBase h) ∨ 64 < (v + 2 ^ 32 - s.migCons h) % 2 ^ 32 then
    s.deviceRecord 0x17 ((migRegs h).1 * 64) 0xFFF v 0 0
  else s.setReg (migRegs h).1 ((migRegs h).2 + 8) 4 v

def execMigprodWrite (home : Nat) (value : W32) (s : State) : Host.Outcome State Fault Refusal :=
  .next (if translates home then s.migDoorbell home value.toNat else s)

/-- IA of command k. -/
def State.migAt (s : State) (h k : Nat) : Nat := s.migBase h + 32 * (k % 64)

/-- MIGCONS passes every ended command whose predecessors have ended, each with its event. -/
def State.migAdvance (s : State) (h : Nat) : Nat → State
  | 0 => s
  | n + 1 =>
    let c := s.migCons h
    if !(s.home h).ended.contains c then s else
    let s := s.updHome h fun x => { x with ended := x.ended.filter (· != c) }
    let s := s.setReg (migRegs h).1 ((migRegs h).2 + 12) 4 ((c + 1) % 2 ^ 32)
    (s.event 5 h ((c + 1) % 2 ^ 32)).migAdvance h n

/-- A command ends: its STATUS is written, then MIGCONS advances. -/
def State.migEnd (s : State) (h k status : Nat) : State :=
  let s := s.hwWrite (s.migAt h k + 24) (leBytes 8 status)
  let s := s.updHome h fun x => { x with ended := k :: x.ended, migs := x.migs.filter fun (m : Mig) => m.cmd != k }
  s.migAdvance h 64

/-! ## Copying (R31) -/

/-- The key of a frame lies in C-die memory. -/
def dieKey (key : Nat) : Bool := decide (key / 2 ^ 48 ≤ 3)

def State.updMig (s : State) (h k : Nat) (f : Mig → Mig) : State :=
  s.updHome h fun x => { x with migs := updWhere x.migs (fun m => m.cmd == k) f }

def State.mig? (s : State) (h k : Nat) : Option Mig := (s.home h).migs.find? fun m => m.cmd == k

/-- The leaf of a migrated page: the new frame, MIG as given. -/
def newLeaf (leaf frame fhome mig : Nat) : Nat :=
  leaf % 2 ^ 28 - bits leaf 4 4 * 16 - boolNat (entMig leaf) * 4 + fhome * 16 + mig * 4 + frame * 2 ^ 28

/-- The leaf that a migration installs at its end. -/
def State.migLeaf (s : State) (m : Mig) : Nat := newLeaf (s.memNat m.leafAt 8) (m.newF % 2 ^ 48 / 4096) (m.newF / 2 ^ 48) 0

/-- Writes one line of the new frame, under the key of the new leaf; to the host it goes as a WRITE, which carries no poison (Table 16-9;
DESIGN CHOICE, log 105). -/
def State.putLine (s : State) (h : Nat) (m : Mig) (ln : Nat) (bs : List PByte) : State :=
  let key := m.newF + 64 * ln
  if dieKey key then (s.memWrite key bs).setSeal (key / 64) (key / 64 + 1) (s.keyId (s.migLeaf m))
  else
    let tag := s.nextSeq 8
    (s.send 8 2 false 0x02 tag (BitVec.ofNat 64 key) (leBytes 2 64 ++ [6, 0] ++ values bs)).updMig h m.cmd fun x => { x with acks := tag :: x.acks }

/-- A line of the old frame, as the home has it; an uncorrectable error poisons the line, with a record of its own kind. -/
def State.oldLine (s : State) (m : Mig) (ln : Nat) : List PByte × State :=
  let key := m.oldF + 64 * ln
  let ia := m.page + 64 * ln
  let read := fun (s : State) => s.keyedRead key (s.memNat m.leafAt 8) 64
  if s.flawed key 64 then
    let s := ([key / 32, key / 32 + 1].filter s.flaws.contains).foldl State.poisonFlaw s
    ((read s).map fun b => (b.1, some hardPoison), s.deviceRecord 0x06 (unitOf ia) (s.stamp (key / 65536)) 0 ia 0)
  else (read s, s)

/-- Copies one line, or asks the host for it. -/
def State.copyLine (s : State) (h : Nat) (m : Mig) (ln : Nat) : State :=
  let key := m.oldF + 64 * ln
  if dieKey key then
    let (bs, s) := s.oldLine m ln
    s.putLine h m ln bs
  else
    let tag := s.nextSeq 8
    (s.send 8 2 false 0x01 tag (BitVec.ofNat 64 key) (leBytes 2 64 ++ [6, 0])).updMig h m.cmd fun x => { x with reads := (tag, ln) :: x.reads }

def State.copyLines (s : State) (h : Nat) (m : Mig) (ls : List Nat) : State := ls.foldl (fun (s : State) ln => s.copyLine h m ln) s

/-- The status in which the checks of a command end, or the migration that it starts. -/
def State.migCheck (s : State) (h k : Nat) (bs : List Byte) : Except Nat Mig :=
  let w0 := fieldAt bs 0 8
  let w1 := fieldAt bs 8 8
  let w2 := fieldAt bs 16 4
  if bits w0 52 12 ≠ 0 ∨ bits w0 0 12 ≠ 0 ∨ bits w1 8 20 ≠ 0 ∨ bits w1 0 4 ≠ 0 ∨ bits w2 4 12 ≠ 0 ∨ fieldAt bs 20 4 ≠ 0 ∨
      8 < bits w2 0 4 ∨ homeOf w0 ≠ h then .error 4 else
  match s.walkKeyed h w0 with
  | .bad => .error 5
  | .noKey => .error 5
  | .ecc _ => .error 5
  | .miss _ _ => .error 3
  | .hit base b leaf at_ =>
    let nl := newLeaf leaf (bits w1 28 36) (bits w1 4 4) 0
    if base ≠ w0 ∨ !leafOk h nl b then .error 4
    else if entMig leaf then .error 2
    else
      .ok { cmd := k, page := w0, bits := b, leafAt := at_, oldF := leafKey leaf b w0, newF := leafKey nl b w0,
            thresh := if bits w2 16 16 = 0 then 32 else bits w2 16 16, maxRnd := if bits w2 0 4 = 0 then 8 else bits w2 0 4,
            round := 1, dirty := [], frozen := false, reads := [], acks := [] }

/-- Lines that the home's caches hold of a span of device memory go back to it (R399). -/
def State.evictSpan (s : State) (key n : Nat) : State :=
  if !dieKey key then s else
  let d := key / 2 ^ 48
  let meets := fun (l : Line) => decide (key < l.phys * 64 + 64) && decide (l.phys * 64 < key + n)
  let s := ((s.mdcOf d).filter meets).foldl (fun s l => s.evictMdc d l) s
  ((s.l2Of d).filter meets).foldl (fun s l => s.evictL2 d l) s

/-- Cached lines of a moved page stand over the new frame from now on (R29). -/
def State.retag (s : State) (m : Mig) : State :=
  let f := fun (l : Line) =>
    let ia := l.line * 64
    if m.page ≤ ia ∧ ia < m.page + 2 ^ m.bits then
      { l with frame := if dieKey m.newF then (m.newF + (ia - m.page)) / 65536 else ia / 65536 }
    else l
  { s with cores := s.cores.map fun (k : Core) =>
             { k with l1 := k.l1.map f, kcache := k.kcache.map f, scache := k.scache.map f, tcache := k.tcache.map f },
           rdcs := s.rdcs.map (·.map f), l2 := s.l2.map (·.map f), mdc := s.mdc.map (·.map f) }

/-- Lines of the old frame that WRITEs and ATOMICs on their way to the host will write (R31). -/
def State.migDue (s : State) (m : Mig) : List Nat :=
  if dieKey m.oldF then [] else
  (List.range (2 ^ (m.bits - 6))).filter fun ln => (s.stream 8).out.any fun (x : Msg) => x.writes && x.meets (m.oldF + 64 * ln) 64

/-- MIGRATION_COMMAND_START: the home checks the next command, sets MIG, and round 1 copies every line; those that writes on their way will
change count as rewritten. The new frame keeps its
stamp: a frame stamped for another owner is zeroed when a walk installs the new leaf (R138, R389). -/
def State.migStart (s : State) (h : Nat) : State :=
  let k := (s.home h).migNext
  if s.migBase h = 0 ∨ k = s.migProd h ∨ 8 ≤ (s.home h).migs.length then s else
  let bs := (s.hwRead (s.migAt h k) 32).getD (List.replicate 32 0)
  let s := s.updHome h fun x => { x with migNext := (k + 1) % 2 ^ 32 }
  match s.migCheck h k bs with
  | .error st => s.migEnd h k st
  | .ok m =>
    let leaf := s.memNat m.leafAt 8
    let s := (s.memWrite m.leafAt (plain (leBytes 8 (leaf + 4)))).evictSpan m.newF (2 ^ m.bits)
    (s.updHome h fun x => { x with migs := x.migs ++ [{ m with dirty := s.migDue m }] }).copyLines h m (List.range (2 ^ (m.bits - 6)))

def execMigrationCommandStart (home : Nat) (s : State) : Host.Outcome State Fault Refusal :=
  .next (if translates home then s.migStart home else s)

/-- MIGRATION_ROUND_END: the next round copies the rewritten lines, or the page is frozen. -/
def State.migRound (s : State) (h k : Nat) : State :=
  match s.mig? h k with
  | none => s
  | some m =>
    if m.frozen ∨ !m.reads.isEmpty ∨ !m.acks.isEmpty then s
    else if m.dirty.length ≤ m.thresh ∨ m.maxRnd ≤ m.round then s.updMig h k fun m => { m with frozen := true }
    else (s.updMig h k fun m => { m with dirty := [], round := m.round + 1 }).copyLines h m m.dirty

def execMigrationRoundEnd (home cmd : Nat) (s : State) : Host.Outcome State Fault Refusal := .next (s.migRound home cmd)

/-- A write to the old frame that has been sent to the host is not acknowledged yet. -/
def State.migFlying (s : State) (m : Mig) : Bool :=
  !dieKey m.oldF && (s.stream 8).out.any fun (x : Msg) => x.writes &&
    decide (m.oldF ≤ x.addr.toNat) && decide (x.addr.toNat < m.oldF + 2 ^ m.bits)

/-- MIGRATION_FREEZE_DONE: the remaining lines are copied; then the leaf names the new frame, the cached entry goes, the held
requests are released and STATUS is DONE. -/
def State.migDone (s : State) (h k : Nat) : State :=
  match s.mig? h k with
  | none => s
  | some m =>
    if !m.frozen ∨ !m.reads.isEmpty ∨ !m.acks.isEmpty ∨ s.migFlying m then s
    else if !m.dirty.isEmpty then (s.updMig h k fun m => { m with dirty := [] }).copyLines h m m.dirty
    else
      let s := (s.memWrite m.leafAt (plain (leBytes 8 (s.migLeaf m)))).retag m
      let s := s.updHome h fun x => { x with tlb := x.tlb.filter fun t => !(decide (t.base < m.page + 2 ^ m.bits) && decide (m.page < t.base + 2 ^ t.bits)) }
      s.migEnd h k 1

def execMigrationFreezeDone (home cmd : Nat) (s : State) : Host.Outcome State Fault Refusal := .next (s.migDone home cmd)

/-! ## The procedural range table (R109, R110) -/

def prtOf (n : Nat) (bs : List Byte) : Prt :=
  let w3 := fieldAt bs 12 4
  { entry := n, base := bits (fieldAt bs 0 8) 16 36 * 65536, nblk := fieldAt bs 8 4, bsz := bits w3 31 1, level := bits w3 24 5,
    ptmo := bits w3 12 12, pctx := bits w3 0 12, pva := BitVec.ofNat 64 (fieldAt bs 16 8), code := BitVec.ofNat 64 (fieldAt bs 24 8),
    arg := BitVec.ofNat 64 (fieldAt bs 32 8), fst := fieldAt bs 40 8, fail := fieldAt bs 48 8, pin := fieldAt bs 56 8 }

/-- An entry with V = 1 that the home refuses. -/
def State.prtBad (s : State) (die : Nat) (bs : List Byte) (p : Prt) : Bool :=
  let w0 := fieldAt bs 0 8
  let others := (s.home die).prts.filter fun q => q.entry != p.entry
  let tables := [p.fst, p.fail, p.pin]
  bits w0 52 12 != 0 || bits w0 1 15 != 0 || bits (fieldAt bs 12 4) 29 2 != 0 || bits p.fst 52 12 != 0 || bits p.fst 0 6 != 0 ||
    bits p.fail 52 12 != 0 || bits p.fail 0 3 != 0 || bits p.pin 52 12 != 0 || bits p.pin 0 3 != 0 || decide (22 < p.level) ||
    homeOf p.base != die || p.base % p.blockSize != 0 || decide (2 ^ 48 < p.base % 2 ^ 48 + p.size) ||
    others.any (fun q => decide (q.base < p.base + p.size) && decide (p.base < q.base + q.size)) ||
    tables.any fun t => homeOf t != die || p.covers t || others.any fun q => q.covers t

/-- PRT_ENTRY_WRITE: a write of bytes 0–7 of an entry updates the home's copy, or is refused. -/
def State.prtWrite (s : State) (die n : Nat) : State :=
  let at_ := s.reg die 8 8 + 64 * n
  if 3 < die ∨ 63 < n ∨ s.reg die 8 8 = 0 then s else
  match s.hwRead at_ 64 with
  | none => s
  | some bs =>
    let s := s.updHome die fun x => { x with prts := x.prts.filter fun q => q.entry != n }
    let p := prtOf n bs
    if !bitN (fieldAt bs 0 8) 0 then s
    else if s.prtBad die bs p then s.deviceRecord 0x10 (die * 64) (s.stampOf at_) n at_ 0
    else s.updHome die fun x => { x with prts := x.prts ++ [p] }

/-- A home whose PRTBASE is written takes up the table that it names, and has no range where it names none (R109, R357). -/
def State.loadPrts (s : State) (die : Nat) : State :=
  (List.range 64).foldl (fun (s : State) n => s.prtWrite die n) (s.updHome die fun x => { x with prts := [] })

def execPrtEntryWrite (die entry : Nat) (s : State) : Host.Outcome State Fault Refusal := .next (s.prtWrite die entry)

/-- FILL_TIMEOUT: PTMO × 16 µs have passed since the block went FILLING (R122). -/
def State.fillTimeout (s : State) (die entry blk : Nat) : State :=
  match s.merge? die entry blk with
  | some m =>
    if m.prt.ptmo = 0 ∨ s.time.toNat < m.since.toNat + m.prt.ptmo * 16000 then s else s.failFill die entry blk 0x16 4 0
  | none => s

def execFillTimeout (die entry block : Nat) (s : State) : Host.Outcome State Fault Refusal := .next (s.fillTimeout die entry block)

end Sys2Proof.Machine
end

