-- ==== Sys2Proof/Machine/Vanar.lean ====
section
/-!
DEFINITION. Vanar: messages that arrive, acknowledgements, timeouts and failover, and the collective groups (03 R89, R90, 05
R115, 08 R193, 16 R359 to R367).
-/

namespace Sys2Proof.Machine

/-! ## Streams (R362) -/

/-- What becomes of a message by its number. -/
inductive Arrive
  | fresh
  /-- Accepted before and not performed yet. -/
  | again
  /-- Accepted before, or below E. -/
  | dup
  /-- At or beyond E + 1,024. -/
  | far
  /-- No valid slot names its sender. -/
  | unknown
  deriving DecidableEq, Repr

def State.arrival (s : State) (slot : Nat) (seq : W32) : Arrive :=
  if !(s.endpoint slot).valid then .unknown else
  let x := s.stream slot
  let d := (seq - x.e).toNat
  if x.held.contains seq then .again
  else if d < 1024 then (if x.got.contains seq then .dup else .fresh)
  else if d < 2 ^ 31 then .far
  else .dup

/-- E passes the numbers accepted in a row. -/
def Stream.advance (x : Stream) : Nat → Stream
  | 0 => x
  | n + 1 => if x.got.contains x.e then ({ x with e := x.e + 1, got := x.got.filter (· != x.e) } : Stream).advance n else x

/-- Accepts a message: it will be acknowledged. -/
def State.accept (s : State) (slot : Nat) (seq : W32) : State :=
  s.updStream slot fun x => ({ x with got := seq :: x.got, held := x.held.filter (· != seq), unackd := true } : Stream).advance 1025

/-- Counts a discarded frame of a port. -/
def State.countDiscard (s : State) (port : Nat) : State :=
  { s with ports := updAt s.ports port fun (p : Port) => { p with discard := p.discard + 1 } }

/-- Vanar answers: start-up has brought the ports up, and the device is not in the ghost light (R375, R383). -/
def State.linkOpen (s : State) : Bool := !s.ghost && decide (4 ≤ s.urxia.started)

/-- A message accepted before is acknowledged again; the stored response to it, while it is kept, is sent again under its own number. -/
def State.dupe (s : State) (slot : Nat) (seq : W32) : State :=
  s.updStream slot fun x =>
    { x with unackd := true,
             out := x.out.map fun (m : Msg) =>
               if m.sent && x.stored.any (fun y => y.req == seq && y.rsp == m.seq) then { m with since := s.time } else m }

/-- Performs a message once, as its number says. -/
def State.once (s : State) (h : MsgHdr) (go : State → State) : State :=
  if !s.linkOpen then s else
  match s.arrival h.slot h.seq with
  | .fresh => go s
  | .again => go s
  | .dup => s.dupe h.slot h.seq
  | .far => s
  | .unknown => s.countDiscard (s.portFor h.slot)

/-- Accepts a request and answers it; the response is kept until it is acknowledged. -/
def State.respond (s : State) (h : MsgHdr) (type status : Nat) (data : List Byte) : State :=
  let pad := List.replicate ((4 - data.length % 4) % 4) (0 : Byte)
  let n := s.nextSeq h.slot
  let s := s.accept h.slot h.seq
  let s := s.updStream h.slot fun x => { x with stored := { req := h.seq, rsp := n } :: x.stored }
  s.send h.slot 1 true type h.tag 0 (leBytes 4 status ++ data ++ pad)

/-! ## Requests to this device's homes (R108, R115, R129, R360) -/

/-- The request of an endpoint, of level 0 and depth 0. -/
def State.slotReq (s : State) (slot : Nat) (write : Bool) : Req :=
  { core := 0, ctx := 0, owner := (s.endpoint slot).owner, prot := false, wprot := false, pwin := none, write := write,
    exempt := false, level := 0, team := none }

/-- The status in which a READ or an ATOMIC ends that its home does not perform; none for a block that is FILLING. How a
page miss is reported is the model's own code, 4 + PGSZ; that a full merge table answers with retry, and leaves a WRITE unaccepted, is its
choice too (DESIGN CHOICE, log 107). -/
def gateStatus : Gate → Option Nat
  | .miss _ b => some (4 + pgsz b)
  | .filling _ _ _ => none
  | .full => some 2
  | .held => some 2
  | _ => some 1

/-- Holds a request until its block leaves FILLING, or answers retry when 64 are held (R115). -/
def State.deferMsg (s : State) (h : MsgHdr) (i : Instr) (type die entry blk : Nat) : State :=
  if 64 ≤ (s.home die).deferred.length then s.respond h type 2 [] else
  let s := s.accept h.slot h.seq
  let s := s.updStream h.slot fun x => { x with held := h.seq :: x.held }
  s.updHome die fun x => { x with deferred := x.deferred ++ [{ slot := h.slot, msg := i, entry := entry, blk := blk }] }

/-- What a home does with a READ or an ATOMIC of an endpoint: `go` performs it at its key. -/
def State.serve (s : State) (h : MsgHdr) (i : Instr) (type : Nat) (write : Bool) (go : Req → Nat → Nat → State → State) : State :=
  let ia := h.addr.toNat % 2 ^ 52
  let r := s.slotReq h.slot write
  if r.owner = 0xFFF then s.respond h type 1 [] else
  match s.gate r ia with
  | (.go key _ _, s) => go r ia key s
  | (.filling die entry blk, s) => s.deferMsg h i type die entry blk
  | (.poisoned _ _ _ _, s) => (if write then s.poisonedWrite r ia else s).respond h type 1 []
  | (g, s) => s.respond h type ((gateStatus g).getD 1) []

def isPow2 (n : Nat) : Bool := (List.range 9).any fun i => n == 2 ^ i

/-- VANAR_READ: COUNT bytes at their home; poison goes in no message and refuses the read. -/
def State.vanarRead (s : State) (h : MsgHdr) (count : Nat) (i : Instr) : State :=
  s.once h fun s =>
    if !isPow2 count || h.addr.toNat % count != 0 then s.respond h 1 3 []
    else if inAperture (h.addr.toNat % 2 ^ 52) then
      if (s.endpoint h.slot).owner = 0 then
        s.respond h 1 0 (leBytes count (s.regRead (homeOf (h.addr.toNat % 2 ^ 52)) (h.addr.toNat % 2 ^ 40) count))
      else s.respond h 1 1 []
    else
      s.serve h i 1 false fun _ ia key s =>
        let (bs, s) := s.homeRead ia key count
        if (anyPoison bs).isSome then s.respond h 1 1 [] else s.respond h 1 0 (values bs)

def execVanarRead (h : MsgHdr) (count : Nat) (scope : Scope) (ord : Order) (s : State) : Host.Outcome State Fault Refusal :=
  .next (s.vanarRead h count (.vanarRead h count scope ord))

/-- Holds a WRITE until its block leaves FILLING; it is accepted when it is performed. -/
def State.deferWrite (s : State) (h : MsgHdr) (i : Instr) (die entry blk : Nat) : State :=
  if 64 ≤ (s.home die).deferred.length ∨ (s.home die).deferred.any (fun d => d.msg == i) then s
  else s.updHome die fun x => { x with deferred := x.deferred ++ [{ slot := h.slot, msg := i, entry := entry, blk := blk }] }

/-- VANAR_WRITE: performed at its home, which its acknowledgement reports. One that misses is not accepted yet; one that is
refused is discarded. -/
def State.vanarWrite (s : State) (h : MsgHdr) (data : List Byte) (i : Instr) : State :=
  s.once h fun s =>
    let ia := h.addr.toNat % 2 ^ 52
    let r := s.slotReq h.slot true
    if data.length < 1 ∨ 256 < ia % 256 + data.length ∨ r.owner = 0xFFF then s.accept h.slot h.seq
    else
      match s.gate r ia with
      | (.go key _ _, s) => (s.homeWrite ia key (plain data)).accept h.slot h.seq
      | (.aperture die off, s) =>
        ({ s with due := s.due ++ regWrites die off 32 data } : State).accept h.slot h.seq
      | (.filling die entry blk, s) => s.deferWrite h i die entry blk
      | (.poisoned _ _ _ _, s) => (s.poisonedWrite r ia).accept h.slot h.seq
      | (.miss _ _, s) => s
      | (.full, s) => s
      | (.held, s) => s
      | (_, s) => s.accept h.slot h.seq

def execVanarWrite (h : MsgHdr) (scope : Scope) (ord : Order) (data : List Byte) (s : State) : Host.Outcome State Fault Refusal :=
  .next (s.vanarWrite h data (.vanarWrite h scope ord data))

/-- VANAR_ATOMIC: one indivisible step at its home; a poisoned location keeps its value. -/
def State.vanarAtomic (s : State) (h : MsgHdr) (aop : BitVec 4) (ty : Ty) (v new : W64) (i : Instr) : State :=
  s.once h fun s =>
    if 10 < aop.toNat ∨ !Encoding.aopTy aop.toNat ty ∨ h.addr.toNat % ty.size ≠ 0 then s.respond h 3 3 []
    else if inAperture (h.addr.toNat % 2 ^ 52) then s.respond h 3 1 []
    else
      s.serve h i 3 true fun _ ia key s =>
        let (old, s) := s.homeRead ia key ty.size
        if (anyPoison (s.memRead (key / 8 * 8) 8)).isSome then s.respond h 3 1 [] else
        let s := s.homeWrite ia key (plain (atomBytes aop.toNat ty (leBytes ty.size v.toNat ++ leBytes ty.size new.toNat) (values old)))
        s.respond h 3 0 (leBytes 8 (leNat (values old)))

def execVanarAtomic (h : MsgHdr) (aop : BitVec 4) (ty : Ty) (scope : Scope) (ord : Order) (v new : W64) (s : State) :
    Host.Outcome State Fault Refusal :=
  .next (s.vanarAtomic h aop ty v new (.vanarAtomic h aop ty scope ord v new))

/-! ## Configuration messages (R357, R359, R360) -/

/-- Die and aperture offset of a configuration message. -/
def cfgDie (a : W64) : Nat := bits a.toNat 48 4
def cfgOff (a : W64) : Nat := bits a.toNat 0 48

def cfgGood (a : W64) (size : Nat) : Bool :=
  (size == 4 || size == 8) && decide (cfgDie a ≤ 3) && cfgOff a % size == 0

/-- A message that needs CFG, from a slot that has it. -/
def State.onceCfg (s : State) (h : MsgHdr) (go : State → State) : State :=
  s.once h fun s => if (s.endpoint h.slot).cfg then go s else s

def execCfgread (h : MsgHdr) (size : Nat) (s : State) : Host.Outcome State Fault Refusal :=
  .next (s.onceCfg h fun s =>
    if !cfgGood h.addr size then s.respond h 5 3 []
    else s.respond h 5 0 (leBytes size (s.regRead (cfgDie h.addr) (cfgOff h.addr) size)))

def execCfgwrite (h : MsgHdr) (size : Nat) (value : W64) (s : State) : Host.Outcome State Fault Refusal :=
  .next (s.onceCfg h fun s =>
    let s := s.accept h.slot h.seq
    if !cfgGood h.addr size then s
    else { s with due := s.due ++ [.registerWrite (cfgDie h.addr) (cfgOff h.addr) size value] })

/-! ## Collective groups (R193, R367) -/

/-- Number of a member: 0 this device, i + 1 peer i. -/
def memberOf (slot : Nat) : Nat := slot - 8

/-- An endpoint is a peer that MEMBERS of the group names: only such a one sends its tokens and steps (Table 16-9). -/
def State.isMember (s : State) (cgid : BitVec 16) (slot : Nat) : Bool := decide (8 < slot) && bitN (s.members cgid) (memberOf slot)

/-- VANAR_ABORT: halts every launch of the group, with the code of the token. -/
def State.abortGroup (s : State) (cgid : BitVec 16) (code : Nat) : State :=
  let ls := s.launches.filter fun l => l.cgid == cgid && s.groupOf l != 0
  let s := ls.foldl (fun (s : State) l => s.abortLaunch l.lid true code) s
  ls.foldl (fun (s : State) l => s.checkAbort l.lid) s

def execVanarAbort (h : MsgHdr) (cgid code : BitVec 16) (s : State) : Host.Outcome State Fault Refusal :=
  .next (s.once h fun s =>
    let s := s.accept h.slot h.seq
    if s.isMember cgid h.slot then s.abortGroup cgid code.toNat else s)

/-- A member's committed step arrives, or counts as 0. -/
def State.memberStep (s : State) (cgid : BitVec 16) (member : Nat) (v : W32) : State :=
  let put := fun (l : List (Nat × W32)) => if l.any fun x => x.1 == member then l else l ++ [(member, v)]
  let ls := s.launches.filter fun l => l.cgid == cgid && s.groupOf l != 0
  let s := if s.collectives.any fun c => c.cgid == cgid then
      { s with collectives := updWhere s.collectives (fun c => c.cgid == cgid) fun (c : Collective) => { c with steps := put c.steps } }
    else { s with collectives := s.collectives ++ [{ cgid := cgid, steps := put [] }] }
  let s := ls.foldl (fun (s : State) l => s.updLaunch l.lid fun (l : Launch) => { l with steps := put l.steps }) s
  ls.foldl (fun (s : State) l => s.checkAbort l.lid) s

def execVanarStep (h : MsgHdr) (cgid : BitVec 16) (committed : W32) (s : State) : Host.Outcome State Fault Refusal :=
  .next (s.once h fun s =>
    let s := s.accept h.slot h.seq
    if s.isMember cgid h.slot then s.memberStep cgid (memberOf h.slot) committed else s)

/-- The re-send timeout and the path-failure timeout in ns; 0 acts as 1 (Table 16-11). -/
def State.rto (s : State) : Nat := max 1 (s.reg 0 0x10084 2) * 10 ^ 3
def State.vtmo (s : State) : Nat := max 1 (s.reg 0 0x10088 2) * 10 ^ 6

/-- COLLECTIVE_STEP_TIMEOUT: a member that has sent nothing within VTMO counts as step 0. -/
def execCollectiveStepTimeout (cgid : BitVec 16) (member : Nat) (s : State) : Host.Outcome State Fault Refusal :=
  .next (if 1 ≤ member ∧ member ≤ 6 ∧
      s.launches.any fun l => l.cgid == cgid && l.abort.isSome && decide (l.abortAt.toNat + s.vtmo ≤ s.time.toNat)
    then s.memberStep cgid member 0 else s)

/-! ## Responses (R115, R360, R362) -/

/-- A position in a list of the element that satisfies `p`. -/
def findAcc (accs : List Acc) (st : LaneSt) : Option (Acc × Nat × LaneAcc) :=
  accs.findSome? fun a => (a.lanes.zipIdx.find? fun x => x.1.st == st).map fun x => (a, x.2, x.1)

/-- The response to a lane's READ or ATOMIC; `fresh` when its line may join the caches. An atomic of scope GRP or CORE that has asked for its
line is performed in the L1 once the line stands there (R77); a store has probed a peer (R38). -/
def State.laneAnswer (s : State) (a : Acc) (i : Nat) (l : LaneAcc) (slot : Nat) (tag : W32) (fresh : Bool) (status : Nat) (data : List Byte) :
    State :=
  match s.accReq a l with
  | none => s
  | some r =>
    if status = 0 then
      let ia := l.ia.toNat
      match a.kind with
      | .load =>
        let (bs, s) := if a.path = .k then s.readKSGot r r.core a.scope false (!a.nol1) fresh ia a.size (plain data)
          else s.readGot r r.core a.scope (decide (a.ord = .sc)) (!a.nol1) fresh ia a.size (plain data)
        s.laneDone a i r bs
      | .sample _ =>
        let (bs, s) := s.readKSGot r r.core a.scope true true fresh ia l.data.length (plain data)
        s.laneDone a i r bs
      | .store => (s.probedWrite r r.core a.scope ia (plain l.data)).laneDone a i r []
      | _ =>
        if wide a.scope then s.laneDone a i r (plain (data.take a.ty.size))
        else ((s.readGot r r.core a.scope false true fresh ia a.size (plain data)).2.setLane a.id i .todo).homeAccess a.id i
    else if status = 2 then s.setLane a.id i (.retry slot tag)
    else if 4 ≤ status then
      if s.queueOk r.ctx then s.setLane a.id i (reportedPage status l.ia.toNat)
      else s.laneFails a i fatalQueue
    else s.laneFails a i fatalOwner

/-- The response to an engine unit's READ. -/
def State.unitAnswer (s : State) (e : Eng) (u : UnitSt) (slot : Nat) (tag : W32) (status : Nat) (data : List Byte) : State :=
  if status = 0 then (if s.engRuns e then (s.unitGot e u data).engMisses e.id else s.setUnit e.id { u with st := .todo })
  else if status = 2 then s.setUnit e.id { u with st := .retry slot tag }
  else if 4 ≤ status then
    if s.queueOk e.ctx then (s.setUnit e.id { u with st := reportedPage status (s.unitAt e u).1 }).engMisses e.id
    else s.engFatal e fatalQueue
  else s.engFatal e fatalOwner

def findUnit (engs : List Eng) (st : LaneSt) : Option (Eng × UnitSt) :=
  engs.findSome? fun e => (e.parked.find? fun u => u.st == st).map fun u => (e, u)

/-- The migration whose READ or WRITE at the host has this tag. -/
def State.migOf (s : State) (tag : W32) : Option (Nat × Mig) :=
  (List.range 9).findSome? fun h => ((s.home h).migs.find? fun m => m.acks.contains tag || m.reads.any fun x => x.1 == tag).map fun m => (h, m)

/-- A line of the old frame arrives from the host; a read that the host defers is sent again, and one that it refuses has lost the line, which
is poisoned in the new frame with a record to the page's owner (R31; DESIGN CHOICE, log 105). -/
def State.migAnswer (s : State) (h : Nat) (m : Mig) (tag : W32) (status : Nat) (data : List Byte) : State :=
  match m.reads.find? fun x => x.1 == tag with
  | none => s
  | some x =>
    let s := s.updMig h m.cmd fun m => { m with reads := m.reads.filter fun y => y.1 != tag }
    if status = 0 then s.putLine h m x.2 (plain ((data ++ List.replicate 64 0).take 64))
    else if status = 2 then s.copyLine h m x.2
    else
      let ia := m.page + 64 * x.2
      (s.putLine h m x.2 (poisonBytes 64 hardPoison)).deviceRecord 0x06 (unitOf ia) (entOwner (s.migLeaf m)) 0 ia 0

/-- The answer to a prefetch: its line joins the caches, or it is dropped (R287). -/
def State.prefetchGot (s : State) (p : Prefetch) (fresh : Bool) (status : Nat) (data : List Byte) : State :=
  let s := { s with prefetches := s.prefetches.erase p }
  let c := s.ctx p.ctx
  let r : Req := { core := p.core, ctx := p.ctx, owner := c.owner, prot := c.prot, wprot := p.wprot, pwin := some false, write := false,
                   exempt := false, level := 0, team := none }
  if status = 0 then (s.readGot r p.core .grp false p.alloc fresh p.ia 1 (plain data)).2 else s

/-- Nothing more is kept of a READ that has ended. -/
def State.forgetRead (s : State) (slot : Nat) (tag : W32) : State :=
  { s with stale := s.stale.filter (· != (slot, tag)), outdated := s.outdated.filter (· != (slot, tag)) }

/-- VANAR_RESPONSE: the answer reaches the lane, the unit, the read of code, the prefetch or the migration that asked. -/
def State.vanarResponse (s : State) (h : MsgHdr) (status : Nat) (data : List Byte) : State :=
  let st : LaneSt := .sent h.slot h.tag
  let fresh := !s.stale.contains (h.slot, h.tag)
  let again := status == 0 && s.outdated.contains (h.slot, h.tag)
  let s := s.forgetRead h.slot h.tag
  match findAcc s.accs st with
  | some (a, i, l) => if again then s.setLane a.id i .todo else (s.laneAnswer a i l h.slot h.tag fresh status data).logMisses a.id
  | none =>
    match findUnit s.engs st with
    | some (e, u) => if again then s.setUnit e.id { u with st := .todo } else s.unitAnswer e u h.slot h.tag status data
    | none =>
      if s.reads.any fun r => r.slot == h.slot && r.tag == h.tag then
        { s with reads := updWhere s.reads (fun r => r.slot == h.slot && r.tag == h.tag) fun (r : CodeRead) => { r with got := some (status, data) } }
      else
      match s.prefetches.find? fun p => p.slot == h.slot && p.tag == h.tag with
      | some p => s.prefetchGot p fresh status data
      | none =>
        match if h.slot = 8 then s.migOf h.tag else none with
        | some (home, m) => s.migAnswer home m h.tag status data
        | none => s

def execVanarResponse (h : MsgHdr) (status : W32) (data : List Byte) (s : State) : Host.Outcome State Fault Refusal :=
  .next (s.once h fun s => (s.accept h.slot h.seq).vanarResponse h status.toNat data)

/-! ## Acknowledgements (R360, R362) -/

/-- A WRITE of this device has been performed; the tag of a lane's or a unit's message is its number. -/
def State.writeAcked (s : State) (slot : Nat) (tag : W32) : State :=
  let st : LaneSt := .sent slot tag
  match findAcc s.accs st with
  | some (a, i, l) =>
    match a.kind, s.accReq a l with
    | .store, some r => (s.laneDone a i r []).logMisses a.id
    | _, _ => s
  | none =>
    match findUnit s.engs st with
    | some (e, u) =>
      if !u.dest then s
      else if s.engRuns e then (s.unitAcked e u).engMisses e.id
      else
        let (o, _) := s.unitPart e u.unit
        let ia := (e.dstRow (u.unit / 2 ^ 24) + o + u.wr).toNat
        s.setUnit e.id { u with st := .todo, wr := min u.data.length (u.wr + (256 - ia % 256)) }
    | none =>
      match if slot = 8 then s.migOf tag else none with
      | some (h, m) => s.updMig h m.cmd fun m => { m with acks := m.acks.filter (· != tag) }
      | none => s

/-- A message leaves its stream, and those that waited for it go (R89, R362). -/
def State.dropMsg (s : State) (slot : Nat) (seq : W32) : State :=
  (s.updStream slot fun x => { x with out := x.out.filter fun m => m.seq != seq }).pump slot

/-- One message is acknowledged. -/
def State.ackOne (s : State) (slot : Nat) (m : Msg) : State :=
  let s := (s.dropMsg slot m.seq).updStream slot fun x => { x with stored := x.stored.filter fun y => !(m.rsp && y.rsp == m.seq) }
  if m.type = 2 ∧ !m.rsp then s.writeAcked slot m.seq else s

/-- Numbers that an ACK covers. -/
def acksSeq (e : W32) (accepted : W64) (n : W32) : Bool :=
  let d := (n - e).toNat
  decide (2 ^ 31 ≤ d) || (decide (1 ≤ d) && decide (d ≤ 64) && accepted.getLsbD (d - 1))

def execAck (slot : Nat) (e : W32) (accepted : W64) (s : State) : Host.Outcome State Fault Refusal :=
  .next (((s.stream slot).out.filter fun m => m.sent && acksSeq e accepted m.seq).foldl (fun (s : State) m => s.ackOne slot m) s)

/-- Bit i: number E + 1 + i has been accepted. -/
def Stream.accepted (x : Stream) : W64 := maskOf fun i => x.got.contains (x.e + 1 + BitVec.ofNat 32 i)

/-- ACK_DUE: an ACK that covers every accepted message is sent. -/
def execAckDue (slot : Nat) (s : State) : Host.Outcome State Fault Refusal :=
  .next (if (s.stream slot).unackd then
      s.updStream slot fun x => { x with unackd := false, acks := [(x.e, x.accepted)] }
    else s)

/-! ## Failover (R90, R363) -/

/-- The other port of a slot, when it is allowed and has not failed. -/
def State.otherPort (s : State) (slot p : Nat) : Option Nat :=
  if bitN (s.endpoint slot).ports (1 - p) && !(s.stream slot).failed.contains (1 - p) then some (1 - p) else none

/-- A port fails for a stream: the messages on it move to the other allowed port and keep their numbers, with a record of the failover. Where no
port is left, they stay until one answers a probe or VTMO ends them. -/
def State.failover (s : State) (slot p : Nat) : State :=
  if (s.stream slot).failed.contains p then s else
  let other := s.otherPort slot p
  let moves := (s.stream slot).out.any fun m => m.port == p
  let move := fun (m : Msg) =>
    let m := { m with failedPorts := p :: m.failedPorts }
    if m.port = p then { m with tries := 0, since := s.time, port := other.getD p } else m
  let s := (s.updStream slot fun x => { x with failed := p :: x.failed, out := x.out.map move }).pump slot
  if moves && other.isSome then s.deviceRecord 0x30 0 0xFFF 0 0 slot else s

/-- Every allowed port of a message has failed. -/
def State.allFailed (s : State) (slot : Nat) (m : Msg) : Bool :=
  (List.range 2).all fun p => !bitN (s.endpoint slot).ports p || m.failedPorts.contains p

/-- A message that has been sent and is not acknowledged. -/
def Stream.sent? (x : Stream) (seq : W32) : Option Msg := x.out.find? fun m => m.sent && m.seq == seq

/-- RESEND_TIMEOUT: RTO has passed, and the message is sent again; its third timeout on a port fails the port. -/
def State.resend (s : State) (slot : Nat) (seq : W32) : State :=
  match (s.stream slot).sent? seq with
  | none => s
  | some m =>
    if s.allFailed slot m ∨ s.time.toNat < m.since.toNat + s.rto then s
    else if m.tries < 2 then
      s.updStream slot fun x =>
        { x with out := updWhere x.out (fun y => y.seq == seq) fun (y : Msg) => { y with tries := y.tries + 1, since := s.time } }
    else s.failover slot m.port

def execResendTimeout (slot : Nat) (seq : W32) (s : State) : Host.Outcome State Fault Refusal := .next (s.resend slot seq)

/-- LINK_DOWN: every stream leaves the port. -/
def State.linkDown (s : State) (p : Nat) : State :=
  let s := { s with ports := updAt s.ports p fun (x : Port) => { x with up := false } }
  (List.range 16).foldl (fun (s : State) slot => s.failover slot p) s

def execLinkDown (port : Nat) (s : State) : Host.Outcome State Fault Refusal := .next (s.linkDown port)

/-- PORT_PROBE: a port that answers is taken back into use. -/
def State.probe (s : State) (p : Nat) (answered : Bool) : State :=
  if !answered then s else
  let back := fun (m : Msg) => if !m.failedPorts.contains p then m else
    { m with failedPorts := m.failedPorts.filter (· != p), since := s.time, port := if m.failedPorts.contains m.port then p else m.port }
  let s := { s with ports := updAt s.ports p fun (x : Port) => { x with up := true },
                    streams := s.streams.map fun (x : Stream) => { x with failed := x.failed.filter (· != p), out := x.out.map back } }
  s.streams.foldl (fun (s : State) x => s.pump x.slot) s

def execPortProbe (port : Nat) (answered : Bool) (s : State) : Host.Outcome State Fault Refusal := .next (s.probe port answered)

/-- Stores of some slices are ended because every allowed port has failed; where a cache has pushed the bytes no lane is known, and 0 stands
for it (DESIGN CHOICE, log 130). -/
def State.loseStores (s : State) (by_ : List (Nat × Slice)) (lane : Nat) : State :=
  { s with lost := s.lost ++ (by_.filter fun x => !s.lost.any fun y => y.1 == x.1 && decide (y.2.1 = x.2)).map fun x => (x.1, x.2, lane) }

/-- The CSAVE whose image a message carries has failed. -/
def State.loseImage (s : State) (slot : Nat) (seq : W32) : State :=
  let frag := fun (f : Frag) =>
    match f.wait with
    | .saving _ l => if l.contains (slot, seq) then { f with wait := .saveLost } else f
    | _ => f
  let slice := fun (x : SliceSt) => { x with frags := x.frags.map frag, stack := x.stack.map frag }
  { s with teams := s.teams.map fun (t : Team) => { t with groups := t.groups.map fun (g : Group) => { g with a := slice g.a, c := slice g.c } } }

/-- PATH_FAILURE_TIMEOUT: every allowed port has failed for VTMO, and the request is ended. -/
def State.pathFailure (s : State) (slot : Nat) (seq : W32) : State :=
  match (s.stream slot).sent? seq with
  | none => s
  | some m =>
    if !s.allFailed slot m ∨ m.rsp ∨ m.cls = 0 ∨ s.time.toNat < m.since.toNat + s.vtmo then s else
    let s := (s.dropMsg slot seq).forgetRead slot seq
    let st : LaneSt := .sent slot m.seq
    match findAcc s.accs st with
    | some (a, i, l) =>
      if a.kind = .store then (s.loseStores [(a.gid, a.sl)] l.lane).dropLane a i else (s.laneFails a i fatalLink).logMisses a.id
    | none =>
      match findUnit s.engs st with
      | some (e, _) => s.engFatal e fatalLink
      | none =>
        let s : State :=
          { (s.loseStores m.writers 0).loseImage slot m.seq with
            reads := updWhere s.reads (fun r => r.slot == slot && r.tag == m.seq) fun (r : CodeRead) => { r with got := some (1, []) },
            prefetches := s.prefetches.filter fun p => !(p.slot == slot && p.tag == m.seq) }
        match if slot = 8 then s.migOf m.seq else none with
        | some (h, g) => (s.migAnswer h g m.seq 1 []).updMig h g.cmd fun x => { x with acks := x.acks.filter (· != m.seq) }
        | none => s

def execPathFailureTimeout (slot : Nat) (seq : W32) (s : State) : Host.Outcome State Fault Refusal := .next (s.pathFailure slot seq)

/-! ## Frames and priorities (R360, R364) -/

/-- TYPE codes of Table 16-9, and whether a message of the type carries an address. -/
def knownType (ty : Nat) : Option Bool :=
  if ty = 0x10 then some true else if ty = 7 then some true else if 1 ≤ ty ∧ ty ≤ 0x0A then some (decide (ty ≤ 6 ∧ ty ≠ 4)) else none

/-- An incoming frame, from its destination MAC to the end of its payload, is to be discarded: its source MAC names no valid slot, or its
header breaks Table 16-8 (R359, R360). A frame of another EtherType is none of Vanar's; an endpoint that has no slot of its own yet is known by no
MAC (R380, R383; DESIGN CHOICE, log 131). -/
def State.frameBad (s : State) (f : List Byte) : Bool :=
  let mac := leNat ((f.drop 6).take 6).reverse
  let h := f.drop 18
  let b0 := fieldAt h 0 1
  let ty := fieldAt h 1 1
  let len := fieldAt h 2 2
  let rsp := bitN b0 1
  let named := (List.range 16).any fun i => (s.endpoint i).valid && ((s.endpoint i).mac == mac || !(s.slot i).valid)
  let zeros := !bitN b0 0 && bits b0 2 2 != 3 && (ty == 0x10 || fieldAt h 12 4 == 0) && (ty != 0x10 || fieldAt h 4 4 == 0) &&
    ((knownType ty == some true && !(rsp && ty != 0x10)) || fieldAt h 16 8 == 0)
  leNat ((f.drop 16).take 2).reverse == s.reg 0 0x10080 2 &&
    !(named && bits b0 4 4 == 1 && (knownType ty).isSome && len % 4 == 0 && decide (len ≤ 4096) && f.length == 42 + len && zeros)

/-- VANAR_FRAME_DISCARD: a frame that is to be discarded is counted in the statistics of its port; any other brings its message in an event
of its own. -/
def execVanarFrameDiscard (frame : PortFrame) (s : State) : Host.Outcome State Fault Refusal :=
  .next (if s.frameBad frame.bytes then s.countDiscard frame.port else s)

/-- PRIORITY_PAUSE: the link partner of a port pauses a priority, or releases it; what waited for it goes (R364). -/
def State.partnerPause (s : State) (port prio : Nat) (stop : Bool) : State :=
  let s := { s with ports := updAt s.ports port fun (x : Port) =>
    { x with paused := if stop then (if x.paused.contains prio then x.paused else prio :: x.paused) else x.paused.filter (· != prio) } }
  s.streams.foldl (fun (s : State) x => s.pump x.slot) s

def execPriorityPause (port prio : Nat) (stop : Bool) (s : State) : Host.Outcome State Fault Refusal :=
  .next (s.partnerPause port prio stop)

end Sys2Proof.Machine
end

