-- ==== Sys2Proof/Machine/Graphics.lean ====
section
/-!
DEFINITION. Graphics rings, the mesh stage, binning and tile passes, and kicks (08 R178, 13 R314, R315, 15 R336 to R346).
-/

namespace Sys2Proof.Machine

/-! ## Graphics context entries (R336) -/

def State.gfxAt (s : State) (ctx : Nat) : Nat := s.gfxBase + 64 * ctx

/-- An entry with V = 1 that breaks Table 15-1. -/
def gfxBad (bs : List Byte) : Bool :=
  let w := fieldAt bs 0 8
  let ss := fieldAt bs 24 8
  bits w 52 12 != 0 || bits w 1 5 != 0 || !dieHome (bits w 6 46 * 64) || bits (fieldAt bs 8 4) 4 28 != 0 ||
    decide (bits (fieldAt bs 8 4) 0 4 < 2) || decide (10 < bits (fieldAt bs 8 4) 0 4) || fieldAt bs 20 4 != 0 ||
    bits ss 52 12 != 0 || bits ss 0 5 != 0 || !dieHome ss || (bs.drop 32).any (· != 0)

/-- GRAPHICS_CONTEXT_ENTRY_WRITE. While V = 1 only a clear of V acts. -/
def State.gfxWrite (s : State) (ctx : Nat) : State :=
  if s.gfxBase = 0 then s else
  let bs := s.hwBytes (s.gfxAt ctx) 64
  if !bitN (fieldAt bs 0 8) 0 then { s with gfx := s.gfx.filter fun g => g.1 != ctx }
  else if s.gfx.any (fun g => g.1 == ctx) then s
  else if gfxBad bs then s.deviceRecord 0x14 (unitOf s.gfxBase) (s.stampOf (s.gfxAt ctx)) ctx (s.gfxAt ctx) 0
  else { s with gfx := s.gfx ++ [(ctx, bs)] }

def execGraphicsContextEntryWrite (ctx : Nat) (s : State) : Host.Outcome State Fault Refusal := .next (s.gfxWrite ctx)

/-! ## Packets (R337, R338) -/

/-- Fields of a packet (Table 15-2). -/
def Draw.isCapture (d : Draw) : Bool := bits (fieldAt d.bytes 0 4) 30 2 == 1
def Draw.level (d : Draw) : Nat := bits (fieldAt d.bytes 0 4) 24 5
def Draw.ltag (d : Draw) : BitVec 16 := BitVec.ofNat 16 (fieldAt d.bytes 0 2)
def Draw.nsub (d : Draw) : Nat := bits (fieldAt d.bytes 28 4) 0 4
def Draw.target (d : Draw) : W32 := BitVec.ofNat 32 (fieldAt d.bytes 32 4)
def Draw.view (d : Draw) : W32 := BitVec.ofNat 32 (fieldAt d.bytes 36 4)
def Draw.binmax (d : Draw) : Nat := fieldAt d.bytes 40 4
def Draw.param (d : Draw) : List W32 := (List.range 16).map fun i => BitVec.ofNat 32 (fieldAt d.bytes (128 + 4 * i) 4)

/-- The surface that TARGET names. -/
def State.targetOf? (s : State) (d : Draw) : Option Surf :=
  match s.named d.target with
  | some (.surface f) => some f
  | _ => none

/-- The screen view of a packet. -/
def State.viewOf? (s : State) (d : Draw) : Option Nat :=
  match s.named d.view with
  | some (.view v) => some v
  | _ => none

/-- SHAPE of a draw with its two headers (R339, Table 15-3); the fragment kernel need not meet the queue bound of R149, which no kernel
of R339 meets (DESIGN CHOICE, log 41). -/
def State.drawBad (s : State) (d : Draw) (mesh frag : List Byte) : Bool :=
  let w := fieldAt d.bytes 0 4
  let t := fieldAt d.bytes 28 4
  let m := kernelOf mesh
  let f := kernelOf frag
  headerBad mesh || headerForm frag || f.tooLarge || m.mvert == 0 || m.mprim == 0 || f.width != 64 || f.grps != 16 || f.pair || f.gen || m.gen ||
    f.mvert != 0 || f.mprim != 0 || bitN w 29 || bits w 16 8 != 0 || bits (fieldAt d.bytes 4 4) 8 24 != 0 || bits t 8 24 != 0 ||
    fieldAt d.bytes 44 4 != 0 || ((d.bytes.drop 72).take 56).any (· != 0) || decide (d.nsub < 1) || decide (8 < d.nsub) ||
    decide (6 < bits t 4 4) || decide (0x40000 < d.tileBytes + f.scr) || (s.targetOf? d).any fun g => decide (d.tileBytes < 1024 * g.bpp)

/-- SHAPE of a capture. -/
def State.captureBad (s : State) (d : Draw) : Bool :=
  let w := fieldAt d.bytes 0 4
  let x0 := fieldAt d.bytes 40 2
  let y0 := fieldAt d.bytes 42 2
  let x1 := fieldAt d.bytes 44 2
  let y1 := fieldAt d.bytes 46 2
  bitN w 29 || bits w 16 8 != 0 || bits (fieldAt d.bytes 4 4) 8 24 != 0 || ((d.bytes.drop 8).take 24).any (· != 0) ||
    ((d.bytes.drop 72).take 56).any (· != 0) || decide (x1 ≤ x0) || decide (y1 ≤ y0) ||
    (s.targetOf? d).any fun g => decide (g.w < x1) || decide (g.h < y1)

/-- LEVEL. -/
def State.drawLevelBad (s : State) (d : Draw) : Bool := decide (22 < d.level) || decide ((s.ctx d.ctx).maxlvl < d.level)

/-- TARGET. -/
def State.targetBad (s : State) (d : Draw) : Bool :=
  match s.targetOf? d with
  | none => true
  | some f =>
    f.owner != (s.ctx d.ctx).owner || (d.isCapture && !composable f.fmt) ||
      (if d.isCapture then (s.viewOf? d).isNone
       else d.view != 0xFFFFFFFF && (match s.viewOf? d with
         | none => true
         | some v => f.w != s.viewW v || f.h != s.viewH v))

/-- Checks a taken packet: it is refused, held for a page, or left ready to start. `header` is empty once it is checked. -/
def State.admitDraw (s : State) (did : Nat) : State :=
  match s.draw? did with
  | none => s
  | some d =>
    if d.header.isNone then s else
    let rest := fun (s : State) (bad : Bool) (m f : Kernel) =>
      if bad then s.endDraw d 2
      else if s.drawLevelBad d then s.endDraw d 3
      else if s.targetBad d then s.endDraw d 10
      else s.updDraw did fun d => { d with header := none, mkern := m, fkern := f }
    if d.isCapture then rest s (s.captureBad d) d.mkern d.fkern
    else if 2 ≤ bits (fieldAt d.bytes 0 4) 30 2 then s.endDraw d 2 else
    match s.readHeader d.ctx d.level (BitVec.ofNat 64 (fieldAt d.bytes 8 8)) with
    | (.bad, s) => s.endDraw d 8
    | (.wait ia b, s) => s.updDraw did fun d => { d with header := some (BitVec.ofNat 52 ia, b) }
    | (.miss _ _, s) => s
    | (.ok m, s) =>
      match s.readHeader d.ctx d.level (BitVec.ofNat 64 (fieldAt d.bytes 16 8)) with
      | (.bad, s) => s.endDraw d 8
      | (.wait ia b, s) => s.updDraw did fun d => { d with header := some (BitVec.ofNat 52 ia, b) }
      | (.miss _ _, s) => s
      | (.ok f, s) => rest s (s.drawBad d m f) (kernelOf m) (kernelOf f)

/-- IAINV reads again the headers of packets that wait for a page in a range. -/
def State.wakeDraws (s : State) (lo hi : Nat) : State :=
  s.draws.foldl (fun (s : State) d =>
    match d.header with
    | some (ia, b) => if b ≠ 0 ∧ lo < ia.toNat + 2 ^ b ∧ ia.toNat < hi ∧ !s.batchHeld (headKey d.ctx ia.toNat) then s.admitDraw d.did else s
    | none => s) s

/-- Takes one graphics packet: GRCONS is written, and the packet checked. -/
def State.takeDraw (s : State) (ctx k : Nat) (ring log : Nat) : State :=
  let a := ring + 192 * (k % 2 ^ log)
  let (did, s) := s.fresh
  let z := kernelOf (List.replicate 64 0)
  let d : Draw :=
    { did := did, ctx := ctx, pkt := BitVec.ofNat 32 k, at_ := BitVec.ofNat 52 a, bytes := s.hwBytes a 192, stage := .queued,
      header := some (0, 0), mkern := z, fkern := z, launch := 0, takenAt := s.time,
      frame := (s.owner (s.ctx ctx).owner).frameno, outputs := [], pages := [], prims := [], lists := [], binned := false,
      passes := [], doneTiles := [], fatal := false }
  let k1 := (k + 1) % 2 ^ 32
  let s := s.hwWrite (s.gfxAt ctx + 16) (leBytes 4 k1)
  let s := { s with gfx := s.gfx.map fun (g : Nat × List Byte) => if g.1 = ctx then (ctx, g.2.take 16 ++ leBytes 4 k1 ++ g.2.drop 20) else g }
  { s with draws := s.draws ++ [d] }.admitDraw did

/-- A kick of the graphics ring of a context. -/
def State.kickDraws (s : State) (ctx : Nat) : State :=
  match s.gfx.find? fun g => g.1 == ctx with
  | none => s
  | some (_, bs) =>
    let c := s.ctx ctx
    if !c.valid then s else
    let log := bits (fieldAt bs 8 4) 0 4
    let cons := fieldAt bs 16 4
    let n := ringCount ((s.hwNat (s.gfxAt ctx + 12) 4).getD 0) cons
    if 2 ^ log < n then s.deviceRecord 0x18 0 c.owner (ctx + 2 ^ 12) 0 0
    else (List.range n).foldl (fun (s : State) i => s.takeDraw ctx ((cons + i) % 2 ^ 32) (bits (fieldAt bs 0 8) 6 46 * 64) log) s

/-- KICK: both rings of a context are served, and every launch's readiness is tested (R177, R178, R338). -/
def State.kick (s : State) (ctx : Nat) : State := ((s.kickLaunches ctx).kickDraws ctx).testReady

/-- KICK: of LAUNCH, or a message from an endpoint; one from a slot without KICK is discarded (R359). -/
def execKick (k : Kick) (s : State) : Host.Outcome State Fault Refusal :=
  .next (match k with
    | .own ctx => s.kick ctx
    | .message h ctx => s.once h fun s => if (s.endpoint h.slot).kick then (s.accept h.slot h.seq).kick ctx else s)

/-! ## GRAPHICS_PACKET_START (R338, R339) -/

/-- The teams of a draw as a launch of its level. -/
def drawLaunch (lid : Nat) (d : Draw) (now : W64) : Launch :=
  { launchOf lid d.ctx d.pkt.toNat 0 now (List.replicate 192 0) with
    level := d.level, ltag := d.ltag, param := d.param, ready := true, checked := true }

/-- The mesh teams of a draw. -/
def meshLaunch (lid : Nat) (d : Draw) (now : W64) : Launch :=
  { drawLaunch lid d now with
    entry := BitVec.ofNat 64 (fieldAt d.bytes 8 8), teams := fieldAt d.bytes 24 4 + 1, kern := d.mkern, kind := .mesh d.did }

/-- The tile teams of a draw: one launch as long as a tile has an invocation to start. -/
def tileLaunch (lid : Nat) (d : Draw) (now : W64) : Launch :=
  { drawLaunch lid d now with
    entry := BitVec.ofNat 64 (fieldAt d.bytes 16 8), teams := 1, kern := d.fkern, kind := .tile d.did }

/-- The first packet of a context starts once its WAIT is met, while the context is valid (R172). -/
def State.packetStart (s : State) (ctx : Nat) : State :=
  match s.draws.find? fun d => d.ctx == ctx with
  | none => s
  | some d =>
    let s := if d.header.any fun h => h.2 == 0 then s.admitDraw d.did else s
    match s.draw? d.did with
    | none => s
    | some d =>
      let met := s.eventMet (BitVec.ofNat 64 (fieldAt d.bytes 48 8)) (BitVec.ofNat 64 (fieldAt d.bytes 56 8))
      if d.stage ≠ .queued ∨ d.header.isSome ∨ !(s.ctx ctx).valid ∨ !met then s
      else if d.isCapture then s.updDraw d.did fun d => { d with stage := .capture }
      else
        let (lid, s) := s.fresh
        let s := { s with launches := s.launches ++ [meshLaunch lid d s.time] }
        s.updDraw d.did fun d => { d with stage := .mesh, launch := lid }

def execGraphicsPacketStart (ctx : Nat) (s : State) : Host.Outcome State Fault Refusal := .next (s.packetStart ctx)

/-! ## Triangles (R340, R343) -/

/-- A signed fraction. -/
abbrev Rat2 := Int × Nat

def rsub (a b : Rat2) : Rat2 := (a.1 * b.2 - b.1 * a.2, a.2 * b.2)
def rmul (a b : Rat2) : Rat2 := (a.1 * b.1, a.2 * b.2)
def rsign (a : Rat2) : Int := a.1.sign

/-- A vertex position; none when it is NaN or infinite. -/
def posOf (words : List W32) (v : Nat) : Option (Rat2 × Rat2) :=
  match f32.val (words.getD (16 * v) 0).toNat, f32.val (words.getD (16 * v + 1) 0).toNat with
  | .fin a b c, .fin d e f => some (fracOf (.fin a b c), fracOf (.fin d e f))
  | _, _ => none

/-- E_ab(q). -/
def edge (a b q : Rat2 × Rat2) : Rat2 :=
  rsub (rmul (rsub b.1 a.1) (rsub q.2 a.2)) (rmul (rsub b.2 a.2) (rsub q.1 a.1))

/-- A point with edge value `e` is inside edge ab of a triangle of sign `s`. -/
def insideEdge (s : Int) (a b : Rat2 × Rat2) (e : Rat2) : Bool :=
  let nx := s * rsign (rsub b.2 a.2)
  let ny := -(s * rsign (rsub b.1 a.1))
  rsign e == s || (rsign e == 0 && (decide (ny < 0) || (ny == 0 && decide (nx < 0))))

/-- Coverage of a pixel by a primitive, with the weights of vertices 1 and 2. -/
def coverage (words : List W32) (x y : Nat) : Bool × W32 × W32 :=
  match posOf words 0, posOf words 1, posOf words 2 with
  | some a, some b, some c =>
    let q : Rat2 × Rat2 := ((2 * (x : Int) + 1, 2), (2 * (y : Int) + 1, 2))
    let area := edge a b c
    let s := rsign area
    let e0 := edge a b q
    let e1 := edge b c q
    let e2 := edge c a q
    let w := fun (e : Rat2) => rneF32 (exactDiv (ofFrac e.1 e.2) (ofFrac area.1 area.2))
    (insideEdge s a b e0 && insideEdge s b c e1 && insideEdge s c a e2, w e2, w e0)
  | _, _, _ => (false, 0, 0)

/-- The floor of a fraction. -/
def rfloor (a : Rat2) : Int := a.1 / a.2

def rmin (a b : Rat2) : Rat2 := if a.1 * b.2 ≤ b.1 * a.2 then a else b
def rmax (a b : Rat2) : Rat2 := if a.1 * b.2 ≤ b.1 * a.2 then b else a

/-- The tiles of a target that the bounding box of a primitive overlaps; none for a culled primitive. -/
def primTiles (words : List W32) (w h : Nat) : List Nat :=
  match posOf words 0, posOf words 1, posOf words 2 with
  | some a, some b, some c =>
    if rsign (edge a b c) = 0 then [] else
    let x0 := rfloor (rmin a.1 (rmin b.1 c.1)) / 32
    let x1 := rfloor (rmax a.1 (rmax b.1 c.1)) / 32
    let y0 := rfloor (rmin a.2 (rmin b.2 c.2)) / 32
    let y1 := rfloor (rmax a.2 (rmax b.2 c.2)) / 32
    let nx := (w + 31) / 32
    let ny := (h + 31) / 32
    ((List.range ny).filter fun (j : Nat) => decide (y0 ≤ (j : Int)) && decide ((j : Int) ≤ y1)).flatMap fun j =>
      ((List.range nx).filter fun (i : Nat) => decide (x0 ≤ (i : Int)) && decide ((i : Int) ≤ x1)).map fun i => j * nx + i
  | _, _, _ => []

/-! ## BINNING (R339 to R341) -/

/-- The primitives of a mesh group's output that R314 does not cull. -/
def MeshOut.passed (m : MeshOut) (team grp : Nat) : List BinPrim :=
  if !m.ended then [] else
  ((m.prims.take m.nprim).zipIdx).filterMap fun p =>
    let v := p.1.toNat
    let ix := [bits v 0 8, bits v 8 8, bits v 16 8]
    if ix.any fun i => decide (m.nvert ≤ i) then none
    else some { order := (team, grp, p.2), words := ix.flatMap fun i => m.verts.getD i [], tag := BitVec.ofNat 8 (bits v 24 8) }

/-- Primitive order. -/
def primLe (a b : Nat × Nat × Nat) : Bool :=
  decide (a.1 < b.1) || (a.1 == b.1 && (decide (a.2.1 < b.2.1) || (a.2.1 == b.2.1 && decide (a.2.2 ≤ b.2.2))))

/-- The 256-byte record of a primitive: its vertex words, then its tag (DESIGN CHOICE, log 34). -/
def BinPrim.record (p : BinPrim) : List Byte :=
  ((List.range 48).flatMap fun i => leBytes 4 (p.words.getD i 0).toNat) ++ [p.tag] ++ List.replicate 63 0

/-- The contents of the pages that the records and lists of a draw take: the records in order, then the references of each list from a
page of its own on (DESIGN CHOICE, log 34). -/
def binContents (prims : List BinPrim) (lists : List (Nat × List Nat)) : List (List Byte) :=
  chunksOf 4096 (prims.flatMap BinPrim.record) ++ lists.flatMap fun l => chunksOf 4096 (l.2.flatMap fun i => leBytes 4 i)
where
  /-- Some bytes in pieces of `n`. -/
  chunksOf (n : Nat) (bs : List Byte) : List (List Byte) := (List.range ((bs.length + n - 1) / n)).map fun i => (bs.drop (n * i)).take n

/-- Pages of the pool that no other draw holds, the lowest first. -/
def State.binFree (s : State) (did : Nat) : List Nat :=
  if s.binBase = 0 then [] else
  let used := (s.draws.filter fun d => d.did != did).flatMap (·.pages)
  (List.range (s.binLen % 2 ^ 32)).filter fun i => !used.contains i

/-- Gives a page of the pool to an owner's frame, zeroed when its stamp differs, and fills it (R138, R340). -/
def State.fillPage (s : State) (owner : Id12) (i : Nat) (bs : List Byte) : State :=
  let ia := s.binBase + 4096 * i
  let old := ((s.poolOwner.find? fun x => x.1 == ia / 4096).map (·.2)).getD 0xFFF
  let s := if old = owner then s else s.hwPut ia (List.replicate 4096 0)
  { s with poolOwner := assocSet s.poolOwner (ia / 4096) owner }.hwPut ia bs

/-- The tiles of the primitives of a draw, in primitive order. -/
def Draw.sorted (d : Draw) (f : Surf) : List BinPrim × List (Nat × List Nat) :=
  let all := (d.outputs.flatMap fun o => o.2.2.1.passed o.1 o.2.1).mergeSort fun a b => primLe a.order b.order
  let prims := all.filter fun p => !(primTiles p.words f.w f.h).isEmpty
  let tiles := ((prims.flatMap fun p => primTiles p.words f.w f.h).eraseDups)
  (prims, tiles.map fun t => (t, (prims.zipIdx.filter fun p => (primTiles p.1.words f.w f.h).contains t).map (·.2)))

/-- The binner sorts the primitives of a draw into tile lists; a draw whose pages do not suffice is dropped, with its mesh teams (R341). -/
def State.bin (s : State) (did : Nat) : State :=
  match s.draw? did with
  | none => s
  | some d =>
    if d.stage ≠ .mesh ∨ d.fatal then s else
    let left := s.launches.any (fun l => l.lid == d.launch) || s.teams.any fun t => t.kind.draw? == some did
    match s.targetOf? d with
    | none => if left then s else s.endDraw d 1
    | some f =>
      let (prims, lists) := d.sorted f
      let pages := binContents prims lists
      let free := s.binFree did
      if s.binBase = 0 ∨ s.binLen % 2 ^ 32 = 0 ∨ d.binmax < pages.length ∨ free.length < pages.length then
        ((s.teams.filter fun t => t.kind.draw? == some did).foldl State.endTeam s).endDraw d 9
      else if left then s
      else if lists.isEmpty then s.endDraw d 1
      else
        let s := (free.zip pages).foldl (fun (s : State) x => s.fillPage (s.ctx d.ctx).owner x.1 x.2) s
        let (lid, s) := s.fresh
        let s := { s with launches := s.launches ++ [tileLaunch lid d s.time] }
        s.updDraw did fun d =>
          { d with stage := .tiles, launch := lid, outputs := [], pages := free.take pages.length, prims := prims, lists := lists, binned := true }

def execBinning (draw : Nat) (s : State) : Host.Outcome State Fault Refusal := .next (s.bin draw)

/-! ## Tile passes (R342 to R346) -/

def Draw.pass? (d : Draw) (tile : Nat) : Option TilePass := d.passes.find? fun p => p.tile == tile

def State.updPass (s : State) (did tile : Nat) (f : TilePass → TilePass) : State :=
  s.updDraw did fun d => { d with passes := updWhere d.passes (fun p => p.tile == tile) f }

/-- The first pixel of a tile. -/
def Surf.tileOrigin (f : Surf) (tile : Nat) : Nat × Nat :=
  let nx := (f.w + 31) / 32
  (tile % nx * 32, tile / nx * 32)

/-- Offset of a pixel of the tile in the colour plane. -/
def planeOfs (p bpp : Nat) : Nat := p * bpp

/-- The walk of the device for the unit of a pixel, and for its metadata, installs their leaves (R138). -/
def State.touchUnit (s : State) (f : Surf) (st : Nat) : State :=
  let s := s.touch (f.base + st / 256 * 256)
  if f.cmp then s.touch (f.mdAt st) else s

/-- Bytes of a pixel of a surface as the layout engine reads them for a context; zero where it cannot, and where the surface is protected
and the context is not (R145; DEDUCED, log 110). -/
def State.pixelBytes (s : State) (f : Surf) (prot : Bool) (x y : Nat) : List PByte × State :=
  let zero := plain (List.replicate f.bpp 0)
  if f.w ≤ x ∨ f.h ≤ y ∨ (f.prot ∧ !prot) then (zero, s) else
  let st := f.pixelOfs x y
  match (s.touchUnit f st).unitBytes f st f.bpp fun s st n => s.storedAtHome f st n with
  | (.ok bs, s) => (bs, s)
  | (.error _, s) => (zero, s)

/-- A tile pass starts on a core: the tile takes tile memory at `base`, and its colour plane is loaded. -/
def State.startPass (s : State) (d : Draw) (f : Surf) (tile c base : Nat) : State :=
  let s := (s.startCaches c).claimScratch c base d.tileBytes (s.ctx d.ctx).owner
  let o := f.tileOrigin tile
  let s := (List.range 1024).foldl (fun (s : State) p =>
    let (bs, s) := s.pixelBytes f (s.ctx d.ctx).prot (o.1 + p % 32) (o.2 + p / 32)
    s.updCore c fun k => k.spadWrite (base + planeOfs p f.bpp) bs) s
  s.updDraw d.did fun d => { d with passes := d.passes ++ [{ tile := tile, core := c, base := base, sub := 0, nextPrim := 0, touched := [], team := none }] }

/-- Invocations of a sub-pass of a tile. -/
def Draw.invocations (d : Draw) (p : TilePass) : Nat := if p.sub = 0 then ((d.lists.find? fun l => l.1 == p.tile).map fun l => l.2.length).getD 0 else 1

/-- The next sub-pass, once the invocations of one have all been started and retired. -/
def Draw.nextSub (d : Draw) (p : TilePass) : TilePass :=
  if p.team.isNone ∧ d.invocations p ≤ p.nextPrim ∧ p.sub + 1 < d.nsub then { p with sub := p.sub + 1, nextPrim := 0 } else p

/-- Every invocation of a tile pass has retired. -/
def Draw.passOver (d : Draw) (p : TilePass) : Bool := p.team.isNone && decide (d.invocations p ≤ p.nextPrim) && decide (d.nsub ≤ p.sub + 1)

/-- The primitive of the next invocation of sub-pass 0. -/
def Draw.nextPrim? (d : Draw) (p : TilePass) : Option BinPrim :=
  if p.sub ≠ 0 then none
  else ((d.lists.find? fun l => l.1 == p.tile).bind fun l => l.2[p.nextPrim]?).bind fun i => d.prims[i]?

/-- The lanes of group `g` that start in an invocation; none when the group is not created. -/
def startLanes (prim : Option BinPrim) (o : Nat × Nat) (g : Nat) : Option Lanes :=
  match prim with
  | none => some (allLanes 64)
  | some b =>
    let m := maskOf fun l => let p := 64 * g + l
      (coverage b.words (o.1 + p % 32) (o.2 + p / 32)).1
    if m = 0 then none else some m

/-- The registers of Table 15-4 in one slice of group `g`. -/
def SliceSt.tileRegs (x : SliceSt) (prim : Option BinPrim) (sub : Nat) (o : Nat × Nat) (g : Nat) : SliceSt :=
  let px := fun (l : Nat) => o.1 + (64 * g + l) % 32
  let py := fun (l : Nat) => o.2 + (64 * g + l) / 32
  let half := fun (n : Nat) => Val.of (rneF32 (.fin false (2 * n + 1) 2))
  let wt := fun (second : Bool) (l : Nat) =>
    match prim with
    | some b => let c := coverage b.words (px l) (py l)
                Val.of (if second then c.2.2 else c.2.1)
    | none => Val.zero
  let tag := Val.of (BitVec.ofNat 32 (match prim with
    | some b => b.tag.toNat
    | none => sub * 256))
  let m := allLanes 64
  let x := ((((x.setVreg 0 m fun l => half (px l)).setVreg 1 m fun l => half (py l)).setVreg 2 m (wt false)).setVreg 3 m (wt true)).setVreg
    4 m fun _ => tag
  match prim with
  | none => x
  | some b => (List.range 48).foldl (fun (x : SliceSt) i => x.setSreg (16 + i) (Val.of (b.words.getD i 0))) x

/-- The groups of the next invocation of a tile pass, and what they take on its core; nothing for an invocation with no group. -/
def State.invocationFit (s : State) (d : Draw) (f : Surf) (p : TilePass) : Option (List Nat × Option (List GroupFit × Nat)) :=
  let lanes := startLanes (d.nextPrim? p) (f.tileOrigin p.tile)
  let used := (List.range 16).filter fun g => (lanes g).isSome
  if used.isEmpty then some ([], none)
  else (s.coreFit p.core d.fkern (used.map fun _ => d.fkern.ablk + d.fkern.cmin) false).map fun x => (used, some x)

/-- The next invocation of a tile pass starts with some groups; the retirement of the last one was a release at CORE, and this is an acquire
(R342, R344). -/
def State.startInvocation (s : State) (l : Launch) (d : Draw) (f : Surf) (p : TilePass) (used : List Nat) (fit : Option (List GroupFit × Nat)) : State :=
  let go := fun (s : State) (t : Option Nat) => s.updPass d.did p.tile fun _ => { p with nextPrim := p.nextPrim + 1, team := t }
  match fit with
  | none => go s none
  | some (fits, base) =>
    let o := f.tileOrigin p.tile
    let prim := d.nextPrim? p
    let lanes := startLanes prim o
    let k := d.fkern
    let owner := (s.ctx d.ctx).owner
    let (id, s) := s.fresh
    let s := ((s.release p.core .core).acquire p.core .core).claimScratch p.core base k.scr owner
    let (gs, s) := (used.zip fits).foldl (fun (acc : List Group × State) x =>
      let (g, s) := acc.2.newGroup id p.core x.1 k owner l.entry d.param ((lanes x.1).getD 0) x.2
      (acc.1 ++ [{ g with a := g.a.tileRegs prim p.sub o x.1, c := g.c.tileRegs prim p.sub o x.1 }], s)) ([], s)
    let spot : Spot := { core := p.core, own := false, fits := [(p.core, fits, base)] }
    let count := (f.w + 31) / 32 * ((f.h + 31) / 32)
    let t := newTeam id (.tile d.did) l.lid d.ctx d.pkt d.ltag p.tile count l.lv l.entry k spot gs
    (go { s with teams := s.teams ++ [t] } (some id)).govern

/-- Writes one pixel of a surface through the layout engine. -/
def State.putPixel (s : State) (f : Surf) (x y : Nat) (bs : List PByte) (owner : Id12) : State :=
  let st := f.pixelOfs x y
  let s := s.touchUnit f st
  match s.phys (f.base + st / 256 * 256) with
  | none => s
  | some key =>
    (s.writeUnit f st key (bs.zipIdx.map fun b => (st % 256 + b.2, b.1)) owner).2

/-- A pixel is written out (R346). -/
def State.mayWriteOut (s : State) (d : Draw) (f : Surf) (x y : Nat) : Bool :=
  let c := s.ctx d.ctx
  decide (x < f.w) && decide (y < f.h) && (!f.prot || c.prot) &&
    (match s.viewOf? d with
     | some v => mapTop (s.mapEntry v x y) == c.owner
     | none => true)

/-- TILE_WRITE_OUT: the touched pixels of a tile pass that is over are copied to TARGET; after the last tile the draw is done. It acts as a
release at DEV of the tile's core, so that the messages of that release come first (R344). -/
def State.writeOut (s : State) (did : Nat) : State :=
  match s.draw? did with
  | none => s
  | some d =>
    match d.passes.find? d.passOver with
    | none => s
    | some p =>
      if d.fatal then s else
      if s.passSpent p then s.dropPass d p else
      let s := s.release p.core .dev
      if !s.unacked.isEmpty then s else
      let s := match s.targetOf? d with
        | none => s
        | some f =>
          let o := f.tileOrigin p.tile
          p.touched.foldl (fun (s : State) i =>
            let x := o.1 + i % 32
            let y := o.2 + i / 32
            if s.mayWriteOut d f x y then
              s.putPixel f x y ((s.core p.core).spadRead (p.base + planeOfs i f.bpp) f.bpp) f.owner
            else s) s
      let s := s.endPass did p true
      match s.draw? did with
      | none => s
      | some d => if d.lists.all fun l => d.doneTiles.contains l.1 then s.endDraw d 1 else s

def execTileWriteOut (draw : Nat) (s : State) : Host.Outcome State Fault Refusal := .next (s.writeOut draw)

/-- Gives up every tile pass on some cores. -/
def State.dropPasses (s : State) (cores : List Nat) : State :=
  s.draws.foldl (fun (s : State) d => d.passes.foldl (fun (s : State) p => if cores.contains p.core then s.dropPass d p else s) s) s

/-- TILE_PASS_ABANDON: a pass that has not finished within TILEBUDGET of a hold on its core is given up. -/
def State.abandonPass (s : State) (did : Nat) : State :=
  match s.draw? did with
  | none => s
  | some d =>
    match d.passes.find? s.passSpent with
    | none => s
    | some p => s.dropPass d p

def execTilePassAbandon (draw : Nat) (s : State) : Host.Outcome State Fault Refusal := .next (s.abandonPass draw)

end Sys2Proof.Machine
end

