-- ==== Sys2Proof/Machine/Composition.lean ====
section
/-!
DEFINITION. The proscenium: field starts, latching, composition, captures and HDCP (06 R135, R136, R142, R146, 15 R350 to R355,
16 R366).
-/

namespace Sys2Proof.Machine

/-! ## Composed pixels (R354) -/

/-- Channels of a curtain colour. -/
def State.curtainPix (s : State) (o : Id12) : List Exact := texelOf 3 (leBytes 4 (s.curtain o).toNat)

def blackPix : List Exact := [exactZero, exactZero, exactZero, exactOne]

/-- Stored bytes of a surface as the proscenium reads them: zero in a frame whose stamp is another owner's (R138). -/
def State.storedForView (s : State) (f : Surf) (st n : Nat) : Except Gate (List PByte) × State :=
  match s.physLeaf (f.base + st) with
  | some x => if s.stamp (x.1 / 65536) = entOwner x.2 then s.storedAtHome f st n else (.ok (plain (List.replicate n 0)), s)
  | none => (.error (.fatal fatalWalk), s)

/-- Channels of a pixel of a surface, decompressed; none where it cannot be read. -/
def State.readPixel (s : State) (f : Surf) (x y : Nat) : Option (List Exact) :=
  match (s.unitBytes f (f.pixelOfs x y) f.bpp fun s st n => s.storedForView f st n).1 with
  | .ok bs => if (anyPoison bs).isNone then some ((texelOf f.fmt (values bs)).map clampUnit) else none
  | .error _ => none

/-- The outputs 0 to 3 are DisplayPort; a protected surface shows there while HDCP is active (R146). -/
def State.showsProt (s : State) (v : Nat) : Bool := decide (v ≤ 3) && (s.view v).hdcp

/-- What an owner contributes at (x, y) of a view; `prot` says that a protected surface is shown, else its owner's curtain stands (R146). -/
def State.ownerPix (s : State) (v : Nat) (prot : Bool) (o : Id12) (x y : Nat) : List Exact :=
  if o = 0xFFF then blackPix else
  match s.latchedSurf v o with
  | none => s.curtainPix o
  | some f =>
    if !composable f.fmt ∨ f.w ≤ x ∨ f.h ≤ y ∨ (f.prot ∧ !prot) then s.curtainPix o
    else (s.readPixel f x y).getD (s.curtainPix o)

/-- The blur of UNDER's own frame. -/
def State.blurPix (s : State) (v : Nat) (prot : Bool) (o : Id12) (x y : Nat) : List Exact :=
  let (w, h) := match s.latchedSurf v o with
    | some f => (f.w, f.h)
    | none => (s.viewW v, s.viewH v)
  let at_ := fun (a : Nat) (i m : Nat) => min (a + i - 1) (m - 1)
  let taps := (List.range 3).flatMap fun j => (List.range 3).map fun i =>
    (Exact.fin false ((if i = 1 then 2 else 1) * (if j = 1 then 2 else 1)) 16, s.ownerPix v prot o (at_ x i w) (at_ y j h))
  (List.range 4).map fun c => exactSum false (taps.map fun t => exactMul t.1 (t.2.getD c exactZero))

/-- a × α + b × (1 − α) per channel. -/
def mixPix (a b : List Exact) : List Exact :=
  let al := a.getD 3 exactZero
  let inv := exactSum false [exactOne, al.neg]
  (List.range 4).map fun c => exactSum false [exactMul (a.getD c exactZero) al, exactMul (b.getD c exactZero) inv]

/-- The composed pixel (R354). -/
def State.composePix (s : State) (v : Nat) (prot : Bool) (x y : Nat) : List Exact :=
  let m := s.mapEntry v x y
  let t := s.ownerPix v prot (mapTop m) x y
  match mapEffect m with
  | 0 => t
  | 1 => mixPix t (s.ownerPix v prot (mapUnder m) x y)
  | 2 => mixPix t (s.blurPix v prot (mapUnder m) x y)
  | 3 => (List.range 4).map fun c => exactMul ((s.ownerPix v prot (mapUnder m) x y).getD c exactZero) (t.getD c exactZero)
  | _ => if mapTop m = 0xFFF then blackPix else s.curtainPix (mapTop m)

/-- A sender's block breaks Table 16-3. -/
def State.senderBad (s : State) (n : Nat) : Bool :=
  let w := s.reg 0 (0x12000C + 0x40 * n) 4
  bits w 12 7 != 0 || bits w 23 2 == 0 || s.reg 0 (0x120010 + 0x40 * n) 48 != 0

/-- An output carries its picture while it is enabled, and a sender's block keeps Table 16-3 (R366). -/
def State.emits (s : State) (v : Nat) : Bool := s.viewEn v && !(decide (4 ≤ v) && s.senderBad (v - 4))

/-- What a view sends from now on. -/
def State.emit (s : State) (v : Nat) : State := s.updView v fun (k : View) => { k with sent := if s.emits v then k.picture else [] }

/-- The picture of a view, and as all but its output see it (R146): the lines that satisfy `line` are composed, the others kept. -/
def State.compose (s : State) (v : Nat) (line : Nat → Bool) : State :=
  let w := s.viewW v
  let pic := fun (prot : Bool) (old : List (BitVec 40)) => (List.range (s.viewH v)).flatMap fun y => (List.range w).map fun x =>
    if line y then outWord (s.composePix v prot x y) else old.getD (y * w + x) 0
  let bad := (List.range (s.viewH v)).any fun y => line y && (List.range w).any fun x => mapBad (s.mapEntry v x y)
  let s := (s.updView v fun (k : View) => { k with picture := pic (s.showsProt v) k.picture, masked := pic false k.masked }).emit v
  if bad then s.setReg 0 (0x100010 + 0x40 * v) 1 (s.viewReg v 0x10 1 ||| 2) else s

/-! ## Latching (R353) -/

def State.tlatch (s : State) (v : Nat) : Nat := max 5000 (s.viewReg v 0x30 4)

/-- The frame that an output latches for an owner at a field start. -/
def State.eligible (s : State) (v : Nat) (o : OwnerSt) (tf : Nat) : Option QFrame :=
  let done := fun (f : QFrame) => decide (f.at_.toNat + s.tlatch v ≤ tf)
  match s.presentMode o.owner with
  | 1 => (o.queue.filter done).getLast?
  | 2 => (o.queue.filter fun f => done f && decide (f.target.toNat ≤ tf)).getLast?
  | _ =>
    let cur := ((s.view v).latched.find? fun x => x.owner == o.owner).map (·.frameno)
    match o.queue.find? fun f => match cur with
        | some n => decide (n.toNat < f.frameno.toNat)
        | none => true with
    | some f => if done f then some f else none
    | none => none

/-- Latches for one owner. -/
def State.latchOwner (s : State) (v : Nat) (tf : Nat) (o : OwnerSt) : State :=
  match s.eligible v o tf with
  | none => s
  | some f =>
    let mark := fun (q : QFrame) => { q with latched := true }
    let s := s.setOwner { o with queue := updWhere o.queue (fun q => q.frameno == f.frameno) mark }
    let entry := fun (k : View) => { owner := o.owner, frameno := f.frameno, handle := f.handle } ::
      k.latched.filter fun x => x.owner != o.owner
    s.updView v fun (k : View) => { k with latched := entry k }

/-! ## Captures (R142, R355) -/

/-- The owner whose curtain a captured pixel takes, if any: one that grants no CAPTURE right, or one with a protected
surface; where both owners of a fade are so, TOP (R142; DESIGN CHOICE, log 143). -/
def State.captureRefused (s : State) (o : Id12) (v : Nat) (handle : W32) (x y : Nat) (frame : W32) : Option Id12 :=
  (viewOwners (s.mapEntry v x y)).find? fun q =>
    !s.permits q o handle none true x y frame || (s.latchedSurf v q).any fun f => f.prot

/-- Writes the rectangle of a capture packet into its destination, then its STATUS: the composed pixels at the output's depth, and curtains
(R354, R355). -/
def State.capture (s : State) (d : Draw) : State :=
  let o := (s.ctx d.ctx).owner
  let v := fieldAt d.bytes 36 4 % 2 ^ 16
  let h := BitVec.ofNat 32 (fieldAt d.bytes 36 4)
  let x0 := fieldAt d.bytes 40 2
  let y0 := fieldAt d.bytes 42 2
  let x1 := fieldAt d.bytes 44 2
  let y1 := fieldAt d.bytes 46 2
  match s.named (BitVec.ofNat 32 (fieldAt d.bytes 32 4)) with
  | some (.surface f) =>
    let s0 := s
    let s := (List.range (y1 - y0)).foldl (fun (s : State) j => (List.range (x1 - x0)).foldl (fun (s : State) i =>
      let x := x0 + i
      let y := y0 + j
      let c := match s0.captureRefused o v h x y d.frame with
        | some q => s0.curtainPix q
        | none => outPix (outWord (s0.composePix v false x y))
      s.putPixel f x y (plain (encodePixel f.fmt c)) o) s) s
    let bad := (List.range (y1 - y0)).any fun j => (List.range (x1 - x0)).any fun i => mapBad (s0.mapEntry v (x0 + i) (y0 + j))
    let s := if bad then s.setReg 0 (0x100010 + 0x40 * v) 1 (s.viewReg v 0x10 1 ||| 2) else s
    s.endDraw d 1
  | _ => s.endDraw d 10

/-- The captures of a view that a field start at `tf` serves. -/
def State.capturesAt (s : State) (v tf : Nat) : List Draw :=
  s.draws.filter fun d => decide (d.stage = .capture) && fieldAt d.bytes 36 4 % 2 ^ 16 == v && decide (d.takenAt.toNat + s.tlatch v ≤ tf)

/-! ## FIELD_START -/

/-- FIELD_START: an enabled output whose field has begun latches SEL and frames, composes, serves captures and frees frames. -/
def State.fieldStart (s : State) (v : Nat) : State :=
  if !s.viewEn v then s else
  match s.fieldNow v with
  | none => s
  | some (k, tf) =>
    let s := s.updView v fun (x : View) => { x with nextField := BitVec.ofNat 64 (tf + 1), sel := bitN (s.viewReg v 0x10 4) 0 }
    let s := s.setReg 0 (0x100034 + 0x40 * v) 4 (s.viewReg v 0x34 4 + 1)
    let s := s.owners.foldl (fun (s : State) o => s.latchOwner v tf o) s
    let il := bitN (s.viewReg v 0x1C 4) 30
    let s := s.compose v fun y => !il || (y : Int) % 2 == k % 2
    let s := (s.capturesAt v tf).foldl State.capture s
    let s := s.owners.foldl State.departures s
    if (s.fieldNow v).isSome then { s with due := s.due ++ [.fieldStart v] } else s

def execFieldStart (view : Nat) (s : State) : Host.Outcome State Fault Refusal := .next (s.fieldStart view)

/-! ## OUTPUT_ENABLE (R351, R366) -/

/-- The bandwidth that an output reserves, in bytes per second as a fraction; none without a period. -/
def State.bandwidth (s : State) (v : Nat) (il : Bool) : Option (Nat × Nat) :=
  let per := s.viewReg v 0x20 8
  if per = 0 then none
  else some (20 * s.viewW v * s.viewH v * 65536 * 10 ^ 9, per * (if il then 2 else 1))

/-- The bandwidth that the enabled outputs but one reserve. -/
def State.reserved (s : State) (v : Nat) : Nat × Nat :=
  ((List.range 8).filter fun u => u != v && s.viewEn u).foldl (fun (n : Nat × Nat) u =>
    match s.bandwidth u (bitN (s.viewReg u 0x1C 4) 30) with
    | some b => (n.1 * b.2 + b.1 * n.2, n.2 * b.2)
    | none => n) (0, 1)

/-- An output may reserve `b` beside the others: 200 GB/s in all. -/
def State.fitsBandwidth (s : State) (v : Nat) (b : Nat × Nat) : Bool :=
  let r := s.reserved v
  decide (r.1 * b.2 + b.1 * r.2 ≤ 200 * 10 ^ 9 * (r.2 * b.2))

/-- A write of the block of an enabled sender that leaves it bad silences it and sets BWERR (R366). -/
def State.checkSenders (s : State) (off n : Nat) : State :=
  ((List.range 4).filter fun k => decide (off < 0x120040 + 0x40 * k) && decide (0x120000 + 0x40 * k < off + n) && s.viewEn (4 + k) && s.senderBad k).foldl
    (fun (s : State) k => (s.setReg 0 (0x10011C + 0x40 * k) 4 (s.viewReg (4 + k) 0x1C 4 ||| 2 ^ 29)).emit (4 + k)) s

/-- OUTPUT_ENABLE: a write of the register that holds EN, IL and BWERR. One that would take too much bandwidth is ignored, but that BWERR is
set. An output that it enables starts its first field at the next t_f. -/
def State.outputEnable (s : State) (v : Nat) (w : Nat) : State :=
  let off := 0x10001C + 0x40 * v
  let old := s.viewReg v 0x1C 4
  let il := bitN w 30
  let was := bitN old 31
  let err := bitN old 29 && !bitN w 29
  let put := fun (en il err : Bool) (s : State) => s.setReg 0 off 4 (boolNat en * 2 ^ 31 + boolNat il * 2 ^ 30 + boolNat err * 2 ^ 29)
  if !bitN w 31 then
    let s := (put false il err s).emit v
    s.owners.foldl State.departures s
  else
  if (s.bandwidth v il).any (s.fitsBandwidth v) then
    let s := put true il (err || (decide (4 ≤ v) && s.senderBad (v - 4))) s
    if was then s else (s.setReg 0 (0x100034 + 0x40 * v) 4 0).updView v fun (x : View) => { x with nextField := s.time }
  else put was (bitN old 30) true s

def execOutputEnable (view : Nat) (value : W32) (s : State) : Host.Outcome State Fault Refusal :=
  .next (s.outputEnable view value.toNat)

/-! ## HDCP_STATE_CHANGE (R146) -/

/-- HDCP starts or stops on an output. When it stops in mid-field, the lines from a free one on are composed again. -/
def State.hdcpChange (s : State) (v : Nat) (active : Bool) : State :=
  let was := (s.view v).hdcp
  let s := s.updView v fun (x : View) => { x with hdcp := active }
  if was && !active && decide (v ≤ 3) && s.viewEn v then
    let (w, s) := s.freeW
    s.compose v fun y => decide (w.toNat % s.viewH v ≤ y)
  else s

def execHdcpStateChange (view : Nat) (active : Bool) (s : State) : Host.Outcome State Fault Refusal :=
  .next (s.hdcpChange view active)

end Sys2Proof.Machine
end

