-- ==== Sys2Proof/Machine/Ecdsa.lean ====
section
/-!
DEFINITION. ECDSA over P-256, with which the boot ROM verifies a firmware image (16 R380); the curve is that of FIPS 186 (PRESUMED,
log 139).
-/

namespace Sys2Proof.Machine

/-- The field prime, the group order, the curve's constant term and the base point of P-256. -/
def curveP : Nat := 0xffffffff00000001000000000000000000000000ffffffffffffffffffffffff
def curveN : Nat := 0xffffffff00000000ffffffffffffffffbce6faada7179e84f3b9cac2fc632551
def curveB : Nat := 0x5ac635d8aa3a93e7b3ebbd55769886bc651d06b0cc53b0f63bce3c3e27d2604b
def curveG : Nat × Nat :=
  (0x6b17d1f2e12c4247f8bce6e563a440f277037d812deb33a0f4a13945d898c296,
   0x4fe342e2fe1a7f9b8ee7eb4a7c0f9e162bce33576b315ececbb6406837bf51f5)

/-- `b` to the power `e` modulo `m`, over the low `n` bits of `e`. -/
def powMod (m b e : Nat) : Nat → Nat
  | 0 => 1
  | n + 1 => (if e % 2 = 1 then b else 1) * powMod m (b * b % m) (e / 2) n % m

/-- The inverse modulo a prime. -/
def invMod (m a : Nat) : Nat := powMod m (a % m) (m - 2) 256

/-- A point of the curve; none is the point at infinity. -/
abbrev CurvePoint := Option (Nat × Nat)

/-- The third point of the line of slope `k` through two points, mirrored. -/
def chord (k x1 y1 x2 : Nat) : CurvePoint :=
  let x := (k * k + 2 * curveP - x1 - x2) % curveP
  some (x, (k * (x1 + curveP - x) + curveP - y1) % curveP)

/-- The sum of two points. -/
def curveAdd : CurvePoint → CurvePoint → CurvePoint
  | none, q => q
  | p, none => p
  | some (x1, y1), some (x2, y2) =>
    if x1 ≠ x2 then chord ((y2 + curveP - y1) * invMod curveP (x2 + curveP - x1) % curveP) x1 y1 x2
    else if y1 = y2 ∧ y1 ≠ 0 then chord ((3 * x1 * x1 + curveP - 3) * invMod curveP (2 * y1) % curveP) x1 y1 x1
    else none

/-- `k` times a point, over the low `n` bits of `k`. -/
def curveMul (k : Nat) (p : CurvePoint) : Nat → CurvePoint
  | 0 => none
  | n + 1 => curveAdd (if k % 2 = 1 then p else none) (curveMul (k / 2) (curveAdd p p) n)

/-- A public key, as x ‖ y, is a point of the curve. -/
def onCurve (x y : Nat) : Bool :=
  decide (x < curveP) && decide (y < curveP) && y * y % curveP == (x * x * x + (curveP - 3) * x + curveB) % curveP

/-- The signature (r, s) of a digest verifies under the key (x, y). -/
def ecdsaVerifies (x y digest r s : Nat) : Bool :=
  let w := invMod curveN s
  let sum := curveAdd (curveMul (digest * w % curveN) (some curveG) 256) (curveMul (r * w % curveN) (some (x, y)) 256)
  onCurve x y && decide (0 < r) && decide (r < curveN) && decide (0 < s) && decide (s < curveN) && sum.any fun p => p.1 % curveN == r

end Sys2Proof.Machine
end

