-- ==== Sys2Proof/Machine/Platform.lean ====
section
/-!
DEFINITION. The platform: writes of configuration and I3C registers, the ghost light, wear and understudies, the Urxia mailbox
and start-up (16 R357, R358, R373 to R376, R379 to R383).
-/

namespace Sys2Proof.Machine

/-! ## Register writes (R357, R358, R382, Tables 6-4, 15-7, 15-8, 16-1 to 16-3, 16-11, 16-14) -/

/-- Writable bits of byte `o` of a base register, which holds an IA in [51:6]. -/
def baseMask (o : Nat) : Byte := if o = 0 then 0xC0 else if o < 6 then 0xFF else if o = 6 then 0x0F else 0

def within (off lo n : Nat) : Bool := decide (lo ≤ off) && decide (off < lo + n)

/-- Writable bits of a byte of a screen view's block. -/
def viewMask (o : Nat) : Byte :=
  if o < 16 then baseMask (o % 8)
  else if within o 0x18 4 || within o 0x20 20 then 0xFF
  else 0

/-- Writable bits of a byte of an owner block. -/
def ownerMask (o : Nat) : Byte := if o < 4 || 8 ≤ o then 0xFF else if o = 4 then 0x0F else 0

/-- Bits of an aperture byte that a plain write stores; other registers have their own behaviour or are read-only. -/
def regMask (die off : Nat) : Byte :=
  if off < 8 then 0xFF
  else if off < 0x18 then baseMask (off % 8)
  else if die ≠ 0 then 0
  else if off < 0x10000 then 0
  else if off < 0x10008 then 0xFF
  else if off < 0x10028 then baseMask (off % 8)
  else if off < 0x1002C then 0xFF
  else if within off 0x10030 16 then baseMask (off % 8)
  else if off = 0x10040 then 0x1F
  else if within off 0x10048 4 then 0xFF
  else if within off 0x10080 2 || within off 0x10084 2 || within off 0x10088 2 then 0xFF
  else if off = 0x1008C then 0x3F
  else if within off 0x1008E 2 then 0xFF
  else if within off 0x10100 8 then baseMask (off % 8)
  else if within off 0x20000 0x200 then 0xFF
  else if off = 0x20200 then 0x77
  else if off = 0x20201 then 0x07
  else if within off 0x30000 0xA0 then 0xFF
  else if within off 0x100000 0x200 then viewMask (off % 0x40)
  else if within off 0x110000 0x10000 then ownerMask (off % 16)
  else if within off 0x120000 0x100 then 0xFF
  else if within off 0x300008 24 || within off 0x300100 0x1000 then 0xFF
  else 0

/-- The byte that a write leaves: the old bits where the mask is clear; MODE keeps its value when 3 is written, and BMERR is
cleared by 1. -/
def regByteAfter (die off : Nat) (old b : Byte) : Byte :=
  if die = 0 ∧ within off 0x110000 0x10000 ∧ off % 16 = 4 ∧ bits b.toNat 2 2 = 3 then (old &&& 0xFC) ||| (b &&& 3)
  else if die = 0 ∧ within off 0x100000 0x200 ∧ off % 0x40 = 0x10 then (b &&& 1) ||| (old &&& 2 &&& ~~~b)
  else (old &&& ~~~regMask die off) ||| (b &&& regMask die off)

/-- Stores the bytes of a write. -/
def State.storeRegs (s : State) (die : Nat) : Nat → List Byte → State
  | _, [] => s
  | off, b :: bs =>
    let k := regKey die off
    (if off < 2 ^ 24 then
      { s with regs := cellWrite regDefault s.regs k (regByteAfter die off (cellRead regDefault s.regs k) b) }
    else s).storeRegs die (off + 1) bs

/-- A write of `bs` at `off` touches the `n` bytes at `at_`. -/
def touches (off : Nat) (bs : List Byte) (at_ n : Nat) : Bool := decide (off < at_ + n) && decide (at_ < off + bs.length)

/-- The value of the 4-byte register at `at_` with the written bytes over what it holds. -/
def State.wordAfter (s : State) (die off : Nat) (bs : List Byte) (at_ : Nat) : Nat :=
  leNat ((List.range 4).map fun i =>
    if off ≤ at_ + i then bs.getD (at_ + i - off) (cellRead regDefault s.regs (regKey die (at_ + i)))
    else cellRead regDefault s.regs (regKey die (at_ + i)))

/-- The write of MBCMD: ignored while GO reads 1; GO starts the operation that OP names. -/
def State.mailboxCommand (s : State) (w : Nat) : State :=
  if bitN (s.reg 0 0x300000 4) 31 then s else
  let op := w % 256
  if !bitN w 31 then s.setReg 0 0x300000 4 op else
  let go := fun (i : Instr) => { s.setReg 0 0x300000 4 (2 ^ 31 + op) with due := s.due ++ [i] }
  match op with
  | 1 => go .attest
  | 2 => go .cert
  | 3 => go .keygen
  | 4 => go .keyclr
  | _ => (s.setReg 0 0x300000 4 op).setReg 0 0x300004 4 2

/-- The steps that a write of a register with a behaviour of its own starts. -/
def State.regSteps (s : State) (die off : Nat) (bs : List Byte) : List Instr :=
  let word := fun (a : Nat) => s.wordAfter die off bs a
  let mig := if touches off bs 0x18 4 then [Instr.migprodWrite die (BitVec.ofNat 32 (word 0x18))] else []
  if die ≠ 0 then mig else
  mig ++ (if touches off bs 0x10108 4 then [.migprodWrite 8 (BitVec.ofNat 32 (word 0x10108))] else []) ++
    (if touches off bs 0x1004C 4 then [.raslostClear] else []) ++
    (if touches off bs 0x1008C 1 && bitN (word 0x1008C) 6 then [.ghostLightEnter (BitVec.ofNat 32 (word 0x1008C))] else []) ++
    ((List.range 8).filter fun v => touches off bs (0x10001C + 0x40 * v) 4).map fun v =>
      let a := 0x10001C + 0x40 * v
      let w := word a
      .outputEnable v (BitVec.ofNat 32 (if touches off bs (a + 3) 1 then w else w - (if bitN w 29 then 2 ^ 29 else 0)))

/-- A byte of the I3C registers as the board reads it (Table 16-12). -/
def State.i3cReg (s : State) (a : Nat) : Byte :=
  let b := s.board
  match a with
  | 0 => 0x70
  | 1 => 0x0E
  | 2 => b.cooltemp.truncate 8
  | 3 => b.cooltemp.extractLsb' 8 8
  | 4 => b.coolflow.truncate 8
  | 5 => b.coolflow.extractLsb' 8 8
  | 6 => b.medium
  | 0x10 => b.wakestat
  | 0x13 => BitVec.ofNat 8 (boolNat s.ghost)
  | _ => 0

/-- A private read: `n` bytes from the register address named last (R373). No row of the opcode table is a read: it changes nothing. -/
def State.i3cRead (s : State) (n : Nat) : List Byte := (List.range n).map fun i => s.i3cReg (s.board.named.toNat + i)

/-- The board's private write, which the target takes at its dynamic address: it names a register, and its data go to the registers from there
on, or are ignored when reserved bits are nonzero (R373). -/
def State.i3cWrite (s : State) (off : Nat) (bs : List Byte) : State :=
  if s.board.addr.isNone then s else
  let s := { s with board := { s.board with named := BitVec.ofNat 8 off } }
  let at_ := fun (a : Nat) => if off ≤ a then bs[a - off]? else none
  let bad := fun (a lim : Nat) => (at_ a).any fun b => decide (lim ≤ b.toNat)
  if bad 6 4 || bad 7 2 || bad 0x11 2 then s else
  let b := s.board
  let half := fun (old : BitVec 16) (lo hi : Option Byte) =>
    BitVec.ofNat 16 ((lo.map BitVec.toNat).getD (old.toNat % 256) + 256 * (hi.map BitVec.toNat).getD (old.toNat / 256))
  { s with board := { b with cooltemp := half b.cooltemp (at_ 2) (at_ 3), coolflow := half b.coolflow (at_ 4) (at_ 5),
                             medium := (at_ 6).getD b.medium },
           due := s.due ++ (if (at_ 7).any (fun x => bitN x.toNat 0) then [.commit] else []) ++
             (if (at_ 0x11).any (fun x => bitN x.toNat 0) then [.wakeack] else []) ++
             ((at_ 0x12).toList.map fun x => .wake x) }

/-- REGISTER_WRITE: `die` 0 to 3 is an aperture, 4 the I3C target, at the address `off`; 5 is the I3C controller's assignment of the target's
dynamic address (R373). -/
def State.registerWrite (s : State) (die off size : Nat) (v : W64) : State :=
  let bs := leBytes (min size 8) v.toNat
  if die = 4 then s.i3cWrite off bs
  else if die = 5 then { s with board := { s.board with addr := some (v.truncate 8) } }
  else if 3 < die ∨ s.ghost ∨ 2 ^ 24 ≤ off then s
  else
    let steps := s.regSteps die off bs
    let cmd := s.wordAfter 0 off bs 0x300000
    let s := s.storeRegs die off bs
    let s := if touches off bs 8 8 then s.loadPrts die else s
    let s := if die = 0 then s.checkSenders off bs.length else s
    let s := { s with due := s.due ++ steps }
    if die = 0 ∧ touches off bs 0x300000 4 then s.mailboxCommand cmd else s

def execRegisterWrite (die off size : Nat) (value : W64) (s : State) : Host.Outcome State Fault Refusal :=
  .next (s.registerWrite die off size value)

/-- RASLOST_CLEAR: a write of any value clears the count. -/
def execRaslostClear (s : State) : Host.Outcome State Fault Refusal := .next (s.setReg 0 0x1004C 4 0)

/-- TIME_SYNC: the selected source disciplines the timebase; the other one does not. -/
def execTimeSync (r : TimeReport) (s : State) : Host.Outcome State Fault Refusal :=
  .next (if s.linkOpen ∧ s.timeSource = some r.source then { s.passTime r.time with timeLocked := true } else s)

/-! ## Ghost light (R375, R376) -/

/-- The refusal code of an entry, 0 when it is accepted. -/
def State.ghostRefusal (s : State) (retlen : Nat) : Nat :=
  if s.teams.any fun t => t.life.holds then 1
  else if (List.range 8).any s.viewEn then 2
  else if s.streams.any fun x => !x.out.isEmpty then 3
  else if 32 < retlen then 4
  else 0

/-- The L2 and the metadata cache of every die give their lines back to memory. -/
def State.flushL2 (s : State) : State :=
  (List.range 4).foldl (fun (s : State) d =>
    let s := (s.mdcOf d).foldl (fun (s : State) l => s.evictMdc d l) s
    (s.l2Of d).foldl (fun (s : State) l => s.evictL2 d l) s) s

/-- Entry: the retained region, as memory holds it once the L2 is empty (DEDUCED, log 115), the island and what it keeps for Urxia stay, with
the substitutions made and the clusters disabled (R379); everything else is off. -/
def State.intoGhost (s : State) (v : Nat) : State :=
  let lim := bits v 0 6 * 2 ^ 30
  let s := s.flushL2
  let kept : State :=
    { State.reset with
      time := s.time, mem := s.mem.filter fun c => decide (c.1 < lim),
      memPoison := s.memPoison.filter fun p => decide (p.idx * 8 < lim),
      flaws := s.flaws.filter fun f => decide (f * 32 < lim),
      units := s.units.filter fun u => (s.phys u.1).any fun k => decide (k < lim),
      stamps := s.stamps.filter fun x => decide (x.1 * 65536 < lim),
      seals := (s.seals.filter fun x => decide (x.lo * 64 < lim)).map fun (x : Seal) => { x with hi := min x.hi (lim / 64) },
      saves := s.saves, board := s.board, urxia := { s.urxia with started := 0, listed := [] }, understudy := s.understudy,
      clusters := s.clusters.map fun (k : Cluster) => { Cluster.reset with disabled := k.disabled }, spared := s.spared, repairs := s.repairs,
      ghost := true, nextId := s.nextId, free := s.free }
  kept.setReg 0 0x1008C 4 (bits v 0 6 + bits v 16 16 * 2 ^ 16)

/-- GHOST_LIGHT_ENTER: the value written to GLCTL. -/
def State.ghostEnter (s : State) (v : Nat) : State :=
  if s.ghost ∨ !bitN v 6 then s else
  let c := s.ghostRefusal (bits v 0 6)
  if c = 0 then s.intoGhost v
  else s.setReg 0 0x1008C 4 (bits v 0 6 + c * 2 ^ 12 + bits v 16 16 * 2 ^ 16)

def execGhostLightEnter (value : W32) (s : State) : Host.Outcome State Fault Refusal := .next (s.ghostEnter value.toNat)

/-- WAKE_N is driven low for a reason. -/
def State.assertWake (s : State) (reason : Byte) : State :=
  if s.ghost && !s.board.wakestat.getLsbD 0 then { s with board := { s.board with wakestat := reason } } else s

def execWakePhraseDetect (s : State) : Host.Outcome State Fault Refusal := .next (s.assertWake 3)

/-- GHOST_LIGHT_TIMEOUT: TIMEOUT, when it is not 0, expires. -/
def execGhostLightTimeout (s : State) : Host.Outcome State Fault Refusal :=
  .next (if s.reg 0 0x1008E 2 = 0 then s else s.assertWake 5)

/-- WAKEACK: WAKE_N is released. -/
def execWakeack (s : State) : Host.Outcome State Fault Refusal :=
  .next { s with board := { s.board with wakestat := s.board.wakestat &&& 6 } }

/-- WAKE: 0xA5 leaves the ghost light; start-up goes on from step 2. -/
def execWake (value : Byte) (s : State) : Host.Outcome State Fault Refusal :=
  .next (if s.ghost ∧ value = 0xA5 then { s with ghost := false, regs := [], urxia := { s.urxia with started := 1, failed := none, told := [] } }
    else s)

/-! ## Understudies (R379) -/

/-- A substitution: SUBSTCNT and a record. -/
def State.substitute (s : State) (unit ia : Nat) : State :=
  ({ s with urxia := { s.urxia with subst := s.urxia.subst + 1 } } : State).deviceRecord 0x20 unit 0xFFF 0 ia 0

def clusterUnit (die clu : Nat) : Nat := die * 64 + (Config.errorUnit clu).toNat * 8

/-- The lower C-die that a die link joins, by the link's number. -/
def linkDie (link : Nat) : Nat := if link < 3 then 0 else if link < 5 then 1 else if link = 5 then 2 else (link - 6) % 4

/-- UNIT and IA of a unit's records. -/
def wearPlace : WearUnit → Nat × Nat
  | .cluster die clu => (clusterUnit die clu, 0)
  | .sram die => (die * 64, 0)
  | .dieLink link => (linkDie link * 64, 0)
  | .ethernet port => (port * 8, 0)
  | .memRow ia => (unitOf ia.toNat, ia.toNat)

/-- Teams left on the cores of a disabled cluster halt: they cannot be saved. -/
def State.haltOn (s : State) (cores : List Nat) : State :=
  (s.teams.filter fun t => t.life == .running && t.groups.any fun g => cores.contains g.core).foldl (fun (s : State) t =>
    s.haltTeam t 0x1D 0x20000) s

/-- A cluster wears out: its teams are stopped and the understudy takes its number; the second of a die is disabled. -/
def State.clusterWorn (s : State) (die clu : Nat) : State :=
  let cl := 10 * die + clu
  let cores := (List.range 4).map fun i => 4 * cl + i
  let s := (s.dropPasses cores).stopCores cores none
  if s.understudy.any fun x => x.1 == die then
    (s.updCluster cl fun k => { k with disabled := true }).haltOn cores
  else ({ s with understudy := (die, clu) :: s.understudy } : State).substitute (clusterUnit die clu) 0

/-- The spare lane of a die link or a port comes into use, once: a later crossing finds none (DEDUCED, log 86). -/
def State.spareLane (s : State) (u : WearUnit) : State :=
  if s.spared.contains u then s else
  let s := ({ s with spared := u :: s.spared } : State).substitute (wearPlace u).1 0
  match u with
  | .ethernet port => s.linkDown port
  | _ => s

/-- WEAR_THRESHOLD: a record, and the understudy as Table 16-6 says. -/
def State.wear (s : State) (u : WearUnit) : State :=
  let (unit, ia) := wearPlace u
  let s := s.deviceRecord 0x21 unit 0xFFF 0 ia 0
  match u with
  | .cluster die clu => if die < 4 ∧ clu < 10 then s.clusterWorn die clu else s
  | .sram _ => { s with repairs := s.repairs ++ [u] }
  | .memRow _ => { s with repairs := s.repairs ++ [u] }
  | .dieLink _ => s.spareLane u
  | .ethernet _ => s.spareLane u

def execWearThreshold (unit : WearUnit) (s : State) : Host.Outcome State Fault Refusal := .next (s.wear unit)

/-! ## The mailbox (R144, R381, R382) -/

/-- The mailbox works on operation `op`. -/
def State.mailboxAt (s : State) (op : Nat) : Bool := s.reg 0 0x300000 4 == 2 ^ 31 + op

/-- An operation ends: GO reads 0 and MBSTAT holds its status. -/
def State.mailboxDone (s : State) (op status : Nat) : State := (s.setReg 0 0x300000 4 op).setReg 0 0x300004 4 status

def State.putBuf (s : State) (bs : List Byte) : State :=
  { s with regs := cellWrites regDefault s.regs (regKey 0 0x300100) bs }

/-- The bytes of the carried limit tables, in the order of the image. -/
def carriedBytes (fw : List Byte) : List (List Byte) :=
  let t := fw.drop (fw.length - 256)
  [t.take 64, (t.drop 64).take 64, (t.drop 128).take 64]

/-- A limit table, where its bytes carry one (R374). -/
def tableOf (bs : List Byte) : Option LimitTable :=
  let band := fun (b : Nat) =>
    ({ top := (BitVec.ofNat 16 (leNat ((bs.drop (8 + 7 * b)).take 2))).toInt, cap := bits (leNat ((bs.drop (10 + 7 * b)).take 1)) 0 4,
       floor := leNat ((bs.drop (11 + 7 * b)).take 2) } : LimitBand)
  let zeros := [1, 6, 7] ++ (List.range 8).flatMap fun b => [13 + 7 * b, 14 + 7 * b]
  let caps := (List.range 8).all fun b => decide ((bs.getD (10 + 7 * b) 0).toNat < 16)
  let bands := (List.range 8).map band
  let rises := (bands.zip bands.tail).all fun x => decide (x.1.top < x.2.top)
  if bs.length < 64 || bs.all (· == 0) || !zeros.all (fun i => bs.getD i 0 == 0) || !caps || !rises then none
  else some { medium := (bs.getD 0 0).toNat, plim := leNat ((bs.drop 2).take 2), minflow := leNat ((bs.drop 4).take 2), bands := bands }

/-- A table that the device carries (R1, R374). -/
def carriedTable (bs : List Byte) : Option LimitTable := (tableOf bs).filter (mayCarry Config.orderingCode)

/-- The attestation report (Table 16-7). -/
def State.attestation (s : State) (nonce : List Byte) : List Byte :=
  leBytes 4 1 ++ nonce ++ sha256 s.urxia.firmware ++
    sha256 ((carriedBytes s.urxia.firmware).filter fun t => (carriedTable t).isSome).flatten ++
    leBytes 4 s.urxia.subst.toNat ++ leBytes 4 s.urxia.starts.toNat ++ List.replicate 20 0 ++
    (List.range 64).map fun i => Config.reportByte s.urxia.reports i

/-- ATTEST. -/
def execAttest (s : State) : Host.Outcome State Fault Refusal :=
  .next (if !s.mailboxAt 1 then s else
    let r := s.attestation (cellReads regDefault s.regs (regKey 0 0x300100) 32)
    (({ s with urxia := { s.urxia with reports := s.urxia.reports + 1 } } : State).putBuf r).mailboxDone 1 0)

/-- CERT: the chain and its length. -/
def execCert (s : State) : Host.Outcome State Fault Refusal :=
  .next (if !s.mailboxAt 2 then s else
    let n := Config.certLen.toNat
    ((s.putBuf ((List.range n).map Config.certByte)).setReg 0 0x300008 4 n).mailboxDone 2 0)

/-- The slot and the home that MBARG0 names. -/
def State.keyArg (s : State) : Nat × Nat := (s.reg 0 0x300008 4 % 256, bits (s.reg 0 0x300008 4) 8 4)

/-- KEYGEN: a fresh key, known by a number of its own, goes into an empty slot of a home (R144). -/
def execKeygen (s : State) : Host.Outcome State Fault Refusal :=
  .next (if !s.mailboxAt 3 then s else
    let (slot, h) := s.keyArg
    if slot = 0 ∨ 3 < h then s.mailboxDone 3 3
    else if (s.home h).keys.any fun k => k.1 == slot then s.mailboxDone 3 4
    else
      let k := s.urxia.keyUses + 1
      (({ s with urxia := { s.urxia with keyUses := k } } : State).updHome h fun x =>
        { x with keys := (slot, k) :: x.keys }).mailboxDone 3 0)

/-- KEYCLR: the slot is emptied. -/
def execKeyclr (s : State) : Host.Outcome State Fault Refusal :=
  .next (if !s.mailboxAt 4 then s else
    let (slot, h) := s.keyArg
    if slot = 0 ∨ 3 < h then s.mailboxDone 4 3
    else if !(s.home h).keys.any fun k => k.1 == slot then s.mailboxDone 4 5
    else (s.updHome h fun x => { x with keys := x.keys.filter fun k => k.1 != slot }).mailboxDone 4 0)

/-! ## Start-up and recovery (R380, R383) -/

/-- The boot ROM accepts an image: the key's digest is the one fused, the signature at its end verifies over all before it, and the version is at
least the fused minimum (R380). -/
def imageGood (fw : List Byte) : Bool :=
  let key := Config.imageKey fw
  let sig := fw.drop (fw.length - 64)
  decide (320 ≤ fw.length) && sha256 key == Config.fusedDigest && decide (Config.fusedVersion ≤ Config.imageVersion fw) &&
    ecdsaVerifies (bigNat (key.take 32) 0) (bigNat (key.drop 32) 0) (bigNat (sha256 (fw.take (fw.length - 64))) 0)
      (bigNat (sig.take 32) 0) (bigNat (sig.drop 32) 0)

/-- The CFG endpoints that a firmware image lists. -/
def listedSlots (fw : List Byte) : List Nat := (Config.listed fw).filter fun n => decide (8 ≤ n) && decide (n ≤ 14)

/-- Start-up fails at a step: the step and the unit are reported to CFG endpoints (R2, R380, R383). The report has no form in the spec: it stands
in `told` (DESIGN CHOICE, log 113). -/
def State.failStep (s : State) (step unit : Nat) (slots : List Nat) : State :=
  { s with urxia := { s.urxia with failed := some (step, unit), told := slots.map fun n => (n, step, unit) } }

/-- The image is accepted: the firmware runs, with the limit tables that its ordering code lets it carry (R1, R372). -/
def State.acceptImage (s : State) (fw : List Byte) : State :=
  { s with urxia := { s.urxia with accepted := true, recovery := false, failed := none, told := [], firmware := fw, image := [], started := 1,
                                   tables := (carriedBytes fw).filterMap carriedTable } }

/-- The Urxia boot ROM refuses the image: port 0 comes up in recovery mode, and every endpoint that may send an image is told (DEDUCED,
log 83). -/
def State.refuseImage (s : State) : State :=
  ({ s with urxia := { s.urxia with accepted := false, recovery := true },
            ports := updAt s.ports 0 fun (p : Port) => { p with up := true } } : State).failStep 1 0 (List.range' 8 7)

/-- The boot ROM verifies an image. -/
def State.verifyImage (s : State) (fw : List Byte) : State := if imageGood fw then s.acceptImage fw else s.refuseImage

/-- Memory is trained, and the understudies recorded for this start-up are applied. -/
def State.trainMemory (s : State) : State :=
  let s := { s with urxia := { s.urxia with started := 2, starts := s.urxia.starts + 1 } }
  let s := s.repairs.foldl (fun (s : State) u => s.substitute (wearPlace u).1 (wearPlace u).2) s
  { s with repairs := [] }

/-- The governor starts every cluster at PL4 with the equal ratio, under the chosen table. -/
def State.startGovernor (s : State) : State :=
  let start := fun (k : Cluster) => { k with level := 4, volt := 4, goal := 4, ratio := 1, tgtLevel := 4, tgtRatio := 1, step := .settled, gnt := 20 }
  let s := { s with clusters := s.clusters.map start, urxia := { s.urxia with started := 3 } }
  if s.board.report.isSome then s.applyReport else s.govern

/-- The ports come up, one of the two time sources is selected, a free choice (DESIGN CHOICE, log 140), and Vanar answers the listed
endpoints. -/
def State.startPorts (s : State) : State :=
  let (w, s) := s.freeW
  { s with ports := s.ports.map fun (p : Port) => { p with up := true },
           timeSource := some (if w.getLsbD 0 then .ptp else .gptp),
           urxia := { s.urxia with started := 4, listed := listedSlots s.urxia.firmware } }

/-- The unit that fails at a step, in the form of UNIT of the device error records: at step 2 one of the 32 memory channels, at step 3 a C-die,
at step 4 a port (Table 16-5); which one is free. -/
def failedUnit (step w : Nat) : Nat :=
  if step = 2 then w % 32 / 8 * 64 + w % 8 * 8 else if step = 3 then w % 4 * 64 else w % 2 * 8

/-- START_UP: the next step of the sequence. The first one verifies the firmware; another succeeds or stops there, with the step and the unit
reported to the CFG endpoints that the image lists (R2, R383). -/
def State.startUp (s : State) (ok : Bool) : State :=
  if s.ghost ∨ s.urxia.recovery ∨ s.urxia.failed.isSome then s else
  let stop := fun (n : Nat) =>
    let (w, s) := s.freeW
    s.failStep n (failedUnit n w.toNat) (listedSlots s.urxia.firmware)
  match s.urxia.started with
  | 0 => s.verifyImage Config.firmware
  | 1 => if ok then s.trainMemory else stop 2
  | 2 => if ok then s.startGovernor else stop 3
  | 3 => if ok then s.startPorts else stop 4
  | _ => s

def execStartUp (ok : Bool) (s : State) : Host.Outcome State Fault Refusal := .next (s.startUp ok)

/-- Puts bytes into an image at an offset. -/
def patch (img : List Byte) (off : Nat) (bs : List Byte) : List Byte :=
  let head := img.take off
  head ++ List.replicate (off - head.length) 0 ++ bs ++ img.drop (off + bs.length)

/-- RECOVERY: bytes of the image at ADDR; none ends the image, which the boot ROM verifies again. -/
def State.recover (s : State) (h : MsgHdr) (data : List Byte) : State :=
  if s.ghost ∨ !s.urxia.recovery then
    (if s.linkOpen then s.onceCfg h fun s => s.respond h 7 3 [] else s)
  else
    match s.arrival h.slot h.seq with
    | .fresh =>
      if !data.isEmpty then
        ({ s with urxia := { s.urxia with image := patch s.urxia.image h.addr.toNat data } } : State).respond h 7 0 []
      else if imageGood s.urxia.image then (s.respond h 7 0 []).acceptImage s.urxia.image
      else ({ s with urxia := { s.urxia with image := [] } } : State).respond h 7 3 []
    | .dup => s.dupe h.slot h.seq
    | .unknown => s.countDiscard 0
    | _ => s

def execRecovery (h : MsgHdr) (len : Nat) (data : List Byte) (s : State) : Host.Outcome State Fault Refusal :=
  .next (s.recover h (data.take len))

end Sys2Proof.Machine
end

