-- ==== Sys2Proof/Machine/System.lean ====
section
/-!
DEFINITION. Mesh output, tile memory, DISC, LAUNCH, the system registers, the return from a trap and the invalidation of home
entries (13 R314 to R318, R320, 01 R9, R28, R33 to R35).
-/

namespace Sys2Proof.Machine

/-! ## The mesh stage (R314) -/

/-- Adds discarded writes to MESHDROP. -/
def Group.drop (g : Group) (n : Nat) : Group :=
  { g with meshdrop := BitVec.ofNat 32 (min (bits g.meshdrop.toNat 0 16 + n) 0xFFFF + bits g.meshdrop.toNat 16 16 * 2 ^ 16) }

/-- Puts words into a vertex from word `w` on. -/
def putWords (v : List W32) (w : Nat) (ws : List W32) : List W32 := (ws.zipIdx).foldl (fun v x => updAt v (w + x.2) fun _ => x.1) v

/-- One lane's vertex write. -/
def Group.putVert (g : Group) (i w : Nat) (ws : List W32) : Group :=
  if g.mesh.ended || decide (g.mesh.verts.length ≤ i) then g.drop 1
  else { g with mesh := { g.mesh with verts := updAt g.mesh.verts i fun v => putWords v w ws } }

/-- One lane's primitive write. -/
def Group.putPrim (g : Group) (i : Nat) (p : W32) : Group :=
  if g.mesh.ended || decide (g.mesh.prims.length ≤ i) then g.drop 1
  else { g with mesh := { g.mesh with prims := updAt g.mesh.prims i fun _ => p } }

/-- Words of a count code of EMITV. -/
def emitCount (cnt : BitVec 2) : Nat := 2 ^ cnt.toNat

/-- EMITV: the lanes in ascending order, so that the higher lane's value is kept. -/
def emitvEff (a b : Opnd) (cnt : BitVec 2) (word : BitVec 4) (e : Env) (s : State) : Chk Eff := do
  let n := emitCount cnt
  let srcs : List SrcOp := { code := 1, o := a } :: (List.range n).map fun i => { code := 2, o := shiftOpnd b i }
  e.bounds [{ code := 1, o := a, n := 1, even := false }, { code := 2, o := b, n := n, even := false }]
  let vs ← s.gather e srcs (.vec 0) 0
  pure (Eff.on (s.updGroup e.gid fun g => (lanesOf e.exec).foldl (fun (g : Group) l =>
    g.putVert (valAt vs 0 l) word.toNat ((List.range n).map fun i => BitVec.ofNat 32 (valAt vs (i + 1) l))) g))

def execEmitv (h : Hdr) (a b : Opnd) (cnt : BitVec 2) (word : BitVec 4) (s : State) : Host.Outcome State Fault Refusal :=
  runInstr (.emitv h a b cnt word) h (emitvEff a b cnt word) s

def emitpEff (a b : Opnd) (e : Env) (s : State) : Chk Eff := do
  let srcs : List SrcOp := [{ code := 1, o := a }, { code := 2, o := b }]
  e.bounds (srcs.map SrcOp.use)
  let vs ← s.gather e srcs (.vec 0) 0
  pure (Eff.on (s.updGroup e.gid fun g => (lanesOf e.exec).foldl (fun (g : Group) l =>
    g.putPrim (valAt vs 0 l) (BitVec.ofNat 32 (valAt vs 1 l))) g))

def execEmitp (h : Hdr) (a b : Opnd) (s : State) : Host.Outcome State Fault Refusal :=
  runInstr (.emitp h a b) h (emitpEff a b) s

/-- MESHEND: the counts are clamped to the output's size, each clamp counted; a second one is only counted. -/
def Group.meshEnd (g : Group) (v p : Nat) : Group :=
  if g.mesh.ended then g.drop 1 else
  let mv := g.mesh.verts.length
  let mp := g.mesh.prims.length
  { g.drop (boolNat (decide (mv < v)) + boolNat (decide (mp < p))) with
    mesh := { g.mesh with ended := true, nvert := min v mv, nprim := min p mp } }

def meshendEff (a b : Opnd) (e : Env) (s : State) : Chk Eff := do
  let vs ← s.gather e [{ code := 1, o := a }, { code := 2, o := b }] (.vec 0) 0
  let l := lowLane e.exec
  pure (Eff.on (s.updGroup e.gid fun g => g.meshEnd (valAt vs 0 l) (valAt vs 1 l)))

def execMeshend (h : Hdr) (a b : Opnd) (s : State) : Host.Outcome State Fault Refusal :=
  runInstr (.meshend h a b) h (meshendEff a b) s

/-! ## Tile memory (R315) -/

/-- Base and size of the tile memory that a team's tile pass holds on its core. -/
def State.tileMem (s : State) (t : Team) : Option (Nat × Nat) :=
  match t.kind with
  | .tile did => (s.draw? did).bind fun d => (d.passes.find? fun p => p.team == some t.id).map fun p => (p.base, d.tileBytes)
  | _ => none

/-- The tile memory, or the trap of an instruction outside a tile pass. -/
def State.needTile (s : State) (e : Env) : Chk (Nat × Nat) :=
  match s.tileMem e.t with
  | some x => .ok x
  | none => .error (.trap 2 (8 * 256 + 0xFE))

def tileUse (d : Opnd) (ty : Ty) (nvec : BitVec 4) : RegUse := { code := 0, o := d, n := Encoding.accRegs ty nvec, even := ty == .b64 }

def tileBytes (ty : Ty) (nvec : BitVec 4) : Nat := ty.size * nvecCount nvec

def tldEff (d a : Opnd) (ty : Ty) (nvec : BitVec 4) (e : Env) (s : State) : Chk Eff := do
  let regs := Encoding.accRegs ty nvec
  e.bounds [tileUse d ty nvec, { code := 1, o := a, n := 1, even := false }]
  let vs ← s.peek e [{ code := 1, o := a }] d regs
  let (base, size) ← s.needTile e
  let o := fun l => valAt (lvVals vs) 0 l
  laneTrap (lanesOf e.exec) (fun l => o l % tileBytes ty nvec != 0) 0x13 id
  poisonCheck e.exec vs
  s.afterAcquires e
  let k := s.core e.g.core
  let v := fun l =>
    loadRegs ty (nvecCount nvec) (k.spadRead (base + o l % size) (tileBytes ty nvec))
  pure (Eff.on (s.writeLoaded e d regs v))

def execTld (h : Hdr) (d a : Opnd) (ty : Ty) (nvec : BitVec 4) (s : State) : Host.Outcome State Fault Refusal :=
  runInstr (.tld h d a ty nvec) h (tldEff d a ty nvec) s

def tstoEff (d a : Opnd) (ty : Ty) (nvec : BitVec 4) (e : Env) (s : State) : Chk Eff := do
  e.bounds [tileUse d ty nvec, { code := 1, o := a, n := 1, even := false }]
  let vs ← s.peek e (({ code := 1, o := a } : SrcOp) :: dataSrcs d ty (nvecCount nvec)) (.vec 0) 0
  let (base, size) ← s.needTile e
  let o := fun l => valAt (lvVals vs) 0 l
  laneTrap (lanesOf e.exec) (fun l => o l % tileBytes ty nvec != 0) 0x13 id
  poisonCheck e.exec vs
  s.afterAcquires e
  s.afterLogged e
  pure (Eff.on (s.updCore e.g.core fun k => (lanesOf e.exec).foldl (fun (k : Core) l =>
    k.spadWrite (base + o l % size) (plain (elemBytes ty ((lvVals vs).drop 1) l))) k))

def execTsto (h : Hdr) (d a : Opnd) (ty : Ty) (nvec : BitVec 4) (s : State) : Host.Outcome State Fault Refusal :=
  runInstr (.tsto h d a ty nvec) h (tstoEff d a ty nvec) s

/-! ## DISC (R316) -/

/-- DISC: in a fragment-stage launch the pixels of the lanes are discarded; the lanes exit. -/
def discEff (e : Env) (s : State) : Chk Eff :=
  let s := match e.t.kind with
    | .tile _ => s.updGroup e.gid fun g => { g with discarded := g.discarded ||| e.exec }
    | _ => s
  pure { s := s.leave e, moved := true }

def execDisc (h : Hdr) (s : State) : Host.Outcome State Fault Refusal := runInstr (.disc h) h discEff s

/-! ## LAUNCH (R317) -/

/-- The kick of LAUNCH: its status and the state in which the dispatcher has accepted it. -/
def State.launchKick (s : State) (c : Ctx) (n : Nat) : Nat × State :=
  if !(s.ctx n).valid || ((s.ctx n).owner != c.owner && c.owner != 0) then (0, s)
  else (1, { s with due := s.due ++ [.kick (.own n)] })

def launchEff (d a : Opnd) (e : Env) (s : State) : Chk Eff := do
  let v ← s.countVal e a anyCount
  s.afterLogged e
  s.afterWrites e
  s.withRelease e .dev fun s =>
    let (r, s) := s.launchKick e.c (v % 4096)
    pure (Eff.on (s.status e d r))

def execLaunch (h : Hdr) (d a : Opnd) (s : State) : Host.Outcome State Fault Refusal := runInstr (.launch h d a) h (launchEff d a) s

/-! ## System registers (R9, R318, Tables 7-5, 13-6 and 13-7) -/

/-- The value of a system register that the issuing group reads. -/
def State.sysRead (s : State) (e : Env) (i : Nat) : Nat :=
  let k := s.cluster (cluOf e.g.core)
  match i with
  | 0x000 => e.c.num
  | 0x001 => e.c.owner.toNat
  | 0x010 => e.c.trapvec.toNat
  | 0x011 => e.x.trap.cause.toNat
  | 0x012 => e.x.trap.pc.toNat
  | 0x013 => e.x.trap.resume.toNat
  | 0x014 => e.x.trap.info.toNat
  | 0x015 => e.x.trap.skid.toNat
  | 0x020 => e.g.slipl.toNat
  | 0x021 => e.g.lodcnt.toNat
  | 0x022 => e.g.qmaskf.toNat
  | 0x030 => e.c.plreq.toNat
  | 0x031 => k.granted
  | 0x032 => e.c.plstat.toNat
  | 0x033 => k.stallmem.toNat
  | 0x034 => k.stalliss.toNat
  | 0x035 => k.ratio + boolNat (decide (k.step = .crossing)) * 4
  | 0x040 => e.c.barto.toNat
  | 0x050 => e.c.prdepth
  | 0x060 => e.c.refuse.toNat
  | 0x061 => (s.owner e.c.owner).frameno.toNat
  | 0x062 => e.g.meshdrop.toNat
  | 0x070 => k.encore.toNat
  | 0x071 => s.urxia.subst.toNat
  | i => e.c.vrgWord ((i - 0x100) / 4) (i % 4)

def getsEff (d : Opnd) (idx : BitVec 9) (w64 : Bool) (e : Env) (s : State) : Chk Eff := do
  e.bounds [dstUse d w64]
  let v := s.sysRead e idx.toNat
  pure (Eff.on (s.writeDst e d w64 fun _ => v))

def execGets (h : Hdr) (d : Opnd) (idx : BitVec 9) (w64 : Bool) (s : State) : Host.Outcome State Fault Refusal :=
  runInstr (.gets h d idx w64) h (getsEff d idx w64) s

/-- Values that the entry of SETS refuses: PRDEPTH outside 1 to 7, and the range-register writes of R9. -/
def Ctx.sysRefused (c : Ctx) (i v : Nat) : Bool :=
  if i = 0x050 then decide (v < 1) || decide (7 < v)
  else if 0x100 ≤ i then
    let n := (i - 0x100) / 4
    if i % 4 = 0 then bitN v 0 && !c.vrgOk n v else bitN (c.vrgWord n 0) 0
  else false

/-- SETS of a system register. -/
def State.sysWrite (s : State) (e : Env) (i v : Nat) : State :=
  let w : W32 := BitVec.ofNat 32 v
  let ctx := fun (f : Ctx → Ctx) => s.updCtx e.c.num f
  let grp := fun (f : Group → Group) => s.updGroup e.gid f
  match i with
  | 0x010 => ctx fun c => { c with trapvec := BitVec.ofNat 64 v }
  | 0x013 => s.updSlice e.gid e.sl fun x => { x with trap := { x.trap with resume := BitVec.ofNat 64 v } }
  | 0x020 => grp fun g => { g with slipl := BitVec.ofNat 32 (v % 256) }
  | 0x021 => grp fun g => { g with lodcnt := w }
  | 0x030 => (s.requestLevel e.c.num v).2
  | 0x040 => ctx fun c => { c with barto := w }
  | 0x050 => ctx fun c => { c with prdepth := v }
  | 0x060 => ctx fun c => { c with refuse := w }
  | 0x062 => grp fun g => { g with meshdrop := w }
  | i => if 0x100 ≤ i then ctx fun c => { c with vrg := updAt c.vrg (i - 0x100) fun _ => w } else s

/-- Detail of a refused value: the low byte of the index under R9, and zero for PRDEPTH, whose entry gives none (R220). -/
def refusedDetail (i : Nat) : Nat := if i = 0x050 then 0 else i

def setsEff (a : Opnd) (idx : BitVec 9) (w64 : Bool) (e : Env) (s : State) : Chk Eff := do
  let vs ← s.peek e [{ code := 1, o := a, ty := if w64 then .b64 else .b32, pair := w64 }] (.vec 0) 0
  let v := valAt (lvVals vs) 0 (lowLane e.exec)
  refuseIf (e.c.sysRefused idx.toNat v) (refusedDetail idx.toNat)
  poisonCheck e.exec vs
  pure (Eff.on (s.sysWrite e idx.toNat v))

def execSets (h : Hdr) (a : Opnd) (idx : BitVec 9) (w64 : Bool) (s : State) : Host.Outcome State Fault Refusal :=
  runInstr (.sets h a idx w64) h (setsEff a idx w64) s

/-! ## TRET (R190, R320) -/

/-- TRET: in a handler, the fragment goes on at TRAPRESUME. -/
def tretEff (e : Env) (s : State) : Chk Eff := do
  refuseIf (!e.f.handler) 1
  trapIf (!pcAligned e.x.trap.resume) 0x13 (lowLane e.f.mask)
  pure { s := s.trapReturn e.gid e.sl e.slot, moved := true }

def execTret (h : Hdr) (s : State) : Host.Outcome State Fault Refusal := runInstr (.tret h) h tretEff s

/-! ## IAINV (R28, R33 to R35) -/

/-- Drops the cached entries of a home that map a byte of a range. -/
def State.dropEntries (s : State) (h lo hi : Nat) : State :=
  s.updHome h fun x => { x with tlb := x.tlb.filter fun t => !(decide (t.base < hi) && decide (lo < t.base + 2 ^ t.bits)) }

/-- A request parked on a page, its record written, whose missed byte, at `ia` of the page and its size, lies in a range. -/
def LaneSt.wokenBy (st : LaneSt) (ia : Nat → Nat → Nat) (lo hi : Nat) : Bool :=
  match st with
  | .parked page b held => !held && decide (lo ≤ ia page b) && decide (ia page b < hi)
  | _ => false

/-- The re-issues that a range wakes; those of a batch that is still held stay parked (R24). -/
def State.reissues (s : State) (lo hi : Nat) : List Instr :=
  ((s.accs.filter fun a => !s.batchHeld a.id).flatMap fun a =>
    (a.lanes.zipIdx.filter fun x => x.1.st.wokenBy (s.missedIa a x.1) lo hi).map fun x => .replayReissue a.id x.2) ++
    (s.engs.filter fun g => !s.batchHeld g.id).flatMap fun g =>
      (g.parked.filter fun u => u.st.wokenBy (fun page _ => max page (s.unitAt g u).1) lo hi).map fun u => .replayReissue g.id u.unit

/-- Fragments that wait for a page of a range issue again, unless its batch is still held (R24). -/
def Frag.wokenBy (f : Frag) (held : Nat → Bool) (lo hi : Nat) : Frag :=
  match f.wait with
  | .page ia b => if ia.toNat < hi ∧ lo < ia.toNat + 2 ^ b ∧ !held ia.toNat then { f with wait := .fetch } else f
  | _ => f

def SliceSt.wokenBy (x : SliceSt) (held : Nat → Bool) (lo hi : Nat) : SliceSt :=
  { x with frags := x.frags.map fun f => f.wokenBy held lo hi, stack := x.stack.map fun f => f.wokenBy held lo hi }

/-- Wakes everything that is parked in a range: lanes, engine units, fetches and headers (R28). -/
def State.wakeRange (s : State) (lo hi : Nat) : State :=
  let s := { s with due := s.due ++ s.reissues lo hi }
  let s := { s with teams := s.teams.map fun (t : Team) => { t with groups := t.groups.map fun (g : Group) =>
    { g with a := g.a.wokenBy (fun p => s.batchHeld (pageKey g.gid .a p)) lo hi,
             c := g.c.wokenBy (fun p => s.batchHeld (pageKey g.gid .c p)) lo hi } } }
  (s.wakeHeaders lo hi).wakeDraws lo hi

/-- What IAINV does at the home of an IA after its release, for a range of the home. -/
def State.invalidate (s : State) (h lo hi : Nat) : State :=
  if translates h then (s.dropEntries h (h * 2 ^ 48 + lo) (h * 2 ^ 48 + hi)).wakeRange (h * 2 ^ 48 + lo) (h * 2 ^ 48 + hi) else s

/-- The release and the invalidation; `range` gives the offsets in the home. -/
def iainvGo (ia : Nat) (range : Nat × Nat) (e : Env) (s : State) : Chk Eff := do
  s.afterLogged e
  s.afterWrites e
  s.withRelease e .dev fun s =>
    pure (Eff.on (if range.1 < range.2 then s.invalidate (homeOf (ia % 2 ^ 52)) range.1 range.2 else s))

/-- The value of the address pair. -/
def State.iaPair (s : State) (e : Env) (a : Opnd) : Chk Nat := do
  let vs ← s.gather e [{ code := 1, o := a, ty := .b64, pair := true }] (.vec 0) 0
  pure (valAt vs 0 (lowLane e.exec) % 2 ^ 52)

def iainvEff (a b : Opnd) (e : Env) (s : State) : Chk Eff := do
  let vs ← s.gather e [{ code := 1, o := a, ty := .b64, pair := true }, { code := 2, o := b }] (.vec 0) 0
  let ia := valAt vs 0 (lowLane e.exec) % 2 ^ 52
  let lo := ia % 2 ^ 48 / 65536 * 65536
  iainvGo ia (lo, min (lo + valAt vs 1 (lowLane e.exec) * 65536) (2 ^ 48)) e s

def execIainv (h : Hdr) (a b : Opnd) (s : State) : Host.Outcome State Fault Refusal := runInstr (.iainv h a b) h (iainvEff a b) s

def iainvAllEff (a : Opnd) (e : Env) (s : State) : Chk Eff := do
  let ia ← s.iaPair e a
  iainvGo ia (0, 2 ^ 48) e s

def execIainvAll (h : Hdr) (a : Opnd) (s : State) : Host.Outcome State Fault Refusal := runInstr (.iainvAll h a) h (iainvAllEff a) s

end Sys2Proof.Machine
end

