-- ==== Sys2Proof/Machine/Turns.lean ====
section
/-!
DEFINITION. What the dispatcher places next: levels, turns and aging, the reserves, and the events that place a team, a tile pass or an
invocation (05 R125, 08 R172, R179 to R181, 13 R325, 15 R338, R342).
-/

namespace Sys2Proof.Machine

/-! ## What a launch has to place -/

/-- What the dispatcher may place for a launch. -/
inductive Turn
  /-- Its next team. -/
  | team (p : Spot)
  /-- A team that was stopped, or that CREST has brought back. -/
  | back (tid : Nat) (p : Spot)
  /-- A tile pass, with its tile memory at `base`. -/
  | pass (tile core base : Nat)
  /-- The next invocation of a tile pass. -/
  | invocation (p : TilePass) (used : List Nat) (fit : Option (List GroupFit × Nat))
  deriving DecidableEq, Repr

/-- The cores that a turn takes a part of. -/
def Turn.cores : Turn → List Nat
  | .team p => p.fits.map (·.1)
  | .back _ p => p.fits.map (·.1)
  | .pass _ c _ => [c]
  | .invocation p _ _ => [p.core]

/-- A team of a launch that may be restored, of the lowest number (R180, R184, R325). -/
def State.broughtBack (s : State) (l : Launch) : Option Team :=
  ((s.returning l.lid).filter s.pushedOut).foldl (fun (b : Option Team) t =>
    match b with
    | none => some t
    | some u => if t.num < u.num then some t else b) none

/-- Clearing V lets no new launch of a context start (R172). -/
def State.mayStart (s : State) (l : Launch) : Bool := l.kind != .compute || l.next != 0 || (s.ctx l.ctx).valid

/-- The tiles of a draw, with their passes, that have an invocation to start, in ascending %team. -/
def Draw.openTiles (d : Draw) : List (Nat × Option TilePass) :=
  ((d.lists.map (·.1)).foldr (insertBy fun x => x) []).filterMap fun tile =>
    if d.doneTiles.contains tile then none else
    match d.pass? tile with
    | none => some (tile, none)
    | some p =>
      let p := d.nextSub p
      if p.team.isSome || d.passOver p then none else some (tile, some p)

/-- The draw of a tile launch, with its target, while its passes run. -/
def State.tileDraw (s : State) (l : Launch) : Option (Draw × Surf) :=
  match l.kind with
  | .tile did =>
    match s.draw? did with
    | some d => if d.stage = .tiles ∧ !d.fatal then (s.targetOf? d).map fun f => (d, f) else none
    | none => none
  | _ => none

/-- The launch has something to place (R179). -/
def State.waiting (s : State) (l : Launch) : Bool :=
  (l.abort.isNone && !(s.returning l.lid).isEmpty) ||
    (l.waiting && s.mayStart l &&
      match l.kind with
      | .tile _ => (s.tileDraw l).any fun x => !x.1.openTiles.isEmpty
      | _ => true)

/-- A tile pass fits on a core, with its tile memory and its first invocation. -/
def State.passFit (s : State) (l : Launch) (d : Draw) (f : Surf) (tile c : Nat) : Option Nat :=
  if !s.coreOpen l l.lv c ∨ (s.core c).held.isSome ∨ !(s.core c).dlHeld.isEmpty then none else
  match s.scratchFor c d.tileBytes false with
  | none => none
  | some base =>
    let p : TilePass := { tile := tile, core := c, base := base, sub := 0, nextPrim := 0, touched := [], team := none }
    let t := s.updDraw d.did fun d => { d with passes := d.passes ++ [p] }
    (t.invocationFit d f p).map fun _ => base

/-- The core of a new tile pass: of those that can hold it, the one with the fewest groups; ties go to the lowest (R180, R342). -/
def State.passSpot (s : State) (l : Launch) (d : Draw) (f : Surf) (tile : Nat) : Option Turn :=
  let cands := (List.range 160).filterMap fun c => (s.passFit l d f tile c).map fun b => (c, b)
  (cands.foldl (fun (best : Option (Nat × Nat)) x =>
    match best with
    | none => some x
    | some y => if s.load x.1 < s.load y.1 then some x else best) none).map fun x => .pass tile x.1 x.2

/-- The next invocation of a pass, when its groups fit on the pass's core. -/
def State.invocationTurn (s : State) (d : Draw) (f : Surf) (p : TilePass) : Option Turn :=
  if s.passSpent p then none else (s.invocationFit d f p).map fun x => .invocation p x.1 x.2

/-- What a launch can have placed now: a team brought back, else its next team, or the first open tile that can go on. -/
def State.turnOf (s : State) (l : Launch) : Option Turn :=
  if !s.waiting l then none else
  match if l.abort.isNone then s.broughtBack l else none with
  | some t => (s.spotFor l t.kern t.blocks).map fun p => .back t.id p
  | none =>
    match s.tileDraw l with
    | some (d, f) => d.openTiles.findSome? fun x =>
        match x.2 with
        | none => s.passSpot l d f x.1
        | some p => s.invocationTurn d f p
    | none => (s.spotFor l l.kern l.kern.newBlocks).map .team

/-! ## Aging (R179) -/

/-- A launch with every full AGELIM interval since its last placement counted, up to level 21; a prompter's level is fixed once it is placed
(R117). -/
def State.agedLaunch (s : State) (l : Launch) : Launch :=
  let step := (s.ctx l.ctx).agelim * 1000
  if l.dl ∨ step = 0 ∨ 21 ≤ l.lv ∨ !s.waiting l ∨ (l.kind.fills ∧ l.next ≠ 0) then l else
  let n := (s.time.toNat - l.since.toNat) / step
  { l with raised := l.raised + min n (21 - l.lv), since := l.since + BitVec.ofNat 64 (n * step) }

/-- LEVEL_AGING: each full AGELIM interval in which no team of a ready launch was placed raises its level by one, up to 21. -/
def State.levelAging (s : State) (lid : Nat) : State := s.updLaunch lid s.agedLaunch

def execLevelAging (launch : Nat) (s : State) : Host.Outcome State Fault Refusal := .next (s.levelAging launch)

/-- Every launch has aged as far as it must. -/
def State.aged (s : State) : State := { s with launches := s.launches.map s.agedLaunch }

/-! ## The next turn (R180) -/

/-- The next turn among the launches of one level: the contexts in turn after the one served last, each with its launches in ring order;
before any is served, from the lowest context on (R180; DESIGN CHOICE, log 145). -/
def State.turnAt (s : State) (lv : Nat) : Option (Launch × Turn) :=
  let last := ((s.rr.find? fun x => x.1 == lv).map (·.2)).getD 4095
  let ok := (s.launches.filter fun l => l.lv == lv).filterMap fun l => (s.turnOf l).map fun t => (l, t)
  let turn := fun (l : Launch) => (l.ctx + 4095 - last) % 4096
  ok.foldl (fun (b : Option (Launch × Turn)) x =>
    match b with
    | none => some x
    | some y => if turn x.1 < turn y.1 then some x else b) none

/-- The dispatcher's next turn: of the highest level that has one. -/
def State.turn (s : State) : Option (Launch × Turn) := (List.range 24).reverse.findSome? s.turnAt

/-- A launch has been served at its level. -/
def State.served (s : State) (l : Launch) : State := { s with rr := assocSet s.rr l.lv l.ctx }

/-! ## The events that place (R180, R325, R338) -/

/-- TEAM_PLACE: the dispatcher places the team of its next turn. -/
def State.teamPlace (s : State) : State :=
  let s := s.readHeaders.aged
  match s.turn with
  | some (l, .team p) => (s.served l).placeTeam l p
  | _ => s

def execTeamPlace (s : State) : Host.Outcome State Fault Refusal := .next s.teamPlace

/-- TEAM_RESTORE: a stopped team, or one that CREST has brought back, is restored when the dispatcher's next turn is that (R184, R325). -/
def State.teamRestore (s : State) (tid : Nat) : State :=
  match s.team? tid with
  | none => s
  | some t =>
    let s := s.aged
    match s.turn with
    | some (l, .back id p) =>
      if id ≠ tid then s
      else if t.life = .placing then ((s.served l).rebuild t p).placed l.lid
      else (s.served l).restoreTeam t p
    | _ => s

def execTeamRestore (team : Nat) (s : State) : Host.Outcome State Fault Refusal := .next (s.teamRestore team)

/-- TILE_PASS_START: a tile pass starts on a core when the dispatcher's next turn is that. -/
def State.passStart (s : State) (did tile c : Nat) : State :=
  let s := s.aged
  match s.turn with
  | some (l, .pass t k base) =>
    match s.tileDraw l with
    | some (d, f) => if d.did = did ∧ t = tile ∧ k = c then ((s.served l).startPass d f tile c base).placed l.lid else s
    | none => s
  | _ => s

def execTilePassStart (draw tile core : Nat) (s : State) : Host.Outcome State Fault Refusal := .next (s.passStart draw tile core)

/-- TILE_INVOCATION_START: the next invocation of a tile pass of a draw starts when the dispatcher's next turn is that. -/
def State.invocation (s : State) (did : Nat) : State :=
  let s := s.aged
  match s.turn with
  | some (l, .invocation p used fit) =>
    match s.tileDraw l with
    | some (d, f) => if d.did = did then ((s.served l).startInvocation l d f p used fit).placed l.lid else s
    | none => s
  | _ => s

def execTileInvocationStart (draw : Nat) (s : State) : Host.Outcome State Fault Refusal := .next (s.invocation draw)

/-! ## Reserves (R181) -/

/-- The level of a team: its launch's, raised as it is now (R179). -/
def State.levelOf (s : State) (t : Team) : Nat := ((s.launch? t.launch).map Launch.lv).getD t.level

/-- The teams at or above a level; the others would make room. -/
def State.without (s : State) (lv : Nat) : State := { s with teams := s.teams.filter fun t => !t.life.holds || decide (lv ≤ s.levelOf t) }

/-- PLACEMENT_RESERVE: a team of the highest ready level that has waited 100 µs, since its launch became ready or last placed a team, keeps
a core or pair for itself (DEDUCED, log 112). -/
def State.placementReserve (s : State) (lid : Nat) : State :=
  match s.launch? lid with
  | none => s
  | some l =>
    if !s.waiting l ∨ l.dl ∨ l.resv.isSome ∨ s.launches.any (fun m => s.waiting m && decide (l.lv < m.lv)) ∨
        s.time.toNat < l.waits.toNat + 100000 ∨ (s.turnOf l).isSome then s
    else
      match ((s.without l.lv).turnOf l).map Turn.cores with
      | some (c :: cs) =>
        let s := (c :: cs).foldl (fun (s : State) c => s.updCore c fun k => { k with kept := some lid }) s
        s.updLaunch lid fun l => { l with resv := some c }
      | _ => s

def execPlacementReserve (launch : Nat) (s : State) : Host.Outcome State Fault Refusal := .next (s.placementReserve launch)

end Sys2Proof.Machine
end

