-- ==== Sys2Proof/Machine/Enabled.lean ====
section
/-!
DEFINITION. What may come next when nothing is due: the events of the device, the inputs from outside, and the quiet moves of the
caches and the memory (DESIGN CHOICE, log 2). An event whose condition does not hold changes nothing, so its presence in a list is harmless.
-/

namespace Sys2Proof

/-- The input that reaches the device from outside at a count: a message, a write by the board, a measurement, an error (DESIGN CHOICE, log 2). -/
opaque Config.input : Nat → Option Instr
/-- An error of the device's storage that shows at a count: whether it is uncorrectable, and where (R59; DESIGN CHOICE, log 19). -/
opaque Config.storageError : Nat → Option (Bool × Machine.ErrorSite)

namespace Machine

/-- A next move of the device. -/
inductive Move
  | event (i : Instr)
  /-- A line leaves an L1, an RDC, an L2 or a metadata cache; its dirty bytes are written back (R38, R44, R399). -/
  | evict (cache : CacheId) (line : Nat)
  /-- Copies leave a core's constant, sampler and tile-layout caches. -/
  | dropCopies (core : Nat) (line : Nat)
  /-- An instruction leaves a core's instruction cache. -/
  | dropCode (core : Nat) (ia : IA)
  /-- A translation leaves a home's translation cache. -/
  | dropTlb (home base : Nat)
  /-- An error of the storage shows. -/
  | storage (hard : Bool) (site : ErrorSite)
  deriving DecidableEq, Repr

/-! ## Events of the device's own parts -/

/-- Events about an access. -/
def accEvents (n : Nat) (a : Acc) : List Instr :=
  [.deferredTrap a.id, .walkSlotFree a.id, .qsStoreData a.id, .loadDataReturn a.id (BitVec.allOnes 64),
    .loadDataReturn a.id (Config.freeLanes n)] ++
  (List.range a.lanes.length).flatMap fun i =>
    [.homeAccess a.id i, .layoutTWrite a.id i] ++
      match (a.lanes[i]?).map fun (l : LaneAcc) => (l.st : LaneSt) with
      | some .returned => [.fillRequestRetry a.id i]
      | some (.retry slot tag) => [.hostFillRetry slot tag]
      | _ => []

/-- Events about an engine operation. -/
def engEvents (s : State) (e : Eng) : List Instr :=
  (if e.kind.transform then (List.range 128).map fun p => Instr.transformBankPart e.id p
    else (s.unitsOf e).map fun u => .engineUnitDone e.id u) ++
  e.parked.flatMap fun (u : UnitSt) =>
    match u.st with
    | .returned => [.fillRequestRetry e.id u.unit]
    | .retry slot tag => [.hostFillRetry slot tag]
    | _ => []

def sliceEvents (n : Nat) (g : Group) (sl : Slice) : List Instr :=
  [.fetchSlotSwitch g.gid sl, .icacheFill g.gid sl] ++
  (g.slice sl).outs.flatMap fun (o : Out) =>
    [.varlatResultWrite g.gid sl o.id (BitVec.allOnes 64), .varlatResultWrite g.gid sl o.id (Config.freeLanes n)]

def groupEvents (n : Nat) (g : Group) : List Instr :=
  [.groupCleared g.gid, .groupRetire g.gid, .racqGrant g.gid] ++ sliceEvents n g .a ++ sliceEvents n g .c

def teamEvents (n : Nat) (t : Team) : List Instr :=
  [.teamHaltComplete t.id, .teamRestore t.id, .qdeadlock t.id, .barrierStall t.id .a, .barrierStall t.id .c] ++
    t.groups.flatMap (groupEvents n)

def coreEvents : List Instr := (List.range 160).flatMap fun c => [.issueCycle c, .emergencyReserveGrant c]

def homeEvents (s : State) (h : Nat) : List Instr :=
  let x := s.home h
  .migrationCommandStart h ::
    (x.migs.flatMap fun (m : Mig) => [.migrationRoundEnd h m.cmd, .migrationFreezeDone h m.cmd]) ++
    x.merges.map fun (m : Merge) => .fillTimeout h m.entry m.blk

def launchEvents (l : Launch) : List Instr := [.levelAging l.lid, .placementReserve l.lid, .deadlineHold l.lid]

/-- Events about a draw. -/
def drawEvents (d : Draw) : List Instr :=
  [.graphicsPacketStart d.ctx, .binning d.did, .tileWriteOut d.did, .tilePassAbandon d.did]

/-- The start of a tile pass, or of an invocation, that is the dispatcher's next turn (R338). -/
def State.tileEvents (s : State) : List Instr :=
  match s.aged.turn with
  | some (l, .pass tile c _) => (l.kind.draw?.map fun did => Instr.tilePassStart did tile c).toList
  | some (l, .invocation _ _ _) => (l.kind.draw?.map fun did => Instr.tileInvocationStart did).toList
  | _ => []

def streamEvents (x : Stream) : List Instr :=
  (if x.unackd then [.ackDue x.slot] else []) ++ x.out.flatMap fun (m : Msg) => [.resendTimeout x.slot m.seq, .pathFailureTimeout x.slot m.seq]

def powerEvents : List Instr :=
  (List.range 40).flatMap fun cl => [.voltageRampDone cl, .fclkChangeDone cl, .clockCrossingDone cl]

/-- The caches that write back. -/
def dataCaches : List CacheId := (List.range 160).map .l1 ++ (List.range 4).flatMap fun d => [.rdc d, .l2 d, .mdc d]

/-- Their lines, each with its cache. -/
def State.cacheLines (s : State) : List (CacheId × Line) := dataCaches.flatMap fun c => (s.cached c).map fun l => (c, l)

/-- Events of a device that has started. -/
def State.events (s : State) : List Instr :=
  coreEvents ++ s.accs.flatMap (accEvents s.free) ++ s.engs.flatMap (engEvents s) ++ s.teams.flatMap (teamEvents s.free) ++
    [0, 1, 2, 3, 8].flatMap (homeEvents s) ++ [.teamPlace] ++ s.launches.flatMap launchEvents ++ s.draws.flatMap drawEvents ++ s.tileEvents ++
    s.records.map (fun (r : HeldRecord) => .errorRingRetry r.ctx) ++ s.batches.map (fun (b : HeldBatch) => .faultBatchRetry b.ctx) ++
    (List.range 8).map (fun v => .fieldStart v) ++ powerEvents ++ s.streams.flatMap streamEvents ++
    s.launches.flatMap (fun (l : Launch) => (List.range 7).map fun m => .collectiveStepTimeout l.cgid m) ++
    (s.cacheLines.filter fun x => x.2.isDirty).map (fun x => .dirtyWriteDropped x.1 x.2.line) ++ [.coolReportMissing]

/-! ## Inputs -/

/-- Steps that begin outside the device. -/
def isInput : Instr → Bool
  | .kick _ | .vanarRead _ _ _ _ | .vanarWrite _ _ _ _ | .vanarAtomic _ _ _ _ _ _ _ | .cfgread _ _ | .cfgwrite _ _ _
  | .recovery _ _ _ | .vanarAbort _ _ _ | .vanarStep _ _ _ | .vanarResponse _ _ _ | .ack _ _ _ | .linkDown _ | .portProbe _ _
  | .powerSample _ | .stallSample _ _ _ | .timingErrorEncore _ | .wakePhraseDetect | .wearThreshold _ | .peerPageResolved _ _
  | .vanarFrameDiscard _ | .priorityPause _ _ _ | .timeSync _ | .hdcpStateChange _ _ => true
  | .registerWrite die _ _ _ => decide (4 ≤ die)
  | _ => false

/-- What acts before start-up is complete: the board's island, the start-up itself and recovery (R373, R380, R383). -/
def actsEarly : Instr → Bool
  | .startUp _ | .recovery _ _ _ | .ackDue _ | .ack _ _ _ | .resendTimeout _ _ | .registerWrite _ _ _ _ | .timeSync _ => true
  | _ => false

/-- What acts in the ghost light: the island (R375, R376). -/
def actsInGhost : Instr → Bool
  | .registerWrite die _ _ _ => decide (4 ≤ die)
  | .wakePhraseDetect => true
  | .ghostLightTimeout => true
  | _ => false

/-- A step of the device, or an input, may come in this state. -/
def State.mayCome (s : State) (i : Instr) : Bool :=
  if s.ghost then actsInGhost i else if s.urxia.started < 4 then actsEarly i else true

/-! ## Quiet moves -/

def State.quietMoves (s : State) : List Move :=
  s.cacheLines.map (fun x => .evict x.1 x.2.line) ++
    ((List.range 160).flatMap fun c =>
      let k := s.core c
      (k.kcache ++ k.scache ++ k.tcache).map fun l => .dropCopies c l.line) ++
    ((List.range 160).flatMap fun c => (s.core c).icache.map fun x => .dropCode c x.ia) ++
    (List.range 9).flatMap fun h => (s.home h).tlb.map fun t => .dropTlb h t.base

/-- The error of the storage that shows now, if any. -/
def State.errorMoves (s : State) : List Move := ((Config.storageError s.free).map fun x => Move.storage x.1 x.2).toList

/-- A quiet move. -/
def State.quietMove (s : State) : Move → State
  | .event _ => s
  | .evict c line => s.evict c line
  | .dropCopies c line =>
    s.updCore c fun k => { k with kcache := dropLine k.kcache line, scache := dropLine k.scache line, tcache := dropLine k.tcache line }
  | .dropCode c ia => s.updCore c fun k => { k with icache := k.icache.filter fun x => x.ia != ia }
  | .dropTlb h base => s.updHome h fun x => { x with tlb := x.tlb.filter fun t => t.base != base }
  | .storage hard site => s.storageError hard site

/-! ## The moves -/

/-- Events and inputs that may come. -/
def State.eventMoves (s : State) : List Move :=
  let early : List Instr := if s.urxia.started < 4 then [.startUp true, .startUp false] else []
  let ins := ((Config.input s.free).filter isInput).toList
  let wake : List Instr := if s.ghost then [.ghostLightTimeout] else []
  ((early ++ wake ++ ins ++ s.events).filter s.mayCome).map .event

/-- Everything that may come next (DESIGN CHOICE, log 2). -/
def State.moves (s : State) : List Move :=
  s.eventMoves ++ (if s.ghost then [] else s.quietMoves ++ s.errorMoves)

end Machine

end Sys2Proof
end

