-- ==== Sys2Proof/Machine/Float.lean ====
section
/-!
DEFINITION. Opcode group 2: floating-point arithmetic, the approximate functions, the packed halves and the dot
products (11 R253 to R263).
-/

namespace Sys2Proof.Machine

/-! ## Elements -/

/-- An operation on the exact elements of a TYPE, rounded once per element (R257). -/
def perElement (ty : Ty) (f : Nat → Nat → Nat → Nat) (a b c : Nat) : Nat :=
  if ty.isH then f (a % 2 ^ 16) (b % 2 ^ 16) (c % 2 ^ 16) + f (a / 2 ^ 16 % 2 ^ 16) (b / 2 ^ 16 % 2 ^ 16) (c / 2 ^ 16 % 2 ^ 16) * 2 ^ 16
  else f a b c

/-- A two-source floating instruction: modifiers, exact result, one rounding. -/
def flt2Val (m : MA) (y : Exact → Exact → Exact) (a b : Nat) : Nat :=
  let f := fmtOf m.ty
  perElement m.ty (fun a b _ => f.round m.rnd m.sat (y (f.val a) (f.val b))) (fltMod m.ty m.na m.aa a) (fltMod m.ty m.nb m.ab b) 0

/-- A single-source floating instruction. -/
def flt1Val (m : MA) (y : Exact → Exact) (b : Nat) : Nat :=
  let f := fmtOf m.ty
  f.round m.rnd m.sat (y (f.val (fltMod m.ty m.nb m.ab b)))

def flt2Eff (d a b : Opnd) (m : MA) (y : Exact → Exact → Exact) : Env → State → Chk Eff :=
  aluEff d false [srcA a m.ty, srcB b m.ty m] (on2 (flt2Val m y))

def flt1Eff (d b : Opnd) (m : MA) (f : Nat → Nat) : Env → State → Chk Eff :=
  aluEff d false [srcB b m.ty m] (on1 f)

/-- a + b and a − b; an exact zero follows R100. -/
def addExact (rnd : Rnd) (a b : Exact) : Exact := exactSum (rnd == .rdn) [a, b]
def subExact (rnd : Rnd) (a b : Exact) : Exact := exactSum (rnd == .rdn) [a, b.neg]

def execFadd (h : Hdr) (d a b : Opnd) (m : MA) (s : State) : Host.Outcome State Fault Refusal :=
  runInstr (.fadd h d a b m) h (flt2Eff d a b m (addExact m.rnd)) s

def execFsub (h : Hdr) (d a b : Opnd) (m : MA) (s : State) : Host.Outcome State Fault Refusal :=
  runInstr (.fsub h d a b m) h (flt2Eff d a b m (subExact m.rnd)) s

def execFmul (h : Hdr) (d a b : Opnd) (m : MA) (s : State) : Host.Outcome State Fault Refusal :=
  runInstr (.fmul h d a b m) h (flt2Eff d a b m exactMul) s

/-- (±a × b) + (±c) with one rounding, per element; the signs are inverted by sign bit, and a NaN stays NaN. -/
def ffmaVal (m : MF) (a b c : Nat) : Nat :=
  let f := fmtOf m.ty
  let el := fun (v : Nat) => fltMod m.ty false false v
  perElement m.ty (fun a b c =>
    let p := exactMul (f.val a) (f.val b)
    let z := f.val c
    f.round m.rnd m.sat (exactSum (m.rnd == .rdn) [if m.nprod then p.neg else p, if m.nc then z.neg else z]))
    (el a) (el b) (el c)

def fmaEff (d a b : Opnd) (m : MF) : Env → State → Chk Eff :=
  aluEff d false [srcA a m.ty, srcBF b m.ty, srcC m.c m.ty] (on3 (ffmaVal m))

def execFfma (h : Hdr) (d a b : Opnd) (m : MF) (s : State) : Host.Outcome State Fault Refusal :=
  runInstr (.ffma h d a b m) h (fmaEff d a b m) s

/-! ## Minimum, maximum, comparison, class (R258 to R260) -/

def minMaxVal (m : MA) (max : Bool) (a b : Nat) : Nat :=
  perElement m.ty (fun a b _ => (fmtOf m.ty).minMax max a b) (fltMod m.ty m.na m.aa a) (fltMod m.ty m.nb m.ab b) 0

def minMaxEff (d a b : Opnd) (m : MA) (max : Bool) : Env → State → Chk Eff :=
  aluEff d false [srcA a m.ty, srcB b m.ty m] (on2 (minMaxVal m max))

def execFmin (h : Hdr) (d a b : Opnd) (m : MA) (s : State) : Host.Outcome State Fault Refusal :=
  runInstr (.fmin h d a b m) h (minMaxEff d a b m false) s

def execFmax (h : Hdr) (d a b : Opnd) (m : MA) (s : State) : Host.Outcome State Fault Refusal :=
  runInstr (.fmax h d a b m) h (minMaxEff d a b m true) s

def fsetpVal (m : MA) (a b : Nat) : Nat :=
  let f := fmtOf m.ty
  boolNat (cmpFlt m.sub.toNat (f.val (fltMod m.ty m.na m.aa a)) (f.val (fltMod m.ty m.nb m.ab b)))

def execFsetp (h : Hdr) (d a b : Opnd) (m : MA) (s : State) : Host.Outcome State Fault Refusal :=
  runInstr (.fsetp h d a b m) h (aluEff d false [srcA a m.ty, srcB b m.ty m] (on2 (fsetpVal m))) s

def execFclass (h : Hdr) (d b : Opnd) (m : MA) (s : State) : Host.Outcome State Fault Refusal :=
  runInstr (.fclass h d b m) h
    (flt1Eff d b m fun b => 2 ^ (fmtOf m.ty).classBit (fltMod m.ty m.nb m.ab b)) s

/-! ## Rounding and fraction (R257, R261) -/

def execFrnd (h : Hdr) (d b : Opnd) (m : MA) (s : State) : Host.Outcome State Fault Refusal :=
  runInstr (.frnd h d b m) h (flt1Eff d b m (flt1Val m (Exact.integral m.rnd))) s

/-- b − ⌊b⌋ exactly; ±0 gives +0, an infinity NaN. -/
def fracExact : Exact → Exact
  | .fin s n d =>
    let v : Int := if s then -(n : Int) else n
    .fin false (v - v / d * d).toNat d
  | _ => .nan

def execFfrc (h : Hdr) (d b : Opnd) (m : MA) (s : State) : Host.Outcome State Fault Refusal :=
  runInstr (.ffrc h d b m) h (flt1Eff d b m (flt1Val m fracExact)) s

/-! ## Division and square root (R257, variable latency) -/

/-- With SAT a quotient of a finite value and zero is the largest finite value (R257). -/
def execFdiv (h : Hdr) (d a b : Opnd) (m : MA) (s : State) : Host.Outcome State Fault Refusal :=
  runInstr (.fdiv h d a b m) h (lateEff d false [srcA a m.ty, srcB b m.ty m] (on2 (flt2Val m exactDiv))) s

def execFsqrt (h : Hdr) (d b : Opnd) (m : MA) (s : State) : Host.Outcome State Fault Refusal :=
  runInstr (.fsqrt h d b m) h (lateEff d false [srcB b m.ty m] (on1 (flt1Val m sqrtNum))) s

/-! ## Approximate functions (R263, variable latency) -/

def approxEff (d b : Opnd) (m : MA) (fn : Approx) : Env → State → Chk Eff :=
  lateEff d false [srcB b m.ty m] (on1 fun b => (fn.eval (BitVec.ofNat 32 (fltMod .f32 m.nb m.ab b))).toNat)

def execFrcp (h : Hdr) (d b : Opnd) (m : MA) (s : State) : Host.Outcome State Fault Refusal :=
  runInstr (.frcp h d b m) h (approxEff d b m .rcp) s

def execFrsq (h : Hdr) (d b : Opnd) (m : MA) (s : State) : Host.Outcome State Fault Refusal :=
  runInstr (.frsq h d b m) h (approxEff d b m .rsq) s

def execFex2 (h : Hdr) (d b : Opnd) (m : MA) (s : State) : Host.Outcome State Fault Refusal :=
  runInstr (.fex2 h d b m) h (approxEff d b m .ex2) s

def execFlg2 (h : Hdr) (d b : Opnd) (m : MA) (s : State) : Host.Outcome State Fault Refusal :=
  runInstr (.flg2 h d b m) h (approxEff d b m .lg2) s

def execFsin (h : Hdr) (d b : Opnd) (m : MA) (s : State) : Host.Outcome State Fault Refusal :=
  runInstr (.fsin h d b m) h (approxEff d b m .sin) s

def execFcos (h : Hdr) (d b : Opnd) (m : MA) (s : State) : Host.Outcome State Fault Refusal :=
  runInstr (.fcos h d b m) h (approxEff d b m .cos) s

def execFtanh (h : Hdr) (d b : Opnd) (m : MA) (s : State) : Host.Outcome State Fault Refusal :=
  runInstr (.ftanh h d b m) h (approxEff d b m .tanh) s

/-! ## Packed halves (R257, R258) -/

def execHadd2 (h : Hdr) (d a b : Opnd) (m : MA) (s : State) : Host.Outcome State Fault Refusal :=
  runInstr (.hadd2 h d a b m) h (flt2Eff d a b m (addExact m.rnd)) s

def execHmul2 (h : Hdr) (d a b : Opnd) (m : MA) (s : State) : Host.Outcome State Fault Refusal :=
  runInstr (.hmul2 h d a b m) h (flt2Eff d a b m exactMul) s

def execHfma2 (h : Hdr) (d a b : Opnd) (m : MF) (s : State) : Host.Outcome State Fault Refusal :=
  runInstr (.hfma2 h d a b m) h (fmaEff d a b m) s

def execHmin2 (h : Hdr) (d a b : Opnd) (m : MA) (s : State) : Host.Outcome State Fault Refusal :=
  runInstr (.hmin2 h d a b m) h (minMaxEff d a b m false) s

def execHmax2 (h : Hdr) (d a b : Opnd) (m : MA) (s : State) : Host.Outcome State Fault Refusal :=
  runInstr (.hmax2 h d a b m) h (minMaxEff d a b m true) s

/-! ## Dot products (R262) -/

/-- Two exact products and c, summed exactly and rounded once to F32. -/
def fdot2Val (m : MF) (a b c : Nat) : Nat :=
  let f := fmtOf m.ty
  let el := fun (v i : Nat) => f.val (v / 2 ^ (16 * i) % 2 ^ 16)
  let rdn := m.rnd == .rdn
  let y := exactSum rdn [exactMul (el a 0) (el b 0), exactMul (el a 1) (el b 1)]
  let y := if m.nprod then y.neg else y
  let z := f32.val (c % 2 ^ 32)
  f32.round m.rnd m.sat (exactSum rdn [y, if m.nc then z.neg else z])

def execFdot2 (h : Hdr) (d a b : Opnd) (m : MF) (s : State) : Host.Outcome State Fault Refusal :=
  runInstr (.fdot2 h d a b m) h
    (aluEff d false [srcA a m.ty, srcBF b m.ty, srcC m.c .f32] (on3 (fdot2Val m))) s

/-- Four exact 8-bit products; MIX reads b with the opposite signedness. -/
def idot4Val (m : MF) (a b c : Nat) : Nat :=
  let mix := m.sub.getLsbD 0
  let sa := m.ty == .s8
  let sb := sa != mix
  let el := fun (sg : Bool) (v i : Nat) => intVal (if sg then Ty.s8 else Ty.b8) (v / 2 ^ (8 * i))
  let y := ((List.range 4).map fun i => el sa a i * el sb b i).sum
  let rt : Ty := if sa || sb then .s32 else .b32
  let z := intVal rt c
  intResult rt m.sat ((if m.nprod then -y else y) + (if m.nc then -z else z))

def execIdot4 (h : Hdr) (d a b : Opnd) (m : MF) (s : State) : Host.Outcome State Fault Refusal :=
  runInstr (.idot4 h d a b m) h
    (aluEff d false [srcA a m.ty, srcBF b m.ty, srcC m.c .b32] (on3 (idot4Val m))) s

end Sys2Proof.Machine
end

