-- ==== Sys2Proof/Machine/Integer.lean ====
section
/-!
DEFINITION. Opcode group 1: integer, logic, address and predicate arithmetic (10 R243 to R252).
-/

namespace Sys2Proof.Machine

/-! ## The forms of group 1 -/

/-- A two-source integer instruction whose result y is exact, then wrapped or saturated (R244). -/
def int2Eff (d a b : Opnd) (m : MA) (y : Int → Int → Int) : Env → State → Chk Eff :=
  aluEff d (m.ty == .b64) [srcA a m.ty, srcB b m.ty m] (on2 fun a b =>
    intResult m.ty m.sat (y (intVal m.ty (intMod m.ty m.na m.aa a)) (intVal m.ty (intMod m.ty m.nb m.ab b))))

/-- A single-source integer instruction. -/
def int1Eff (d b : Opnd) (m : MA) (y : Int → Int) : Env → State → Chk Eff :=
  aluEff d (m.ty == .b64) [srcB b m.ty m] (on1 fun b =>
    intResult m.ty m.sat (y (intVal m.ty (intMod m.ty m.nb m.ab b))))

/-- A two-source logic instruction on the bits of TYPE. -/
def logic2Eff (d a b : Opnd) (m : MA) (f : Nat → Nat → Nat) : Env → State → Chk Eff :=
  aluEff d (m.ty == .b64) [srcA a m.ty, srcB b m.ty m] (on2 fun a b => f (a % 2 ^ m.ty.bits) (b % 2 ^ m.ty.bits))

/-- A single-source logic instruction; `pair` says whether its result is as wide as TYPE. -/
def logic1Eff (d b : Opnd) (m : MA) (pair : Bool) (f : Nat → Nat) : Env → State → Chk Eff :=
  aluEff d pair [srcB b m.ty m] (on1 fun b => f (b % 2 ^ m.ty.bits))

/-- A shift: OPB is an unsigned 32-bit count (R247). -/
def shiftEff (d a b : Opnd) (m : MA) (f : Nat → Nat → Nat) : Env → State → Chk Eff :=
  aluEff d (m.ty == .b64) [srcA a m.ty, srcB b .b32 m] (on2 fun a k => f (a % 2 ^ m.ty.bits) (k % 2 ^ 32))

/-! ## Arithmetic (R245) -/

def execIadd (h : Hdr) (d a b : Opnd) (m : MA) (s : State) : Host.Outcome State Fault Refusal :=
  runInstr (.iadd h d a b m) h (int2Eff d a b m fun a b => a + b) s

def execIsub (h : Hdr) (d a b : Opnd) (m : MA) (s : State) : Host.Outcome State Fault Refusal :=
  runInstr (.isub h d a b m) h (int2Eff d a b m fun a b => a - b) s

def execImul (h : Hdr) (d a b : Opnd) (m : MA) (s : State) : Host.Outcome State Fault Refusal :=
  runInstr (.imul h d a b m) h (int2Eff d a b m fun a b => a * b) s

/-- The high n bits of the exact 2n-bit product. -/
def mulHigh (ty : Ty) (a b : Int) : Int := a * b / 2 ^ ty.bits

def execImulh (h : Hdr) (d a b : Opnd) (m : MA) (s : State) : Host.Outcome State Fault Refusal :=
  runInstr (.imulh h d a b m) h (int2Eff d a b m (mulHigh m.ty)) s

/-- (±a × b) + (±c) (R245). -/
def imadVal (m : MF) (a b c : Nat) : Nat :=
  let p := intVal m.ty a * intVal m.ty b
  let c := intVal m.ty c
  intResult m.ty m.sat ((if m.nprod then -p else p) + (if m.nc then -c else c))

def execImad (h : Hdr) (d a b : Opnd) (m : MF) (s : State) : Host.Outcome State Fault Refusal :=
  runInstr (.imad h d a b m) h
    (aluEff d (m.ty == .b64) [srcA a m.ty, srcBF b m.ty, srcC m.c m.ty] (on3 (imadVal m))) s

def execImin (h : Hdr) (d a b : Opnd) (m : MA) (s : State) : Host.Outcome State Fault Refusal :=
  runInstr (.imin h d a b m) h (int2Eff d a b m fun a b => min a b) s

def execImax (h : Hdr) (d a b : Opnd) (m : MA) (s : State) : Host.Outcome State Fault Refusal :=
  runInstr (.imax h d a b m) h (int2Eff d a b m fun a b => max a b) s

def execIabs (h : Hdr) (d b : Opnd) (m : MA) (s : State) : Host.Outcome State Fault Refusal :=
  runInstr (.iabs h d b m) h (int1Eff d b m fun b => (b.natAbs : Int)) s

def execIneg (h : Hdr) (d b : Opnd) (m : MA) (s : State) : Host.Outcome State Fault Refusal :=
  runInstr (.ineg h d b m) h (int1Eff d b m fun b => -b) s

/-! ## Logic (R245 to R248) -/

def execAndB (h : Hdr) (d a b : Opnd) (m : MA) (s : State) : Host.Outcome State Fault Refusal :=
  runInstr (.andB h d a b m) h (logic2Eff d a b m fun a b => a &&& b) s

def execOrB (h : Hdr) (d a b : Opnd) (m : MA) (s : State) : Host.Outcome State Fault Refusal :=
  runInstr (.orB h d a b m) h (logic2Eff d a b m fun a b => a ||| b) s

def execXorB (h : Hdr) (d a b : Opnd) (m : MA) (s : State) : Host.Outcome State Fault Refusal :=
  runInstr (.xorB h d a b m) h (logic2Eff d a b m fun a b => a ^^^ b) s

def execNotB (h : Hdr) (d b : Opnd) (m : MA) (s : State) : Host.Outcome State Fault Refusal :=
  runInstr (.notB h d b m) h (logic1Eff d b m (m.ty == .b64) fun b => 2 ^ m.ty.bits - 1 - b) s

/-- Bit i of the result is TRUTH[a_i + 2 b_i + 4 c_i] (R246). -/
def lop3Val (truth : BitVec 8) (n a b c : Nat) : Nat :=
  (List.range n).foldl (fun acc i =>
    if truth.getLsbD (boolNat (bitN a i) + 2 * boolNat (bitN b i) + 4 * boolNat (bitN c i)) then acc + 2 ^ i else acc) 0

def execLop3 (h : Hdr) (d a b : Opnd) (lop : MLop) (s : State) : Host.Outcome State Fault Refusal :=
  runInstr (.lop3 h d a b lop) h
    (aluEff d (lop.ty == .b64) [srcA a lop.ty, srcBF b lop.ty, srcC lop.c lop.ty]
      (on3 (lop3Val lop.truth lop.ty.bits))) s

/-- Shifts of an n-bit value by k (R247). -/
def shlVal (n a k : Nat) : Nat := if n ≤ k then 0 else a * 2 ^ k % 2 ^ n
def shrVal (n a k : Nat) : Nat := if n ≤ k then 0 else a / 2 ^ k
def sarVal (n a k : Nat) : Nat :=
  let neg := bitN a (n - 1)
  if n ≤ k then (if neg then 2 ^ n - 1 else 0)
  else a / 2 ^ k + (if neg then 2 ^ n - 2 ^ (n - k) else 0)
def rotVal (n a k : Nat) : Nat :=
  let j := k % n
  a * 2 ^ j % 2 ^ n + a / 2 ^ (n - j)

def execShl (h : Hdr) (d a b : Opnd) (m : MA) (s : State) : Host.Outcome State Fault Refusal :=
  runInstr (.shl h d a b m) h (shiftEff d a b m (shlVal m.ty.bits)) s

def execShr (h : Hdr) (d a b : Opnd) (m : MA) (s : State) : Host.Outcome State Fault Refusal :=
  runInstr (.shr h d a b m) h (shiftEff d a b m (shrVal m.ty.bits)) s

def execSar (h : Hdr) (d a b : Opnd) (m : MA) (s : State) : Host.Outcome State Fault Refusal :=
  runInstr (.sar h d a b m) h (shiftEff d a b m (sarVal m.ty.bits)) s

def execRot (h : Hdr) (d a b : Opnd) (m : MA) (s : State) : Host.Outcome State Fault Refusal :=
  runInstr (.rot h d a b m) h (shiftEff d a b m (rotVal m.ty.bits)) s

/-- A bit field of a, zero- or sign-extended (R248). -/
def bfeVal (signed : Bool) (a desc : Nat) : Nat :=
  let pos := bits desc 0 8
  let len := min (bits desc 8 8) 32
  let ext := if signed && bitN a 31 then a + (2 ^ 320 - 2 ^ 32) else a
  let f := ext / 2 ^ pos % 2 ^ len
  if len = 0 then 0 else if signed && bitN f (len - 1) then f + (2 ^ 32 - 2 ^ len) else f

def execBfe (h : Hdr) (d a b : Opnd) (m : MA) (s : State) : Host.Outcome State Fault Refusal :=
  runInstr (.bfe h d a b m) h
    (aluEff d false [srcA a m.ty, srcB b .b32 m] (on2 fun a k => bfeVal m.ty.signed (a % 2 ^ 32) (k % 2 ^ 32))) s

/-- c with a field replaced by the low bits of a (R248). -/
def bfiVal (a desc c : Nat) : Nat :=
  let pos := bits desc 0 8
  let top := min (pos + bits desc 8 8) 32
  if 32 ≤ pos ∨ top ≤ pos then c
  else c - bits c pos (top - pos) * 2 ^ pos + a % 2 ^ (top - pos) * 2 ^ pos

def execBfi (h : Hdr) (d a b : Opnd) (m : MF) (s : State) : Host.Outcome State Fault Refusal :=
  runInstr (.bfi h d a b m) h
    (aluEff d false [srcA a m.ty, srcBF b m.ty, srcC m.c m.ty] (on3 fun a k c => bfiVal a k (c % 2 ^ 32))) s

/-- Set bits of an n-bit value. -/
def popcVal (n b : Nat) : Nat := ((List.range n).filter (bitN b)).length

/-- Leading zeros of an n-bit value, n of 0. -/
def clzVal (n b : Nat) : Nat := if b = 0 then n else n - 1 - Nat.log2 b

def brevVal (n b : Nat) : Nat := (List.range n).foldl (fun acc i => if bitN b i then acc + 2 ^ (n - 1 - i) else acc) 0

def execPopc (h : Hdr) (d b : Opnd) (m : MA) (s : State) : Host.Outcome State Fault Refusal :=
  runInstr (.popc h d b m) h (logic1Eff d b m false (popcVal m.ty.bits)) s

def execClz (h : Hdr) (d b : Opnd) (m : MA) (s : State) : Host.Outcome State Fault Refusal :=
  runInstr (.clz h d b m) h (logic1Eff d b m false (clzVal m.ty.bits)) s

def execBrev (h : Hdr) (d b : Opnd) (m : MA) (s : State) : Host.Outcome State Fault Refusal :=
  runInstr (.brev h d b m) h (logic1Eff d b m (m.ty == .b64) (brevVal m.ty.bits)) s

/-! ## Comparison, selection and moves (R245, R249) -/

def execIsetp (h : Hdr) (d a b : Opnd) (m : MA) (s : State) : Host.Outcome State Fault Refusal :=
  runInstr (.isetp h d a b m) h
    (aluEff d false [srcA a m.ty, srcB b m.ty m] (on2 fun a b =>
      boolNat (cmpInt m.sub.toNat (intVal m.ty (intMod m.ty m.na m.aa a)) (intVal m.ty (intMod m.ty m.nb m.ab b))))) s

def execSel (h : Hdr) (d a b : Opnd) (m : MF) (s : State) : Host.Outcome State Fault Refusal :=
  runInstr (.sel h d a b m) h
    (aluEff d (m.ty == .b64) [srcA a m.ty, srcBF b m.ty, { code := 3, o := m.c.opnd }]
      (on3 fun a b c => if c = 1 then a else b)) s

def execMov (h : Hdr) (d b : Opnd) (m : MA) (s : State) : Host.Outcome State Fault Refusal :=
  runInstr (.mov h d b m) h (logic1Eff d b m (m.ty == .b64) id) s

def execMovi (h : Hdr) (d : Opnd) (imm : W32) (s : State) : Host.Outcome State Fault Refusal :=
  runInstr (.movi h d imm) h (aluEff d false [] fun _ => imm.toNat) s

/-! ## Addresses (R250) -/

/-- An index or increment, zero-extended for B32 and sign-extended for S32, to 64 bits. -/
def extIndex (ty : Ty) (b : Nat) : Nat :=
  let b := b % 2 ^ 32
  if ty.signed && bitN b 31 then b + (2 ^ 64 - 2 ^ 32) else b

def leaVal (ty : Ty) (sub a b : Nat) : Nat := (a + extIndex ty b * 2 ^ (sub % 4)) % 2 ^ 64

/-- The ring of 2^(SUB + 8) bytes, or a plain sum. -/
def aaddVal (ty : Ty) (sub a b : Nat) : Nat :=
  let y := (a + extIndex ty b) % 2 ^ 64
  if sub = 0 then y else
  let m := 2 ^ (sub + 8)
  a / m * m + y % m

/-- LEA and AADD: a 64-bit base and a 32-bit index. -/
def addrEff (d a b : Opnd) (m : MA) (f : Nat → Nat → Nat) : Env → State → Chk Eff :=
  aluEff d true [{ code := 1, o := a, pair := true }, srcB b m.ty m] (on2 f)

def execLea (h : Hdr) (d a b : Opnd) (m : MA) (s : State) : Host.Outcome State Fault Refusal :=
  runInstr (.lea h d a b m) h (addrEff d a b m (leaVal m.ty m.sub.toNat)) s

def execAadd (h : Hdr) (d a b : Opnd) (m : MA) (s : State) : Host.Outcome State Fault Refusal :=
  runInstr (.aadd h d a b m) h (addrEff d a b m (aaddVal m.ty m.sub.toNat)) s

/-! ## Predicates (R251) -/

def execPlop (h : Hdr) (d a b : Opnd) (m : MA) (s : State) : Host.Outcome State Fault Refusal :=
  runInstr (.plop h d a b m) h
    (aluEff d false [{ code := 1, o := a }, { code := 2, o := b }]
      (on2 fun a b => boolNat (plopBit m.sub.toNat (a == 1) (b == 1)))) s

/-- The bits of a predicate for lanes 0 to width - 1. -/
def Env.predMask (e : Env) : Opnd → Lanes
  | .pred p => e.x.pred p &&& allLanes e.g.width
  | _ => 0

/-- Writes a lane mask to a destination: one register, or an even pair in a width-64 group (R251, R268, R271). -/
def State.writeMask (s : State) (e : Env) (d : Opnd) (m : Nat → Nat) : State := s.writeDst e d (e.g.width == 64) m

def pmovEff (d b : Opnd) (m : MA) (e : Env) (s : State) : Chk Eff :=
  match m.sub.toNat with
  | 0 => .ok (Eff.on (s.writeMask e d fun _ => (e.predMask b).toNat))
  | 1 => do
    let x : SrcOp := { code := 2, o := b, pair := e.g.width == 64 }
    let vs ← s.gather e [x] d 1
    pure (Eff.on (s.writeDst e d false fun l => boolNat (bitN ((vs.map fun v => v l).headD 0) l)))
  | 2 => aluEff d false [srcB b m.ty m] (on1 fun b => boolNat (b % 2 ^ 32 != 0)) e s
  | _ => aluEff d false [{ code := 2, o := b }] (on1 id) e s

def execPmov (h : Hdr) (d b : Opnd) (m : MA) (s : State) : Host.Outcome State Fault Refusal :=
  runInstr (.pmov h d b m) h (pmovEff d b m) s

end Sys2Proof.Machine
end

