-- ==== Sys2Proof/Machine/Lanes.lean ====
section
/-!
DEFINITION. Opcode group 3: conversion, byte permutation and the instructions that combine lanes (11 R264 to R272).
-/

namespace Sys2Proof.Machine

/-! ## Conversion (R264 to R267) -/

/-- The TYPE of a code below 13 (Table 9-6). -/
def tyOfCode (c : BitVec 4) : Ty := (Ty.ofCode c).getD .b32

/-- The value of a source of a type after its modifiers, exactly. -/
def cvtSource (ty : Ty) (neg abs : Bool) (v : Nat) : Exact :=
  if ty.isFloat then (fmtOf ty).val (fltMod ty neg abs v) else numOfInt (intVal ty (intMod ty neg abs v))

/-- The result of R265 for an exact source value. -/
def cvtVal (src dst : Ty) (rnd : Rnd) (sat : Bool) (v : Exact) : Nat :=
  if dst.isFloat then (fmtOf dst).round rnd sat v
  else if src.isFloat then
    match v with
    | .nan => 0
    | .inf neg => wrapInt dst (if neg then intMin dst else intMax dst)
    | _ => satInt dst ((v.toInt rnd).getD 0)
  else intResult dst sat ((v.toInt .rz).getD 0)

def execCvt (h : Hdr) (d b : Opnd) (m : MA) (s : State) : Host.Outcome State Fault Refusal :=
  let src := tyOfCode m.sub
  runInstr (.cvt h d b m) h
    (aluEff d (m.ty == .b64) [srcB b src m]
      (on1 fun b => cvtVal src m.ty m.rnd m.sat (cvtSource src m.nb m.ab b))) s

/-- Source type of PACK for an element TYPE. -/
def packSource (ty : Ty) : Ty := if ty.isFloat then .f32 else if ty.signed then .s32 else .b32

/-- Bits of an element that PACK places. -/
def packBits (ty : Ty) : Nat := if ty == .e2m1 then 4 else if ty.size = 1 then 8 else 16

/-- a and b converted and placed at element position 2 × SUB of the old value (R266). -/
def packVal (m : MA) (old a b : Nat) : Nat :=
  let src := packSource m.ty
  let n := packBits m.ty
  let x := cvtVal src m.ty m.rnd m.sat (cvtSource src m.na m.aa a)
  let y := cvtVal src m.ty m.rnd m.sat (cvtSource src m.nb m.ab b)
  let at_ := 2 * n * m.sub.toNat
  old - bits old at_ (2 * n) * 2 ^ at_ + (x + y * 2 ^ n) * 2 ^ at_

/-- A form that keeps old bits reads OPD as a source. -/
def packKeeps (ty : Ty) : Bool := packBits ty != 16

def execPack (h : Hdr) (d a b : Opnd) (m : MA) (s : State) : Host.Outcome State Fault Refusal :=
  let src := packSource m.ty
  let srcs := [srcA a src, srcB b src m]
  runInstr (.pack h d a b m) h
    (if packKeeps m.ty then aluEff d false (srcs ++ [{ code := 0, o := d }]) (on3 fun a b old => packVal m old a b)
     else aluEff d false srcs (on2 fun a b => packVal m 0 a b)) s

/-- Byte i of the result, from the 5-bit order i of c (R267). -/
def prmtByte (a b c i : Nat) : Nat :=
  let k := bits c (5 * i) 3
  let x := if k < 4 then bits a (8 * k) 8 else bits b (8 * (k - 4)) 8
  match bits c (5 * i + 3) 2 with
  | 0 => x
  | 1 => 0
  | 2 => 0xFF
  | _ => if 128 ≤ x then 0xFF else 0

def prmtVal (a b c : Nat) : Nat := ((List.range 4).map fun i => prmtByte a b c i * 2 ^ (8 * i)).sum

def execPrmt (h : Hdr) (d a b : Opnd) (m : MF) (s : State) : Host.Outcome State Fault Refusal :=
  runInstr (.prmt h d a b m) h
    (aluEff d false [srcA a m.ty, srcBF b m.ty, srcC m.c m.ty] (on3 prmtVal)) s

/-! ## Lane combinations (R268 to R271) -/

/-- VOTE over the lanes of exec (R268). -/
def voteEff (d b : Opnd) (m : MA) (e : Env) (s : State) : Chk Eff :=
  let p := e.predMask b &&& e.exec
  let t := match m.sub.toNat with
    | 0 => p == e.exec
    | 1 => p != 0
    | _ => p == e.exec || p == 0
  if m.sub.toNat = 3 then do
    e.bounds [dstUse d (e.g.width == 64)]
    pure (Eff.on (s.writeMask e d fun _ => p.toNat))
  else .ok (Eff.on (s.writeDst e d false fun _ => boolNat t))

def execVote (h : Hdr) (d b : Opnd) (m : MA) (s : State) : Host.Outcome State Fault Refusal :=
  runInstr (.vote h d b m) h (voteEff d b m) s

/-- The combining operation of REDX and SCAN on the values of some lanes (R270). -/
def combine (op : Nat) (ty : Ty) (rnd : Rnd) (sat : Bool) (vs : List Nat) : Nat :=
  let n := ty.bits
  match op with
  | 0 => if ty == .f32 then f32.round rnd sat (if vs.isEmpty then .fin false 0 1 else exactSum (rnd == .rdn) (vs.map f32.val))
      else intResult ty sat (vs.map (intVal ty)).sum
  | 1 => if ty == .f32 then
        (match vs with
          | [] => 0x7F800000
          | v :: r => r.foldl (f32.minMax false) (f32.minMax false v v))
      else wrapInt ty ((vs.map (intVal ty)).foldl min (intMax ty))
  | 2 => if ty == .f32 then
        (match vs with
          | [] => 0xFF800000
          | v :: r => r.foldl (f32.minMax true) (f32.minMax true v v))
      else wrapInt ty ((vs.map (intVal ty)).foldl max (intMin ty))
  | 3 => vs.foldl (fun a b => a &&& b % 2 ^ n) (2 ^ n - 1)
  | 4 => vs.foldl (fun a b => a ||| b % 2 ^ n) 0
  | _ => vs.foldl (fun a b => a ^^^ b % 2 ^ n) 0

/-- A value of REDX or SCAN after NB and AB. -/
def redxSource (m : MA) (v : Nat) : Nat := if m.ty == .f32 then fltMod .f32 m.nb m.ab v else intMod m.ty m.nb m.ab v

/-- Lanes whose values lane l combines. -/
def scanSet (scan : Bool) (m : MA) (e : Env) (l : Nat) : List Nat :=
  (lanesOf e.exec).filter fun k => !scan || (if m.sub.getLsbD 3 then decide (k < l) else decide (k ≤ l))

/-- REDX and SCAN (R270). -/
def redxEff (scan : Bool) (d b : Opnd) (m : MA) (e : Env) (s : State) : Chk Eff := do
  let pair := m.ty == .b64
  let srcs := [srcB b m.ty { m with xlm := .none }]
  e.bounds (dstUse d pair :: srcs.map SrcOp.use)
  let vs ← s.gather e srcs d 1
  let v := fun l => redxSource m ((vs.map fun x => x l).headD 0)
  let r := fun l => combine (m.sub.toNat % 8) m.ty m.rnd m.sat ((scanSet scan m e l).map v)
  pure (Eff.on ((s.consume e srcs).lateDst e d false (splitVal pair r)))

def execRedx (h : Hdr) (d b : Opnd) (m : MA) (s : State) : Host.Outcome State Fault Refusal :=
  runInstr (.redx h d b m) h (redxEff false d b m) s

def execScan (h : Hdr) (d b : Opnd) (m : MA) (s : State) : Host.Outcome State Fault Refusal :=
  runInstr (.scan h d b m) h (redxEff true d b m) s

/-- ELECT writes the lowest lane of exec (R269). -/
def electEff (d : Opnd) (e : Env) (s : State) : Chk Eff :=
  let low := lowLane e.exec
  match d with
  | .pred _ => .ok (Eff.on (s.writeDst e d false fun l => boolNat (l == low)))
  | _ => do
    e.bounds [dstUse d false]
    let _ ← s.peek e [] d 1
    pure (Eff.on (s.writeDst e d false fun _ => low))

def execElect (h : Hdr) (d : Opnd) (s : State) : Host.Outcome State Fault Refusal :=
  runInstr (.elect h d) h (electEff d) s

/-- MATCH compares the lanes' values bit for bit (R271). -/
def matchEff (d b : Opnd) (m : MA) (e : Env) (s : State) : Chk Eff := do
  let srcs := [srcB b m.ty { m with xlm := .none }]
  let wide := m.sub.toNat = 0 && e.g.width == 64
  e.bounds (dstUse d wide :: srcs.map SrcOp.use)
  let vs ← s.gather e srcs d 1
  let v := fun l => (vs.map fun x => x l).headD 0
  let s := s.consume e srcs
  if m.sub.toNat = 1 then
    let all := (lanesOf e.exec).all fun k => v k == v (lowLane e.exec)
    pure (Eff.on (s.lateDst e d false (splitVal false fun _ => boolNat all)))
  else
    let r := fun l => (maskOf fun k => e.exec.getLsbD k && v k == v l).toNat
    pure (Eff.on (s.lateDst e d false (splitVal wide r)))

def execMatchL (h : Hdr) (d b : Opnd) (m : MA) (s : State) : Host.Outcome State Fault Refusal :=
  runInstr (.matchL h d b m) h (matchEff d b m) s

end Sys2Proof.Machine
end

