-- ==== Sys2Proof/Machine/Matrix.lean ====
section
/-!
DEFINITION. Matrix instructions and described blocks: MMA, MMD, HAD, QNT and CBLD (04 R96, R97, R101 to R107, 13 R303 to R308).
-/

namespace Sys2Proof.Machine

/-! ## Operand spans (R165, R305) -/

/-- A register as a matrix instruction reads it: an earlier matrix result that is not written yet comes first (R165). -/
def SliceSt.matVal (x : SliceSt) (n l : Nat) : Val :=
  let hit := x.outs.reverse.findSome? fun o =>
    match o.dst with
    | .vec k => if o.mat && o.pend.getLsbD l && decide (k ≤ n) && decide (n < k + o.regs.length) then
        some ((o.regs.getD (n - k) []).getD l Val.zero) else none
    | _ => none
  hit.getD (x.vreg n l)

/-- Register i, lane l of the span that an operand names. -/
def Env.spanVal (e : Env) (o : Opnd) (i l : Nat) : Val := e.x.matVal (e.regNum o + i) l

/-- The poison of a span of n registers, by lane. -/
def Env.spanPoison (e : Env) (o : Opnd) (n : Nat) (l : Nat) : LV :=
  { v := 0, p := (List.range n).findSome? fun i => (e.spanVal o i l).poison }

/-- Bytes of a 32-bit word. -/
def wordByte (w : W32) (b : Nat) : Nat := bits w.toNat (8 * b) 8
def wordHalf (w : W32) (j : Nat) : Nat := bits w.toNat (16 * j) 16

/-- Element k of row or column r of a 16-bit A or B, and of an 8-bit one (Table 13-2). -/
def elem16 (v : Nat → Nat → W32) (r k : Nat) : Nat := wordHalf (v (k / 4) (r + 32 * (k / 2 % 2))) (k % 2)
def elem8 (v : Nat → Nat → W32) (r k : Nat) : Nat := wordByte (v (k / 8) (r + 32 * (k / 4 % 2))) (k % 4)

/-- Byte n of row r's block in a described A. -/
def descByte (v : Nat → Nat → W32) (r n : Nat) : Nat := wordByte (v (n / 4 / 2) (r + 32 * (n / 4 % 2))) (n % 4)

/-- Accumulator element (r, c). -/
def accElem (v : Nat → Nat → W32) (r c : Nat) : W32 := v (r / 2) (c + 32 * (r % 2))

/-- The row and column of lane l, register i of an accumulator. -/
def accPos (i l : Nat) : Nat × Nat := (2 * i + l / 32, l % 32)

/-- The 16 registers of an accumulator given element by element. -/
def accRegs16 (f : Nat → Nat → W32) : List (Nat → Val) :=
  (List.range 16).map fun i => fun l => Val.of (f (accPos i l).1 (accPos i l).2)

/-! ## Accumulation (R105, R106) -/

def groupsOf8 : Nat → List Exact → List (List Exact)
  | 0, _ => []
  | n + 1, l => if l.isEmpty then [] else l.take 8 :: groupsOf8 n (l.drop 8)

/-- acc after the block partial sums of products in ascending k; a group with no products adds nothing, and a NaN accumulator
gives the canonical NaN without one too (R106). -/
def accumulate (acc : W32) (products : List Exact) : W32 :=
  (groupsOf8 products.length products).foldl (fun a ps => rneF32 (exactSum false [f32.val a.toNat, exactSum false ps]))
    (if (f32.val acc.toNat).isNan then rneF32 .nan else acc)

/-! ## MMA (R304 to R306) -/

/-- An element of a type of MMA. -/
def mmaElem (ty : Ty) (v : Nat → Nat → W32) (r k : Nat) : Nat := if ty.size = 2 then elem16 v r k else elem8 v r k

/-- D(i, j) of MMA. -/
def mmaVal (m : MX) (a b : Nat → Nat → W32) (acc : W32) (i j : Nat) : W32 :=
  let ks := List.range (if m.shape = 0 then 32 else 64)
  if m.aty.isFloat then
    accumulate acc (ks.map fun k =>
      let p := exactMul ((fmtOf m.aty).val (mmaElem m.aty a i k)) ((fmtOf m.bty).val (mmaElem m.bty b j k))
      if m.nega then p.neg else p)
  else
    let s : Int := ks.foldl (fun t k =>
      let p := intVal m.aty (mmaElem m.aty a i k) * intVal m.bty (mmaElem m.bty b j k)
      if m.nega then t - p else t + p) 0
    BitVec.ofNat 32 (intResult .s32 (m.sub.getLsbD 0) (acc.toInt + s))

/-- Reads the spans of MMA or MMD, checked for poison: D when it is an input, A, B and further sources. -/
def Env.matSources (e : Env) (d a b : Opnd) (na nb : Nat) (acc : Bool) (more : List (Nat × (Nat → LV))) : Chk Unit :=
  poisonCheck e.exec ([(1, e.spanPoison a na), (2, e.spanPoison b nb)] ++ (if acc then [(0, e.spanPoison d 16)] else []) ++ more)

def span (e : Env) (o : Opnd) (i l : Nat) : W32 := (e.spanVal o i l).bits

def mmaEff (d a b : Opnd) (m : MX) (e : Env) (s : State) : Chk Eff := do
  e.bounds [{ code := 0, o := d, n := 16, even := false }, { code := 1, o := a, n := 8, even := false },
    { code := 2, o := b, n := 8, even := false }]
  e.matSources d a b 8 8 m.acc []
  pure (Eff.on (s.lateDst e d true (accRegs16 fun i j =>
    mmaVal m (span e a) (span e b) (if m.acc then accElem (span e d) i j else 0) i j)))

def execMma (h : Hdr) (d a b : Opnd) (m : MX) (s : State) : Host.Outcome State Fault Refusal :=
  runInstr (.mma h d a b m) h (mmaEff d a b m) s

/-! ## Described blocks (R101 to R104) -/

/-- A block, by its bytes. -/
abbrev Block := Nat → Nat

/-- Extent of a format code, none when unknown (Table 4-5). -/
def blockExtent (code : Nat) : Option Nat :=
  match code with
  | 0x00 => some 96
  | 0x01 => some 128
  | 0x10 => some 96
  | 0x11 => some 96
  | 0x12 => some 128
  | _ => none

def nibble (b : Block) (base n : Nat) : Nat := bits (b (base + n / 2)) (4 * (n % 2)) 4

def present (b : Block) (k : Nat) : Bool := bitN (b (2 + k / 8)) (k % 8)

/-- Present elements of an F4S block, ascending. -/
def presentOf (b : Block) : List Nat := (List.range 128).filter (present b)

/-- Lowest reserved body byte of a format; reserved bytes end with the block, but for F4D at 63. -/
def reservedFrom (code : Nat) : Nat :=
  match code with
  | 0x10 => 62
  | 0x11 => 50
  | 0x12 => 58
  | _ => 64

/-- The lowest condition of R104 that a block meets; `want` is the extent it must have, when known. -/
def malformed (b : Block) (want : Option Nat) : Option Nat :=
  match blockExtent (b 0) with
  | none => some 1
  | some x =>
    if (List.range 64).any fun i => decide (reservedFrom (b 0) ≤ i) && b i != 0 then some 2
    else if b 0 = 0x12 ∧ 64 < (presentOf b).length then some 3
    else if want.any (· != x) then some 4
    else none

/-- 2^BX (R97). -/
def bxVal (bx : Nat) : Exact := dyadic false 1 (BitVec.ofNat 8 bx).toInt

/-- block_elem of R103, none when the element is absent. -/
def blockElem (b : Block) (k : Nat) (band : Exact) (cb : Nat → Nat) : Option Exact :=
  let scaled := fun (x : Exact) => exactMul (exactMul x (bxVal (b 1))) band
  match b 0 with
  | 0x10 => some (scaled (exactMul (e2m1.val (nibble b (3 + 5 * (k / 8)) (k % 8))) (e3m5Val (b (2 + 5 * (k / 8))))))
  | 0x11 => some (scaled (bf16.val (cb (nibble b 2 k))))
  | 0x12 =>
    if present b k then
      let q := ((List.range k).filter (present b)).length
      some (scaled (exactMul (e2m1.val (nibble b 26 q)) (e3m5Val (b (18 + q / 8)))))
    else none
  | _ => some (.fin false 0 1)

/-! ## MMD (R304, R306) -/

/-- Extent that SHAPE names. -/
def mmdExtent (m : MX) : Nat := if m.shape = 2 then 96 else 128

/-- DBF of the lowest malformed row (R104, R306). Where row 0 meets another condition beside the extent that SHAPE names, the lowest one
is reported (DESIGN CHOICE, log 117). -/
def dbfCheck (m : MX) (row : Nat → Block) : Chk Unit :=
  let want0 := blockExtent (row 0 0)
  match (List.range 32).findSome? fun r =>
      (malformed (row r) (if r = 0 then some (mmdExtent m) else want0)).map fun c => (r, c) with
  | some (r, c) => .error (.trap 0x19 (r + c * 2 ^ 5))
  | none => .ok ()

/-- D(i, j) of MMD. -/
def mmdVal (m : MX) (row : Nat → Block) (b : Nat → Nat → W32) (band : Exact) (cb : Nat → Nat) (acc : W32) (i j : Nat) : W32 :=
  let bElem := fun (k : Nat) =>
    if m.bty == .bf16 then bf16.val (elem16 b j k) else e4m3.val (elem8 b j k)
  accumulate acc ((List.range (mmdExtent m)).filterMap fun k =>
    (blockElem (row i) k band cb).map fun x =>
      let p := exactMul x (bElem k)
      if m.nega then p.neg else p)

/-- Registers of B of an MMD. -/
def mmdB (m : MX) : Nat := mmdExtent m / (if m.bty == .bf16 then 4 else 8)

def mmdEff (d a b : Opnd) (m : MX) (e : Env) (s : State) : Chk Eff := do
  e.bounds [{ code := 0, o := d, n := 16, even := false }, { code := 1, o := a, n := 8, even := false },
    { code := 2, o := b, n := mmdB m, even := false }]
  let band := e.x.sreg m.band.toNat
  e.matSources d a b 8 (mmdB m) m.acc [(3, fun _ => LV.ofVal band)]
  let row := fun (r : Nat) => (fun n => descByte (span e a) r n : Block)
  dbfCheck m row
  let cb := fun (i : Nat) => ((e.g.codebook.getD i 0).toNat)
  pure (Eff.on (s.lateDst e d true (accRegs16 fun i j =>
    mmdVal m row (span e b) (bf16.val (band.bits.toNat % 65536)) cb (if m.acc then accElem (span e d) i j else 0) i j)))

def execMmd (h : Hdr) (d a b : Opnd) (m : MX) (s : State) : Host.Outcome State Fault Refusal :=
  runInstr (.mmd h d a b m) h (mmdEff d a b m) s

/-! ## HAD (R307) -/

/-- One stage: the pairs that differ in bit s. -/
def hadStage (st : Nat) (x : List W32) : List W32 :=
  let v := fun (j : Nat) => f32.val (x.getD j 0).toNat
  x.mapIdx fun j _ =>
    if bitN j st then rneF32 (exactSum false [v (j - 2 ^ st), (v j).neg]) else rneF32 (exactSum false [v j, v (j + 2 ^ st)])

/-- The transform of 2^log values, scaled by 2^-k. -/
def hadVals (log k : Nat) (x : List W32) : List W32 :=
  ((List.range log).foldl (fun x st => hadStage st x) x).map fun w => rneF32 (exactMul (f32.val w.toNat) (dyadic false 1 (-(k : Int))))

def hadEff (d a : Opnd) (hadn : BitVec 2) (hadk : BitVec 5) (e : Env) (s : State) : Chk Eff := do
  let log := 4 + hadn.toNat
  let n := 2 ^ log
  e.bounds [{ code := 0, o := d, n := n, even := false }, { code := 1, o := a, n := n, even := false }]
  poisonCheck e.exec [(1, e.spanPoison a n)]
  let out := fun (l : Nat) => hadVals log hadk.toNat ((List.range n).map fun j => span e a j l)
  pure (Eff.on (s.lateDst e d true ((List.range n).map fun j => fun l => Val.of ((out l).getD j 0))))

def execHad (h : Hdr) (d a : Opnd) (hadn : BitVec 2) (hadk : BitVec 5) (s : State) : Host.Outcome State Fault Refusal :=
  runInstr (.had h d a hadn hadk) h (hadEff d a hadn hadk) s

/-! ## QNT (R308) -/

def Exact.abs : Exact → Exact
  | .inf _ => .inf false
  | .fin _ n d => .fin false n d
  | .nan => .fin false 0 1

/-- The largest magnitude of a sub-block, NaN counted as 0. -/
def amaxOf (xs : List Exact) : Exact := xs.foldl (fun m x => if m.lt x.abs then x.abs else m) (.fin false 0 1)

/-- The sub-scale of a sub-block. -/
def qntScale (bx : Nat) (xs : List Exact) : Nat :=
  let m := amaxOf xs
  ((List.range 256).find? fun c => !(exactMul (exactMul (.fin false 6 1) (e3m5Val c)) (bxVal bx)).lt m).getD 0xFF

/-- The element code of a value under a sub-scale. -/
def qntCode (bx s : Nat) (x : Exact) : Nat :=
  if x.isNan || (e3m5Val s).isZero then 0
  else e2m1.round .rne true (exactDiv x (exactMul (e3m5Val s) (bxVal bx)))

/-- Byte n of the F4D block of 96 values. -/
def qntByte (bx : Nat) (v : Nat → Exact) (n : Nat) : Nat :=
  if n = 0 then 0x10 else if n = 1 then bx else if 62 ≤ n then 0 else
  let j := (n - 2) / 5
  let xs := (List.range 8).map fun i => v (8 * j + i)
  let s := qntScale bx xs
  let i := (n - 2) % 5
  if i = 0 then s else qntCode bx s (xs.getD (2 * (i - 1)) .nan) + 16 * qntCode bx s (xs.getD (2 * (i - 1) + 1) .nan)

def qntEff (d a b : Opnd) (e : Env) (s : State) : Chk Eff := do
  e.bounds [{ code := 0, o := d, n := 8, even := false }, { code := 1, o := a, n := 24, even := false }]
  let bx := e.x.sreg (e.regNum b)
  poisonCheck e.exec [(1, e.spanPoison a 24), (2, fun _ => LV.ofVal bx)]
  let v := fun (r k : Nat) => bf16.val (elem16 (span e a) r k)
  let byte := fun (r n : Nat) => qntByte (bx.bits.toNat % 256) (v r) n
  pure (Eff.on (s.lateDst e d true ((List.range 8).map fun i => fun l =>
    let w := 2 * i + l / 32
    Val.of (BitVec.ofNat 32 (((List.range 4).map fun b => byte (l % 32) (4 * w + b) * 2 ^ (8 * b)).sum)))))

def execQnt (h : Hdr) (d a b : Opnd) (s : State) : Host.Outcome State Fault Refusal :=
  runInstr (.qnt h d a b) h (qntEff d a b) s

/-! ## CBLD (R307) -/

def cbldEff (a : Opnd) (e : Env) (s : State) : Chk Eff := do
  let n := e.regNum a
  let vs := (List.range 8).map fun m => e.x.sreg (n + m)
  poisonCheck e.exec (vs.map fun v => (1, fun _ => LV.ofVal v))
  pure (Eff.on (s.updGroup e.gid fun g =>
    { g with codebook := vs.flatMap fun v => [v.bits.extractLsb' 0 16, v.bits.extractLsb' 16 16] }))

def execCbld (h : Hdr) (a : Opnd) (s : State) : Host.Outcome State Fault Refusal :=
  runInstr (.cbld h a) h (cbldEff a) s

end Sys2Proof.Machine
end

