-- ==== Sys2Proof/Machine/Dispatch.lean ====
section
/-!
DEFINITION. The dispatch: one arm per constructor of Instr, each one call of its meaning.
-/

namespace Sys2Proof.Machine

def exec (i : Instr) (s : State) : Host.Outcome State Fault Refusal :=
  match i with
  | .nop h => Sys2Proof.Machine.execNop h s
  | .bra h m => Sys2Proof.Machine.execBra h m s
  | .brx h a m => Sys2Proof.Machine.execBrx h a m s
  | .call h b m => Sys2Proof.Machine.execCall h b m s
  | .callx h a b m => Sys2Proof.Machine.execCallx h a b m s
  | .ret h a => Sys2Proof.Machine.execRet h a s
  | .exitL h => Sys2Proof.Machine.execExitL h s
  | .brq h a b m => Sys2Proof.Machine.execBrq h a b m s
  | .pushb h d a tag => Sys2Proof.Machine.execPushb h d a tag s
  | .qpush h d a => Sys2Proof.Machine.execQpush h d a s
  | .qpop h d a disc => Sys2Proof.Machine.execQpop h d a disc s
  | .qsync h qmask => Sys2Proof.Machine.execQsync h qmask s
  | .slip h a => Sys2Proof.Machine.execSlip h a s
  | .waitc h a path => Sys2Proof.Machine.execWaitc h a path s
  | .waitall h mem => Sys2Proof.Machine.execWaitall h mem s
  | .trap h code => Sys2Proof.Machine.execTrap h code s
  | .bkpt h code => Sys2Proof.Machine.execBkpt h code s
  | .racq h d a tryIt => Sys2Proof.Machine.execRacq h d a tryIt s
  | .rrel h a => Sys2Proof.Machine.execRrel h a s
  | .iadd h d a b m => Sys2Proof.Machine.execIadd h d a b m s
  | .isub h d a b m => Sys2Proof.Machine.execIsub h d a b m s
  | .imul h d a b m => Sys2Proof.Machine.execImul h d a b m s
  | .imulh h d a b m => Sys2Proof.Machine.execImulh h d a b m s
  | .imad h d a b m => Sys2Proof.Machine.execImad h d a b m s
  | .imin h d a b m => Sys2Proof.Machine.execImin h d a b m s
  | .imax h d a b m => Sys2Proof.Machine.execImax h d a b m s
  | .iabs h d b m => Sys2Proof.Machine.execIabs h d b m s
  | .ineg h d b m => Sys2Proof.Machine.execIneg h d b m s
  | .andB h d a b m => Sys2Proof.Machine.execAndB h d a b m s
  | .orB h d a b m => Sys2Proof.Machine.execOrB h d a b m s
  | .xorB h d a b m => Sys2Proof.Machine.execXorB h d a b m s
  | .notB h d b m => Sys2Proof.Machine.execNotB h d b m s
  | .lop3 h d a b lop => Sys2Proof.Machine.execLop3 h d a b lop s
  | .shl h d a b m => Sys2Proof.Machine.execShl h d a b m s
  | .shr h d a b m => Sys2Proof.Machine.execShr h d a b m s
  | .sar h d a b m => Sys2Proof.Machine.execSar h d a b m s
  | .rot h d a b m => Sys2Proof.Machine.execRot h d a b m s
  | .bfe h d a b m => Sys2Proof.Machine.execBfe h d a b m s
  | .bfi h d a b m => Sys2Proof.Machine.execBfi h d a b m s
  | .popc h d b m => Sys2Proof.Machine.execPopc h d b m s
  | .clz h d b m => Sys2Proof.Machine.execClz h d b m s
  | .brev h d b m => Sys2Proof.Machine.execBrev h d b m s
  | .isetp h d a b m => Sys2Proof.Machine.execIsetp h d a b m s
  | .sel h d a b m => Sys2Proof.Machine.execSel h d a b m s
  | .mov h d b m => Sys2Proof.Machine.execMov h d b m s
  | .movi h d imm => Sys2Proof.Machine.execMovi h d imm s
  | .lea h d a b m => Sys2Proof.Machine.execLea h d a b m s
  | .aadd h d a b m => Sys2Proof.Machine.execAadd h d a b m s
  | .plop h d a b m => Sys2Proof.Machine.execPlop h d a b m s
  | .pmov h d b m => Sys2Proof.Machine.execPmov h d b m s
  | .fadd h d a b m => Sys2Proof.Machine.execFadd h d a b m s
  | .fsub h d a b m => Sys2Proof.Machine.execFsub h d a b m s
  | .fmul h d a b m => Sys2Proof.Machine.execFmul h d a b m s
  | .ffma h d a b m => Sys2Proof.Machine.execFfma h d a b m s
  | .fmin h d a b m => Sys2Proof.Machine.execFmin h d a b m s
  | .fmax h d a b m => Sys2Proof.Machine.execFmax h d a b m s
  | .fsetp h d a b m => Sys2Proof.Machine.execFsetp h d a b m s
  | .fclass h d b m => Sys2Proof.Machine.execFclass h d b m s
  | .frnd h d b m => Sys2Proof.Machine.execFrnd h d b m s
  | .ffrc h d b m => Sys2Proof.Machine.execFfrc h d b m s
  | .fdiv h d a b m => Sys2Proof.Machine.execFdiv h d a b m s
  | .fsqrt h d b m => Sys2Proof.Machine.execFsqrt h d b m s
  | .frcp h d b m => Sys2Proof.Machine.execFrcp h d b m s
  | .frsq h d b m => Sys2Proof.Machine.execFrsq h d b m s
  | .fex2 h d b m => Sys2Proof.Machine.execFex2 h d b m s
  | .flg2 h d b m => Sys2Proof.Machine.execFlg2 h d b m s
  | .fsin h d b m => Sys2Proof.Machine.execFsin h d b m s
  | .fcos h d b m => Sys2Proof.Machine.execFcos h d b m s
  | .ftanh h d b m => Sys2Proof.Machine.execFtanh h d b m s
  | .hadd2 h d a b m => Sys2Proof.Machine.execHadd2 h d a b m s
  | .hmul2 h d a b m => Sys2Proof.Machine.execHmul2 h d a b m s
  | .hfma2 h d a b m => Sys2Proof.Machine.execHfma2 h d a b m s
  | .hmin2 h d a b m => Sys2Proof.Machine.execHmin2 h d a b m s
  | .hmax2 h d a b m => Sys2Proof.Machine.execHmax2 h d a b m s
  | .fdot2 h d a b m => Sys2Proof.Machine.execFdot2 h d a b m s
  | .idot4 h d a b m => Sys2Proof.Machine.execIdot4 h d a b m s
  | .cvt h d b m => Sys2Proof.Machine.execCvt h d b m s
  | .pack h d a b m => Sys2Proof.Machine.execPack h d a b m s
  | .prmt h d a b m => Sys2Proof.Machine.execPrmt h d a b m s
  | .vote h d b m => Sys2Proof.Machine.execVote h d b m s
  | .redx h d b m => Sys2Proof.Machine.execRedx h d b m s
  | .scan h d b m => Sys2Proof.Machine.execScan h d b m s
  | .elect h d => Sys2Proof.Machine.execElect h d s
  | .matchL h d b m => Sys2Proof.Machine.execMatchL h d b m s
  | .ldq h d a b m => Sys2Proof.Machine.execLdq h d a b m s
  | .ldr h d a b m => Sys2Proof.Machine.execLdr h d a b m s
  | .st h d a b m => Sys2Proof.Machine.execSt h d a b m s
  | .ldk h d a b m => Sys2Proof.Machine.execLdk h d a b m s
  | .ldt h d a b m => Sys2Proof.Machine.execLdt h d a b m s
  | .stt h d a b m => Sys2Proof.Machine.execStt h d a b m s
  | .ldsp h d a b m => Sys2Proof.Machine.execLdsp h d a b m s
  | .stsp h d a b m => Sys2Proof.Machine.execStsp h d a b m s
  | .atom h d a b m => Sys2Proof.Machine.execAtom h d a b m s
  | .red h a b m => Sys2Proof.Machine.execRed h a b m s
  | .atsp h d a b m => Sys2Proof.Machine.execAtsp h d a b m s
  | .pfx h a b m => Sys2Proof.Machine.execPfx h a b m s
  | .fence h m => Sys2Proof.Machine.execFence h m s
  | .pfence h scope src dst => Sys2Proof.Machine.execPfence h scope src dst s
  | .smp h d a b smp => Sys2Proof.Machine.execSmp h d a b smp s
  | .sld h d a b sld => Sys2Proof.Machine.execSld h d a b sld s
  | .xformZero h a eng => Sys2Proof.Machine.execXformZero h a eng s
  | .xformFill h a eng => Sys2Proof.Machine.execXformFill h a eng s
  | .xformTranspose h a eng => Sys2Proof.Machine.execXformTranspose h a eng s
  | .synct h => Sys2Proof.Machine.execSynct h s
  | .mbinit h a b => Sys2Proof.Machine.execMbinit h a b s
  | .mbarv h d a b rlx => Sys2Proof.Machine.execMbarv h d a b rlx s
  | .mbexp h d a b rlx arv => Sys2Proof.Machine.execMbexp h d a b rlx arv s
  | .mbwait h a b => Sys2Proof.Machine.execMbwait h a b s
  | .mbtest h d a b => Sys2Proof.Machine.execMbtest h d a b s
  | .bcopy h a eng => Sys2Proof.Machine.execBcopy h a eng s
  | .bcopy2 h a eng => Sys2Proof.Machine.execBcopy2 h a eng s
  | .bgath h a b eng => Sys2Proof.Machine.execBgath h a b eng s
  | .wlpush h d a b => Sys2Proof.Machine.execWlpush h d a b s
  | .wlpop h d a b => Sys2Proof.Machine.execWlpop h d a b s
  | .wlquiet h d a b => Sys2Proof.Machine.execWlquiet h d a b s
  | .filldone h d => Sys2Proof.Machine.execFilldone h d s
  | .fillfail h d a => Sys2Proof.Machine.execFillfail h d a s
  | .previct h d a => Sys2Proof.Machine.execPrevict h d a s
  | .fillq h d a => Sys2Proof.Machine.execFillq h d a s
  | .cstep h a b bar => Sys2Proof.Machine.execCstep h a b bar s
  | .cabort h a => Sys2Proof.Machine.execCabort h a s
  | .mma h d a b m => Sys2Proof.Machine.execMma h d a b m s
  | .mmd h d a b m => Sys2Proof.Machine.execMmd h d a b m s
  | .had h d a hadn hadk => Sys2Proof.Machine.execHad h d a hadn hadk s
  | .qnt h d a b => Sys2Proof.Machine.execQnt h d a b s
  | .cbld h a => Sys2Proof.Machine.execCbld h a s
  | .spl h d a => Sys2Proof.Machine.execSpl h d a s
  | .gpl h d wait => Sys2Proof.Machine.execGpl h d wait s
  | .grant h d a => Sys2Proof.Machine.execGrant h d a s
  | .revoke h d a => Sys2Proof.Machine.execRevoke h d a s
  | .passq h d a => Sys2Proof.Machine.execPassq h d a s
  | .emitv h a b cnt word => Sys2Proof.Machine.execEmitv h a b cnt word s
  | .emitp h a b => Sys2Proof.Machine.execEmitp h a b s
  | .meshend h a b => Sys2Proof.Machine.execMeshend h a b s
  | .tld h d a ty nvec => Sys2Proof.Machine.execTld h d a ty nvec s
  | .tsto h d a ty nvec => Sys2Proof.Machine.execTsto h d a ty nvec s
  | .disc h => Sys2Proof.Machine.execDisc h s
  | .ownq h d a b => Sys2Proof.Machine.execOwnq h d a b s
  | .launch h d a => Sys2Proof.Machine.execLaunch h d a s
  | .gets h d idx w64 => Sys2Proof.Machine.execGets h d idx w64 s
  | .sets h a idx w64 => Sys2Proof.Machine.execSets h a idx w64 s
  | .tret h => Sys2Proof.Machine.execTret h s
  | .preempt h d a b => Sys2Proof.Machine.execPreempt h d a b s
  | .preemptRel h d a => Sys2Proof.Machine.execPreemptRel h d a s
  | .csave h d a => Sys2Proof.Machine.execCsave h d a s
  | .crest h d a => Sys2Proof.Machine.execCrest h d a s
  | .iainv h a b => Sys2Proof.Machine.execIainv h a b s
  | .iainvAll h a => Sys2Proof.Machine.execIainvAll h a s
  | .present h d a b => Sys2Proof.Machine.execPresent h d a b s
  | .teamHaltComplete team => Sys2Proof.Machine.execTeamHaltComplete team s
  | .deferredTrap acc => Sys2Proof.Machine.execDeferredTrap acc s
  | .errorRingRetry ctx => Sys2Proof.Machine.execErrorRingRetry ctx s
  | .homeAccess acc lane => Sys2Proof.Machine.execHomeAccess acc lane s
  | .walkSlotFree acc => Sys2Proof.Machine.execWalkSlotFree acc s
  | .faultBatchRetry ctx => Sys2Proof.Machine.execFaultBatchRetry ctx s
  | .replayReissue acc lane => Sys2Proof.Machine.execReplayReissue acc lane s
  | .loadDataReturn acc lanes => Sys2Proof.Machine.execLoadDataReturn acc lanes s
  | .varlatResultWrite gid sl res lanes => Sys2Proof.Machine.execVarlatResultWrite gid sl res lanes s
  | .qsStoreData acc => Sys2Proof.Machine.execQsStoreData acc s
  | .dirtyWriteDropped cache line => Sys2Proof.Machine.execDirtyWriteDropped cache line s
  | .layoutTWrite acc lane => Sys2Proof.Machine.execLayoutTWrite acc lane s
  | .transformBankPart eng part => Sys2Proof.Machine.execTransformBankPart eng part s
  | .engineUnitDone eng unit => Sys2Proof.Machine.execEngineUnitDone eng unit s
  | .migprodWrite home value => Sys2Proof.Machine.execMigprodWrite home value s
  | .migrationCommandStart home => Sys2Proof.Machine.execMigrationCommandStart home s
  | .migrationRoundEnd home cmd => Sys2Proof.Machine.execMigrationRoundEnd home cmd s
  | .migrationFreezeDone home cmd => Sys2Proof.Machine.execMigrationFreezeDone home cmd s
  | .prtEntryWrite die entry => Sys2Proof.Machine.execPrtEntryWrite die entry s
  | .fillRequestRetry acc lane => Sys2Proof.Machine.execFillRequestRetry acc lane s
  | .hostFillRetry slot tag => Sys2Proof.Machine.execHostFillRetry slot tag s
  | .fillTimeout die entry block => Sys2Proof.Machine.execFillTimeout die entry block s
  | .surfaceDescriptorWrite index => Sys2Proof.Machine.execSurfaceDescriptorWrite index s
  | .contextDescriptorWrite ctx => Sys2Proof.Machine.execContextDescriptorWrite ctx s
  | .kick k => Sys2Proof.Machine.execKick k s
  | .teamPlace => Sys2Proof.Machine.execTeamPlace s
  | .levelAging launch => Sys2Proof.Machine.execLevelAging launch s
  | .placementReserve launch => Sys2Proof.Machine.execPlacementReserve launch s
  | .deadlineHold launch => Sys2Proof.Machine.execDeadlineHold launch s
  | .teamRestore team => Sys2Proof.Machine.execTeamRestore team s
  | .groupCleared gid => Sys2Proof.Machine.execGroupCleared gid s
  | .groupRetire gid => Sys2Proof.Machine.execGroupRetire gid s
  | .qdeadlock team => Sys2Proof.Machine.execQdeadlock team s
  | .barrierStall team sl => Sys2Proof.Machine.execBarrierStall team sl s
  | .emergencyReserveGrant core => Sys2Proof.Machine.execEmergencyReserveGrant core s
  | .racqGrant gid => Sys2Proof.Machine.execRacqGrant gid s
  | .issueCycle core => Sys2Proof.Machine.execIssueCycle core s
  | .fetchSlotSwitch gid sl => Sys2Proof.Machine.execFetchSlotSwitch gid sl s
  | .icacheFill gid sl => Sys2Proof.Machine.execIcacheFill gid sl s
  | .graphicsContextEntryWrite ctx => Sys2Proof.Machine.execGraphicsContextEntryWrite ctx s
  | .graphicsPacketStart ctx => Sys2Proof.Machine.execGraphicsPacketStart ctx s
  | .binning draw => Sys2Proof.Machine.execBinning draw s
  | .tilePassStart draw tile core => Sys2Proof.Machine.execTilePassStart draw tile core s
  | .tileInvocationStart draw => Sys2Proof.Machine.execTileInvocationStart draw s
  | .tileWriteOut draw => Sys2Proof.Machine.execTileWriteOut draw s
  | .tilePassAbandon draw => Sys2Proof.Machine.execTilePassAbandon draw s
  | .fieldStart view => Sys2Proof.Machine.execFieldStart view s
  | .outputEnable view value => Sys2Proof.Machine.execOutputEnable view value s
  | .hdcpStateChange view active => Sys2Proof.Machine.execHdcpStateChange view active s
  | .vanarRead h count scope ord => Sys2Proof.Machine.execVanarRead h count scope ord s
  | .vanarWrite h scope ord data => Sys2Proof.Machine.execVanarWrite h scope ord data s
  | .vanarAtomic h aop ty scope ord v new => Sys2Proof.Machine.execVanarAtomic h aop ty scope ord v new s
  | .cfgread h size => Sys2Proof.Machine.execCfgread h size s
  | .cfgwrite h size value => Sys2Proof.Machine.execCfgwrite h size value s
  | .recovery h len data => Sys2Proof.Machine.execRecovery h len data s
  | .vanarAbort h cgid code => Sys2Proof.Machine.execVanarAbort h cgid code s
  | .vanarStep h cgid committed => Sys2Proof.Machine.execVanarStep h cgid committed s
  | .vanarResponse h status data => Sys2Proof.Machine.execVanarResponse h status data s
  | .ack slot e accepted => Sys2Proof.Machine.execAck slot e accepted s
  | .ackDue slot => Sys2Proof.Machine.execAckDue slot s
  | .collectiveStepTimeout cgid member => Sys2Proof.Machine.execCollectiveStepTimeout cgid member s
  | .resendTimeout slot seq => Sys2Proof.Machine.execResendTimeout slot seq s
  | .pathFailureTimeout slot seq => Sys2Proof.Machine.execPathFailureTimeout slot seq s
  | .linkDown port => Sys2Proof.Machine.execLinkDown port s
  | .portProbe port answered => Sys2Proof.Machine.execPortProbe port answered s
  | .voltageRampDone cl => Sys2Proof.Machine.execVoltageRampDone cl s
  | .fclkChangeDone cl => Sys2Proof.Machine.execFclkChangeDone cl s
  | .clockCrossingDone cl => Sys2Proof.Machine.execClockCrossingDone cl s
  | .powerSample watts => Sys2Proof.Machine.execPowerSample watts s
  | .stallSample cl memStall issStall => Sys2Proof.Machine.execStallSample cl memStall issStall s
  | .timingErrorEncore cl => Sys2Proof.Machine.execTimingErrorEncore cl s
  | .commit => Sys2Proof.Machine.execCommit s
  | .coolReportMissing => Sys2Proof.Machine.execCoolReportMissing s
  | .ghostLightEnter value => Sys2Proof.Machine.execGhostLightEnter value s
  | .wakePhraseDetect => Sys2Proof.Machine.execWakePhraseDetect s
  | .ghostLightTimeout => Sys2Proof.Machine.execGhostLightTimeout s
  | .wakeack => Sys2Proof.Machine.execWakeack s
  | .wake value => Sys2Proof.Machine.execWake value s
  | .wearThreshold unit => Sys2Proof.Machine.execWearThreshold unit s
  | .startUp ok => Sys2Proof.Machine.execStartUp ok s
  | .attest => Sys2Proof.Machine.execAttest s
  | .cert => Sys2Proof.Machine.execCert s
  | .keygen => Sys2Proof.Machine.execKeygen s
  | .keyclr => Sys2Proof.Machine.execKeyclr s
  | .raslostClear => Sys2Proof.Machine.execRaslostClear s
  | .registerWrite die off size value => Sys2Proof.Machine.execRegisterWrite die off size value s
  | .peerPageResolved slot ia => Sys2Proof.Machine.execPeerPageResolved slot ia s
  | .vanarFrameDiscard frame => Sys2Proof.Machine.execVanarFrameDiscard frame s
  | .priorityPause port prio stop => Sys2Proof.Machine.execPriorityPause port prio stop s
  | .timeSync r => Sys2Proof.Machine.execTimeSync r s

end Sys2Proof.Machine
end

