-- ==== Sys2Proof/Machine/Picks.lean ====
section
/-!
DEFINITION. The issue of a picked fragment, and the choice of an ISSUE_CYCLE: which of the fragments offered to the age matrix are ready,
and which two at most it picks (08 R182, 07 R163).
-/

namespace Sys2Proof.Machine

/-- A picked fragment issues: its instruction is fetched and executed, or it traps or waits at the fetch. -/
def issueStep (w : Issuer) (s : State) : Host.Outcome State Fault Refusal :=
  match s.fetch w with
  | .gone => .next s
  | .other t => .next t
  | .run i => exec i { s with cur := some w }

/-- A fragment stands where it stood: its slice has issued nothing and has not been halted. -/
def State.unmoved (s t : State) (w : Issuer) : Bool :=
  match s.issuer w, t.issuer w with
  | some x, some y =>
    let a := x.2.1.slice w.sl
    let b := y.2.1.slice w.sl
    a.issued == b.issued && a.halt == b.halt && x.2.2.pc == y.2.2.pc && x.2.2.handler == y.2.2.handler
  | none, _ => true
  | some _, none => false

/-- What a fragment that is not ready leaves when it is tried: its next instruction lacks something, for which it waits (R166; DEDUCED,
log 118). A fragment that would issue, or trap, is ready. -/
def State.tried (s : State) (w : Issuer) : Option State :=
  match issueStep w s with
  | .next t => if s.unmoved t w then some t else none
  | _ => none

/-- Two instructions that one FCLK does not pick together. -/
def classClash (a b : Class) : Bool := a == b && a != .other

/-- The age matrix comes to the next fragment offered, with what it has picked so far. -/
def State.offer (x : List Issuer × State) (w : Issuer) : List Issuer × State :=
  if 2 ≤ x.1.length then x else
  match x.2.tried w with
  | some s => (x.1, s)
  | none => if x.1.any fun v => classClash (x.2.classAt v) (x.2.classAt w) then x else (x.1 ++ [w], x.2)

/-- A picked fragment counts an instruction in a row while the other one of its slice could issue (R163). -/
def State.counts (s : State) (w : Issuer) : State :=
  match s.issuer w with
  | none => s
  | some x =>
    s.updFrag w.gid w.sl w.slot fun (f : Frag) => { f with run := if s.otherReady x.1 x.2.1 w.sl then f.run + 1 else 0 }

/-- The class of a message that arrives (Table 16-8). -/
def arrivingClass : Instr → Option Nat
  | .kick (.message _ _) | .ack _ _ _ | .vanarAbort _ _ _ | .vanarStep _ _ _ => some 0
  | .vanarRead _ _ _ _ | .vanarWrite _ _ _ _ | .vanarAtomic _ _ _ _ _ _ _ | .cfgread _ _ | .cfgwrite _ _ _ | .recovery _ _ _ | .vanarResponse _ _ _ => some 1
  | _ => none

/-- The next input is taken from the receive buffers. The device pauses a priority whose buffer has passed three quarters full, and releases it
below half (R364; the room of a buffer is not given: DEDUCED, log 129). -/
def State.takeInput (s : State) (i : Instr) (r : List Instr) : State :=
  let fill := fun (l : List Instr) (p : Nat) => (l.filter fun x => (arrivingClass x).any fun c => s.priority c == p).length
  let full := (List.range 8).filter fun p => decide (3 * Config.rxRoom p < 4 * fill (i :: r) p) && !s.pausing.contains p
  { s with inbox := r, pausing := (full ++ s.pausing).filter fun p => !decide (2 * fill r p < Config.rxRoom p) }

/-- The picks among the fragments offered (R182). -/
def State.choose (s : State) : State :=
  let r := s.offered.foldl State.offer ([], s)
  { r.1.foldl State.counts r.2 with picked := r.1, offered := [] }

end Sys2Proof.Machine
end

