-- ==== Sys2Proof/Machine/Step.lean ====
section
/-!
DEFINITION. One step of the machine, and the placing of a word where the next step fetches.
-/

namespace Sys2Proof.Machine

/-- A move of the device. -/
def moveStep (m : Option Move) (s : State) : Host.Outcome State Fault Refusal :=
  match m with
  | some (.event i) => exec i s
  | some m => .next (s.quietMove m)
  | none => .next s

/-- One step: the first step that is due, else the first picked fragment's instruction, else the choice among the fragments offered, else
the first input that has arrived, else a move chosen freely among those that may come next (DESIGN CHOICE, log 2). -/
def step (s : State) : Host.Outcome State Fault Refusal :=
  match s.due with
  | i :: r => exec i { s with due := r }
  | [] =>
    match s.picked with
    | w :: r => issueStep w { s with picked := r }
    | [] =>
      match s.offered with
      | _ :: _ => .next s.choose
      | [] =>
        match s.inbox with
        | i :: r => exec i (s.takeInput i r)
        | [] =>
          let ms := s.moves
          moveStep (ms[Config.nextStep s.free % ms.length]?) { s with free := s.free + 1 }

/-! ## Placing an instruction where the next step fetches it -/

/-- A kernel of one group of width 64, with eight blocks for each slice and no scratchpad. -/
def fetchKernel : Kernel :=
  { cmax := 8, cmin := 8, ablk := 8, grps := 1, gen := false, pair := false, width := 64, scr := 0, qd := [8, 8, 8, 8],
    mprim := 0, mvert := 0 }

/-- PC at which the instruction is placed: the first word of the second line of the window. -/
def fetchPc : W64 := 192

/-- A resident group whose slices stand at `fetchPc`. -/
def fetchGroup (team gid : Nat) : Group :=
  let regs : List (List Val) := List.replicate 64 (List.replicate 64 Val.zero)
  let x := freshSlice fetchPc (allLanes 64) 64 [] regs
  { gid := gid, team := team, core := 0, grp := 0, slot := 0, width := 64, life := .resident, a := x, c := x,
    queues := freshQueues fetchKernel, ablk := 8, held := 8, reserve := 0, quarters := List.range 64, qunits := [],
    slipl := 0, lodcnt := 0, qmaskf := 0, meshdrop := 0, codebook := List.replicate 16 0,
    mesh := { verts := [], prims := [], ended := false, nvert := 0, nprim := 0 }, step := 0, discarded := 0,
    pixels := allLanes 64 }

/-- The slice in which the instruction of a word may issue. -/
def fetchSlice (i : Option Instr) : Slice := ((i.map opcOf).bind opcSlice).getD .a

/-- `s` with a word in the instruction cache of core 0, where the only picked fragment stands: a group of the house in context 0,
whose first window is executable. The word is as the decoder reads it: `nbits` bits, the others zero (DESIGN CHOICE, log 90). -/
def State.withFetchWord (s : State) (nbits w : Nat) : State :=
  let tid := s.nextId
  let gid := s.nextId + 1
  let word := wordOfBytes (bytesOfWord (BitVec.ofNat 96 (w % 2 ^ nbits)))
  let spot : Spot := { core := 0, own := false, fits := [(0, [], 0)] }
  let t := newTeam tid .compute 0 0 0 0 0 1 0 fetchPc fetchKernel spot [fetchGroup tid gid]
  let s := s.updCtx 0 fun c => { c with valid := true, prot := false, owner := 0, vrg := [0x9, 0, 0, 0] ++ List.replicate 60 0 }
  let s := s.updCore 0 fun k =>
    { k with icache := { ia := 192, frame := none, word := word, poison := none, owner := 0, prot := false } ::
        k.icache.filter fun x => !(x.ia == 192 && x.owner == 0 && x.prot == false) }
  { s with teams := s.teams ++ [t], nextId := s.nextId + 2, due := [], inbox := [], offered := [],
           picked := [{ gid := gid, sl := fetchSlice (decodeTableWord nbits w), slot := 0 }] }

end Sys2Proof.Machine
end

