-- ==== Sys2Proof/Safety.lean ====
section
/-!
DEFINITION. What counts as a safe run, in the terms the claims use: which steps are events of the device, what a well-formed device
looks like, and when a step goes on.
-/

namespace Sys2Proof.Machine

/-- The step issues from a fragment: it is one of the 149 instructions, and not an event of the device. -/
def isInstruction (i : Instr) : Bool := (encodeRaw i).isSome

/-- Steps that follow at once, and inputs, are events. -/
def State.onlyEvents (s : State) : Bool := (s.due ++ s.inbox).all fun i => !isInstruction i

/-- Device memory is in its canonical form. -/
def State.memOk (s : State) : Prop := s.mem.wf = true

/-- The step ends in a next state. -/
def goesOn (o : Host.Outcome State Fault Refusal) : Prop := ∃ t, o = .next t

/-- The device has every unit that the spec gives it (R1 to R4). -/
def State.whole (s : State) : Bool :=
  s.cores.length == 160 && s.rdcs.length == 4 && s.homes.length == 9 && s.views.length == 8 && s.ports.length == 2 &&
    s.clusters.length == 40

/-! ## The issue of an instruction -/

/-- Fragment `e` issues an instruction with header `h`: `step` has made it the current one, in a slice that has not stopped. -/
def State.issues (s : State) (h : Hdr) (e : Env) : Prop := (s.cur.bind fun w => s.env w h) = some e

/-- It issues `i`, which passes checks 3 to 7 of Table 9-9, in at least one lane. -/
structure State.runs (s : State) (i : Instr) (h : Hdr) (e : Env) : Prop where
  issues : s.issues h e
  checks : e.check i = .ok ()
  lanes  : e.exec ≠ 0

/-- Nothing but the teams has changed, and the model's own counters. -/
def State.onlyTeams (s t : State) : Prop := t = { s with teams := t.teams, cur := t.cur, nextId := t.nextId }

/-! ## Instructions that compute one value per lane -/

/-- An instruction whose result, in each lane, is a function of its sources: its destination, whether that is a pair, its
sources and the function. -/
structure Form where
  h    : Hdr
  d    : Opnd
  pair : Bool
  srcs : List SrcOp
  val  : List Nat → Nat

/-- The registers that the form names are allotted (R204), and its sources, once they may be read, have the values `vs` (R202 to R205). -/
structure Form.reads (F : Form) (s : State) (e : Env) (vs : List (Nat → Nat)) : Prop where
  bounds : e.bounds (dstUse F.d F.pair :: F.srcs.map SrcOp.use) = .ok ()
  values : (s.begun e).gather e F.srcs F.d 1 = .ok vs

/-- The result of the form in a lane. -/
def Form.result (F : Form) (vs : List (Nat → Nat)) : Nat → Nat := fun l => F.val (vs.map fun v => v l)

/-- The state after the form has written its result at once. -/
def Form.after (F : Form) (s : State) (e : Env) (vs : List (Nat → Nat)) : State :=
  (((s.begun e).consume e F.srcs).writeDst e F.d F.pair (F.result vs)).ended e F.h false s

/-- The state after the form has started a result that is written later, lane by lane (R165). -/
def Form.afterLate (F : Form) (s : State) (e : Env) (vs : List (Nat → Nat)) : State :=
  (((s.begun e).consume e F.srcs).lateDst e F.d false (splitVal F.pair (F.result vs))).ended e F.h false s

/-- Two integer sources of TYPE and an exact result, wrapped or saturated (R244). -/
def intForm2 (h : Hdr) (d a b : Opnd) (m : MA) (y : Int → Int → Int) : Form :=
  { h := h, d := d, pair := m.ty == .b64, srcs := [srcA a m.ty, srcB b m.ty m],
    val := on2 fun a b => intResult m.ty m.sat (y (intVal m.ty (intMod m.ty m.na m.aa a)) (intVal m.ty (intMod m.ty m.nb m.ab b))) }

/-- One integer source. -/
def intForm1 (h : Hdr) (d b : Opnd) (m : MA) (y : Int → Int) : Form :=
  { h := h, d := d, pair := m.ty == .b64, srcs := [srcB b m.ty m],
    val := on1 fun b => intResult m.ty m.sat (y (intVal m.ty (intMod m.ty m.nb m.ab b))) }

/-- Two sources as bits of TYPE. -/
def bitForm2 (h : Hdr) (d a b : Opnd) (m : MA) (f : Nat → Nat → Nat) : Form :=
  { h := h, d := d, pair := m.ty == .b64, srcs := [srcA a m.ty, srcB b m.ty m],
    val := on2 fun a b => f (a % 2 ^ m.ty.bits) (b % 2 ^ m.ty.bits) }

/-- One source as bits of TYPE, and a result of 32 bits or of TYPE. -/
def bitForm1 (h : Hdr) (d b : Opnd) (m : MA) (pair : Bool) (f : Nat → Nat) : Form :=
  { h := h, d := d, pair := pair, srcs := [srcB b m.ty m], val := on1 fun b => f (b % 2 ^ m.ty.bits) }

/-- A source as bits of TYPE and a 32-bit count (R247). -/
def shiftForm (h : Hdr) (d a b : Opnd) (m : MA) (f : Nat → Nat → Nat) : Form :=
  { h := h, d := d, pair := m.ty == .b64, srcs := [srcA a m.ty, srcB b .b32 m],
    val := on2 fun a k => f (a % 2 ^ m.ty.bits) (k % 2 ^ 32) }

/-- A 64-bit base and a 32-bit index (R250). -/
def addrForm (h : Hdr) (d a b : Opnd) (m : MA) (f : Nat → Nat → Nat) : Form :=
  { h := h, d := d, pair := true, srcs := [{ code := 1, o := a, pair := true }, srcB b m.ty m], val := on2 f }

/-- Table 10-3, but for PMOV. -/
def intForm : Instr → Option Form
  | .iadd h d a b m => some (intForm2 h d a b m fun a b => a + b)
  | .isub h d a b m => some (intForm2 h d a b m fun a b => a - b)
  | .imul h d a b m => some (intForm2 h d a b m fun a b => a * b)
  | .imulh h d a b m => some (intForm2 h d a b m fun a b => a * b / 2 ^ m.ty.bits)
  | .imin h d a b m => some (intForm2 h d a b m fun a b => min a b)
  | .imax h d a b m => some (intForm2 h d a b m fun a b => max a b)
  | .iabs h d b m => some (intForm1 h d b m fun b => (b.natAbs : Int))
  | .ineg h d b m => some (intForm1 h d b m fun b => -b)
  | .andB h d a b m => some (bitForm2 h d a b m fun a b => a &&& b)
  | .orB h d a b m => some (bitForm2 h d a b m fun a b => a ||| b)
  | .xorB h d a b m => some (bitForm2 h d a b m fun a b => a ^^^ b)
  | .notB h d b m => some (bitForm1 h d b m (m.ty == .b64) fun b => 2 ^ m.ty.bits - 1 - b)
  | .shl h d a b m => some (shiftForm h d a b m (shlVal m.ty.bits))
  | .shr h d a b m => some (shiftForm h d a b m (shrVal m.ty.bits))
  | .sar h d a b m => some (shiftForm h d a b m (sarVal m.ty.bits))
  | .rot h d a b m => some (shiftForm h d a b m (rotVal m.ty.bits))
  | .popc h d b m => some (bitForm1 h d b m false (popcVal m.ty.bits))
  | .clz h d b m => some (bitForm1 h d b m false (clzVal m.ty.bits))
  | .brev h d b m => some (bitForm1 h d b m (m.ty == .b64) (brevVal m.ty.bits))
  | .mov h d b m => some (bitForm1 h d b m (m.ty == .b64) id)
  | .lea h d a b m => some (addrForm h d a b m (leaVal m.ty m.sub.toNat))
  | .aadd h d a b m => some (addrForm h d a b m (aaddVal m.ty m.sub.toNat))
  | .imad h d a b m => some { h := h, d := d, pair := m.ty == .b64, srcs := [srcA a m.ty, srcBF b m.ty, srcC m.c m.ty], val := on3 (imadVal m) }
  | .lop3 h d a b m =>
    some { h := h, d := d, pair := m.ty == .b64, srcs := [srcA a m.ty, srcBF b m.ty, srcC m.c m.ty], val := on3 (lop3Val m.truth m.ty.bits) }
  | .bfe h d a b m =>
    some { h := h, d := d, pair := false, srcs := [srcA a m.ty, srcB b .b32 m], val := on2 fun a k => bfeVal m.ty.signed (a % 2 ^ 32) (k % 2 ^ 32) }
  | .bfi h d a b m =>
    some { h := h, d := d, pair := false, srcs := [srcA a m.ty, srcBF b m.ty, srcC m.c m.ty], val := on3 fun a k c => bfiVal a k (c % 2 ^ 32) }
  | .isetp h d a b m =>
    some { h := h, d := d, pair := false, srcs := [srcA a m.ty, srcB b m.ty m],
           val := on2 fun a b => boolNat (cmpInt m.sub.toNat (intVal m.ty (intMod m.ty m.na m.aa a)) (intVal m.ty (intMod m.ty m.nb m.ab b))) }
  | .sel h d a b m =>
    some { h := h, d := d, pair := m.ty == .b64, srcs := [srcA a m.ty, srcBF b m.ty, { code := 3, o := m.c.opnd }],
           val := on3 fun a b c => if c = 1 then a else b }
  | .movi h d imm => some { h := h, d := d, pair := false, srcs := [], val := fun _ => imm.toNat }
  | .plop h d a b m =>
    some { h := h, d := d, pair := false, srcs := [{ code := 1, o := a }, { code := 2, o := b }],
           val := on2 fun a b => boolNat (plopBit m.sub.toNat (a == 1) (b == 1)) }
  | _ => none

/-- Two floating sources and one exact result per element, rounded once (R257). -/
def fltForm2 (h : Hdr) (d a b : Opnd) (m : MA) (f : Nat → Nat → Nat) : Form :=
  { h := h, d := d, pair := false, srcs := [srcA a m.ty, srcB b m.ty m], val := on2 f }

def fltForm1 (h : Hdr) (d b : Opnd) (m : MA) (f : Nat → Nat) : Form :=
  { h := h, d := d, pair := false, srcs := [srcB b m.ty m], val := on1 f }

/-- A multiply-add with the third source's type. -/
def fltForm3 (h : Hdr) (d a b : Opnd) (m : MF) (cty : Ty) (f : Nat → Nat → Nat → Nat) : Form :=
  { h := h, d := d, pair := false, srcs := [srcA a m.ty, srcBF b m.ty, srcC m.c cty], val := on3 f }

/-- The group-2 instructions of fixed latency. -/
def fltForm : Instr → Option Form
  | .fadd h d a b m => some (fltForm2 h d a b m (flt2Val m (addExact m.rnd)))
  | .fsub h d a b m => some (fltForm2 h d a b m (flt2Val m (subExact m.rnd)))
  | .fmul h d a b m => some (fltForm2 h d a b m (flt2Val m exactMul))
  | .ffma h d a b m => some (fltForm3 h d a b m m.ty (ffmaVal m))
  | .fmin h d a b m => some (fltForm2 h d a b m (minMaxVal m false))
  | .fmax h d a b m => some (fltForm2 h d a b m (minMaxVal m true))
  | .fsetp h d a b m => some (fltForm2 h d a b m (fsetpVal m))
  | .fclass h d b m => some (fltForm1 h d b m fun b => 2 ^ (fmtOf m.ty).classBit (fltMod m.ty m.nb m.ab b))
  | .frnd h d b m => some (fltForm1 h d b m (flt1Val m (Exact.integral m.rnd)))
  | .ffrc h d b m => some (fltForm1 h d b m (flt1Val m fracExact))
  | .hadd2 h d a b m => some (fltForm2 h d a b m (flt2Val m (addExact m.rnd)))
  | .hmul2 h d a b m => some (fltForm2 h d a b m (flt2Val m exactMul))
  | .hfma2 h d a b m => some (fltForm3 h d a b m m.ty (ffmaVal m))
  | .hmin2 h d a b m => some (fltForm2 h d a b m (minMaxVal m false))
  | .hmax2 h d a b m => some (fltForm2 h d a b m (minMaxVal m true))
  | .fdot2 h d a b m => some (fltForm3 h d a b m .f32 (fdot2Val m))
  | .idot4 h d a b m => some (fltForm3 h d a b m .b32 (idot4Val m))
  | _ => none

/-- An approximate function of R263. -/
def approxForm (h : Hdr) (d b : Opnd) (m : MA) (fn : Approx) : Form :=
  fltForm1 h d b m fun b => (fn.eval (BitVec.ofNat 32 (fltMod .f32 m.nb m.ab b))).toNat

/-- The group-2 instructions of variable latency. -/
def lateForm : Instr → Option Form
  | .fdiv h d a b m => some (fltForm2 h d a b m (flt2Val m exactDiv))
  | .fsqrt h d b m => some (fltForm1 h d b m (flt1Val m sqrtNum))
  | .frcp h d b m => some (approxForm h d b m .rcp)
  | .frsq h d b m => some (approxForm h d b m .rsq)
  | .fex2 h d b m => some (approxForm h d b m .ex2)
  | .flg2 h d b m => some (approxForm h d b m .lg2)
  | .fsin h d b m => some (approxForm h d b m .sin)
  | .fcos h d b m => some (approxForm h d b m .cos)
  | .ftanh h d b m => some (approxForm h d b m .tanh)
  | _ => none

/-- Conversions and byte permutation (R264 to R267). A PACK that keeps old bits reads its destination too. -/
def cvtForm : Instr → Option Form
  | .cvt h d b m =>
    some { h := h, d := d, pair := m.ty == .b64, srcs := [srcB b (tyOfCode m.sub) m],
           val := on1 fun b => cvtVal (tyOfCode m.sub) m.ty m.rnd m.sat (cvtSource (tyOfCode m.sub) m.nb m.ab b) }
  | .pack h d a b m =>
    if packKeeps m.ty then
      some { h := h, d := d, pair := false, srcs := [srcA a (packSource m.ty), srcB b (packSource m.ty) m, { code := 0, o := d }],
             val := on3 fun a b old => packVal m old a b }
    else some { h := h, d := d, pair := false, srcs := [srcA a (packSource m.ty), srcB b (packSource m.ty) m], val := on2 (packVal m 0) }
  | .prmt h d a b m => some { h := h, d := d, pair := false, srcs := [srcA a m.ty, srcBF b m.ty, srcC m.c m.ty], val := on3 prmtVal }
  | _ => none

/-- The plain queue operations that move a value (R233). -/
def queueForm : Instr → Option Form
  | .qpush h d a => some { h := h, d := d, pair := false, srcs := [{ code := 1, o := a }], val := on1 id }
  | .qpop h d a false => some { h := h, d := d, pair := false, srcs := [{ code := 1, o := a }], val := on1 id }
  | _ => none

/-! ## Branches (R159, R225) -/

/-- The state in which the lanes of `taken` stand at `tgt` and the other lanes of the fragment at `npc`: all have moved, none
has, or the fragment has split. -/
def State.transferred (s : State) (e : Env) (taken : Lanes) (npc tgt jn : W64) : State :=
  if taken = 0 then s
  else if taken = e.f.mask then s.updSlice e.gid e.sl fun x => x.goTo e.slot tgt
  else
    let f : Frag := { e.f with wait := .none }
    ({ s with nextId := s.nextId + 1 } : State).updSlice e.gid e.sl fun x => x.split f s.nextId taken npc tgt jn

/-- The transfer may be made: its target is aligned (R197), and a split leaves room in the split stack (R161). -/
def State.mayTransfer (s : State) (e : Env) (taken : Lanes) (npc tgt jn : W64) : Prop :=
  taken ≠ 0 → pcAligned tgt = true ∧ (taken ≠ e.f.mask → (s.transferred e taken npc tgt jn).checkStack e = .ok ())

/-! ## Memory instructions -/

/-- A load: its path, the rights that it needs and its operands. -/
structure LoadForm where
  h : Hdr
  p : Path
  rights : Window → Bool
  d : Opnd
  a : Opnd
  b : Opnd
  m : MM

def loadForm : Instr → Option LoadForm
  | .ldq h d a b m => some ⟨h, .g, loadRights, d, a, b, m⟩
  | .ldr h d a b m => some ⟨h, .g, loadRights, d, a, b, m⟩
  | .ldk h d a b m => some ⟨h, .k, constRights, d, a, b, m⟩
  | .ldt h d a b m => some ⟨h, .t, viewLoadRights, d, a, b, m⟩
  | _ => none

/-- A store, in the same terms. -/
def storeForm : Instr → Option LoadForm
  | .st h d a b m => some ⟨h, .g, storeRights, d, a, b, m⟩
  | .stt h d a b m => some ⟨h, .t, viewStoreRights, d, a, b, m⟩
  | _ => none

/-- ea(l) of R274. -/
def LoadForm.ea (F : LoadForm) (vs : List (Nat × (Nat → LV))) : Nat → Nat := fun l =>
  effAddr (valAt (lvVals vs) 0 l) (valAt (lvVals vs) 1 l) F.m.iscale F.m.ofs (mmSize F.m)

/-- The access of a load. -/
def LoadForm.load (F : LoadForm) (s : State) (e : Env) (vs : List (Nat × (Nat → LV))) : Acc :=
  e.newAcc s.nextId .load F.p F.m (nvecCount F.m.aop) (e.laneAccs (F.ea vs) fun _ => [])

/-- The access of a store; from qs it waits for its data. -/
def LoadForm.store (F : LoadForm) (s : State) (e : Env) (vs : List (Nat × (Nat → LV))) : Acc :=
  { e.newAcc s.nextId .store F.p F.m (nvecCount F.m.aop) (e.laneAccs (F.ea vs) fun l => elemBytes F.m.ty ((lvVals vs).drop 2) l) with
    needQs := if isQueue F.d then some e.exec else none }

/-- A load may issue now: its registers are allotted, its addresses readable and good, its values not poisoned, nothing that it
waits for is open, its destination has room, and no lane is fatal at issue. -/
structure LoadForm.loads (F : LoadForm) (s : State) (e : Env) (vs : List (Nat × (Nat → LV))) : Prop where
  bounds : e.bounds ({ code := 0, o := F.d, n := Encoding.accRegs F.m.ty F.m.aop, even := F.m.ty == .b64 } :: addrUses F.a F.b) = .ok ()
  values : s.peek e [baseSrc F.a, indexSrc F.b] (.vec 0) 0 = .ok vs
  addresses : s.addressed e (F.ea vs) (mmSize F.m) F.rights false = .ok ()
  clean  : poisonCheck e.exec vs = .ok ()
  order  : s.accessWaits e (F.load s e vs) = .ok ()
  room   : loadRoom e F.d (Encoding.accRegs F.m.ty F.m.aop) F.p = .ok ()
  fatal  : s.fatalAtIssue (F.load s e vs) = .ok ()

/-- A store may issue now. -/
structure LoadForm.stores (F : LoadForm) (s : State) (e : Env) (vs : List (Nat × (Nat → LV))) : Prop where
  bounds : e.bounds (dataUse F.d F.m :: addrUses F.a F.b) = .ok ()
  values : s.peek e (baseSrc F.a :: indexSrc F.b :: dataSrcs F.d F.m.ty (nvecCount F.m.aop)) (.vec 0) 0 = .ok vs
  addresses : s.addressed e (F.ea vs) (mmSize F.m) F.rights true = .ok ()
  clean  : poisonCheck e.exec vs = .ok ()
  order  : s.accessWaits e (F.store s e vs) = .ok ()
  room   : s.storeRoom e (F.store s e vs) = .ok ()
  spill  : s.spillAtIssue (F.store s e vs) = .ok ()

/-- A release by the issuing fragment at a scope has nothing to wait for outside the device, and no failed store (R71, R89, R363). -/
structure State.releases (s : State) (e : Env) (sc : Scope) : Prop where
  stores : sc = .sys → s.failedStore e.gid e.sl = none
  acked  : (s.releaseFor e sc).2 = []

/-- The state of an access of some order: after its release, if it makes one. -/
def State.released (s : State) (e : Env) (o : Order) (sc : Scope) : State :=
  if Sys2Proof.Machine.releases o then (s.releaseFor e sc).1 else s

/-- ATOM, or RED with no destination. -/
structure AtomForm where
  h : Hdr
  d : Option Opnd
  a : Opnd
  b : Opnd
  m : MM

def atomForm : Instr → Option AtomForm
  | .atom h d a b m => some ⟨h, some d, a, b, m⟩
  | .red h a b m => some ⟨h, none, a, b, m⟩
  | _ => none

/-- The lanes in which an atomic acts (DEDUCED, log 35). -/
def AtomForm.env (F : AtomForm) (e : Env) : Env := e.once F.d.isSome F.a F.b

def AtomForm.ea (F : AtomForm) (vs : List (Nat × (Nat → LV))) : Nat → Nat := fun l => effAddr (valAt (lvVals vs) 0 l) 0 0 F.m.ofs F.m.ty.size

def AtomForm.acc (F : AtomForm) (s : State) (e : Env) (vs : List (Nat × (Nat → LV))) : Acc :=
  e.newAcc s.nextId (.atom F.m.aop.toNat F.d.isNone) .g F.m 1 (e.laneAccs (F.ea vs) fun l => elemBytes F.m.ty ((lvVals vs).drop 1) l)

/-- An atomic may issue now; `e` holds the lanes in which it acts. -/
structure AtomForm.acts (F : AtomForm) (s : State) (e : Env) (vs : List (Nat × (Nat → LV))) : Prop where
  bounds : e.bounds [{ code := 1, o := F.a, n := 2, even := true }, atomUse F.b F.m] = .ok ()
  quad   : e.quadCheck F.b F.m = .ok ()
  values : s.peek e (baseSrc F.a :: atomSrcs F.b F.m) (.vec 0) 0 = .ok vs
  addresses : s.addressed e (F.ea vs) F.m.ty.size atomRights true = .ok ()
  clean  : poisonCheck e.exec vs = .ok ()
  order  : s.accessWaits e (F.acc s e vs) = .ok ()
  room   : ∀ d, F.d = some d → loadRoom e d (if F.m.ty == .b64 then 2 else 1) .g = .ok ()
  fatal  : s.fatalAtIssue (F.acc s e vs) = .ok ()
  release : Sys2Proof.Machine.releases F.m.ord = true → s.releases e F.m.scope

/-- An engine instruction: its block of `n` registers from OPA on, and for a gather the indices in OPB. -/
structure EngForm where
  h : Hdr
  n : Nat
  kind : List Nat → List W32 → EngKind
  a : Opnd
  b : Option Opnd
  m : MEng

def EngForm.indices (F : EngForm) : List SrcOp := indexSrcs F.b

/-- The values of its block (R294). -/
def EngForm.block (_F : EngForm) (e : Env) (vs : List (Nat × (Nat → LV))) : List Nat := uniformVals e vs

/-- The operation of its block. -/
def EngForm.eng (F : EngForm) (e : Env) (vs : List (Nat × (Nat → LV))) : Eng :=
  let idx := (List.range e.g.width).map fun l => BitVec.ofNat 32 (valAt (lvVals vs) (F.n + 1) l)
  e.engOf (F.kind (F.block e vs) (if F.b.isSome then idx else [])) F.m (F.block e vs) ((F.block e vs).getD F.n 0)

/-- The values that it reads: its barrier offset, its indices, and the block registers that its operation uses. -/
def EngForm.used (F : EngForm) (e : Env) (vs : List (Nat × (Nat → LV))) : List (Nat × (Nat → LV)) :=
  (vs.zipIdx.filter fun x => decide (F.n ≤ x.2) || ((F.eng e vs).kind.blockRegs F.m).contains x.2).map (·.1)

/-- It passes the checks of R294 to R296: its team has an allocation, its size is in bounds, its barrier and its span are aligned, and
nothing that it reads is poisoned. -/
structure EngForm.reads (F : EngForm) (s : State) (e : Env) (vs : List (Nat × (Nat → LV))) : Prop where
  bounds : e.bounds (F.indices.map SrcOp.use) = .ok ()
  values : s.peek e (blockSrcs F.a F.n F.m.bar ++ F.indices) (.vec 0) 0 = .ok vs
  alloc  : e.t.scrBytes ≠ 0
  size   : (F.eng e vs).rows * (F.eng e vs).len ≤ 2 ^ 30 ∧ (F.eng e vs).rows ≤ 65536
  bar    : (F.block e vs).getD F.n 0 % 16 = 0
  span   : (F.eng e vs).kind.transform = true → (F.eng e vs).dst % xformAlign (F.eng e vs).kind F.m.dsp = 0 ∧
    (F.eng e vs).len % xformAlign (F.eng e vs).kind F.m.dsp = 0
  clean  : poisonCheck e.exec (F.used e vs) = .ok ()

/-- Nothing holds up the issue of operation `g`: no earlier access, fewer than 64 copies on the core, and room for its locks (R69, R80,
R295). -/
structure Eng.free (g : Eng) (s : State) (e : Env) : Prop where
  acquires : s.afterAcquires e = .ok ()
  logged   : s.afterLogged e = .ok ()
  stores   : ∀ x ∈ (if g.ssp then [] else [g.srcSpan]) ++ (if g.dsp then [] else [g.dstSpan]), s.qsStores e.gid e.sl .g x.1.toNat (spanLen x) = []
  copies   : g.kind.transform = false → s.copiesOn e.g.core < 64
  locks    : lockWaits (s.core e.g.core) (s.engRanges g) = .ok ()

/-- Instruction `i` of this form completes: with no bytes to move it does nothing, and otherwise its operation is under way with its ranges
registered. -/
def EngForm.Starts (i : Instr) (F : EngForm) : Prop :=
  ∀ (s : State) (e : Env) (vs : List (Nat × (Nat → LV))), s.runs i F.h e → F.reads (s.begun e) e vs →
    let u := s.begun e
    ((F.eng e vs).rows * (F.eng e vs).len = 0 → exec i s = .next (u.ended e F.h false s)) ∧
    (∀ g, (F.eng e vs).rows * (F.eng e vs).len ≠ 0 → engPlace e (F.eng e vs) = .ok g → g.free u e →
      exec i s = .next ((({ u with nextId := u.nextId + 1, engs := u.engs ++ [{ g with id := u.nextId }] } : State).addLocks e.g.core
        u.nextId (u.engRanges g)).ended e F.h false s))

end Sys2Proof.Machine
end

