-- ==== Sys2Proof/WellFormed.lean ====
section
/-!
DEFINITION. Well-formed instructions: those that a word can encode (Tables 9-1 to 9-8) and that no check of Table 9-9
which the word alone decides refuses.
-/

namespace Sys2Proof

/-- A guard that an encoding admits: GP = 7 with GN = 1 is none (R199). -/
def Hdr.formed (h : Hdr) : Bool := !(h.gp == 7 && h.gn)

/-- The guard is p7, GN = 0 (R224, R227, R320). -/
def Hdr.unguarded (h : Hdr) : Bool := h.gp == 7 && !h.gn

/-- An operand that its own field holds whole: any but the long immediate (R209). -/
def Opnd.short : Opnd → Bool
  | .long _ => false
  | _ => true

/-- With a long immediate in OPB the other MA fields have the values of R209. -/
def MA.formed (m : MA) (longTy : Ty) (b : Opnd) : Bool :=
  match b with
  | .long _ => m.ty == longTy && m.rnd == .rne && !m.sat && m.xlm == .none && m.xls == 0 && !m.na && !m.nb && !m.aa && !m.ab
  | _ => true

/-- The third source of LOP3 is no predicate (R246). -/
def MLop.formed (m : MLop) : Bool :=
  match m.c with
  | .pred _ => false
  | _ => true

/-- What a word can encode, field by field. An event has no word. -/
def Instr.formed : Instr → Bool
  | .nop h => h.formed
  | .bra h m => h.formed && ((h.gp == 7) == (m.join == 0))
  | .brx h a m => h.unguarded && a.short && m.tgt == 0
  | .call h b m => h.formed && b.short && ((h.gp == 7) == (m.join == 0))
  | .callx h a b m => h.unguarded && a.short && b.short && m.tgt == 0 && m.join == 0
  | .ret h a => h.unguarded && a.short
  | .exitL h => h.formed
  | .brq h a b m => h.formed && a.short && b.short && m.join != 0
  | .pushb h d a _ => h.formed && d.short && a.short
  | .qpush h d a => h.formed && d.short && a.short
  | .qpop h d a _ => h.formed && d.short && a.short
  | .qsync h _ => h.formed
  | .slip h a => h.formed && a.short
  | .waitc h a _ => h.formed && a.short
  | .waitall h _ => h.formed
  | .trap h _ => h.formed
  | .bkpt h _ => h.formed
  | .racq h d a _ => h.formed && d.short && a.short
  | .rrel h a => h.formed && a.short
  | .iadd h d a b m => h.formed && d.short && a.short && m.formed .b32 b
  | .isub h d a b m => h.formed && d.short && a.short && m.formed .b32 b
  | .imul h d a b m => h.formed && d.short && a.short && m.formed .b32 b
  | .imulh h d a b m => h.formed && d.short && a.short && m.formed .b32 b
  | .imad h d a b _ => h.formed && d.short && a.short && b.short
  | .imin h d a b m => h.formed && d.short && a.short && m.formed .b32 b
  | .imax h d a b m => h.formed && d.short && a.short && m.formed .b32 b
  | .iabs h d b m => h.formed && d.short && m.formed .b32 b
  | .ineg h d b m => h.formed && d.short && m.formed .b32 b
  | .andB h d a b m => h.formed && d.short && a.short && m.formed .b32 b
  | .orB h d a b m => h.formed && d.short && a.short && m.formed .b32 b
  | .xorB h d a b m => h.formed && d.short && a.short && m.formed .b32 b
  | .notB h d b m => h.formed && d.short && m.formed .b32 b
  | .lop3 h d a b m => h.formed && d.short && a.short && b.short && m.formed
  | .shl h d a b m => h.formed && d.short && a.short && m.formed .b32 b
  | .shr h d a b m => h.formed && d.short && a.short && m.formed .b32 b
  | .sar h d a b m => h.formed && d.short && a.short && m.formed .b32 b
  | .rot h d a b m => h.formed && d.short && a.short && m.formed .b32 b
  | .bfe h d a b m => h.formed && d.short && a.short && m.formed .b32 b
  | .bfi h d a b _ => h.formed && d.short && a.short && b.short
  | .popc h d b m => h.formed && d.short && m.formed .b32 b
  | .clz h d b m => h.formed && d.short && m.formed .b32 b
  | .brev h d b m => h.formed && d.short && m.formed .b32 b
  | .isetp h d a b m => h.formed && d.short && a.short && m.formed .b32 b
  | .sel h d a b _ => h.formed && d.short && a.short && b.short
  | .mov h d b m => h.formed && d.short && m.formed .b32 b
  | .movi h d _ => h.formed && d.short
  | .lea h d a b m => h.formed && d.short && a.short && m.formed .b32 b
  | .aadd h d a b m => h.formed && d.short && a.short && m.formed .b32 b
  | .plop h d a b m => h.formed && d.short && a.short && m.formed .b32 b
  | .pmov h d b m => h.formed && d.short && m.formed .b32 b
  | .fadd h d a b m => h.formed && d.short && a.short && m.formed .f32 b
  | .fsub h d a b m => h.formed && d.short && a.short && m.formed .f32 b
  | .fmul h d a b m => h.formed && d.short && a.short && m.formed .f32 b
  | .ffma h d a b _ => h.formed && d.short && a.short && b.short
  | .fmin h d a b m => h.formed && d.short && a.short && m.formed .f32 b
  | .fmax h d a b m => h.formed && d.short && a.short && m.formed .f32 b
  | .fsetp h d a b m => h.formed && d.short && a.short && m.formed .f32 b
  | .fclass h d b m => h.formed && d.short && m.formed .f32 b
  | .frnd h d b m => h.formed && d.short && m.formed .f32 b
  | .ffrc h d b m => h.formed && d.short && m.formed .f32 b
  | .fdiv h d a b m => h.formed && d.short && a.short && m.formed .f32 b
  | .fsqrt h d b m => h.formed && d.short && m.formed .f32 b
  | .frcp h d b m => h.formed && d.short && m.formed .f32 b
  | .frsq h d b m => h.formed && d.short && m.formed .f32 b
  | .fex2 h d b m => h.formed && d.short && m.formed .f32 b
  | .flg2 h d b m => h.formed && d.short && m.formed .f32 b
  | .fsin h d b m => h.formed && d.short && m.formed .f32 b
  | .fcos h d b m => h.formed && d.short && m.formed .f32 b
  | .ftanh h d b m => h.formed && d.short && m.formed .f32 b
  | .hadd2 h d a b m => h.formed && d.short && a.short && m.formed .f32 b
  | .hmul2 h d a b m => h.formed && d.short && a.short && m.formed .f32 b
  | .hfma2 h d a b _ => h.formed && d.short && a.short && b.short
  | .hmin2 h d a b m => h.formed && d.short && a.short && m.formed .f32 b
  | .hmax2 h d a b m => h.formed && d.short && a.short && m.formed .f32 b
  | .fdot2 h d a b _ => h.formed && d.short && a.short && b.short
  | .idot4 h d a b _ => h.formed && d.short && a.short && b.short
  | .cvt h d b m => h.formed && d.short && m.formed .b32 b
  | .pack h d a b m => h.formed && d.short && a.short && m.formed .b32 b
  | .prmt h d a b _ => h.formed && d.short && a.short && b.short
  | .vote h d b m => h.formed && d.short && m.formed .b32 b
  | .redx h d b m => h.formed && d.short && m.formed .b32 b
  | .scan h d b m => h.formed && d.short && m.formed .b32 b
  | .elect h d => h.formed && d.short
  | .matchL h d b m => h.formed && d.short && m.formed .b32 b
  | .ldq h d a b _ => h.formed && d.short && a.short && b.short
  | .ldr h d a b _ => h.formed && d.short && a.short && b.short
  | .st h d a b _ => h.formed && d.short && a.short && b.short
  | .ldk h d a b _ => h.formed && d.short && a.short && b.short
  | .ldt h d a b _ => h.formed && d.short && a.short && b.short
  | .stt h d a b _ => h.formed && d.short && a.short && b.short
  | .ldsp h d a b _ => h.formed && d.short && a.short && b.short
  | .stsp h d a b _ => h.formed && d.short && a.short && b.short
  | .atom h d a b _ => h.formed && d.short && a.short && b.short
  | .red h a b _ => h.formed && a.short && b.short
  | .atsp h d a b _ => h.formed && d.short && a.short && b.short
  | .pfx h a b _ => h.formed && a.short && b.short
  | .fence h _ => h.formed
  | .pfence h _ _ _ => h.formed
  | .smp h d a b _ => h.formed && d.short && a.short && b.short
  | .sld h d a b _ => h.formed && d.short && a.short && b.short
  | .xformZero h a _ => h.formed && a.short
  | .xformFill h a _ => h.formed && a.short
  | .xformTranspose h a _ => h.formed && a.short
  | .synct h => h.formed
  | .mbinit h a b => h.formed && a.short && b.short
  | .mbarv h d a b _ => h.formed && d.short && a.short && b.short
  | .mbexp h d a b _ _ => h.formed && d.short && a.short && b.short
  | .mbwait h a b => h.formed && a.short && b.short
  | .mbtest h d a b => h.formed && d.short && a.short && b.short
  | .bcopy h a _ => h.formed && a.short
  | .bcopy2 h a _ => h.formed && a.short
  | .bgath h a b _ => h.formed && a.short && b.short
  | .wlpush h d a b => h.formed && d.short && a.short && b.short
  | .wlpop h d a b => h.formed && d.short && a.short && b.short
  | .wlquiet h d a b => h.formed && d.short && a.short && b.short
  | .filldone h d => h.formed && d.short
  | .fillfail h d a => h.formed && d.short && a.short
  | .previct h d a => h.formed && d.short && a.short
  | .fillq h d a => h.formed && d.short && a.short
  | .cstep h a b _ => h.formed && a.short && b.short
  | .cabort h a => h.formed && a.short
  | .mma h d a b _ => h.formed && d.short && a.short && b.short
  | .mmd h d a b _ => h.formed && d.short && a.short && b.short
  | .had h d a _ _ => h.formed && d.short && a.short
  | .qnt h d a b => h.formed && d.short && a.short && b.short
  | .cbld h a => h.formed && a.short
  | .spl h d a => h.formed && d.short && a.short
  | .gpl h d _ => h.formed && d.short
  | .grant h d a => h.formed && d.short && a.short
  | .revoke h d a => h.formed && d.short && a.short
  | .passq h d a => h.formed && d.short && a.short
  | .emitv h a b _ _ => h.formed && a.short && b.short
  | .emitp h a b => h.formed && a.short && b.short
  | .meshend h a b => h.formed && a.short && b.short
  | .tld h d a _ _ => h.formed && d.short && a.short
  | .tsto h d a _ _ => h.formed && d.short && a.short
  | .disc h => h.formed
  | .ownq h d a b => h.formed && d.short && a.short && b.short
  | .launch h d a => h.formed && d.short && a.short
  | .gets h d _ _ => h.formed && d.short
  | .sets h a _ _ => h.formed && a.short
  | .tret h => h.unguarded
  | .preempt h d a b => h.formed && d.short && a.short && b.short
  | .preemptRel h d a => h.formed && d.short && a.short
  | .csave h d a => h.formed && d.short && a.short
  | .crest h d a => h.formed && d.short && a.short
  | .iainv h a b => h.formed && a.short && b.short
  | .iainvAll h a => h.formed && a.short
  | .present h d a b => h.formed && d.short && a.short && b.short
  | .teamHaltComplete _ => false
  | .deferredTrap _ => false
  | .errorRingRetry _ => false
  | .homeAccess _ _ => false
  | .walkSlotFree _ => false
  | .faultBatchRetry _ => false
  | .replayReissue _ _ => false
  | .loadDataReturn _ _ => false
  | .varlatResultWrite _ _ _ _ => false
  | .qsStoreData _ => false
  | .dirtyWriteDropped _ _ => false
  | .layoutTWrite _ _ => false
  | .transformBankPart _ _ => false
  | .engineUnitDone _ _ => false
  | .migprodWrite _ _ => false
  | .migrationCommandStart _ => false
  | .migrationRoundEnd _ _ => false
  | .migrationFreezeDone _ _ => false
  | .prtEntryWrite _ _ => false
  | .fillRequestRetry _ _ => false
  | .hostFillRetry _ _ => false
  | .fillTimeout _ _ _ => false
  | .surfaceDescriptorWrite _ => false
  | .contextDescriptorWrite _ => false
  | .kick _ => false
  | .teamPlace => false
  | .levelAging _ => false
  | .placementReserve _ => false
  | .deadlineHold _ => false
  | .teamRestore _ => false
  | .groupCleared _ => false
  | .groupRetire _ => false
  | .qdeadlock _ => false
  | .barrierStall _ _ => false
  | .emergencyReserveGrant _ => false
  | .racqGrant _ => false
  | .issueCycle _ => false
  | .fetchSlotSwitch _ _ => false
  | .icacheFill _ _ => false
  | .graphicsContextEntryWrite _ => false
  | .graphicsPacketStart _ => false
  | .binning _ => false
  | .tilePassStart _ _ _ => false
  | .tileInvocationStart _ => false
  | .tileWriteOut _ => false
  | .tilePassAbandon _ => false
  | .fieldStart _ => false
  | .outputEnable _ _ => false
  | .hdcpStateChange _ _ => false
  | .vanarRead _ _ _ _ => false
  | .vanarWrite _ _ _ _ => false
  | .vanarAtomic _ _ _ _ _ _ _ => false
  | .cfgread _ _ => false
  | .cfgwrite _ _ _ => false
  | .recovery _ _ _ => false
  | .vanarAbort _ _ _ => false
  | .vanarStep _ _ _ => false
  | .vanarResponse _ _ _ => false
  | .ack _ _ _ => false
  | .ackDue _ => false
  | .collectiveStepTimeout _ _ => false
  | .resendTimeout _ _ => false
  | .pathFailureTimeout _ _ => false
  | .linkDown _ => false
  | .portProbe _ _ => false
  | .voltageRampDone _ => false
  | .fclkChangeDone _ => false
  | .clockCrossingDone _ => false
  | .powerSample _ => false
  | .stallSample _ _ _ => false
  | .timingErrorEncore _ => false
  | .commit => false
  | .coolReportMissing => false
  | .ghostLightEnter _ => false
  | .wakePhraseDetect => false
  | .ghostLightTimeout => false
  | .wakeack => false
  | .wake _ => false
  | .wearThreshold _ => false
  | .startUp _ => false
  | .attest => false
  | .cert => false
  | .keygen => false
  | .keyclr => false
  | .raslostClear => false
  | .registerWrite _ _ _ _ => false
  | .peerPageResolved _ _ => false
  | .vanarFrameDiscard _ => false
  | .priorityPause _ _ _ => false
  | .timeSync _ => false

/-- A well-formed instruction of a slice and group: encodable, and refused by no check that the word alone decides. -/
def Instr.wellFormed (e : EncCtx) (i : Instr) : Bool := i.formed && (i.encFault e).isNone

end Sys2Proof
end

