-- ==== Sys2Proof/Certificates/Slice0/Obligations.lean ====
section
/-!
DEFINITION. The statements about the model, for the provers.
-/

open Sys2Proof Sys2Proof.Machine

/-! ## Group 0 -/

/-- NOP does nothing, and QSYNC, SLIP, WAITC and WAITALL do nothing once what they wait for holds. While it does not hold, the fragment waits
with its PC unchanged, and nothing else changes (R166, R234 to R237, R242).
Completion is shown of: nop, qsync, slip, waitc, waitall. -/
def Obligations.Waits : Prop :=
  (∀ (s : State) (h : Hdr) (e : Env),
     (s.runs (.nop h) h e → exec (.nop h) s = .next ((s.begun e).ended e h false s)) ∧
     (∀ m, s.runs (.qsync h m) h e → e.g.busyQueues m = [] →
       exec (.qsync h m) s = .next ((s.begun e).ended e h false s)) ∧
     (∀ a n, s.runs (.slip h a) h e → (s.begun e).countVal e a anyCount = .ok n → 128 < n ∨ e.g.slip ≤ n →
       exec (.slip h a) s = .next ((s.begun e).ended e h false s)) ∧
     (∀ a p n, s.runs (.waitc h a p) h e → (s.begun e).countVal e a anyCount = .ok n → e.x.counter (pathOf p) ≤ n →
       exec (.waitc h a p) s = .next ((s.begun e).ended e h false s)) ∧
     (∀ mem, s.runs (.waitall h mem) h e → (∀ a ∈ (s.begun e).sliceAccs e.gid e.sl, a.needQs = none) →
       (s.begun e).allDone e.gid e.sl e.x e.f.mask mem = true →
       exec (.waitall h mem) s = .next ((s.begun e).ended e h false s))) ∧
  (∀ (s : State) (h : Hdr) (e : Env),
     (∀ m, s.runs (.qsync h m) h e → e.g.busyQueues m ≠ [] → exec (.qsync h m) s = .next (s.waits e (.qsync m))) ∧
     (∀ a n, s.runs (.slip h a) h e → (s.begun e).countVal e a anyCount = .ok n → n ≤ 128 → n < e.g.slip →
       exec (.slip h a) s = .next (s.waits e (.slip (BitVec.ofNat 32 n)))) ∧
     (∀ a p n, s.runs (.waitc h a p) h e → (s.begun e).countVal e a anyCount = .ok n → n < e.x.counter (pathOf p) →
       exec (.waitc h a p) s = .next (s.waits e (.ctr (pathOf p) (BitVec.ofNat 32 n)))) ∧
     (∀ mem, s.runs (.waitall h mem) h e → (mem = true → ∀ a ∈ (s.begun e).sliceAccs e.gid e.sl, a.needQs = none) →
       (s.begun e).allDone e.gid e.sl e.x e.f.mask mem = false →
       exec (.waitall h mem) s = .next (s.waits e (.all mem))) ∧
     (let l := ((s.begun e).sliceAccs e.gid e.sl).filter fun a => a.needQs.isSome
      s.runs (.waitall h true) h e → l ≠ [] → exec (.waitall h true) s = .next (s.waits e (.qs (l.map fun a => a.id)))))

/-- Where the five branches and RET leave the fragment: each lane of `taken` stands at the target, and the others go on. EXIT removes the lanes
of exec from the slice; DISC does so too, and in a fragment-stage launch discards their pixels (R162, R225 to R227, R229, R231, R316).
Completion is shown of: bra, brx, call, callx, ret, exitL, brq, disc. -/
def Obligations.Transfers : Prop :=
  (∀ (s : State) (h : Hdr) (e : Env),
     (∀ m, s.runs (.bra h m) h e →
       (s.begun e).mayTransfer e e.exec (e.f.pc + 12) (targetOf m e.f.pc) (joinOf m e.f.pc) →
       exec (.bra h m) s =
         .next (((s.begun e).transferred e e.exec (e.f.pc + 12) (targetOf m e.f.pc) (joinOf m e.f.pc)).ended e h true s)) ∧
     (∀ b m, s.runs (.call h b m) h e →
       ((s.begun e).link e b).mayTransfer e e.exec (e.f.pc + 12) (targetOf m e.f.pc) (joinOf m e.f.pc) →
       exec (.call h b m) s =
         .next ((((s.begun e).link e b).transferred e e.exec (e.f.pc + 12) (targetOf m e.f.pc) (joinOf m e.f.pc)).ended e h true s)) ∧
     (∀ a m vs (t : Nat → W64), s.runs (.brx h a m) h e → e.bounds [{ code := 1, o := a, n := 1, even := false }] = .ok () →
       (s.begun e).gather e [{ code := 1, o := a, ty := .s32 }] (.vec 0) 0 = .ok vs →
       (∀ l, t l = e.f.pc + 12 * (BitVec.ofNat 32 (valAt vs 0 l)).signExtend 64) →
       let taken := maskOf fun l => e.exec.getLsbD l && t l == t (lowLane e.exec)
       (s.begun e).mayTransfer e taken e.f.pc (t (lowLane e.exec)) (joinOf m e.f.pc) →
       exec (.brx h a m) s =
         .next (((s.begun e).transferred e taken e.f.pc (t (lowLane e.exec)) (joinOf m e.f.pc)).ended e h (taken != 0) s)) ∧
     (∀ a b m t, s.runs (.callx h a b m) h e → (s.begun e).pairTarget e a = .ok t →
       exec (.callx h a b m) s =
         .next ((((s.begun e).link e b).updSlice e.gid e.sl fun x => x.goTo e.slot t).ended e h true s)) ∧
     (∀ a t, s.runs (.ret h a) h e → (s.begun e).pairTarget e a = .ok t →
       exec (.ret h a) s = .next (((s.begun e).updSlice e.gid e.sl fun x => x.goTo e.slot t).ended e h true s)) ∧
     (∀ q tag m vs, s.runs (.brq h (.que q) (.imm tag) m) h e →
       (s.begun e).gather e [{ code := 1, o := .que q }] (.vec 0) 0 = .ok vs →
       (∀ l ∈ lanesOf e.exec, ∀ t, e.g.laneTag q.toNat l = some t → t.toNat = tag.toNat % 16) →
       let taken := maskOf fun l => e.exec.getLsbD l && bitN (valAt vs 0 l) 0
       let s1 := (s.begun e).consume e [{ code := 1, o := .que q }]
       s1.mayTransfer e taken (e.f.pc + 12) (targetOf m e.f.pc) (joinOf m e.f.pc) →
       exec (.brq h (.que q) (.imm tag) m) s =
         .next ((s1.transferred e taken (e.f.pc + 12) (targetOf m e.f.pc) (joinOf m e.f.pc)).ended e h (taken != 0) s))) ∧
  (∀ (s : State) (h : Hdr) (e : Env),
     (s.runs (.exitL h) h e → exec (.exitL h) s = .next (((s.begun e).leave e).ended e h true s)) ∧
     (s.runs (.disc h) h e → (∀ d, e.t.kind ≠ .tile d) → exec (.disc h) s = .next (((s.begun e).leave e).ended e h true s)) ∧
     (∀ d, s.runs (.disc h) h e → e.t.kind = .tile d →
       exec (.disc h) s =
         .next (((((s.begun e).updGroup e.gid fun g => { g with discarded := g.discarded ||| e.exec }).leave e)).ended e h true s)))

/-- TRAP raises SOFTWARE and BKPT raises BREAKPOINT for the fragment, with CODE and the lowest lane of exec in TRAPINFO (R238).
Completion is shown of: trap, bkpt. -/
def Obligations.SoftwareTraps : Prop :=
  ∀ (s : State) (h : Hdr) (e : Env) (code : BitVec 12),
    (s.runs (.trap h code) h e →
      exec (.trap h code) s = .next (s.trapped e 0x08 (code.toNat + lowLane e.exec * 2 ^ 12))) ∧
    (s.runs (.bkpt h code) h e →
      exec (.bkpt h code) s = .next (s.trapped e 0x09 (code.toNat + lowLane e.exec * 2 ^ 12)))

/-- PUSHB, QPUSH and QPOP: one entry pushed, one value popped per lane of exec, or popped and discarded. RACQ raises the block count to n when
the units are free, or with TRY says in a predicate whether it did; RREL lowers it (R230, R233, R239 to R241).
Completion is shown of: pushb, qpush, qpop, racq, rrel. -/
def Obligations.QueuesAndBlocks : Prop :=
  ((∀ (i : Instr) (F : Form) (s : State) (e : Env) (vs : List (Nat → Nat)),
     queueForm i = some F → s.runs i F.h e → F.reads s e vs → exec i s = .next (F.after s e vs)) ∧
   ∀ (s : State) (h : Hdr) (e : Env) (vs : List (Nat → Nat)),
     (∀ d a, s.runs (.qpop h d a true) h e → (s.begun e).gather e [{ code := 1, o := a }] (.vec 0) 0 = .ok vs →
       exec (.qpop h d a true) s = .next (((s.begun e).consume e [{ code := 1, o := a }]).ended e h false s)) ∧
     (∀ q p tag, s.runs (.pushb h (.que q) (.pred p) tag) h e →
       (s.begun e).gather e [{ code := 1, o := .pred p }] (.que q) 1 = .ok vs →
       exec (.pushb h (.que q) (.pred p) tag) s =
         .next (((s.begun e).updGroup e.gid fun g => g.push q.toNat e.exec e.exec
           (laneList g.width fun l => Val.of (BitVec.ofNat 32 (boolNat ((e.x.pred p).getLsbD l)))) tag none).ended e h false s))) ∧
  (∀ (s : State) (h : Hdr) (e : Env) (a : Opnd) (n : Nat),
     (∀ d tryIt, s.runs (.racq h d a tryIt) h e → (s.begun e).countVal e a (fun n => decide (e.t.kern.cmax < n)) = .ok n →
       n ≤ e.g.held → exec (.racq h d a tryIt) s = .next ((s.begun e).ended e h false s)) ∧
     (∀ d t, s.runs (.racq h d a false) h e → (s.begun e).countVal e a (fun n => decide (e.t.kern.cmax < n)) = .ok n →
       (s.begun e).raiseBlocks e.g e.c.owner n = some t → exec (.racq h d a false) s = .next (t.ended e h false s)) ∧
     (∀ p t, s.runs (.racq h (.pred p) a true) h e →
       (s.begun e).countVal e a (fun n => decide (e.t.kern.cmax < n)) = .ok n → e.g.held < n →
       (s.begun e).raiseBlocks e.g e.c.owner n = some t →
       exec (.racq h (.pred p) a true) s =
         .next ((t.updSlice e.gid e.sl fun x => x.setPred p e.exec e.exec).ended e h false s)) ∧
     (∀ p, s.runs (.racq h (.pred p) a true) h e →
       (s.begun e).countVal e a (fun n => decide (e.t.kern.cmax < n)) = .ok n →
       (s.begun e).raiseBlocks e.g e.c.owner n = none →
       exec (.racq h (.pred p) a true) s =
         .next (((s.begun e).updSlice e.gid e.sl fun x => x.setPred p e.exec 0).ended e h false s)) ∧
     (s.runs (.rrel h a) h e → (s.begun e).countVal e a (fun n => decide (n < e.t.kern.cmin)) = .ok n →
       e.x.writesAbove n = false → exec (.rrel h a) s = .next (((s.begun e).dropBlocks e.g n).ended e h false s)))

/-! ## Groups 1 to 3 -/

/-- Every group-1 instruction but PMOV writes the y of Table 10-3 in each lane of exec (R222, R243 to R251).
Completion is shown of: iadd, isub, imul, imulh, imad, imin, imax, iabs, ineg, andB, orB, xorB, notB, lop3, shl, shr, sar, rot, bfe, bfi,
popc, clz, brev, isetp, sel, mov, movi, lea, aadd, plop. -/
def Obligations.IntegerResults : Prop :=
  ∀ (i : Instr) (F : Form) (s : State) (e : Env) (vs : List (Nat → Nat)),
    intForm i = some F → s.runs i F.h e → F.reads s e vs → exec i s = .next (F.after s e vs)

/-- Every group-2 instruction of fixed latency writes its rounded result in each lane of exec. FDIV, FSQRT and the approximate functions start a
result that is written later, lane by lane (R165, R257 to R263).
Completion is shown of: fadd, fsub, fmul, ffma, fmin, fmax, fsetp, fclass, frnd, ffrc, fdiv, fsqrt, frcp, frsq, fex2, flg2, fsin, fcos,
ftanh, hadd2, hmul2, hfma2, hmin2, hmax2, fdot2, idot4. -/
def Obligations.FloatResults : Prop :=
  (∀ (i : Instr) (F : Form) (s : State) (e : Env) (vs : List (Nat → Nat)),
     fltForm i = some F → s.runs i F.h e → F.reads s e vs → exec i s = .next (F.after s e vs)) ∧
  (∀ (i : Instr) (F : Form) (s : State) (e : Env) (vs : List (Nat → Nat)),
     lateForm i = some F → s.runs i F.h e → F.reads s e vs → exec i s = .next (F.afterLate s e vs))

/-- CVT, PACK and PRMT write their results in each lane of exec, and the four moves of PMOV theirs (R251, R264 to R267).
Completion is shown of: pmov, cvt, pack, prmt. -/
def Obligations.ConversionsAndMoves : Prop :=
  (∀ (i : Instr) (F : Form) (s : State) (e : Env) (vs : List (Nat → Nat)),
     cvtForm i = some F → s.runs i F.h e → F.reads s e vs → exec i s = .next (F.after s e vs)) ∧
  (∀ (s : State) (h : Hdr) (d b : Opnd) (m : MA) (e : Env), s.runs (.pmov h d b m) h e →
     (m.sub = 0 → exec (.pmov h d b m) s =
       .next (((s.begun e).writeDst e d (e.g.width == 64) fun _ => (e.predMask b).toNat).ended e h false s)) ∧
     (m.sub = 1 → ∀ vs, (s.begun e).gather e [{ code := 2, o := b, pair := e.g.width == 64 }] d 1 = .ok vs →
       exec (.pmov h d b m) s =
         .next (((s.begun e).writeDst e d false fun l => boolNat (bitN (valAt vs 0 l) l)).ended e h false s)) ∧
     (m.sub = 2 → ∀ (F : Form) vs,
       F = { h := h, d := d, pair := false, srcs := [srcB b m.ty m], val := on1 fun b => boolNat (b % 2 ^ 32 != 0) } →
       F.reads s e vs → exec (.pmov h d b m) s = .next (F.after s e vs)) ∧
     (m.sub = 3 → ∀ (F : Form) vs, F = { h := h, d := d, pair := false, srcs := [{ code := 2, o := b }], val := on1 id } →
       F.reads s e vs → exec (.pmov h d b m) s = .next (F.after s e vs)))

/-- VOTE, ELECT, REDX, SCAN and MATCH combine the lanes of exec (R268 to R271).
Completion is shown of: vote, redx, scan, elect, matchL. -/
def Obligations.LaneCombinations : Prop :=
  ∀ (s : State) (h : Hdr) (e : Env),
    (∀ d b m, s.runs (.vote h d b m) h e →
      let p := e.predMask b &&& e.exec
      (m.sub = 0 → exec (.vote h d b m) s = .next (((s.begun e).writeDst e d false fun _ => boolNat (p == e.exec)).ended e h false s)) ∧
      (m.sub = 1 → exec (.vote h d b m) s = .next (((s.begun e).writeDst e d false fun _ => boolNat (p != 0)).ended e h false s)) ∧
      (m.sub = 2 → exec (.vote h d b m) s =
        .next (((s.begun e).writeDst e d false fun _ => boolNat (p == e.exec || p == 0)).ended e h false s)) ∧
      (m.sub = 3 → e.bounds [dstUse d (e.g.width == 64)] = .ok () →
        exec (.vote h d b m) s = .next (((s.begun e).writeDst e d (e.g.width == 64) fun _ => p.toNat).ended e h false s))) ∧
    (∀ p, s.runs (.elect h (.pred p)) h e →
      exec (.elect h (.pred p)) s =
        .next (((s.begun e).writeDst e (.pred p) false fun l => boolNat (l == lowLane e.exec)).ended e h false s)) ∧
    (∀ d vs, s.runs (.elect h d) h e → (∀ p, d ≠ .pred p) → e.bounds [dstUse d false] = .ok () → (s.begun e).peek e [] d 1 = .ok vs →
      exec (.elect h d) s = .next (((s.begun e).writeDst e d false fun _ => lowLane e.exec).ended e h false s)) ∧
    (∀ d b m scan (F : Form) vs,
      F = { h := h, d := d, pair := m.ty == .b64, srcs := [srcB b m.ty { m with xlm := .none }], val := fun _ => 0 } →
      s.runs (if scan then .scan h d b m else .redx h d b m) h e → F.reads s e vs →
      exec (if scan then .scan h d b m else .redx h d b m) s =
        .next ((((s.begun e).consume e F.srcs).lateDst e d false (splitVal (m.ty == .b64) fun l =>
          combine (m.sub.toNat % 8) m.ty m.rnd m.sat ((scanSet scan m e l).map fun k => redxSource m (valAt vs 0 k)))).ended e h false s)) ∧
    (∀ d b m (F : Form) vs,
      F = { h := h, d := d, pair := m.sub.toNat = 0 && e.g.width == 64, srcs := [srcB b m.ty { m with xlm := .none }],
            val := fun _ => 0 } →
      s.runs (.matchL h d b m) h e → F.reads s e vs →
      (m.sub = 1 → exec (.matchL h d b m) s =
        .next ((((s.begun e).consume e F.srcs).lateDst e d false (splitVal false fun _ =>
          boolNat ((lanesOf e.exec).all fun k => valAt vs 0 k == valAt vs 0 (lowLane e.exec)))).ended e h false s)) ∧
      (m.sub = 0 → exec (.matchL h d b m) s =
        .next ((((s.begun e).consume e F.srcs).lateDst e d false (splitVal (e.g.width == 64) fun l =>
          (maskOf fun k => e.exec.getLsbD k && valAt vs 0 k == valAt vs 0 l).toNat)).ended e h false s)))

/-! ## Group 4 -/

/-- A load starts one access with a request per lane of exec, at the lanes' addresses, and changes nothing outside the teams (R274, R277, R278).
Completion is shown of: ldq, ldr, ldk, ldt. -/
def Obligations.LoadsIssue : Prop :=
  ∀ (i : Instr) (F : LoadForm) (s : State) (e : Env) (vs : List (Nat × (Nat → LV))),
    loadForm i = some F → s.runs i F.h e → F.loads (s.begun e) e vs →
    ∃ (u : State) (del : Deliver), exec i s = .next (u.ended e F.h false s) ∧
      u.accs = s.accs ++ [{ F.load (s.begun e) e vs with deliver := del }] ∧
      u = { s with teams := u.teams, accs := u.accs, cur := none, nextId := u.nextId }

/-- A store starts one access that carries each lane's bytes to the lane's address; one with REL makes its release first (R69, R71, R274, R277,
R279).
Completion is shown of: st, stt. -/
def Obligations.StoresIssue : Prop :=
  ∀ (i : Instr) (F : LoadForm) (s : State) (e : Env) (vs : List (Nat × (Nat → LV))),
    storeForm i = some F → s.runs i F.h e → F.stores (s.begun e) e vs →
    (releases F.m.ord = true → (s.begun e).releases e F.m.scope) →
    let r := (s.begun e).released e F.m.ord F.m.scope
    exec i s =
      .next (((({ r with nextId := r.nextId + 1 } : State).consume e [indexSrc F.b]).addAcc
        { F.store (s.begun e) e vs with id := r.nextId }).ended e F.h false s)

/-- An atomic starts one access that performs its operation on the bytes of each lane in which it acts; RED is an ATOM with no destination and
no value returned (R284 to R286). That one whose address and operand are uniform, and that returns nothing to a lane of its own, acts once
for the fragment (R199) is the model's choice (DEDUCED, log 35).
Completion is shown of: atom, red. -/
def Obligations.AtomicsIssue : Prop :=
  ∀ (i : Instr) (F : AtomForm) (s : State) (e : Env) (vs : List (Nat × (Nat → LV))),
    atomForm i = some F → s.runs i F.h e → F.acts (s.begun e) (F.env e) vs →
    let r := (s.begun e).released e F.m.ord F.m.scope
    ∃ (u : State) (del : Deliver), exec i s = .next (u.ended e F.h false s) ∧
      u.accs = r.accs ++ [{ F.acc (s.begun e) (F.env e) vs with id := r.nextId, deliver := del }] ∧
      (F.d = none → del = .none) ∧ u = { r with teams := u.teams, accs := u.accs, nextId := u.nextId }

/-- LDSP, STSP and ATSP act on the scratchpad at once, each lane at the byte that its offset reaches in the team's allocation (R52 to R55, R283
to R286). An ATSP with no return, or with a scalar one, whose operands are uniform acts once for the fragment, as the model reads R199
(DEDUCED, log 35).
Completion is shown of: ldsp, stsp, atsp. -/
def Obligations.Scratchpad : Prop :=
  ∀ (s : State) (h : Hdr) (d a b : Opnd) (m : MM) (e : Env) (vs : List (Nat × (Nat → LV))),
    let so := fun l => spadOfs m (valAt (lvVals vs) 0 l) (valAt (lvVals vs) 1 l) l
    (s.runs (.ldsp h d a b m) h e → e.bounds (dataUse d m :: spadUses a b) = .ok () →
      (s.begun e).peek e (spadSrcs a b) d (Encoding.accRegs m.ty m.aop) = .ok vs → e.t.scrBytes ≠ 0 →
      (s.begun e).spadChecks e so (mmSize m) false = .ok () → poisonCheck e.exec vs = .ok () →
      (s.begun e).afterAcquires e = .ok () →
      exec (.ldsp h d a b m) s =
        .next ((((s.begun e).consume e [indexSrc b]).writeLoaded e d (Encoding.accRegs m.ty m.aop) fun l =>
          loadRegs m.ty (nvecCount m.aop) ((s.core e.g.core).spadRead (e.spadAt (so l)) (mmSize m))).ended e h false s)) ∧
    (s.runs (.stsp h d a b m) h e → e.bounds (dataUse d m :: spadUses a b) = .ok () →
      (s.begun e).peek e (spadSrcs a b ++ dataSrcs d m.ty (nvecCount m.aop)) (.vec 0) 0 = .ok vs → e.t.scrBytes ≠ 0 →
      (s.begun e).spadChecks e so (mmSize m) true = .ok () → poisonCheck e.exec vs = .ok () →
      (s.begun e).afterAcquires e = .ok () → (s.begun e).afterLogged e = .ok () →
      (releases m.ord = true → (s.begun e).afterWrites e = .ok () ∧ (s.begun e).releases e m.scope) →
      exec (.stsp h d a b m) s =
        .next (((((s.begun e).released e m.ord m.scope).consume e [indexSrc b]).updCore e.g.core fun k =>
          (lanesOf e.exec).foldl (fun (k : Core) l =>
            k.spadWrite (e.spadAt (so l)) (plain (elemBytes m.ty ((lvVals vs).drop 2) l))) k).ended e h false s)) ∧
    (s.runs (.atsp h d a b m) h e →
      let f := e.once (atspReturns d) a b
      let n := if m.ty == .b64 then 2 else 1
      let at_ := fun l => spadAddr32 (valAt (lvVals vs) 0 l) 0 0 m.ofs m.ty.size
      f.bounds [{ code := 0, o := if atspReturns d then d else .imm 0, n := n, even := m.ty == .b64 },
        { code := 1, o := a, n := 1, even := false }, atomUse b m] = .ok () →
      f.quadCheck b m = .ok () → (s.begun e).peek f ({ code := 1, o := a } :: atomSrcs b m) d n = .ok vs →
      e.t.scrBytes ≠ 0 → (s.begun e).spadChecks f at_ m.ty.size true = .ok () → poisonCheck f.exec vs = .ok () →
      (s.begun e).afterAcquires f = .ok () → (s.begun e).afterLogged f = .ok () →
      (releases m.ord = true → (s.begun e).afterWrites f = .ok () ∧ (s.begun e).releases e m.scope) →
      let r := (s.begun e).released e m.ord m.scope
      let u := r.updCore e.g.core fun _ => (atspRun f m at_ (fun l => elemBytes m.ty ((lvVals vs).drop 1) l) (r.core e.g.core)).1
      ∃ t : State, exec (.atsp h d a b m) s = .next (t.ended e h false s) ∧
        ∀ c, (t.core c).spad = (u.core c).spad ∧ (t.core c).spadPoison = (u.core c).spadPoison)

/-- PFX only brings lines closer; FENCE orders what its ORD names, and PFENCE makes the paths of DST read what the paths of SRC have written
(R73 to R75, R287 to R289).
Completion is shown of: pfx, fence, pfence. -/
def Obligations.PrefetchAndFences : Prop :=
  ∀ (s : State) (h : Hdr) (e : Env),
    (∀ a b m vs, s.runs (.pfx h a b m) h e → e.bounds (addrUses a b) = .ok () →
      (s.begun e).gather e [baseSrc a, indexSrc b] (.vec 0) 0 = .ok vs →
      exec (.pfx h a b m) s =
        .next (((lanesOf e.exec).foldl (fun s l => s.prefetch e (m.hint != 2) (mmSize m)
          (effAddr (valAt vs 0 l) (valAt vs 1 l) m.iscale m.ofs (mmSize m))) ((s.begun e).consume e [indexSrc b])).ended e h false s)) ∧
    (∀ m, s.runs (.fence h m) h e → (s.begun e).afterLogged e = .ok () → (s.begun e).afterQs e = .ok () →
      (acquires m.ord = true → (s.begun e).afterReads e = .ok ()) →
      (releases m.ord = true → (s.begun e).afterWrites e = .ok () ∧ (s.begun e).releases e m.scope) →
      let r := (s.begun e).released e m.ord m.scope
      exec (.fence h m) s = .next ((if acquires m.ord then r.acquire e.g.core m.scope else r).ended e h false s)) ∧
    (∀ sc src dst, s.runs (.pfence h sc src dst) h e → (s.begun e).afterLogged e = .ok () → (s.begun e).afterWrites e = .ok () →
      let s1 := if src.getLsbD 0 && dst &&& 0xE != 0 then (s.begun e).pushL1 e.g.core .pair else s.begun e
      s1.releases e sc →
      exec (.pfence h sc src dst) s = .next (((s1.releaseFor e sc).1.pathInval sc e.g.core dst).ended e h false s))

/-- SMP and SLD start one access with the texel fetches of each lane, and count in REFUSECNT the refused samples. That SMP reads its
sampler-state entry at issue, and that one whose entry cannot be read yet starts with the reads of it, is the model's choice (DEDUCED, log
27) (R140, R141, R291, R348, R349).
Completion is shown of: smp, sld. -/
def Obligations.SamplersIssue : Prop :=
  ∀ (smp : Bool) (s : State) (h : Hdr) (d a b : Opnd) (m : MSmp) (e : Env) (vs : List (Nat × (Nat → LV))) (st : StateRead) (s1 : State),
    let i := if smp then Instr.smp h d a b m else Instr.sld h d a b m
    let nch := 2 ^ m.nch.toNat
    let frame := ((s.begun e).owner e.c.owner).frameno
    let lanes := (lanesOf e.exec).map fun l => s1.sampLane e.c smp st (BitVec.ofNat 32 (valAt (lvVals vs) 1 l)) frame
      (BitVec.ofNat 32 (valAt (lvVals vs) 0 l)) (BitVec.ofNat 32 (valAt (lvVals vs) 0 l / 2 ^ 32)) l
    let regs := lanes.foldl (fun n x => max n (sampRegs smp m.ty nch x.1)) 0
    let mm : MM := { ty := m.ty, scope := m.scope, ord := .rlx, iscale := 0, hint := 0, aop := 0, ofs := 0 }
    let acc := { e.newAcc s1.nextId (.sample smp) .s mm nch (lanes.flatMap fun x => x.2.1) with taps := lanes.map (·.1) }
    s.runs i h e → (s.begun e).peek e [baseSrc a, { code := 2, o := b }] (.vec 0) 0 = .ok vs →
    (st, s1) = (if smp then (s.begun e).sampState e m.scope m.ssi.toNat else (.refused, s.begun e)) →
    e.bounds [{ code := 0, o := d, n := regs, even := false }, { code := 1, o := a, n := 2, even := true },
      { code := 2, o := b, n := 1, even := false }] = .ok () →
    (∀ q, d = .que q → q.toNat + regs ≤ 4) →
    (s.begun e).surfChecks e (fun l => BitVec.ofNat 32 (valAt (lvVals vs) 1 l)) = .ok () →
    s1.texelLocks e (lanes.flatMap fun x => x.2.1) = .ok () → poisonCheck e.exec vs = .ok () →
    s1.afterAcquires e = .ok () → loadRoom e d regs .s = .ok () → s1.fatalAtIssue acc = .ok () →
    ∃ (t : State) (del : Deliver), exec i s = .next (t.ended e h false s) ∧ t.accs = s1.accs ++ [{ acc with deliver := del }] ∧
      (t.ctx e.c.num).refuse =
        (if (lanes.map fun x => x.2.2).sum = 0 then (s1.ctx e.c.num).refuse
         else BitVec.ofNat 32 (min ((s1.ctx e.c.num).refuse.toNat + (lanes.map fun x => x.2.2).sum) 0xFFFFFFFF)) ∧
      t.mem = s1.mem ∧ t.regs = s1.regs ∧ t.cores = s1.cores

/-- BCOPY, BCOPY2, BGATH, XFORM.ZERO, XFORM.FILL and XFORM.TRANSPOSE each start their operation with the fields of their block, register the
ranges of it, and move nothing at their issue; one of no bytes does nothing (R58, R80, R294 to R296). The bytes move in the operation's own
steps (Obligations.UnitsAct).
Completion is shown of: xformZero, xformFill, xformTranspose, bcopy, bcopy2, bgath. -/
def Obligations.EnginesStart : Prop :=
  ∀ (h : Hdr) (a b : Opnd) (m : MEng),
    EngForm.Starts (.bcopy h a m) { h := h, n := 5, kind := fun _ _ => .copy, a := a, b := none, m := m } ∧
    EngForm.Starts (.bcopy2 h a m) { h := h, n := 8, kind := fun _ _ => .copy2, a := a, b := none, m := m } ∧
    EngForm.Starts (.bgath h a b m) { h := h, n := 7, kind := fun _ idx => .gather idx, a := a, b := some b, m := m } ∧
    EngForm.Starts (.xformZero h a m) { h := h, n := 4, kind := fun _ _ => .zero, a := a, b := none, m := m } ∧
    EngForm.Starts (.xformFill h a m) { h := h, n := 4, kind := fun r _ => .fill (BitVec.ofNat 32 (r.getD 3 0)), a := a, b := none, m := m } ∧
    EngForm.Starts (.xformTranspose h a m) { h := h, n := 4, kind := fun _ _ => .transpose, a := a, b := none, m := m }

/-! ## Group 5 -/

/-- SYNCT arrives at the team barrier, and the MB instructions act in one step on their object. Every update of a barrier object follows R84: an
arrival is clamped to the quota, bytes add to what is posted or landed, and an epoch closes exactly when its arrivals reach the quota and
its landed bytes the posted ones (R83 to R85, R169, R292, R293).
Completion is shown of: synct, mbinit, mbarv, mbexp, mbwait, mbtest. -/
def Obligations.Barriers : Prop :=
  (∀ (s : State) (h : Hdr) (e : Env),
     (s.runs (.synct h) h e → (s.begun e).afterLogged e = .ok () → (s.begun e).afterWrites e = .ok () →
       exec (.synct h) s =
         .next (((((s.begun e).updFrag e.gid e.sl e.slot fun f => { f with wait := .barrier h.sw }).updTeam e.t.id fun t =>
           t.arrive e.sl e.gid e.exec s.time).checkBarrier e.t.id e.sl).ended e h true s)) ∧
     (∀ a b off n, s.runs (.mbinit h a b) h e →
       (s.begun e).mbArgs e a b (fun n => decide (n < 1) || decide (65535 < n)) = .ok (off, n) →
       exec (.mbinit h a b) s =
         .next (((s.begun e).barStep e.g.core (e.spadAt off) fun _ =>
           { posted := 0, landed := 0, quota := BitVec.ofNat 16 n, arrived := 0, epoch := 0 }).ended e h false s)) ∧
     (∀ d a b rlx off n, s.runs (.mbarv h d a b rlx) h e →
       (s.begun e).mbArgs e a b (fun n => decide (65535 < n)) = .ok (off, n) →
       (rlx = false → (s.begun e).afterLogged e = .ok () ∧ (s.begun e).afterWrites e = .ok () ∧ (s.begun e).releases e .core) →
       let r := if rlx then s.begun e else ((s.begun e).releaseFor e .core).1
       exec (.mbarv h d a b rlx) s =
         .next (((r.barStep e.g.core (e.spadAt off) fun o => (o.arrive n).close).status e d
           (r.barObj e.g.core (e.spadAt off)).ticket.toNat).ended e h false s)) ∧
     (∀ d a b rlx arv off n, s.runs (.mbexp h d a b rlx arv) h e → (s.begun e).mbArgs e a b anyCount = .ok (off, n) →
       (arv = true → rlx = false →
         (s.begun e).afterLogged e = .ok () ∧ (s.begun e).afterWrites e = .ok () ∧ (s.begun e).releases e .core) →
       let r := if arv && !rlx then ((s.begun e).releaseFor e .core).1 else s.begun e
       exec (.mbexp h d a b rlx arv) s =
         .next (((r.barStep e.g.core (e.spadAt off) fun o =>
           (if arv then (o.expect n).arrive 1 else o.expect n).close).status e d
           (r.barObj e.g.core (e.spadAt off)).ticket.toNat).ended e h false s)) ∧
     (∀ a b off n, s.runs (.mbwait h a b) h e → (s.begun e).mbArgs e a b anyCount = .ok (off, n) →
       ((s.begun e).barObj e.g.core (e.spadAt off)).reached n = true →
       exec (.mbwait h a b) s = .next (((s.begun e).acquire e.g.core .core).ended e h false s)) ∧
     (∀ a b off n, s.runs (.mbwait h a b) h e → (s.begun e).mbArgs e a b anyCount = .ok (off, n) →
       ((s.begun e).barObj e.g.core (e.spadAt off)).reached n = false →
       exec (.mbwait h a b) s = .next (s.waits e (.ticket (BitVec.ofNat 32 off) (BitVec.ofNat 16 n)))) ∧
     (∀ d a b off n, s.runs (.mbtest h d a b) h e → (s.begun e).mbArgs e a b anyCount = .ok (off, n) →
       let q := ((s.begun e).barObj e.g.core (e.spadAt off)).reached n
       exec (.mbtest h d a b) s =
         .next (((if q then (s.begun e).acquire e.g.core .core else s.begun e).status e d (boolNat q)).ended e h false s))) ∧
  (∀ (o : BarObj) (n : Nat),
     (o.arrive n).arrived.toNat = min (o.arrived.toNat + n) o.quota.toNat ∧ (o.arrive n).epoch = o.epoch ∧
     (o.expect n).posted = o.posted + BitVec.ofNat 32 n ∧ (o.land n).landed = o.landed + BitVec.ofNat 32 n ∧
     (o.arrived = o.quota ∧ o.landed = o.posted → o.close.epoch = o.epoch + 1 ∧ o.close.arrived = 0) ∧
     (¬(o.arrived = o.quota ∧ o.landed = o.posted) → o.close = o) ∧
     (∀ t, o.reached t = true ↔ (o.epoch - BitVec.ofNat 16 t).toNat < 2 ^ 15) ∧
     BarObj.ofBytes o.bytes = o)

/-- WLPUSH, WLPOP and WLQUIET on a list whose header and items are at hand: a push that does not fit pushes nothing, a pop hands the oldest
items to the lowest lanes, and WLQUIET takes items off BUSY and says whether the list is quiet (R297, R298).
Completion is shown of: wlpush, wlpop, wlquiet. -/
def Obligations.WorkLists : Prop :=
  ∀ (s : State) (h : Hdr) (e : Env) (d a b : Opnd) (vs : List (Nat × (Nat → LV))) (va : Nat) (w : Window) (key : Nat) (l : WorkList)
    (u : State),
    (s.runs (.wlpush h d a b) h e → e.bounds [{ code := 2, o := b, n := 1, even := false }] = .ok () →
      (s.begun e).peek e [baseSrc a, { code := 2, o := b }] (.vec 0) 0 = .ok vs → (s.begun e).wlAddr e vs = .ok (va, w) →
      poisonCheck e.exec vs = .ok () → (s.begun e).afterAcquires e = .ok () → (s.begun e).afterLogged e = .ok () →
      (s.begun e).afterWrites e = .ok () → (s.begun e).releases e .dev →
      (∀ k, ((s.begun e).releaseFor e .dev).1.withList e va w k = k key l u) →
      let n := (lanesOf e.exec).length
      (2 ^ l.log < l.count + n →
        exec (.wlpush h d a b) s = .next (((u.consume e [baseSrc a, { code := 2, o := b }]).statusBits e d 0).ended e h false s)) ∧
      (∀ u', l.count + n ≤ 2 ^ l.log → (∀ k, u.withItems e w l l.tail.toNat (lanesOf e.exec) true k = k u') →
        exec (.wlpush h d a b) s =
          .next (((((u'.consume e [baseSrc a, { code := 2, o := b }]).putItems e w l
            ((lanesOf e.exec).map fun x => (x, valAt (lvVals vs) 1 x))).putList (w.iaOf va) key
              { l with tail := l.tail + BitVec.ofNat 32 n }).statusBits e d e.exec).ended e h false s))) ∧
    (s.runs (.wlpop h d a b) h e → e.bounds [{ code := 0, o := d, n := 1, even := false }] = .ok () →
      (s.begun e).peek e [baseSrc a] (.vec 0) 0 = .ok vs → (s.begun e).wlAddr e vs = .ok (va, w) → poisonCheck e.exec vs = .ok () →
      (s.begun e).afterAcquires e = .ok () → (s.begun e).afterLogged e = .ok () →
      (∀ k, (s.begun e).withList e va w k = k key l u) →
      let n := min (lanesOf e.exec).length l.count
      let ls := (lanesOf e.exec).take n
      let m := maskOf fun x => ls.contains x
      ∀ u', (∀ k, u.withItems e w l l.head.toNat ls false k = k u') →
        let r := u'.getItems e w l ls
        let p := r.2.putList (w.iaOf va) key { l with head := l.head + BitVec.ofNat 32 n, busy := l.busy + BitVec.ofNat 32 n }
        let p := if n = 0 then p else p.updSlice e.gid e.sl fun x =>
          x.writeRegs { e with exec := m } d [fun l => ((r.1.find? fun x => x.1 == l).map (·.2)).getD Val.zero]
        exec (.wlpop h d a b) s = .next (((p.statusBits e b m).acquire e.g.core .dev).ended e h false s)) ∧
    (s.runs (.wlquiet h d a b) h e → (s.begun e).peek e [baseSrc a, { code := 2, o := b }] (.vec 0) 0 = .ok vs →
      (s.begun e).wlAddr e vs = .ok (va, w) → poisonCheck e.exec vs = .ok () → (s.begun e).afterAcquires e = .ok () →
      (s.begun e).afterLogged e = .ok () → (s.begun e).afterWrites e = .ok () → (s.begun e).releases e .dev →
      (∀ k, ((s.begun e).releaseFor e .dev).1.withList e va w k = k key l u) →
      let f := (uniformVals e vs).getD 1 0
      let l' := { l with busy := BitVec.ofNat 32 (l.busy.toNat - min f l.busy.toNat) }
      exec (.wlquiet h d a b) s =
        .next ((((u.putList (w.iaOf va) key l').status e d
          (boolNat (decide (l'.head = l'.tail) && decide (l'.busy = 0)))).acquire e.g.core .dev).ended e h false s))

/-- FILLDONE, FILLFAIL, PREVICT and FILLQ complete. FILLDONE makes the block that its prompter fills FILLED after a release at DEV, and status 1
says so; FILLFAIL makes it POISONED with the prompter's code and the team ends; outside a fill both give status 0 and nothing else changes.
PREVICT empties a block and FILLQ reports its state: the status of PREVICT is 0 when the block is EMPTY afterwards, 1 for a pinned one, 2
for one EMPTY already, 3 for one FILLING; only status 0 changes anything, and it zeroes the block (R119, R122, R124, R299).
Completion is shown of: filldone, fillfail, previct, fillq. -/
def Obligations.FillsAndEvictions : Prop :=
  (∀ (s : State) (h : Hdr) (e : Env) (d : Opnd),
     (s.runs (.filldone h d) h e →
       ((s.begun e).filling? e.t = none ∨ ∃ die entry blk, (s.begun e).filling? e.t = some (die, entry, blk) ∧ s.merge? die entry blk = none) →
       exec (.filldone h d) s = .next (((s.begun e).status e d 0).ended e h false s)) ∧
     (∀ die entry blk m, s.runs (.filldone h d) h e → (s.begun e).filling? e.t = some (die, entry, blk) →
       s.merge? die entry blk = some m →
       let p := m.prt
       let lo := p.base + blk * p.blockSize
       (s.begun e).blockAccs e.gid lo p.blockSize = [] → (s.begun e).blockEngs e.gid lo p.blockSize = [] →
       (s.begun e).afterLogged e = .ok () → (s.begun e).afterWrites e = .ok () → (s.begun e).releases e .dev →
       exec (.filldone h d) s =
         .next ((((((s.begun e).releaseFor e .dev).1.setFillState p blk 2).leaveFilling die m).status e d 1).ended e h false s)) ∧
     (∀ a code, s.runs (.fillfail h d a) h e → (s.begun e).countVal e a anyCount = .ok code → (s.begun e).filling? e.t = none →
       exec (.fillfail h d a) s = .next (((s.begun e).status e d 0).ended e h false s)) ∧
     (∀ a code die entry blk, s.runs (.fillfail h d a) h e → (s.begun e).countVal e a anyCount = .ok code →
       (s.begun e).filling? e.t = some (die, entry, blk) →
       exec (.fillfail h d a) s = .next (((s.begun e).failFill die entry blk 0x16 2 code).ended e h true s)) ∧
     (∀ a die p b, s.runs (.previct h d a) h e → (s.begun e).blockArg e a (·.wr) = .ok (die, p, b) →
       (s.begun e).afterLogged e = .ok () → (s.begun e).afterWrites e = .ok () → (s.begun e).releases e .dev →
       let r := ((s.begun e).releaseFor e .dev).1.evictBlock die p b
       exec (.previct h d a) s = .next ((r.2.status e d r.1).ended e h false s)) ∧
     (∀ a die p b, s.runs (.fillq h d a) h e → (s.begun e).blockArg e a (·.rd) = .ok (die, p, b) →
       exec (.fillq h d a) s =
         .next (((s.begun e).status e d ((s.begun e).fillState die p b + 4 * boolNat ((s.begun e).pinned p b))).ended e h false s))) ∧
  (∀ (s : State) (die : Nat) (p : Prt) (b : Nat),
     (s.fillState die p b = 0 → s.evictBlock die p b = (2, s)) ∧ (s.fillState die p b = 1 → s.evictBlock die p b = (3, s)) ∧
     (1 < s.fillState die p b → s.pinned p b = true → s.evictBlock die p b = (1, s)) ∧
     (1 < s.fillState die p b → s.pinned p b = false →
       s.evictBlock die p b =
         (0, ((if s.fillState die p b = 3 then s.failRecord p b 0 else s).setFillState p b 0).zeroBlock p b)))

/-- CSTEP commits a step after its release at SYS, and CABORT starts the collective abort. SPL requests a level for the context, and GPL reads
what its cluster is granted (R193, R300, R301, R309, R310).
Completion is shown of: cstep, cabort, spl, gpl. -/
def Obligations.CollectivesAndPower : Prop :=
  (∀ (s : State) (h : Hdr) (e : Env) (a : Opnd) (vs : List (Nat × (Nat → LV))),
     (∀ b bar, b.kind ≠ 1 → s.runs (.cstep h a b bar) h e → (s.begun e).peek e [{ code := 1, o := a }] (.vec 0) 0 = .ok vs →
       poisonCheck e.exec vs = .ok () → (s.begun e).afterLogged e = .ok () → (s.begun e).afterWrites e = .ok () →
       (s.begun e).releases e .sys →
       exec (.cstep h a b bar) s =
         .next ((((s.begun e).releaseFor e .sys).1.updGroup e.gid fun g =>
           { g with step := max g.step ((uniformVals e vs).getD 0 0) }).ended e h false s)) ∧
     (∀ b bar, b.kind = 1 → s.runs (.cstep h a b bar) h e →
       (s.begun e).peek e [{ code := 1, o := a }, { code := 2, o := b, ty := .b64, pair := true }, { code := 2, o := shiftOpnd b 2 },
         { code := 2, o := .sca bar }] (.vec 0) 0 = .ok vs →
       e.t.scrBytes ≠ 0 → (uniformVals e vs).getD 3 0 % 16 = 0 → (uniformVals e vs).getD 2 0 = 0 → poisonCheck e.exec vs = .ok () →
       (s.begun e).afterLogged e = .ok () →
       (∀ a ∈ (s.begun e).sliceAccs e.gid e.sl, a.kind.writes = true → a.isOpen = false) → (s.begun e).releases e .sys →
       exec (.cstep h a b bar) s =
         .next ((((((s.begun e).releaseFor e .sys).1.updGroup e.gid fun g =>
           { g with step := max g.step ((uniformVals e vs).getD 0 0) }).landBytes e.t.id e.g.core ((uniformVals e vs).getD 3 0) 0).updCore
             e.g.core fun k => { k with locks := k.locks.filter fun l => l.eng != stepKey e.gid e.sl e.slot }).ended e h false s)) ∧
     (∀ b bar x, b.kind = 1 → s.runs (.cstep h a b bar) h e →
       (s.begun e).peek e [{ code := 1, o := a }, { code := 2, o := b, ty := .b64, pair := true }, { code := 2, o := shiftOpnd b 2 },
         { code := 2, o := .sca bar }] (.vec 0) 0 = .ok vs →
       let u := uniformVals e vs
       let va := u.getD 1 0
       let len := u.getD 2 0
       let off := u.getD 3 0
       let key := stepKey e.gid e.sl e.slot
       let rs := [(false, lockSpans none 0 x.start len)]
       let s1 := (s.begun e).addLocks e.g.core key rs
       e.t.scrBytes ≠ 0 → off % 16 = 0 → len ≠ 0 → (e.c.side va (va, va + len) fun w => !w.l) = .ok x →
       poisonCheck e.exec vs = .ok () → (s.begun e).afterLogged e = .ok () → (∀ l ∈ ((s.begun e).core e.g.core).locks, l.eng ≠ key) →
       lockWaits ((s.begun e).core e.g.core) rs = .ok () →
       (∀ a ∈ s1.sliceAccs e.gid e.sl, a.kind.writes = true → a.isOpen = false) → s1.releases e .sys →
       exec (.cstep h a b bar) s =
         .next (((((s1.releaseFor e .sys).1.updGroup e.gid fun g => { g with step := max g.step (u.getD 0 0) }).landBytes
           e.t.id e.g.core off len).updCore e.g.core fun k => { k with locks := k.locks.filter fun l => l.eng != key }).ended e h false s)) ∧
     (∀ n code, s.runs (.cabort h (.sca n)) h e → (s.begun e).countVal e (.sca n) anyCount = .ok code →
       exec (.cabort h (.sca n)) s = .next (((s.begun e).abortFrom e.t.launch (code % 65536)).ended e h false s)) ∧
     (∀ n code, s.runs (.cabort h (.imm n)) h e → (s.begun e).countVal e (.imm n) anyCount = .ok code →
       exec (.cabort h (.imm n)) s = .next (((s.begun e).abortFrom e.t.launch (code % 65536)).ended e h false s))) ∧
  (∀ (s : State) (h : Hdr) (e : Env) (d : Opnd),
     (∀ a req, s.runs (.spl h d a) h e → e.bounds [({ code := 1, o := a } : SrcOp).use] = .ok () →
       (s.begun e).lowVal e { code := 1, o := a } = .ok req →
       let r := (s.begun e).requestLevel e.c.num req
       exec (.spl h d a) s = .next ((r.2.status e d (boolNat (decide (r.1 ≤ 1)))).ended e h false s)) ∧
     (∀ wait, s.runs (.gpl h d wait) h e → e.bounds [dstUse d false] = .ok () → (wait = true → e.c.plstat.getLsbD 2 = false) →
       exec (.gpl h d wait) s =
         .next (((s.begun e).writeDst e d false fun _ => (s.cluster (cluOf e.g.core)).granted).ended e h false s)))

/-! ## Group 6 -/

/-- MMA, MMD, HAD and QNT start a result of whole registers, and CBLD loads the codebook (R303 to R308).
Completion is shown of: mma, mmd, had, qnt, cbld. -/
def Obligations.MatrixResults : Prop :=
  ∀ (s : State) (h : Hdr) (d a b : Opnd) (e : Env),
    (∀ m, s.runs (.mma h d a b m) h e → e.bounds [{ code := 0, o := d, n := 16, even := false },
        { code := 1, o := a, n := 8, even := false }, { code := 2, o := b, n := 8, even := false }] = .ok () →
      e.matSources d a b 8 8 m.acc [] = .ok () →
      exec (.mma h d a b m) s =
        .next (((s.begun e).lateDst e d true (accRegs16 fun i j =>
          mmaVal m (span e a) (span e b) (if m.acc then accElem (span e d) i j else 0) i j)).ended e h false s)) ∧
    (∀ m, s.runs (.mmd h d a b m) h e → e.bounds [{ code := 0, o := d, n := 16, even := false },
        { code := 1, o := a, n := 8, even := false }, { code := 2, o := b, n := mmdB m, even := false }] = .ok () →
      e.matSources d a b 8 (mmdB m) m.acc [(3, fun _ => LV.ofVal (e.x.sreg m.band.toNat))] = .ok () →
      let row : Nat → Block := fun r n => descByte (span e a) r n
      dbfCheck m row = .ok () →
      exec (.mmd h d a b m) s =
        .next (((s.begun e).lateDst e d true (accRegs16 fun i j =>
          mmdVal m row (span e b) (bf16.val ((e.x.sreg m.band.toNat).bits.toNat % 65536)) (fun i => (e.g.codebook.getD i 0).toNat)
            (if m.acc then accElem (span e d) i j else 0) i j)).ended e h false s)) ∧
    (∀ hadn hadk, s.runs (.had h d a hadn hadk) h e → e.bounds [{ code := 0, o := d, n := 2 ^ (4 + hadn.toNat), even := false },
        { code := 1, o := a, n := 2 ^ (4 + hadn.toNat), even := false }] = .ok () →
      poisonCheck e.exec [(1, e.spanPoison a (2 ^ (4 + hadn.toNat)))] = .ok () →
      exec (.had h d a hadn hadk) s =
        .next (((s.begun e).lateDst e d true ((List.range (2 ^ (4 + hadn.toNat))).map fun j => fun l =>
          Val.of ((hadVals (4 + hadn.toNat) hadk.toNat ((List.range (2 ^ (4 + hadn.toNat))).map fun j => span e a j l)).getD j 0))).ended
            e h false s)) ∧
    (s.runs (.qnt h d a b) h e → e.bounds [{ code := 0, o := d, n := 8, even := false }, { code := 1, o := a, n := 24, even := false }] = .ok () →
      let bx := e.x.sreg (e.regNum b)
      poisonCheck e.exec [(1, e.spanPoison a 24), (2, fun _ => LV.ofVal bx)] = .ok () →
      exec (.qnt h d a b) s =
        .next (((s.begun e).lateDst e d true ((List.range 8).map fun i => fun l =>
          Val.of (BitVec.ofNat 32 (((List.range 4).map fun k =>
            qntByte (bx.bits.toNat % 256) (fun j => bf16.val (elem16 (span e a) (l % 32) j)) (4 * (2 * i + l / 32) + k) * 2 ^ (8 * k)).sum)))).ended
              e h false s)) ∧
    (s.runs (.cbld h a) h e →
      let vs := (List.range 8).map fun m => e.x.sreg (e.regNum a + m)
      poisonCheck e.exec (vs.map fun v => (1, fun _ => LV.ofVal v)) = .ok () →
      exec (.cbld h a) s =
        .next (((s.begun e).updGroup e.gid fun g =>
          { g with codebook := vs.flatMap fun v => [v.bits.extractLsb' 0 16, v.bits.extractLsb' 16 16] }).ended e h false s))

/-! ## Group 7 -/

/-- GRANT and REVOKE act at the pass table; PASSQ and OWNQ report what the table and the surfaces say; PRESENT submits a frame (R139 to R143,
R311 to R313, R326).
Completion is shown of: grant, revoke, passq, ownq, present. -/
def Obligations.ConsentOperations : Prop :=
  ∀ (s : State) (h : Hdr) (e : Env) (d : Opnd),
    (∀ a v, s.runs (.grant h d a) h e → (s.begun e).blockVals e a 5 = .ok v →
      let r := (s.begun e).grant e.c.owner (v.getD 0 0) (v.getD 1 0) (v.getD 2 0) (v.getD 3 0) (v.getD 4 0)
      exec (.grant h d a) s = .next ((r.2.status e d r.1).ended e h false s)) ∧
    (∀ a i, s.runs (.revoke h d a) h e → (s.begun e).countVal e a anyCount = .ok i →
      let r := (s.begun e).revoke e.c.owner i
      exec (.revoke h d a) s = .next ((r.2.status e d r.1).ended e h false s)) ∧
    (∀ a i p, s.runs (.passq h d a) h e → (s.begun e).countVal e a anyCount = .ok i → (s.begun e).pass? i = some p →
      p.grantor = e.c.owner ∨ p.grantee = e.c.owner ∨ e.c.owner = 0 →
      exec (.passq h d a) s =
        .next (((s.begun e).updSlice e.gid e.sl fun x => x.writeRegs e d (p.words.map fun w => fun _ => Val.of (BitVec.ofNat 32 w))).ended
          e h false s)) ∧
    (∀ a i, s.runs (.passq h d a) h e → (s.begun e).countVal e a anyCount = .ok i →
      (∀ p, (s.begun e).pass? i = some p → p.grantor ≠ e.c.owner ∧ p.grantee ≠ e.c.owner ∧ e.c.owner ≠ 0) →
      exec (.passq h d a) s =
        .next (((s.begun e).updSlice e.gid e.sl fun x =>
          x.writeRegs e d ((List.replicate 8 0).map fun w => fun _ => Val.of (BitVec.ofNat 32 w))).ended e h false s)) ∧
    (∀ a b vs, s.runs (.ownq h d a b) h e →
      e.bounds (dstUse d false :: [({ code := 1, o := a, ty := .b64, pair := true } : SrcOp), { code := 2, o := b }].map SrcOp.use) = .ok () →
      (s.begun e).gather e [{ code := 1, o := a, ty := .b64, pair := true }, { code := 2, o := b }] (.vec 0) 0 = .ok vs →
      exec (.ownq h d a b) s =
        .next (((s.begun e).writeDst e d false fun l => (s.begun e).ownBits e.c.owner (BitVec.ofNat 32 (valAt vs 1 l))
          (bits (valAt vs 0 l) 0 32) (bits (valAt vs 0 l) 32 32)).ended e h false s)) ∧
    (∀ a b vs, s.runs (.present h d a b) h e →
      (s.begun e).peek e [{ code := 1, o := a }, { code := 2, o := b, ty := .b64, pair := true }] (.vec 0) 0 = .ok vs →
      poisonCheck e.exec vs = .ok () → (s.begun e).afterAcquires e = .ok () → (s.begun e).afterLogged e = .ok () →
      (s.begun e).afterWrites e = .ok () → (s.begun e).releases e .dev →
      let r := ((s.begun e).releaseFor e .dev).1
      let hd := BitVec.ofNat 32 ((uniformVals e vs).getD 0 0)
      (r.ownSurface e hd = none → exec (.present h d a b) s = .next ((r.status e d 2).ended e h false s)) ∧
      (r.ownSurface e hd ≠ none → r.presentMode e.c.owner ≠ 1 → r.presentDepth e.c.owner ≤ (r.owner e.c.owner).queue.length →
        exec (.present h d a b) s = .next ((r.stays e .present).ended e h true s)) ∧
      (r.ownSurface e hd ≠ none → r.presentMode e.c.owner = 1 ∨ (r.owner e.c.owner).queue.length < r.presentDepth e.c.owner →
        exec (.present h d a b) s =
          .next (((r.present e.c.owner hd (BitVec.ofNat 64 ((uniformVals e vs).getD 1 0))).status e d 0).ended e h false s)))

/-- What GRANT refuses, in the order of its codes: 5 a block with no right, an empty rectangle or a nonzero zero field, 4 a handle that names
nothing, 2 a surface of another owner or a screen view for any but the house, 3 a protected surface, 1 a full table; a refusal changes nothing.
Else one entry that was not valid holds the grant. REVOKE: status 1 for an entry that is not valid and 2 for another grantor's, and neither
changes anything; else status 0, ENDF falls to at most the grantee's next frame, and an entry that it leaves with ENDF at or below STARTF is
freed, every other entry staying as it is (R143, R311, R312). Which entry that is not valid a grant takes is the model's free choice (DESIGN CHOICE, log 6). -/
def Obligations.GrantChecks : Prop :=
  (∀ (s : State) (o : Id12) (hd w1 w2 w3 start : Nat),
     let refused := fun (r : Nat) => s.grant o hd w1 w2 w3 start = (2 ^ 31 + r * 2 ^ 28, s)
     let bad := (bitN w1 12 = false ∧ bitN w1 13 = false) ∨ bits w3 0 16 ≤ bits w2 0 16 ∨ bits w3 16 16 ≤ bits w2 16 16 ∨
       bits w1 14 18 ≠ 0
     (bad → refused 5) ∧
     (¬bad →
       (s.named (BitVec.ofNat 32 hd) = none → refused 4) ∧
       ∀ x, s.named (BitVec.ofNat 32 hd) = some x →
         let may := match x with
           | .surface f => f.owner = o
           | .view _ => o = 0
         let prot := ∃ f, x = .surface f ∧ f.prot = true
         (¬may → refused 2) ∧ (may → prot → refused 3) ∧ (may → ¬prot → 1024 ≤ s.passes.length → refused 1) ∧
         (may → ¬prot → s.passes.length < 1024 →
           let r := s.grant o hd w1 w2 w3 start
           let grantee : Id12 := BitVec.ofNat 12 w1
           r.1 < 1024 ∧ s.pass? r.1 = none ∧ r.2 = { s with passes := r.2.passes, free := r.2.free } ∧
             ∃ p, r.2.passes = p :: s.passes ∧ p.idx = r.1 ∧ p.grantor = o ∧ p.grantee = grantee ∧ p.handle = BitVec.ofNat 32 hd ∧
               p.sample = bitN w1 12 ∧ p.capture = bitN w1 13 ∧ p.x0 = bits w2 0 16 ∧ p.y0 = bits w2 16 16 ∧ p.x1 = bits w3 0 16 ∧
               p.y1 = bits w3 16 16 ∧ p.startf = BitVec.ofNat 32 (max start ((s.owner grantee).frameno.toNat + 1)) ∧ p.endf = 0xFFFFFFFF))) ∧
  (∀ (s : State) (o : Id12) (i : Nat),
     (s.pass? i = none → s.revoke o i = (1, s)) ∧
     (∀ p, s.pass? i = some p → p.grantor ≠ o → s.revoke o i = (2, s)) ∧
     (∀ p, s.pass? i = some p → p.grantor = o →
       let endf := min p.endf.toNat ((s.owner p.grantee).frameno.toNat + 1)
       (p.startf.toNat < endf → s.revoke o i =
         (0, { s with passes := s.passes.map fun q => if q.idx = i then { q with endf := BitVec.ofNat 32 endf } else q })) ∧
       (endf ≤ p.startf.toNat → s.revoke o i = (0, { s with passes := s.passes.filter fun q => q.idx ≠ i }))))

/-- EMITV, EMITP and MESHEND write the group's mesh output, lane by lane in ascending order; TLD and TSTO act on the tile memory of the tile
pass (R314, R315).
Completion is shown of: emitv, emitp, meshend, tld, tsto. -/
def Obligations.MeshAndTile : Prop :=
  ∀ (s : State) (h : Hdr) (e : Env) (a : Opnd),
    (∀ b cnt word vs, s.runs (.emitv h a b cnt word) h e →
      e.bounds [{ code := 1, o := a, n := 1, even := false }, { code := 2, o := b, n := 2 ^ cnt.toNat, even := false }] = .ok () →
      (s.begun e).gather e ({ code := 1, o := a } :: (List.range (2 ^ cnt.toNat)).map fun i => { code := 2, o := shiftOpnd b i }) (.vec 0) 0 = .ok vs →
      exec (.emitv h a b cnt word) s =
        .next (((s.begun e).updGroup e.gid fun g => (lanesOf e.exec).foldl (fun (g : Sys2Proof.Machine.Group) l =>
          g.putVert (valAt vs 0 l) word.toNat ((List.range (2 ^ cnt.toNat)).map fun i => BitVec.ofNat 32 (valAt vs (i + 1) l))) g).ended
            e h false s)) ∧
    (∀ b vs, s.runs (.emitp h a b) h e →
      e.bounds ([({ code := 1, o := a } : SrcOp), { code := 2, o := b }].map SrcOp.use) = .ok () →
      (s.begun e).gather e [{ code := 1, o := a }, { code := 2, o := b }] (.vec 0) 0 = .ok vs →
      exec (.emitp h a b) s =
        .next (((s.begun e).updGroup e.gid fun g => (lanesOf e.exec).foldl (fun (g : Sys2Proof.Machine.Group) l =>
          g.putPrim (valAt vs 0 l) (BitVec.ofNat 32 (valAt vs 1 l))) g).ended e h false s)) ∧
    (∀ b vs, s.runs (.meshend h a b) h e → (s.begun e).gather e [{ code := 1, o := a }, { code := 2, o := b }] (.vec 0) 0 = .ok vs →
      exec (.meshend h a b) s =
        .next (((s.begun e).updGroup e.gid fun g => g.meshEnd (valAt vs 0 (lowLane e.exec)) (valAt vs 1 (lowLane e.exec))).ended e h false s)) ∧
    (∀ d ty nvec vs base size, s.runs (.tld h d a ty nvec) h e →
      e.bounds [tileUse d ty nvec, { code := 1, o := a, n := 1, even := false }] = .ok () →
      (s.begun e).peek e [{ code := 1, o := a }] d (Encoding.accRegs ty nvec) = .ok vs → (s.begun e).tileMem e.t = some (base, size) →
      (∀ l ∈ lanesOf e.exec, valAt (lvVals vs) 0 l % tileBytes ty nvec = 0) → poisonCheck e.exec vs = .ok () →
      (s.begun e).afterAcquires e = .ok () →
      exec (.tld h d a ty nvec) s =
        .next (((s.begun e).writeLoaded e d (Encoding.accRegs ty nvec) fun l =>
          loadRegs ty (nvecCount nvec)
            ((s.core e.g.core).spadRead (base + valAt (lvVals vs) 0 l % size) (tileBytes ty nvec))).ended e h false s)) ∧
    (∀ d ty nvec vs base size, s.runs (.tsto h d a ty nvec) h e →
      e.bounds [tileUse d ty nvec, { code := 1, o := a, n := 1, even := false }] = .ok () →
      (s.begun e).peek e (({ code := 1, o := a } : SrcOp) :: dataSrcs d ty (nvecCount nvec)) (.vec 0) 0 = .ok vs →
      (s.begun e).tileMem e.t = some (base, size) → (∀ l ∈ lanesOf e.exec, valAt (lvVals vs) 0 l % tileBytes ty nvec = 0) →
      poisonCheck e.exec vs = .ok () → (s.begun e).afterAcquires e = .ok () → (s.begun e).afterLogged e = .ok () →
      exec (.tsto h d a ty nvec) s =
        .next (((s.begun e).updCore e.g.core fun k => (lanesOf e.exec).foldl (fun (k : Core) l =>
          k.spadWrite (base + valAt (lvVals vs) 0 l % size) (plain (elemBytes ty ((lvVals vs).drop 1) l))) k).ended e h false s))

/-- LAUNCH kicks a context, GETS reads a system register and SETS writes one, and TRET goes on at TRAPRESUME (R177, R190, R317, R318, R320).
Completion is shown of: launch, gets, sets, tret. -/
def Obligations.SystemOperations : Prop :=
  ∀ (s : State) (h : Hdr) (e : Env),
    (∀ d a v, s.runs (.launch h d a) h e → (s.begun e).countVal e a anyCount = .ok v → (s.begun e).afterLogged e = .ok () →
      (s.begun e).afterWrites e = .ok () → (s.begun e).releases e .dev →
      let r := ((s.begun e).releaseFor e .dev).1
      let n := v % 4096
      let ok := (r.ctx n).valid && ((r.ctx n).owner == e.c.owner || e.c.owner == 0)
      exec (.launch h d a) s =
        .next (((if ok then { r with due := r.due ++ [.kick (.own n)] } else r).status e d (boolNat ok)).ended e h false s)) ∧
    (∀ d idx w64, s.runs (.gets h d idx w64) h e → e.bounds [dstUse d w64] = .ok () →
      exec (.gets h d idx w64) s =
        .next (((s.begun e).writeDst e d w64 fun _ => (s.begun e).sysRead e idx.toNat).ended e h false s)) ∧
    (∀ a idx w64 vs, s.runs (.sets h a idx w64) h e →
      (s.begun e).peek e [{ code := 1, o := a, ty := if w64 then .b64 else .b32, pair := w64 }] (.vec 0) 0 = .ok vs →
      e.c.sysRefused idx.toNat (valAt (lvVals vs) 0 (lowLane e.exec)) = false → poisonCheck e.exec vs = .ok () →
      exec (.sets h a idx w64) s =
        .next (((s.begun e).sysWrite e idx.toNat (valAt (lvVals vs) 0 (lowLane e.exec))).ended e h false s)) ∧
    (s.runs (.tret h) h e → e.f.handler = true → pcAligned e.x.trap.resume = true →
      exec (.tret h) s = .next (((s.begun e).trapReturn e.gid e.sl e.slot).ended e h true s))

/-- PREEMPT, PREEMPT.REL, CSAVE and CREST answer with their statuses. PREEMPT holds the cores it has stopped. CSAVE writes the image at its
homes and is done once every message that carries it is acknowledged, or answers 4 when one of them is ended because its ports have failed;
CREST places the team of an image that it has read (R322 to R325).
Completion is shown of: preempt, preemptRel, csave, crest. -/
def Obligations.PreemptionOperations : Prop :=
  ∀ (s : State) (h : Hdr) (e : Env) (d a : Opnd),
    (∀ b vs, s.runs (.preempt h d a b) h e → (s.begun e).peek e [{ code := 1, o := a }, { code := 2, o := b }] (.vec 0) 0 = .ok vs →
      poisonCheck e.exec vs = .ok () → (∀ k, e.f.wait ≠ .holding k) →
      let r := (s.begun e).preempt e.c.num ((uniformVals e vs).getD 0 0 % 4096) ((uniformVals e vs).getD 1 0)
      (r.2.passesOn r.1 = false → exec (.preempt h d a b) s = .next ((r.2.status e d r.1.length).ended e h false s)) ∧
      (r.2.passesOn r.1 = true → exec (.preempt h d a b) s = .next ((r.2.stays e (.holding r.1.length)).ended e h true s))) ∧
    (∀ v, s.runs (.preemptRel h d a) h e → (s.begun e).countVal e a anyCount = .ok v →
      let r := (s.begun e).releaseHold e.c.num (v % 4096)
      exec (.preemptRel h d a) s = .next ((r.2.status e d r.1).ended e h false s)) ∧
    (∀ v, s.runs (.csave h d a) h e → (s.begun e).blockVals e a 6 = .ok v →
      let va := v.getD 0 0 + v.getD 1 0 * 2 ^ 32
      ((s.begun e).savable (v.getD 2 0) (v.getD 3 0) (v.getD 4 0) = none →
        exec (.csave h d a) s = .next (((s.begun e).status e d 1).ended e h false s)) ∧
      (∀ t, (s.begun e).savable (v.getD 2 0) (v.getD 3 0) (v.getD 4 0) = some t →
        let k := (s.begun e).save t.ctx
        (e.f.wait = .saveLost → exec (.csave h d a) s = .next (((s.begun e).status e d 4).ended e h false s)) ∧
        (e.f.wait ≠ .saveLost → k.exhausted = true → exec (.csave h d a) s = .next (((s.begun e).status e d 3).ended e h false s)) ∧
        (e.f.wait ≠ .saveLost → k.exhausted = false → v.getD 5 0 < t.imageLen →
          exec (.csave h d a) s = .next (((s.begun e).status e d 2).ended e h false s)) ∧
        (e.f.wait ≠ .saveLost → k.exhausted = false → t.imageLen ≤ v.getD 5 0 → e.c.spanOk va t.imageLen (·.wr) = true →
          (∀ q l, e.f.wait ≠ .saving q l) →
          ∀ u, (s.begun e).putPieces e va ((s.begun e).image t k.take.c (decide (t.life = .fatal))) (e.c.pieces va t.imageLen) =
            (Reached.none, u) →
          let sent := u.unacked.filter fun m => !(s.begun e).unacked.contains m
          (sent = [] → exec (.csave h d a) s = .next ((u.saved e d a t).ended e h false s)) ∧
          (sent ≠ [] → exec (.csave h d a) s = .next ((u.stays e (.saving k.take.c sent)).ended e h true s))) ∧
        (∀ l, k.exhausted = false → t.imageLen ≤ v.getD 5 0 → e.c.spanOk va t.imageLen (·.wr) = true → e.f.wait = .saving k.take.c l →
          exec (.csave h d a) s = .next (((s.begun e).saved e d a t).ended e h false s)))) ∧
    (∀ v, s.runs (.crest h d a) h e → (s.begun e).blockVals e a 3 = .ok v → (s.begun e).afterLogged e = .ok () →
      (s.begun e).afterWrites e = .ok () →
      let va := v.getD 0 0 + v.getD 1 0 * 2 ^ 32
      let ps := e.c.pieces va (v.getD 2 0)
      let x := (ps.foldl (fun (s : State) p => s.expel e.g.core (p.ia / 64)) (s.begun e)).askPieces e ps
      (v.getD 2 0 < 80 ∨ e.c.spanOk va (v.getD 2 0) (·.rd) = false →
        exec (.crest h d a) s = .next (((s.begun e).status e d 4).ended e h false s)) ∧
      (80 ≤ v.getD 2 0 → e.c.spanOk va (v.getD 2 0) (·.rd) = true → x.1 = true → ∀ bs u, x.2.getPieces e ps = (Reached.none, bs, u) →
        let w : State := { u with reads := u.reads.filter fun y => y.reader != stepKey e.gid e.sl e.slot }
        exec (.crest h d a) s = .next (((w.crest bs).2.status e d (w.crest bs).1).ended e h false s)))

/-- The first of CREST's checks that an image fails gives its status: 4 a malformed one, 3 an owner that does not fit, 2 a bad tag, 1 an image
out of date, 3 a team that was not detached under the image's number or a body that is not its. Only status 0 changes a team: it marks the
number as used and has the team placed again with the allocations and registers of the body, its launch waiting from now on if nothing of it
waited (R179, R195, R325). -/
def Obligations.RestoreChecks : Prop :=
  ∀ (s : State) (bs : List Byte),
    let hd := bs.take 64
    let n := fieldAt hd 24 8
    let ctx := bits (fieldAt hd 8 4) 0 12
    let c := s.ctx ctx
    let seq := fieldAt hd 4 4
    let ct := (bs.drop 64).take n
    let good := bitN (fieldAt hd 12 4) 0 = true → tagGood c.owner ctx hd ct ((bs.drop (64 + n)).take 16) = true
    (imageHeaderOk hd = false ∨ bs.length < 80 + n → s.crest bs = (4, s)) ∧
    (imageHeaderOk hd = true → 80 + n ≤ bs.length →
      (c.valid = false ∨ c.owner.toNat ≠ bits (fieldAt hd 8 4) 12 12 → s.crest bs = (3, s)) ∧
      (c.valid = true → c.owner.toNat = bits (fieldAt hd 8 4) 12 12 →
        (¬good → s.crest bs = (2, s.ctxImage ctx 2)) ∧
        (good → (s.save ctx).current seq = false → s.crest bs = (1, s.ctxImage ctx 1)) ∧
        (good → (s.save ctx).current seq = true → bitN (fieldAt hd 12 4) 1 = true ∨ s.detached ctx hd = none → s.crest bs = (3, s)) ∧
        (good → (s.save ctx).current seq = true → bitN (fieldAt hd 12 4) 1 = false → ∀ t, s.detached ctx hd = some t →
          let body := c.bodyOf hd ct
          (bitN (fieldAt hd 12 4) 0 ≠ c.prot ∨ bodyOk t (BitVec.ofNat 32 seq) body = false → s.crest bs = (3, s)) ∧
          (bitN (fieldAt hd 12 4) 0 = c.prot → bodyOk t (BitVec.ofNat 32 seq) body = true →
            s.crest bs =
              (0, ((s.setSave ((s.save ctx).mark seq)).updTeam t.id fun _ => { t.fromBody body with life := .placing }).waitsAgain s t.launch)))))

/-- IAINV and IAINV.ALL drop the cached translations of a range of a home, and wake what is parked in it, after a release at DEV (R28, R33 to
R35).
Completion is shown of: iainv, iainvAll. -/
def Obligations.Invalidation : Prop :=
  ∀ (s : State) (h : Hdr) (e : Env) (a : Opnd),
    (s.begun e).afterLogged e = .ok () → (s.begun e).afterWrites e = .ok () → (s.begun e).releases e .dev →
    let r := ((s.begun e).releaseFor e .dev).1
    (∀ b vs, s.runs (.iainv h a b) h e →
      (s.begun e).gather e [{ code := 1, o := a, ty := .b64, pair := true }, { code := 2, o := b }] (.vec 0) 0 = .ok vs →
      let ia := valAt vs 0 (lowLane e.exec) % 2 ^ 52
      let lo := ia % 2 ^ 48 / 65536 * 65536
      let hi := min (lo + valAt vs 1 (lowLane e.exec) * 65536) (2 ^ 48)
      exec (.iainv h a b) s = .next ((if lo < hi then r.invalidate (homeOf ia) lo hi else r).ended e h false s)) ∧
    (∀ vs, s.runs (.iainvAll h a) h e →
      (s.begun e).gather e [{ code := 1, o := a, ty := .b64, pair := true }] (.vec 0) 0 = .ok vs →
      exec (.iainvAll h a) s =
        .next ((r.invalidate (homeOf (valAt vs 0 (lowLane e.exec) % 2 ^ 52)) 0 (2 ^ 48)).ended e h false s))

/-! ## Events: accesses and engines -/

/-- How a request in flight moves: it is performed at its home, or takes or waits for a walk slot, or waits with an earlier request that it must
follow, or is issued again once what it waits for is over. A retry answered by an endpoint puts exactly the requests that wait for it back
to their start, and touches nothing else; once a peer reports a page resolved, no request is parked on it but those whose batch of records
is still held (R16 to R20, R24, R26, R28, R114 to R116).
Completion is shown of: homeAccess, walkSlotFree, replayReissue, fillRequestRetry, hostFillRetry, peerPageResolved. -/
def Obligations.RequestsProceed : Prop :=
  (∀ (s : State) (id i : Nat) (a : Acc) (l : LaneAcc) (r : Req),
     s.acc? id = some a → a.lanes[i]? = some l →
     let ia := s.walkIa a l
     let full := (s.tlb? ia).isNone && !(s.home (homeOf ia)).walkRoom ia
     (s.accReq a l = some r → ¬(a.kind = .store ∧ a.path = .t) → l.st = .todo →
       (∀ st, a.leader i = some st → exec (.homeAccess id i) s = .next ((s.setLane id i st).logMisses id)) ∧
       (a.leader i = none → s.mayPerform a i = true →
         let x := s.performLane r a l
         (a.logged = true → s.refillFails a.gid a.sl id = true →
           exec (.homeAccess id i) s = .next ((s.dropWork id).fatalTrap a.gid a.sl 0x1E 0 a.pc none 0)) ∧
         ((a.logged = true → s.refillFails a.gid a.sl id = false) →
           (x.1 = .blocked .held → full = true → exec (.homeAccess id i) s = .next (s.setLane id i .queued)) ∧
           (x.1 ≠ .blocked .held ∨ full = false →
             (walked s x.2 x.1 ia = false → exec (.homeAccess id i) s = .next ((s.performAt a i l r).logMisses id)) ∧
             (walked s x.2 x.1 ia = true → exec (.homeAccess id i) s = .next (s.startWalk id i ia)))))) ∧
     (s.accReq a l = some r → s.mayPerform a i = true → ¬(a.kind = .store ∧ a.path = .t) → l.st = .walking →
       exec (.homeAccess id i) s = .next (((s.endWalk id ia).performAt a i l r).logMisses id)) ∧
     (a.lanes.findIdx? (fun l => l.st == .queued) = some i → (s.home (homeOf ia)).walkRoom ia = true →
       exec (.walkSlotFree id) s = .next (s.startWalk id i ia)) ∧
     (∀ page b held, l.st = .parked page b held → s.batchHeld id = false →
       exec (.replayReissue id i) s = .next (s.setLane id i .todo)) ∧
     (l.st = .returned → exec (.fillRequestRetry id i) s = .next (s.setLane id i .todo))) ∧
  (∀ (s : State) (slot : Nat),
     (∀ tag, ∃ t, exec (.hostFillRetry slot tag) s = .next t ∧ t = { s with accs := t.accs, engs := t.engs } ∧
       t.accs = s.accs.map fun a => { a with lanes := a.lanes.map fun l => if l.st = .retry slot tag then { l with st := .todo } else l }) ∧
     (∀ ia, ∃ t, exec (.peerPageResolved slot ia) s = .next t ∧
       t = { s with accs := t.accs, engs := t.engs, teams := t.teams, launches := t.launches, draws := t.draws } ∧
       ∀ a ∈ t.accs, s.batchHeld a.id = false → ∀ l ∈ a.lanes, ∀ page b held, b ≠ 0 → l.st = .parked page b held →
         ¬(homeOf page = slot ∧ ia.toNat / 2 ^ b * 2 ^ b = page)))

/-- Loaded data and late results reach their registers and queue entries, and a store takes its data from qs (R68, R69, R86, R154, R165).
Completion is shown of: loadDataReturn, varlatResultWrite, qsStoreData. -/
def Obligations.ValuesArrive : Prop :=
  ∀ (s : State),
    (∀ id a lanes q n, s.acc? id = some a → a.kind.reads = true → (acquires a.ord = true → a.isOpen = false) → s.runsGid a.gid = true →
      a.deliver = .queue q n → s.edgeWaits a = false →
      let m := maskOf fun l => lanes.getLsbD l && (a.laneVals l).isSome
      m ≠ 0 →
      exec (.loadDataReturn id lanes) s =
        .next (((s.updGroup a.gid fun g => (List.range n).foldl (fun g i => (g.updQueue (q + i) fun x =>
          x.fill id m fun l => ((a.laneVals l).getD []).getD i Val.zero).prune (q + i)) g).updAcc id fun b =>
            { b with lanes := b.lanes.filter fun r => !m.getLsbD r.lane, taps := b.taps.filter fun x => !m.getLsbD x.lane }).endAcc id)) ∧
    (∀ id a lanes o, s.acc? id = some a → a.kind.reads = true → (acquires a.ord = true → a.isOpen = false) → s.runsGid a.gid = true →
      a.deliver = .out o →
      let m := maskOf fun l => lanes.getLsbD l && (a.laneVals l).isSome
      m ≠ 0 →
      exec (.loadDataReturn id lanes) s =
        .next (((s.updSlice a.gid a.sl fun x =>
          match x.outs.find? fun (y : Out) => y.id == o with
          | some out => x.writeOut out m fun l => (a.laneVals l).getD []
          | none => x).updAcc id fun b =>
            { b with lanes := b.lanes.filter fun r => !m.getLsbD r.lane, taps := b.taps.filter fun x => !m.getLsbD x.lane }).endAcc id)) ∧
    (∀ gid sl res lanes, s.runsGid gid = true →
      exec (.varlatResultWrite gid sl res lanes) s = .next (s.updSlice gid sl fun x =>
        match x.outs.find? fun o => o.id == res with
        | none => x
        | some o =>
          let m := lanes &&& o.pend &&& o.ready
          if o.acc.isSome || m == 0 || (o.mat && (x.outs.takeWhile fun y => y.id != res).any fun y => y.mat && y.pend &&& m != 0) then x
          else x.writeOut o m fun l => o.regs.map fun r => r.getD l Val.zero)) ∧
    (∀ id a m g, s.acc? id = some a → a.needQs = some m → s.group? a.gid = some g → s.runsGid a.gid = true →
      (∀ b ∈ s.accs, b.gid = a.gid → b.needQs ≠ none → id ≤ b.id) →
      (∀ l ∈ lanesOf m, g.laneVal 4 l 0 ≠ none) →
      exec (.qsStoreData id) s =
        .next ((s.updGroup a.gid fun g => g.pop 4 m).updAcc id fun a =>
          { a with needQs := none, lanes := a.lanes.map fun l =>
              let l := { l with data := leBytes a.size ((g.laneVal 4 l.lane 0).getD Val.zero).bits.toNat }
              match ((g.laneVal 4 l.lane 0).getD Val.zero).poison with
              | some p => if (lanesOf m).find? (fun l => ((g.laneVal 4 l 0).getD Val.zero).poison.isSome) = some l.lane then
                  { l with st := .fatal p.cause (BitVec.ofNat 32 (poisonInfo p l.lane 0)) } else l
              | none => l }))

/-- A unit of a copy or gather, a bank of a transform, a unit of T stores and a lost dirty line each act in one step (R45, R48, R50, R58, R294
to R296).
Completion is shown of: dirtyWriteDropped, layoutTWrite, transformBankPart, engineUnitDone. -/
def Obligations.UnitsAct : Prop :=
  ∀ (s : State),
    (∀ id u e' e x, s.eng? id = some e' → e'.kind.transform = false → s.engRuns e' = true → (s.unitPart e' u).2 ≠ 0 →
      u / 2 ^ 24 < e'.rows → (e'.logged = true → s.refillFails e'.gid .a id = false) →
      let t := s.issueBefore e' u
      t.eng? id = some e → e.ready u = some x →
      let p := t.unitPart e u
      let row := u / 2 ^ 24
      (e.ssp = false → t.engClear e (e.srcRow row + p.1).toNat p.2 = true) →
      (e.dsp = false → t.engClear e (e.dstRow row + p.1).toNat p.2 = true) →
      exec (.engineUnitDone id u) s = .next (((t.engStart e).unitRun e x).engMisses id)) ∧
    (∀ id b e, s.eng? id = some e → e.kind.transform = true → s.engRuns e = true → e.dsp = true → e.done.contains b = false →
      (e.logged = true → s.refillFails e.gid .a id = false) → s.bankWords e b ≠ [] →
      exec (.transformBankPart id b) s = .next ((s.engStart e).bankSpad e b)) ∧
    (∀ id b e' e, s.eng? id = some e' → e'.kind.transform = true → s.engRuns e' = true → e'.dsp = false →
      s.engClear e' e'.dst e'.len = true → s.bankClear e' b = true → (e'.logged = true → s.refillFails e'.gid .a id = false) →
      let t := s.unitsIssue id (s.unitsOf e')
      t.eng? id = some e → t.bankSectors e b ≠ [] →
      exec (.transformBankPart id b) s =
        .next (((t.bankSectors e b).foldl (fun s u => s.bankSector id u) (t.engStart e)).engMisses id)) ∧
    (∀ core line l, findLine (s.core core).l1 line = some l → l.isDirty = true → s.lineLost l = true →
      exec (.dirtyWriteDropped (.l1 core) line) s =
        .next ((s.updCore core fun k => { k with l1 := dropLine k.l1 line }).dropRecord l)) ∧
    (∀ die line l, findLine (s.rdc die) line = some l → l.isDirty = true → s.lineLost l = true →
      exec (.dirtyWriteDropped (.rdc die) line) s = .next ((s.updRdc die fun rs => dropLine rs line).dropRecord l)) ∧
    (∀ die line l, findLine (s.l2Of die) line = some l → l.isDirty = true → s.lineLost l = true →
      exec (.dirtyWriteDropped (.l2 die) line) s = .next (s.evictL2 die l)) ∧
    (∀ die line l, findLine (s.mdcOf die) line = some l → l.isDirty = true → s.lineLost l = true →
      exec (.dirtyWriteDropped (.mdc die) line) s = .next (s.evictMdc die l)) ∧
    (∀ id i a l r f key ow pr t u, s.acc? id = some a → a.lanes[i]? = some l → s.accReq a l = some r → a.kind = .store → a.path = .t →
      l.st = .todo → a.needQs = none → a.fatalLane = none → s.runsGid a.gid = true →
      (∀ x ∈ a.lanes, x.st.open = true → s.before a x.ia.toNat a.size = false) →
      (a.logged = true → s.refillFails a.gid a.sl id = false) → s.surfAt l.ia.toNat = some f →
      let st := f.viewOfs (l.ia.toNat - f.base)
      let ls := unitLanes a f (st / 256)
      s.bankBusy a (f.base + st) = false → (∀ x ∈ ls, x.2.st = .todo) → s.gateT r l.ia.toNat = (.go key ow pr, t) →
      t.writeUnit f st (key - st % 256) (ls.flatMap fun x =>
        x.2.data.mapIdx fun j b => (f.viewOfs (x.2.ia.toNat - f.base) % 256 + j, (b, none))) ow = (none, u) →
      exec (.layoutTWrite id i) s =
        .next ((((u.updCore r.core fun k =>
          { k with tcache := k.tcache.filter fun x => !(ls.map fun x => x.2.ia.toNat / 64).contains x.line }).updAcc id fun b =>
            { b with lanes := (b.lanes.zipIdx.filter fun x => !ls.any fun y => y.1 == x.2).map (·.1) }).endAcc id).logMisses id))

/-! ## Events: traps, migration, fills and checked writes -/

/-- The halt of a team whose slices have all stopped writes its records once: an aborted launch waits for its abort to complete, a fill fails,
and a draw or launch becomes fatal. A failed access stops acting and its slice traps; held records and batches are written, oldest first,
once they fit; deadlocked queues and a barrier whose lanes stay away past BARTO trap (R24, R157, R169, R191 to R193, R338, R400).
Completion is shown of: teamHaltComplete, deferredTrap, errorRingRetry, faultBatchRetry, qdeadlock, barrierStall. -/
def Obligations.TrapsComplete : Prop :=
  (∀ (s : State) (tid : Nat) (t : Team), s.team? tid = some t → t.life = .halting → s.quiet t = true →
     let t' : Team := { t with
       life := .fatal,
       groups := t.groups.map fun (g : Sys2Proof.Machine.Group) => { g with life := .halted, a := g.a.stopSkid, c := g.c.stopSkid } }
     let s1 := s.updTeam tid fun _ => t'
     (∀ die entry blk, s1.filling? t' = some (die, entry, blk) →
       let s2 := s1.writeErrors t' (((s1.launch? t.launch).map fun l => l.ltag.toNat).getD 0) 0
       let c := (t'.traps.head?.map fun r => r.cause.toNat).getD 0
       exec (.teamHaltComplete tid) s =
         .next (if c = 0x16 ∨ c = 0x17 ∨ c = 0x18 then s2.failFill die entry blk c 0 0 else s2.failFill die entry blk 0x16 3 c)) ∧
     (s1.filling? t' = none → s1.launch? t.launch = none →
       exec (.teamHaltComplete tid) s =
         .next ((((s1.writeErrors t' t.ltag.toNat 0).updTeam tid fun t => { t with recorded := true }).settleFatal tid).failDraw t')) ∧
     (∀ l, s1.filling? t' = none → s1.launch? t.launch = some l → l.abort.isSome = true →
       exec (.teamHaltComplete tid) s = .next ((s1.checkAbort l.lid).failDraw t')) ∧
     (∀ l, s1.filling? t' = none → s1.launch? t.launch = some l → l.abort = none →
       let s2 := ((((s1.writeErrors t' l.ltag.toNat 0).updTeam tid fun t => { t with recorded := true }).settleFatal tid).updLaunch l.lid
         fun l => { l with fatal := true }).failDraw t'
       exec (.teamHaltComplete tid) s =
         .next (((if s2.groupOf l = 0 then s2 else s2.abortFrom l.lid 0).checkLaunch l.lid).checkAbort l.lid))) ∧
  (∀ (s : State),
     (∀ id a lane cause info, s.acc? id = some a → a.fatalLane = some (lane, cause, info) →
       exec (.deferredTrap id) s =
         .next ((s.dropWork id).deferTrap a.gid a.sl cause info a.pc a.issuedAt)) ∧
     (∀ ctx h, s.records.find? (fun h => h.ctx == ctx) = some h → s.errorFits ctx = true →
       exec (.errorRingRetry ctx) s =
         .next ((({ s with records := s.records.erase h } : State).putError ctx h.body).settleFatal h.team)) ∧
     (∀ ctx b, s.batches.find? (fun b => b.ctx == ctx) = some b → s.batchFits ctx b.recs.length = true →
       exec (.faultBatchRetry ctx) s = .next (({ s with batches := s.batches.erase b } : State).putBatch ctx b.recs)) ∧
     (∀ tid t g, s.team? tid = some t → t.life = .running →
       (t.groups.foldr (insertBy Sys2Proof.Machine.Group.grp) []).find? (fun g => s.deadlocked t g) = some g →
       let info := g.servedCode .a + g.servedCode .c * 16
       let sl : Slice := if g.a.live g.width = 0 then .c else .a
       exec (.qdeadlock tid) s =
         .next ((s.updGroup g.gid fun g => { g with qmaskf := g.qmask }).deadlockTrap g.gid sl info (g.slice .a).servedPc
           (g.slice .c).servedPc)) ∧
     (∀ tid sl t a g, s.team? tid = some t → t.life = .running → (t.arrivals sl).head? = some a →
       (t.groups.foldr (insertBy Sys2Proof.Machine.Group.grp) []).find? (fun g => t.missing sl g != 0) = some g →
       (s.ctx t.ctx).barto ≠ 0 → a.at_.toNat + (s.ctx t.ctx).barto.toNat * 1000 ≤ s.time.toNat →
       exec (.barrierStall tid sl) s =
         .next (s.fatalTrap g.gid sl 0x1C (g.grp + sliceNum sl * 32) (g.slice sl).servedPc none 0)))

/-- A migration: its doorbell, its check and first round, its later rounds, and its end, at which the leaf names the new frame and the cached
entry goes (R29 to R32).
Completion is shown of: migprodWrite, migrationCommandStart, migrationRoundEnd, migrationFreezeDone. -/
def Obligations.Migrations : Prop :=
  ∀ (s : State) (h : Nat), translates h = true →
    (∀ v, s.migBase h ≠ 0 → homeOf (s.migBase h) ≤ 3 → (v.toNat + 2 ^ 32 - s.migCons h) % 2 ^ 32 ≤ 64 →
      exec (.migprodWrite h v) s = .next (s.setReg (migRegs h).1 ((migRegs h).2 + 8) 4 v.toNat)) ∧
    (s.migBase h ≠ 0 → (s.home h).migNext ≠ s.migProd h → (s.home h).migs.length < 8 →
      let k := (s.home h).migNext
      let s1 := s.updHome h fun x => { x with migNext := (k + 1) % 2 ^ 32 }
      let bs := (s.hwRead (s.migAt h k) 32).getD (List.replicate 32 0)
      (∀ m, s1.migCheck h k bs = .ok m →
        exec (.migrationCommandStart h) s =
          let s2 := (s1.memWrite m.leafAt (plain (leBytes 8 (s1.memNat m.leafAt 8 + 4)))).evictSpan m.newF (2 ^ m.bits)
          .next ((s2.updHome h fun x => { x with migs := x.migs ++ [{ m with dirty := s2.migDue m }] }).copyLines h m
            (List.range (2 ^ (m.bits - 6))))) ∧
      (∀ st, s1.migCheck h k bs = .error st → exec (.migrationCommandStart h) s = .next (s1.migEnd h k st))) ∧
    (∀ k m, s.mig? h k = some m → m.reads = [] → m.acks = [] → m.frozen = false →
      exec (.migrationRoundEnd h k) s =
        .next (if m.dirty.length ≤ m.thresh ∨ m.maxRnd ≤ m.round then s.updMig h k fun m => { m with frozen := true }
          else (s.updMig h k fun m => { m with dirty := [], round := m.round + 1 }).copyLines h m m.dirty)) ∧
    (∀ k m, s.mig? h k = some m → m.reads = [] → m.acks = [] → m.frozen = true → s.migFlying m = false → m.dirty = [] →
      let leaf := newLeaf (s.memNat m.leafAt 8) (m.newF % 2 ^ 48 / 4096) (m.newF / 2 ^ 48) 0
      exec (.migrationFreezeDone h k) s =
        .next ((((s.memWrite m.leafAt (plain (leBytes 8 leaf))).retag m).updHome h fun x =>
          { x with tlb := x.tlb.filter fun t => !(decide (t.base < m.page + 2 ^ m.bits) && decide (m.page < t.base + 2 ^ t.bits)) }).migEnd h k 1))

/-- Entries written to a checked table: a good one is taken, a bad one leaves a record, and one whose V bit is clear ends what it held (R110,
R122, R133, R171 to R173, R336).
Completion is shown of: prtEntryWrite, fillTimeout, surfaceDescriptorWrite, contextDescriptorWrite, graphicsContextEntryWrite. -/
def Obligations.CheckedTables : Prop :=
  ∀ (s : State) (n : Nat),
    (∀ die bs, die ≤ 3 → n ≤ 63 → s.reg die 8 8 ≠ 0 → s.hwRead (s.reg die 8 8 + 64 * n) 64 = some bs →
      let s1 := s.updHome die fun x => { x with prts := x.prts.filter fun q => q.entry != n }
      let v := bitN (fieldAt bs 0 8) 0
      let bad := s1.prtBad die bs (prtOf n bs)
      (v = false → exec (.prtEntryWrite die n) s = .next s1) ∧
      (v = true → bad = false →
        exec (.prtEntryWrite die n) s = .next (s1.updHome die fun x => { x with prts := x.prts ++ [prtOf n bs] })) ∧
      (v = true → bad = true → exec (.prtEntryWrite die n) s =
        .next (s1.deviceRecord 0x10 (die * 64) (s1.stampOf (s.reg die 8 8 + 64 * n)) n (s.reg die 8 8 + 64 * n) 0))) ∧
    (∀ die blk m, s.merge? die n blk = some m → m.prt.ptmo ≠ 0 →
      m.since.toNat + m.prt.ptmo * 16000 ≤ s.time.toNat → exec (.fillTimeout die n blk) s = .next (s.failFill die n blk 0x16 4 0)) ∧
    (∀ k bs, s.phys (s.surfBase + 64 * n) = some k → s.hwRead (s.surfBase + 64 * n) 64 = some bs → s.surfBase ≠ 0 →
      let s1 : State := { s with descs := s.descs.filter fun d => d.1 != s.surfBase + 64 * n }
      let v := bitN (fieldAt bs 0 8) 0
      (v = false → exec (.surfaceDescriptorWrite n) s = .next s1) ∧
      (v = true → s1.surfBad n bs = false →
        exec (.surfaceDescriptorWrite n) s = .next { s1 with descs := (s.surfBase + 64 * n, bs) :: s1.descs }) ∧
      (v = true → s1.surfBad n bs = true →
        exec (.surfaceDescriptorWrite n) s =
          .next (s1.deviceRecord 0x13 (unitOf s.surfBase) (s.stamp (k / 65536)) n (s.surfBase + 64 * n) 0))) ∧
    (s.ctxBase ≠ 0 →
      let bs := s.hwBytes (s.descAt n) 512
      let v := bitN (fieldAt bs 0 4) 31
      (v = false → exec (.contextDescriptorWrite n) s = .next (s.updCtx n fun c => { c with valid := false })) ∧
      (v = true → (s.ctx n).valid = false → descBad n bs = false → s.ctxBusy n = false →
        exec (.contextDescriptorWrite n) s = .next (s.acceptCtx n bs)) ∧
      (v = true → (s.ctx n).valid = false → descBad n bs = true →
        exec (.contextDescriptorWrite n) s =
          .next (s.deviceRecord 0x14 (unitOf s.ctxBase) (s.stampOf (s.descAt n)) n (s.descAt n) 0))) ∧
    (s.gfxBase ≠ 0 →
      let bs := s.hwBytes (s.gfxAt n) 64
      let v := bitN (fieldAt bs 0 8) 0
      let held := s.gfx.any fun g => g.1 == n
      (v = false → exec (.graphicsContextEntryWrite n) s = .next { s with gfx := s.gfx.filter fun g => g.1 != n }) ∧
      (v = true → held = false → gfxBad bs = false →
        exec (.graphicsContextEntryWrite n) s = .next { s with gfx := s.gfx ++ [(n, bs)] }) ∧
      (v = true → held = false → gfxBad bs = true →
        exec (.graphicsContextEntryWrite n) s =
          .next (s.deviceRecord 0x14 (unitOf s.gfxBase) (s.stampOf (s.gfxAt n)) n (s.gfxAt n) 0)))

/-! ## Events: launches, storage and the issue cycle -/

/-- A kick serves both rings of a context and tests the readiness of every launch; at most 2^LQLOG packets may be outstanding, and a message
from a slot without KICK does nothing. The dispatcher's turn is of the highest level that can place something, and TEAM_PLACE places its
team. A launch left waiting rises by a level for every full AGELIM, up to 21; one of the highest level that has waited 100 µs keeps a core
for itself; a deadline launch holds its cores at T_start and the tile passes past their budget there are given up (R152, R153, R177 to R183,
R187, R320, R338, R345, R359).
Completion is shown of: kick, teamPlace, levelAging, placementReserve, deadlineHold. -/
def Obligations.Launching : Prop :=
  (∀ (s : State) (ctx : Nat),
     exec (.kick (.own ctx)) s = .next (((s.kickLaunches ctx).kickDraws ctx).testReady) ∧
     (∀ h, s.linkOpen = true → s.arrival h.slot h.seq = .fresh →
       ((s.endpoint h.slot).kick = false → exec (.kick (.message h ctx)) s = .next s) ∧
       ((s.endpoint h.slot).kick = true →
         exec (.kick (.message h ctx)) s = .next ((((s.accept h.slot h.seq).kickLaunches ctx).kickDraws ctx).testReady))) ∧
     (s.ctxBase = 0 ∨ (s.ctx ctx).valid = false → s.kickLaunches ctx = s) ∧
     (s.ctxBase ≠ 0 → (s.ctx ctx).valid = true →
       let cons := (s.ctx ctx).lqcons.toNat
       let n := ringCount (s.descNat ctx 20) cons
       (2 ^ (s.ctx ctx).lqlog < n → s.kickLaunches ctx = s.deviceRecord 0x18 0 (s.ctx ctx).owner ctx 0 0) ∧
       (n ≤ 2 ^ (s.ctx ctx).lqlog → s.kickLaunches ctx =
         (List.range n).foldl (fun (s' : State) i => s'.takePacket ctx ((cons + i) % 2 ^ 32)) s)) ∧
     (∀ l ∈ s.testReady.launches, l.ready = (s.eventMet l.wait0 l.wval0 && s.eventMet l.wait1 l.wval1))) ∧
  (∀ (s : State),
     (∀ l p, s.readHeaders.aged.turn = some (l, .team p) → exec .teamPlace s = .next ((s.readHeaders.aged.served l).placeTeam l p)) ∧
     (∀ lv l t, s.turn = some (l, t) → s.turnAt lv = some (l, t) → ∀ v, lv < v → v < 24 → s.turnAt v = none) ∧
     (∀ lv l t, s.turnAt lv = some (l, t) → l ∈ s.launches ∧ l.lv = lv ∧ s.turnOf l = some t ∧ s.waiting l = true) ∧
     (∀ lid, exec (.levelAging lid) s = .next (s.updLaunch lid s.agedLaunch)) ∧
     (∀ l : Launch, l.dl = false → (s.ctx l.ctx).agelim ≠ 0 → l.lv ≤ 21 → s.waiting l = true → ¬(l.kind.fills = true ∧ l.next ≠ 0) →
       (s.agedLaunch l).lv = min 21 (l.lv + (s.time.toNat - l.since.toNat) / ((s.ctx l.ctx).agelim * 1000))) ∧
     (∀ lid l c cs t, s.launch? lid = some l → s.waiting l = true → l.dl = false → l.resv = none →
       (∀ m ∈ s.launches, s.waiting m = true → m.lv ≤ l.lv) → l.waits.toNat + 100000 ≤ s.time.toNat → s.turnOf l = none →
       (s.without l.lv).turnOf l = some t → t.cores = c :: cs →
       exec (.placementReserve lid) s =
         .next (((c :: cs).foldl (fun (s : State) c => s.updCore c fun k => { k with kept := some lid }) s).updLaunch lid fun l =>
           { l with resv := some c })) ∧
     (∀ lid l, s.launch? lid = some l → l.dl = true → l.checked = true → l.holding = false → l.start ≤ (s.time.toNat : Int) →
       exec (.deadlineHold lid) s =
         .next (((((l.cores.foldl (fun (u : State) c => u.updCore c fun k =>
           { k with dlHeld := k.dlHeld ++ [lid], heldAt := u.time }) s).updLaunch lid
             fun l => { l with holding := true }).stopCores l.cores none).abandonSpent).govern)))

/-- When the dispatcher's turn is that, a stopped team is rebuilt if its image is found good and is refused otherwise, and a team that CREST
brought back is rebuilt. A created group becomes resident; a drained green-room group returns its storage, and its team ends with its last
group; storage that frees up serves a waiting RACQ. That the emergency reserve of an idle core adds to the free blocks what a RACQ still
lacks, counted in quarters of a block, is the model's choice (DEDUCED, log 46) (R151, R161 to R163, R166, R184, R193 to R196, R240, R325).
Completion is shown of: teamRestore, groupCleared, groupRetire, emergencyReserveGrant, racqGrant. -/
def Obligations.TeamsAndGroups : Prop :=
  (∀ (s : State) (tid : Nat) (t : Team), s.team? tid = some t →
     (∀ l p, t.life = .placing → s.aged.turn = some (l, .back tid p) →
       exec (.teamRestore tid) s = .next (((s.aged.served l).rebuild t p).placed l.lid)) ∧
     (∀ (l : Launch) (p : Spot) (seq : W32) (run units : Nat), t.life = .stopped seq run units none →
       s.aged.turn = some (l, .back tid p) →
       let u := s.aged.served l
       let c := u.ctx t.ctx
       let bs := u.hwGet (c.savebase.toNat + run * 65536) t.imageLen
       let r := u.updCtx t.ctx fun c => { c with runs := c.runs.erase (run, units) }
       (u.checkSaved t bs ≠ 0 → exec (.teamRestore tid) s = .next (r.refuseRestore t (u.checkSaved t bs))) ∧
       (u.checkSaved t bs = 0 → exec (.teamRestore tid) s =
         .next (((r.setSave ((r.save t.ctx).mark (fieldAt (bs.take 64) 4 4))).rebuild
           (t.fromBody (c.bodyOf (bs.take 64) ((bs.drop 64).take t.bodyLen))) p).placed t.launch)))) ∧
  (∀ (s : State),
     (∀ gid, exec (.groupCleared gid) s =
       .next (s.updGroup gid fun g => if g.life = .created then { g with life := .resident } else g)) ∧
     (∀ gid t g, s.teamOf? gid = some t → t.group? gid = some g → g.life = .green → t.life = .running → s.drained gid = true →
       ((∀ x ∈ t.groups, x.gid = gid) →
         exec (.groupRetire gid) s = .next ((s.touchPixels t g).teamRetired t (min g.step t.minStep))) ∧
       ((∃ x ∈ t.groups, x.gid ≠ gid) →
         exec (.groupRetire gid) s = .next (((s.touchPixels t g).freeGroup g).updTeam t.id fun t =>
           { t with groups := t.groups.filter fun x => x.gid != gid, minStep := min t.minStep g.step }))) ∧
     (∀ gid t g n r, s.teamOf? gid = some t → t.group? gid = some g → g.racq? = some n → t.life.holds = true →
       s.raiseBlocks g (s.ctx t.ctx).owner n = some r → exec (.racqGrant gid) s = .next (r.wakeRacq gid)) ∧
     (∀ c g n qs, s.coreIdle c = true → ((s.coreGroups c).filter fun g => g.life == .resident).find? (fun g => g.racq?.isSome) = some g →
       g.racq? = some n →
       let k := n - g.held
       let owner := ((s.teamOf? g.gid).map fun t => (s.ctx t.ctx).owner).getD 0xFFF
       let free := ((List.range (k + 1)).reverse.find? fun k => (s.generalBlocks c g.width k g.ownSlot).isSome).getD 0
       let lack := (k - free) * quartersOf g.width
       lack ≤ (s.core c).reserve → takeQuarters (quartersOf g.width) k (s.usedQuarters c) = some qs →
       exec (.emergencyReserveGrant c) s = .next ((s.addBlocks g owner qs lack).wakeRacq g.gid)))

/-- An issue cycle lets a free length of time pass, has the fields start that have come, gives up the tile passes past their budget, reads back
what the split stacks of woken fragments need, makes the switches of the fetch slots that must be made, and offers the served fragments that
wait for nothing. The choice among them picks at most two, in the order offered, no two of one class but the last. A slice whose switch is
due serves its next fragment; a fill brings the line that a fragment waits for, or meets a trap or a missing page (R12, R20 to R23, R155 to
R160, R161, R163, R173 to R176, R182, R345). How long a cycle takes is the model's free choice (DESIGN CHOICE, log 5), and so are LANE 0 and
LMASK 0 in the record of a missed page of code (DEDUCED, log 78).
Completion is shown of: issueCycle, fetchSlotSwitch, icacheFill. -/
def Obligations.IssueCycles : Prop :=
  ∀ (s : State),
    (∀ core,
      let s0 := (s.passTime (s.time + Config.freeTime s.free)).abandonSpent
      let s1 : State := { s0 with
        free := s0.free + 1,
        teams := s0.teams.map fun (t : Team) => { t with groups := t.groups.map fun (g : Sys2Proof.Machine.Group) =>
          if g.core = core then { g with a := g.a.unmark, c := g.c.unmark } else g } }
      let s2 := ((s.groupsOn core).foldl (fun (s : State) g => (s.refill g.gid .a g.a.stackUse).refill g.gid .c g.c.stackUse) s1).steered core
      exec (.issueCycle core) s = .next { s2 with offered := s2.candidates core, due := s2.due ++ s2.fieldsDue }) ∧
    s.choose.picked.length ≤ 2 ∧ s.choose.offered = [] ∧ s.choose.picked.Sublist s.offered ∧
    (∀ gid sl t g, s.teamOf? gid = some t → t.group? gid = some g → s.switchDue t g sl = true →
      exec (.fetchSlotSwitch gid sl) s = .next (s.updSlice gid sl SliceSt.switch)) ∧
    (∀ gid sl t g f x, s.teamOf? gid = some t → t.group? gid = some g →
      (g.slice sl).frags.find? (fun f => f.wait == .fetch && s.codeMissing t g f) = some f →
      let w : Issuer := { gid := gid, sl := sl, slot := f.slot }
      s.issuer w = some x →
      (∀ b u, s.fillWord w x f.pc.toNat = (.ok b, u) → exec (.icacheFill gid sl) s = .next (u.fillLine w x f.pc.toNat)) ∧
      (∀ u, s.fillWord w x f.pc.toNat = (.later, u) → exec (.icacheFill gid sl) s = .next u) ∧
      (∀ c i u, s.fillWord w x f.pc.toNat = (.trap c i, u) →
        exec (.icacheFill gid sl) s = .next (u.trapIn (s.fetchEnv w x) c i)) ∧
      (∀ v u, s.fillWord w x f.pc.toNat = (.wait v, u) →
        exec (.icacheFill gid sl) s = .next (u.updFrag gid sl f.slot fun f => { f with wait := v })) ∧
      (∀ va ia page b u, s.fillWord w x f.pc.toNat = (.miss va ia page b, u) →
        let e := s.fetchEnv w x
        (u.queueOk e.c.num = false → exec (.icacheFill gid sl) s = .next (u.trapIn e 0x12 fatalQueue)) ∧
        (u.queueOk e.c.num = true →
          let hd : FaultHead :=
            { path := 7, write := false, slice := sliceNum sl, core := g.core, gslot := g.slot, ctx := e.c.num, itag := u.fresh.1 }
          exec (.icacheFill gid sl) s =
            .next ((u.fresh.2.faultBatch e.c.num (pageKey e.gid e.sl page) [faultRecord hd va ia b 0 0 true false 0]).updFrag gid sl f.slot fun f =>
              { f with wait := .page (BitVec.ofNat 52 page) b }))))

/-! ## Events: graphics and composition -/

/-- A draw: its mesh launch starts once its WAIT is met; its primitives are sorted into the lists of the tiles they touch, and their records and
references fill free pages of the pool, or the draw is dropped. Tile passes and their invocations start when the dispatcher's turn is
theirs: a pass loads its colour plane, and an invocation takes one primitive: without a covered group it is over at once, and otherwise its
team is placed on the pass's core. A pass that is over releases its core at DEV, and then copies to TARGET the pixels it touched that may be
written, and the last tile ends the draw; a pass past its budget under a hold is given up and leaves its tile for a later one (R138, R179,
R338, R340 to R346). That the records and lists lie on the lowest free pages of the pool is the model's choice (DESIGN CHOICE, log 34), and
so is that a write-out waits for every message that is not acknowledged (DEDUCED, log 126).
Completion is shown of: graphicsPacketStart, binning, tilePassStart, tileInvocationStart, tileWriteOut, tilePassAbandon. -/
def Obligations.Drawing : Prop :=
  (∀ (s : State),
     (∀ ctx d, s.draws.find? (fun d => d.ctx == ctx) = some d → d.header = none → d.stage = .queued → s.draw? d.did = some d →
       (s.ctx ctx).valid = true →
       s.eventMet (BitVec.ofNat 64 (fieldAt d.bytes 48 8)) (BitVec.ofNat 64 (fieldAt d.bytes 56 8)) = true →
       (d.isCapture = true → exec (.graphicsPacketStart ctx) s = .next (s.updDraw d.did fun d => { d with stage := .capture })) ∧
       (d.isCapture = false → exec (.graphicsPacketStart ctx) s =
         .next (({ s.fresh.2 with launches := s.fresh.2.launches ++ [meshLaunch s.fresh.1 d s.time] } : State).updDraw d.did fun d =>
           { d with stage := .mesh, launch := s.fresh.1 }))) ∧
     (∀ did d, s.draw? did = some d → d.stage = .mesh → d.fatal = false →
       let left := (∃ l ∈ s.launches, l.lid = d.launch) ∨ ∃ t ∈ s.teams, t.kind.draw? = some did
       (s.targetOf? d = none → ¬left → exec (.binning did) s = .next (s.endDraw d 1)) ∧
       (∀ f, s.targetOf? d = some f →
         let all := (d.outputs.flatMap fun o => o.2.2.1.passed o.1 o.2.1).mergeSort fun a b => primLe a.order b.order
         let prims := all.filter fun p => !(primTiles p.words f.w f.h).isEmpty
         let tiles := (prims.flatMap fun p => primTiles p.words f.w f.h).eraseDups
         let lists := tiles.map fun t => (t, (prims.zipIdx.filter fun p => (primTiles p.1.words f.w f.h).contains t).map (·.2))
         let pages := binContents prims lists
         let free := s.binFree did
         let full := s.binBase = 0 ∨ s.binLen % 2 ^ 32 = 0 ∨ d.binmax < pages.length ∨ free.length < pages.length
         (full → exec (.binning did) s =
           .next (((s.teams.filter fun t => t.kind.draw? == some did).foldl State.endTeam s).endDraw d 9)) ∧
         (¬full → ¬left → lists = [] → exec (.binning did) s = .next (s.endDraw d 1)) ∧
         (¬full → ¬left → lists ≠ [] →
           let s1 := (free.zip pages).foldl (fun (s : State) x => s.fillPage (s.ctx d.ctx).owner x.1 x.2) s
           exec (.binning did) s =
             .next (({ s1.fresh.2 with launches := s1.fresh.2.launches ++ [tileLaunch s1.fresh.1 d s1.time] } : State).updDraw did fun d =>
               { d with stage := .tiles, launch := s1.fresh.1, outputs := [], pages := free.take pages.length, prims := prims, lists := lists,
                        binned := true })))) ∧
     (∀ did tile c base l d f, s.aged.turn = some (l, .pass tile c base) → s.aged.tileDraw l = some (d, f) → d.did = did →
       let s1 := ((s.aged.served l).startCaches c).claimScratch c base d.tileBytes (s.ctx d.ctx).owner
       let o := f.tileOrigin tile
       exec (.tilePassStart did tile c) s =
         .next ((((List.range 1024).foldl (fun (s : State) p =>
           let r := s.pixelBytes f (s.ctx d.ctx).prot (o.1 + p % 32) (o.2 + p / 32)
           r.2.updCore c fun k => k.spadWrite (base + planeOfs p f.bpp) r.1) s1).updDraw did fun d =>
             { d with passes := d.passes ++
               [{ tile := tile, core := c, base := base, sub := 0, nextPrim := 0, touched := [], team := none }] }).placed l.lid)) ∧
     (∀ did d p, s.draw? did = some d →
       d.passes.find? (fun p => ((s.core p.core).held.isSome || !(s.core p.core).dlHeld.isEmpty) && s.budgetSpent p.core) = some p →
       exec (.tilePassAbandon did) s = .next (s.dropPass d p))) ∧
  (∀ (s : State) (did : Nat) (l : Launch) (d : Draw) (f : Surf) (p : TilePass) (used : List Nat),
     s.aged.tileDraw l = some (d, f) → d.did = did →
     (s.aged.turn = some (l, .invocation p used none) →
       exec (.tileInvocationStart did) s =
         .next (((s.aged.served l).updPass did p.tile fun _ => { p with nextPrim := p.nextPrim + 1, team := none }).placed l.lid)) ∧
     (∀ fits base, s.aged.turn = some (l, .invocation p used (some (fits, base))) →
       ∃ t team, exec (.tileInvocationStart did) s = .next t ∧ t.teams.getLast? = some team ∧ team.id = s.fresh.1 ∧
         team.ctx = d.ctx ∧ team.level = l.lv ∧ team.kern = d.fkern ∧ team.groups.map (·.grp) = used.take fits.length ∧
         ∀ g ∈ team.groups, g.core = p.core)) ∧
  (∀ (s : State) (did : Nat) (d : Draw) (f : Surf), s.draw? did = some d → d.fatal = false → s.targetOf? d = some f →
     ∀ p, d.passes.find? d.passOver = some p →
       let o := f.tileOrigin p.tile
       let s0 := s.release p.core .dev
       (s.passSpent p = true → exec (.tileWriteOut did) s = .next (s.dropPass d p)) ∧
       (s.passSpent p = false → s0.unacked ≠ [] → exec (.tileWriteOut did) s = .next s0) ∧
       (s.passSpent p = false → s0.unacked = [] →
       let s1 := (p.touched.foldl (fun (s : State) i =>
         let x := o.1 + i % 32
         let y := o.2 + i / 32
         if s.mayWriteOut d f x y then s.putPixel f x y ((s.core p.core).spadRead (p.base + planeOfs i f.bpp) f.bpp) f.owner
         else s) s0).endPass did p true
       exec (.tileWriteOut did) s = .next (match s1.draw? did with
         | none => s1
         | some d => if d.lists.all fun l => d.doneTiles.contains l.1 then s1.endDraw d 1 else s1)))

/-- An enabled output starts its fields on time, composes them and counts them; a write of its control register enables it only within the
composition bandwidth; and the lines that remain when HDCP stops are composed again (R146, R350, R351, R353 to R355, R366). That a PERIOD of
0 refuses an enable and that a refused write keeps IL (DEDUCED, log 67), that a sender's block is checked at that write (DEDUCED, log 127)
and that the line at which HDCP stops is free (DESIGN CHOICE, log 66) are the model's choices.
Completion is shown of: fieldStart, outputEnable, hdcpStateChange. -/
def Obligations.Outputs : Prop :=
  ∀ (s : State) (v : Nat),
    (∀ k tf, s.viewEn v = true → s.fieldNow v = some (k, tf) →
      let s1 := (s.updView v fun x => { x with nextField := BitVec.ofNat 64 (tf + 1), sel := bitN (s.viewReg v 0x10 4) 0 })
      let s2 := s1.setReg 0 (0x100034 + 0x40 * v) 4 (s1.viewReg v 0x34 4 + 1)
      let s3 := s2.owners.foldl (fun (s : State) o => s.latchOwner v tf o) s2
      let il := bitN (s3.viewReg v 0x1C 4) 30
      let s4 := s3.compose v fun y => !il || (y : Int) % 2 == k % 2
      let s5 := (s4.capturesAt v tf).foldl State.capture s4
      let s6 := s5.owners.foldl State.departures s5
      exec (.fieldStart v) s =
        .next (if (s6.fieldNow v).isSome then { s6 with due := s6.due ++ [.fieldStart v] } else s6)) ∧
    (∀ w : W32,
      let off := 0x10001C + 0x40 * v
      let was := bitN (s.viewReg v 0x1C 4) 31
      let err := bitN (s.viewReg v 0x1C 4) 29 && !bitN w.toNat 29
      let put := fun (en il err : Bool) => s.setReg 0 off 4 (boolNat en * 2 ^ 31 + boolNat il * 2 ^ 30 + boolNat err * 2 ^ 29)
      let il := bitN w.toNat 30
      let err' := err || (decide (4 ≤ v) && s.senderBad (v - 4))
      (bitN w.toNat 31 = false →
        let off := (put false il err).emit v
        exec (.outputEnable v w) s = .next (off.owners.foldl State.departures off)) ∧
      (bitN w.toNat 31 = true → (∀ b, s.bandwidth v il = some b → s.fitsBandwidth v b = false) →
        exec (.outputEnable v w) s = .next (put was (bitN (s.viewReg v 0x1C 4) 30) true)) ∧
      (∀ b, bitN w.toNat 31 = true → s.bandwidth v il = some b → s.fitsBandwidth v b = true →
        (was = true → exec (.outputEnable v w) s = .next (put true il err')) ∧
        (was = false → exec (.outputEnable v w) s =
          .next (((put true il err').setReg 0 (0x100034 + 0x40 * v) 4 0).updView v fun x => { x with nextField := s.time })))) ∧
    (∀ active,
      let s1 := s.updView v fun x => { x with hdcp := active }
      let again := (s.view v).hdcp && !active && decide (v ≤ 3) && s1.viewEn v
      (again = false → exec (.hdcpStateChange v active) s = .next s1) ∧
      (again = true → exec (.hdcpStateChange v active) s =
        .next (s1.freeW.2.compose v fun y => decide (s1.freeW.1.toNat % s1.freeW.2.viewH v ≤ y))))

/-! ## Events: Vanar -/

/-- A message that has not been accepted yet is performed once, one already accepted is acknowledged again and its stored response sent again,
one of no endpoint is counted and dropped, and none is taken while the ports are down. Configuration reads and writes come from a slot with
CFG; an abort and a step of a collective count when a peer that MEMBERS names has sent them; the others are the answers to the device's own
requests (R359, R361, R362, R367, R380, R383). The bytes of a firmware image come in recovery mode, and its end has it verified: that any of
the slots 8 to 14 may then send it is the model's choice (DEDUCED, log 83).
Completion is shown of: cfgread, cfgwrite, recovery, vanarAbort, vanarStep, vanarResponse. -/
def Obligations.Messages : Prop :=
  (∀ (s : State) (h : MsgHdr) (go : State → State),
     (s.linkOpen = false → s.once h go = s) ∧
     (s.linkOpen = true →
       (s.arrival h.slot h.seq = .fresh ∨ s.arrival h.slot h.seq = .again → s.once h go = go s) ∧
       (s.arrival h.slot h.seq = .dup → s.once h go = s.dupe h.slot h.seq ∧
         (∀ x ∈ (s.dupe h.slot h.seq).streams, x.slot = h.slot → x.unackd = true) ∧
         ∀ m ∈ ((s.dupe h.slot h.seq).stream h.slot).out, ∃ m' ∈ (s.stream h.slot).out, m = { m' with since := m.since } ∧
           (m'.sent = true → (∃ y ∈ (s.stream h.slot).stored, y.req = h.seq ∧ y.rsp = m'.seq) → m.since = s.time)) ∧
       (s.arrival h.slot h.seq = .far → s.once h go = s) ∧
       (s.arrival h.slot h.seq = .unknown → s.once h go = s.countDiscard (s.portFor h.slot)))) ∧
  (∀ (s : State) (h : MsgHdr), s.arrival h.slot h.seq = .fresh →
     (∀ size, s.linkOpen = true → (s.endpoint h.slot).cfg = true → cfgGood h.addr size = true →
       exec (.cfgread h size) s =
         .next (s.respond h 5 0 (leBytes size (s.regRead (cfgDie h.addr) (cfgOff h.addr) size)))) ∧
     (∀ size, s.linkOpen = true → (s.endpoint h.slot).cfg = true → cfgGood h.addr size = false →
       exec (.cfgread h size) s = .next (s.respond h 5 3 [])) ∧
     (∀ size v, s.linkOpen = true → (s.endpoint h.slot).cfg = true →
       let t := s.accept h.slot h.seq
       exec (.cfgwrite h size v) s =
         .next (if cfgGood h.addr size then
           { t with due := t.due ++ [.registerWrite (cfgDie h.addr) (cfgOff h.addr) size v] } else t)) ∧
     (∀ len bytes, s.ghost = false → s.urxia.recovery = true →
       let data := bytes.take len
       exec (.recovery h len bytes) s =
         .next (if data ≠ [] then
             ({ s with urxia := { s.urxia with image := patch s.urxia.image h.addr.toNat data } } : State).respond h 7 0 []
           else if imageGood s.urxia.image then (s.respond h 7 0 []).acceptImage s.urxia.image
           else ({ s with urxia := { s.urxia with image := [] } } : State).respond h 7 3 [])) ∧
     (∀ cgid code, s.linkOpen = true →
       let t := s.accept h.slot h.seq
       exec (.vanarAbort h cgid code) s =
         .next (if 8 < h.slot ∧ bitN (t.members cgid) (h.slot - 8) = true then t.abortGroup cgid code.toNat else t)) ∧
     (∀ cgid n, s.linkOpen = true →
       let t := s.accept h.slot h.seq
       exec (.vanarStep h cgid n) s =
         .next (if 8 < h.slot ∧ bitN (t.members cgid) (h.slot - 8) = true then t.memberStep cgid (h.slot - 8) n else t)) ∧
     (∀ st data, s.linkOpen = true →
       exec (.vanarResponse h st data) s = .next ((s.accept h.slot h.seq).vanarResponse h st.toNat data)))

/-- READ, WRITE and ATOMIC from an endpoint are performed at their home, with the owner of the endpoint, an ATOMIC of an aperture is refused,
and the acknowledgement of a WRITE follows the write (R20, R357, R359 to R362). That a READ or ATOMIC of poison is answered with status 1 is
the model's choice (DEDUCED, log 74).
Completion is shown of: vanarRead, vanarWrite, vanarAtomic. -/
def Obligations.EndpointRequests : Prop :=
  ∀ (s : State) (h : MsgHdr) (scope : Scope) (ord : Order) (key : Nat) (ow : Id12) (pr : Bool) (t : State),
    s.linkOpen = true → s.arrival h.slot h.seq = .fresh → (s.endpoint h.slot).owner ≠ 0xFFF →
    let ia := h.addr.toNat % 2 ^ 52
    (∀ count, isPow2 count = true → h.addr.toNat % count = 0 → inAperture ia = false →
      s.gate (s.slotReq h.slot false) ia = (.go key ow pr, t) →
      let r := t.homeRead ia key count
      exec (.vanarRead h count scope ord) s =
        .next (if (anyPoison r.1).isSome then r.2.respond h 1 1 [] else r.2.respond h 1 0 (values r.1))) ∧
    (∀ data, data ≠ [] → ia % 256 + data.length ≤ 256 → s.gate (s.slotReq h.slot true) ia = (.go key ow pr, t) →
      exec (.vanarWrite h scope ord data) s = .next ((t.homeWrite ia key (plain data)).accept h.slot h.seq)) ∧
    (∀ aop ty v new, aop.toNat ≤ 10 → Encoding.aopTy aop.toNat ty = true → h.addr.toNat % ty.size = 0 → inAperture ia = false →
      s.gate (s.slotReq h.slot true) ia = (.go key ow pr, t) →
      let r := t.homeRead ia key ty.size
      exec (.vanarAtomic h aop ty scope ord v new) s =
        .next (if (anyPoison (r.2.memRead (key / 8 * 8) 8)).isSome then r.2.respond h 3 1 [] else
          (r.2.homeWrite ia key (plain (atomBytes aop.toNat ty (leBytes ty.size v.toNat ++ leBytes ty.size new.toNat) (values r.1)))).respond
            h 3 0 (leBytes 8 (leNat (values r.1))))) ∧
    (∀ aop ty v new, aop.toNat ≤ 10 → Encoding.aopTy aop.toNat ty = true → h.addr.toNat % ty.size = 0 → inAperture ia = true →
      exec (.vanarAtomic h aop ty scope ord v new) s = .next (s.respond h 3 1 []))

/-- Streams: the sent messages that an ACK covers are done, an ACK covers what was accepted, messages are sent again, change ports or end, and a
pause of the link partner is kept until it releases the priority, whose waiting messages then go (R359, R360, R362 to R364, R367). That only
the newest ACK is kept is the model's choice (DESIGN CHOICE, log 76), and so is that a pause holds back the messages not sent yet (DEDUCED,
log 129).
Completion is shown of: ack, ackDue, collectiveStepTimeout, resendTimeout, pathFailureTimeout, linkDown, portProbe, vanarFrameDiscard,
priorityPause. -/
def Obligations.Streams : Prop :=
  ∀ (s : State) (slot : Nat),
    (∀ e accepted, exec (.ack slot e accepted) s =
      .next (((s.stream slot).out.filter fun m => m.sent && acksSeq e accepted m.seq).foldl (fun (s : State) m => s.ackOne slot m) s)) ∧
    ((s.stream slot).unackd = true →
      exec (.ackDue slot) s = .next (s.updStream slot fun x => { x with unackd := false, acks := [(x.e, x.accepted)] })) ∧
    (∀ cgid member, 1 ≤ member → member ≤ 6 →
      (∃ l ∈ s.launches, l.cgid = cgid ∧ l.abort.isSome = true ∧ l.abortAt.toNat + s.vtmo ≤ s.time.toNat) →
      exec (.collectiveStepTimeout cgid member) s = .next (s.memberStep cgid member 0)) ∧
    (∀ seq m, (s.stream slot).sent? seq = some m →
      (s.allFailed slot m = false → m.since.toNat + s.rto ≤ s.time.toNat →
        (m.tries < 2 → exec (.resendTimeout slot seq) s =
          .next (s.updStream slot fun x =>
            { x with out := updWhere x.out (fun y => y.seq == seq) fun y => { y with tries := y.tries + 1, since := s.time } })) ∧
        (2 ≤ m.tries → exec (.resendTimeout slot seq) s = .next (s.failover slot m.port))) ∧
      (s.allFailed slot m = true → m.rsp = false → m.cls ≠ 0 → m.since.toNat + s.vtmo ≤ s.time.toNat →
        let s1 := (s.dropMsg slot seq).forgetRead slot seq
        (∀ a i l, findAcc s1.accs (.sent slot m.seq) = some (a, i, l) → a.kind ≠ .store →
          exec (.pathFailureTimeout slot seq) s = .next ((s1.laneFails a i fatalLink).logMisses a.id)) ∧
        (∀ a i l, findAcc s1.accs (.sent slot m.seq) = some (a, i, l) → a.kind = .store →
          exec (.pathFailureTimeout slot seq) s = .next ((s1.loseStores [(a.gid, a.sl)] l.lane).dropLane a i)) ∧
        (∀ e u, findAcc s1.accs (.sent slot m.seq) = none → findUnit s1.engs (.sent slot m.seq) = some (e, u) →
          exec (.pathFailureTimeout slot seq) s = .next (s1.engFatal e fatalLink)))) ∧
    (∀ p, exec (.linkDown p) s =
      .next ((List.range 16).foldl (fun (s : State) slot => s.failover slot p)
        { s with ports := updAt s.ports p fun x => { x with up := false } })) ∧
    (∀ p,
      let back := fun (m : Msg) => if p ∈ m.failedPorts then
          { m with failedPorts := m.failedPorts.filter (· != p), since := s.time, port := if m.port ∈ m.failedPorts then p else m.port }
        else m
      exec (.portProbe p true) s =
        .next ((s.streams.map Stream.slot).foldl State.pump
          { s with ports := updAt s.ports p fun x => { x with up := true },
                   streams := s.streams.map fun x => { x with failed := x.failed.filter (· != p), out := x.out.map back } })) ∧
    (∀ p frame, exec (.vanarFrameDiscard ⟨p, frame⟩) s =
      .next (if s.frameBad frame then { s with ports := updAt s.ports p fun x => { x with discard := x.discard + 1 } } else s)) ∧
    (∀ p prio stop, exec (.priorityPause p prio stop) s =
      .next ((s.streams.map Stream.slot).foldl State.pump
        { s with ports := updAt s.ports p fun x =>
          { x with paused := if stop then (if x.paused.contains prio then x.paused else prio :: x.paused)
                             else x.paused.filter (· != prio) } }))

/-! ## Events: power and platform -/

/-- The governor: each step of a level change, the power measurements, the stall samples, the timing errors, and the cooling reports with their
fallback (R368 to R372, R374, R378). That the fallback takes the band of the last temperature, or band 7 (DEDUCED, log 57), and sends one
record while it lasts (DESIGN CHOICE, log 114) are the model's choices.
Completion is shown of: voltageRampDone, fclkChangeDone, clockCrossingDone, powerSample, stallSample, timingErrorEncore, commit,
coolReportMissing. -/
def Obligations.Governor : Prop :=
  ∀ (s : State),
    (∀ cl, (s.cluster cl).step = .rampUp ∨ (s.cluster cl).step = .rampDown →
      exec (.voltageRampDone cl) s = .next (s.clusterStep cl fun k => { k with volt := k.goal })) ∧
    (∀ cl, (s.cluster cl).step = .clock →
      exec (.fclkChangeDone cl) s = .next (s.clusterStep cl fun k => { k with level := k.goal })) ∧
    (∀ cl, (s.cluster cl).step = .crossing →
      exec (.clockCrossingDone cl) s = .next (s.clusterStep cl fun k => { k with ratio := k.goal })) ∧
    (∀ watts p, s.limPower = some p →
      let cs := s.clusters.map fun (k : Cluster) => { k with sampleEncores := 0 }
      (p < watts →
        let s1 : State := { s with
          overload := s.overload + 1, calm := 0,
          clusters := cs.map fun (k : Cluster) => { k with gr := if 2 < k.gr then k.gr - 1 else k.gr } }
        exec (.powerSample watts) s =
          .next (if 10 < s.overload + 1 ∧ (s.overload + 1) % 10 = 1 then s1.lowerCap else s1).govern) ∧
      (watts * 100 < 95 * p →
        let s1 : State := { s with overload := 0, calm := s.calm + 1, clusters := cs }
        exec (.powerSample watts) s =
          .next (if 100 < s.calm + 1 ∧ (s.calm + 1) % 10 = 1 then s1.restoreStep else s1).govern) ∧
      (watts ≤ p → 95 * p ≤ watts * 100 →
        exec (.powerSample watts) s = .next ({ s with overload := 0, calm := 0, clusters := cs } : State).govern)) ∧
    (∀ cl m i, exec (.stallSample cl m i) s =
      .next (s.updCluster cl fun k => { k with stallmem := stallNext k.stallmem m, stalliss := stallNext k.stalliss i })) ∧
    (∀ cl, exec (.timingErrorEncore cl) s = .next (s.updCluster cl fun k =>
      { k with encore := if k.encore = 0xFFFFFFFF then k.encore else k.encore + 1, sampleEncores := k.sampleEncores + 1,
               extraFloor := if k.sampleEncores = 16 then k.extraFloor + 1 else k.extraFloor }).govern) ∧
    exec .commit s =
      .next ({ s with board := { s.board with
        report := some (s.board.cooltemp.toInt, s.board.coolflow.toNat, s.board.medium.toNat % 4), reportAt := s.time } } : State).applyReport ∧
    (s.board.reportAt.toNat + 10 ^ 9 ≤ s.time.toNat →
      let best := s.urxia.tables.foldl (fun (b : Option LimitTable) t =>
        match b with
        | none => some t
        | some x => if t.plim < x.plim then some t else b) none
      let band := (best.bind fun t => t.bandAt ((s.board.report.map (·.1)).getD 0)).getD 7
      let t := s.setLimits true ((best.map (·.medium)).getD 0) band 4
      exec .coolReportMissing s = .next (if bitN s.ltstat 31 then t else t.deviceRecord 0x23 0 0xFFF 0 0 0))

/-- The ghost light: an entry is refused while something still runs, or leaves only the retained region and the island; a wake phrase or the
timeout drives WAKE_N, the host releases it, and 0xA5 leaves the state. Start-up verifies the firmware, then goes one step on or stops at
the failing one, and wear brings in the understudies (R373, R375, R376, R378 to R380, R383). That a failure stands in a field with a free
unit (DESIGN CHOICE, log 113), that the L2 is written back before the entry (DEDUCED, log 115), that lost memory reads zero (DESIGN CHOICE,
log 3), and that a spare lane is brought in once (DEDUCED, log 86) are the model's choices.
Completion is shown of: ghostLightEnter, wakePhraseDetect, ghostLightTimeout, wakeack, wake, wearThreshold, startUp. -/
def Obligations.GhostLightAndStartUp : Prop :=
  (∀ (s : State),
     (∀ v : W32, s.ghost = false → bitN v.toNat 6 = true →
       (s.ghostRefusal (bits v.toNat 0 6) ≠ 0 → exec (.ghostLightEnter v) s =
         .next (s.setReg 0 0x1008C 4 (bits v.toNat 0 6 + s.ghostRefusal (bits v.toNat 0 6) * 2 ^ 12 + bits v.toNat 16 16 * 2 ^ 16))) ∧
       (s.ghostRefusal (bits v.toNat 0 6) = 0 → ∃ t, exec (.ghostLightEnter v) s = .next t ∧ t.ghost = true ∧ t.teams = [] ∧
         t.launches = [] ∧ t.urxia.started = 0 ∧ t.time = s.time ∧ t.board = s.board ∧
         ∀ a, cellRead memDefault t.mem a =
           if a < bits v.toNat 0 6 * 2 ^ 30 then cellRead memDefault s.flushL2.mem a else memDefault a)) ∧
     (s.ghost = true → s.board.wakestat.getLsbD 0 = false →
       exec .wakePhraseDetect s = .next { s with board := { s.board with wakestat := 3 } } ∧
       (s.reg 0 0x1008E 2 ≠ 0 → exec .ghostLightTimeout s = .next { s with board := { s.board with wakestat := 5 } })) ∧
     (s.reg 0 0x1008E 2 = 0 → exec .ghostLightTimeout s = .next s) ∧
     exec .wakeack s = .next { s with board := { s.board with wakestat := s.board.wakestat &&& 6 } } ∧
     (s.ghost = true → exec (.wake 0xA5) s =
       .next { s with ghost := false, regs := [], urxia := { s.urxia with started := 1, failed := none, told := [] } }) ∧
     (∀ v : Byte, v ≠ 0xA5 → exec (.wake v) s = .next s)) ∧
  (∀ (s : State),
     (s.ghost = false → s.urxia.recovery = false → s.urxia.failed = none →
       (s.urxia.started = 0 → ∀ ok, exec (.startUp ok) s =
         .next (if imageGood Config.firmware then s.acceptImage Config.firmware else s.refuseImage)) ∧
       (s.urxia.started = 1 → exec (.startUp true) s = .next s.trainMemory) ∧
       (s.urxia.started = 2 → exec (.startUp true) s = .next s.startGovernor) ∧
       (s.urxia.started = 3 → exec (.startUp true) s = .next s.startPorts) ∧
       (1 ≤ s.urxia.started → s.urxia.started ≤ 3 →
         let n := s.urxia.started + 1
         let unit := failedUnit n s.freeW.1.toNat
         exec (.startUp false) s =
           .next { s.freeW.2 with urxia := { s.freeW.2.urxia with
             failed := some (n, unit), told := (listedSlots s.urxia.firmware).map fun i => (i, n, unit) } })) ∧
     (∀ u, let p := wearPlace u
       let s1 := s.deviceRecord 0x21 p.1 0xFFF 0 p.2 0
       exec (.wearThreshold u) s = .next (match u with
         | .cluster die clu => if die < 4 ∧ clu < 10 then s1.clusterWorn die clu else s1
         | .sram _ => { s1 with repairs := s1.repairs ++ [u] }
         | .memRow _ => { s1 with repairs := s1.repairs ++ [u] }
         | .dieLink _ =>
           if s1.spared.contains u then s1 else ({ s1 with spared := u :: s1.spared } : State).substitute p.1 0
         | .ethernet port =>
           if s1.spared.contains u then s1 else (({ s1 with spared := u :: s1.spared } : State).substitute p.1 0).linkDown port)))

/-- The mailbox's four operations, each ending with its status, and a write of registers, which starts what the registers start (R357, R358,
R365, R373, R377, R381, R382).
Completion is shown of: attest, cert, keygen, keyclr, raslostClear, registerWrite, timeSync. -/
def Obligations.PlatformRegisters : Prop :=
  ∀ (s : State),
    (s.mailboxAt 1 = true → exec .attest s =
      .next ((({ s with urxia := { s.urxia with reports := s.urxia.reports + 1 } } : State).putBuf
        (s.attestation (cellReads regDefault s.regs (regKey 0 0x300100) 32))).mailboxDone 1 0)) ∧
    (s.mailboxAt 2 = true → exec .cert s =
      .next (((s.putBuf ((List.range Config.certLen.toNat).map Config.certByte)).setReg 0 0x300008 4 Config.certLen.toNat).mailboxDone 2 0)) ∧
    (s.mailboxAt 3 = true →
      let k := s.keyArg
      (k.1 = 0 ∨ 3 < k.2 → exec .keygen s = .next (s.mailboxDone 3 3)) ∧
      (k.1 ≠ 0 → k.2 ≤ 3 → k.1 ∈ (s.home k.2).keys.map (·.1) → exec .keygen s = .next (s.mailboxDone 3 4)) ∧
      (k.1 ≠ 0 → k.2 ≤ 3 → k.1 ∉ (s.home k.2).keys.map (·.1) → exec .keygen s =
        .next ((({ s with urxia := { s.urxia with keyUses := s.urxia.keyUses + 1 } } : State).updHome k.2 fun x =>
          { x with keys := (k.1, s.urxia.keyUses + 1) :: x.keys }).mailboxDone 3 0))) ∧
    (s.mailboxAt 4 = true →
      let k := s.keyArg
      (k.1 = 0 ∨ 3 < k.2 → exec .keyclr s = .next (s.mailboxDone 4 3)) ∧
      (k.1 ≠ 0 → k.2 ≤ 3 → k.1 ∉ (s.home k.2).keys.map (·.1) → exec .keyclr s = .next (s.mailboxDone 4 5)) ∧
      (k.1 ≠ 0 → k.2 ≤ 3 → k.1 ∈ (s.home k.2).keys.map (·.1) → exec .keyclr s =
        .next ((s.updHome k.2 fun x => { x with keys := x.keys.filter fun y => y.1 != k.1 }).mailboxDone 4 0))) ∧
    exec .raslostClear s = .next (s.setReg 0 0x1004C 4 0) ∧
    (∀ die off size v, die ≤ 3 → s.ghost = false → off < 2 ^ 24 →
      let bs := leBytes (min size 8) v.toNat
      let s0 := if touches off bs 8 8 then (s.storeRegs die off bs).loadPrts die else s.storeRegs die off bs
      let s1 := if die = 0 then s0.checkSenders off bs.length else s0
      let s2 : State := { s1 with due := s1.due ++ s.regSteps die off bs }
      exec (.registerWrite die off size v) s =
        .next (if die = 0 ∧ touches off bs 0x300000 4 then s2.mailboxCommand (s.wordAfter 0 off bs 0x300000) else s2)) ∧
    (∀ off size v, exec (.registerWrite 4 off size v) s = .next (s.i3cWrite off (leBytes (min size 8) v.toNat))) ∧
    (∀ off size v, exec (.registerWrite 5 off size v) s = .next { s with board := { s.board with addr := some (v.truncate 8) } }) ∧
    (∀ source t, s.linkOpen = true →
      (s.timeSource = some source → exec (.timeSync ⟨source, t⟩) s = .next { s.passTime t with timeLocked := true }) ∧
      (s.timeSource ≠ some source → exec (.timeSync ⟨source, t⟩) s = .next s))

/-! ## Encoding -/

/-- Every well-formed instruction has one word, and the decoder reads that instruction from it, with every operand and modifier at
every value that the encoding admits (R197 to R217). -/
def Obligations.DecodeOfEncode : Prop :=
  ∀ i : Instr, i.formed = true → ∃ w, encode i = some w ∧ decode w = .ok i

/-- Every word that the decoder accepts is the word of the instruction that it gives: no two words are one instruction, and no bit of a
word is dropped (R197 to R217). -/
def Obligations.EncodeOfDecode : Prop :=
  ∀ (w : IWord) (i : Instr), decode w = .ok i → i.formed = true ∧ encode i = some w

/-- Words written out from the encoding tables decode to the instructions they stand for: the worked examples of R33, R215 and R229, and
one word of each family. -/
def Obligations.DecodeWords : Prop :=
  let word := fun (a b c : Nat) => a + b * 2 ^ 32 + c * 2 ^ 64
  let h : Hdr := { gp := 7, gn := false, sw := false, yld := false, ru := 0 }
  let ma : MA := { ty := .f32, rnd := .rne, sat := false, xlm := .none, xls := 0, na := false, nb := false, aa := false, ab := false, sub := 0 }
  let mm : MM := { ty := .b32, scope := .grp, ord := .rlx, iscale := 2, hint := 0, aop := 0, ofs := 4 }
  decodeTableWord 96 (word 3 0x0C000000 0x00440000) =
    some (.bra { h with gp := 1 } { tgt := 3, join := 3 }) ∧
  decodeTableWord 96 (word 0x14C40000 0x10001000 0x201C0000) =
    some (.iadd h (.vec 4) (.vec 4) (.vec 5) { ma with ty := .s16, sat := true }) ∧
  decodeTableWord 96 (word 0x1DC88100 0x16000000 0x402A0000) =
    some (.fadd { h with gp := 2, gn := true, sw := true } (.vec 5) (.que 0) (.vec 7) { ma with rnd := .rz, xlm := .xor, xls := 1 }) ∧
  decodeTableWord 96 (word 0x00020080 0x0C0003A0 0x269C0000) = some (.movi h (.vec 3) 0x40000401) ∧
  decodeTableWord 96 (word 0x18008004 0x04001000 0x801C0200) = some (.ldq h (.que 1) (.vec 4) (.vec 6) mm) ∧
  decodeTableWord 96 (word 0x00A00000 0x00805000 0xA19C0000) = some (.bcopy h (.sca 20) { bar := 10, ssp := false, dsp := false, hint := 0 }) ∧
  decodeTableWord 96 (word 0x22208000 0x80000000 0xC01C0000) =
    some (.mma h (.vec 32) (.vec 0) (.vec 8) { aty := .f16, bty := .f16, shape := 0, acc := true, nega := false, band := 0, sub := 0 }) ∧
  decodeTableWord 96 (word 0x00000212 0x28000000 0xE35C0080) = some (.gets h (.sca 10) 0x12 true) ∧
  decodeTableWord 96 (word 0x18000000 0x00801080 0xE4DC0000) = some (.iainv h (.sca 4) (.sca 6)) ∧
  decodeTableWord 96 (word 1 0x00801280 0xE4DC0000) = some (.iainvAll h (.sca 4))

/-! ## Fetch and issue -/

/-- A step runs the first step that is due, then the instruction of the first picked fragment, decoded from the word that the instruction cache
holds at its PC, then the choice among the fragments offered, then the first input that has arrived, and else a free choice among the moves
that may come next; without its word a picked fragment waits for a fill. What comes first is the model's order of free choices (DESIGN CHOICE,
log 2). -/
def Obligations.StepRunsDecoded : Prop :=
  ∀ (s : State),
    (∀ i r, s.due = i :: r → step s = exec i { s with due := r }) ∧
    (∀ w r x win, s.due = [] → s.picked = w :: r → s.issuer w = some x →
      let c := s.ctx x.1.ctx
      let pc := x.2.2.pc.toNat
      c.fetchWindow pc = .ok win →
      let slot := (s.core x.2.1.core).code? (win.iaOf pc) c.owner (c.prot && win.prot)
      (∀ k i, slot = some k → k.poison = none → decode k.word = .ok i →
        step s = exec i { s with picked := r, cur := some w }) ∧
      (slot = none → step s =
        .next (({ s with picked := r } : State).updFrag w.gid w.sl w.slot fun f => { f with wait := .fetch }))) ∧
    (s.due = [] → s.picked = [] → s.offered ≠ [] → step s = .next s.choose) ∧
    (∀ i r, s.due = [] → s.picked = [] → s.offered = [] → s.inbox = i :: r → step s = exec i { s with inbox := r }) ∧
    (s.due = [] → s.picked = [] → s.offered = [] → s.inbox = [] →
      (∀ i, s.moves[Config.nextStep s.free % s.moves.length]? = some (.event i) → step s = exec i { s with free := s.free + 1 }) ∧
      (∀ m, s.moves[Config.nextStep s.free % s.moves.length]? = some m → (∀ i, m ≠ .event i) →
        step s = .next (({ s with free := s.free + 1 } : State).quietMove m)))

/-- A word whose opcode Table 9-7 does not assign takes ILLEGAL_OPCODE with the opcode in TRAPINFO; a word of all ones is one (R219,
R220). -/
def Obligations.UnassignedOpcodes : Prop :=
  (∀ (w : IWord), let opc := (Raw.ofWord w).opc.toNat
    (0x013 ≤ opc ∧ opc ≤ 0x07F ∨ 0x09F ≤ opc ∧ opc ≤ 0x0FF ∨ 0x11A ≤ opc ∧ opc ≤ 0x17F ∨ 0x188 ≤ opc ∧ opc ≤ 0x1FF ∨
      0x211 ≤ opc ∧ opc ≤ 0x27F ∨ 0x292 ≤ opc ∧ opc ≤ 0x2FF ∨ 0x305 ≤ opc ∧ opc ≤ 0x37F ∨ 0x395 ≤ opc ∧ opc ≤ 0x3FF) →
    ∀ (s : State) (iss : Issuer) (r : List Issuer) (x : Team × Sys2Proof.Machine.Group × Frag) (win : Window) (k : CodeSlot),
      s.due = [] → s.picked = iss :: r → s.issuer iss = some x → (s.ctx x.1.ctx).fetchWindow x.2.2.pc.toNat = .ok win →
      (s.core x.2.1.core).code? (win.iaOf x.2.2.pc.toNat) (s.ctx x.1.ctx).owner ((s.ctx x.1.ctx).prot && win.prot) = some k →
      k.poison = none → k.word = w →
      step s = .next (({ s with picked := r } : State).trapIn (s.fetchEnv iss x) 1 opc)) ∧
  (Raw.ofWord (BitVec.allOnes 96)).opc.toNat = 0x3FF

/-- The checks of an issued instruction in the order of Table 9-9: slice, privilege, encoding, and, when some lane executes, width and
partial mask; the first that fails traps before any effect. With no lane in exec the instruction then has no effect (R216, R218,
R220, R222). -/
def Obligations.ChecksInOrder : Prop :=
  ∀ (s : State) (i : Instr) (h : Hdr) (e : Env) (r : Raw), encodeRaw i = some r → r.hdr = .ok h → s.issues h e →
    let opc := r.opc.toNat
    let out := allLanes e.g.width &&& ~~~e.exec
    let early := (opcSlice opc = none ∨ opcSlice opc = some e.sl) ∧ privFault opc (idxOf i) e.c.owner = false
    (∀ sl, opcSlice opc = some sl → sl ≠ e.sl → exec i s = .next (s.trapped e 3 (opc + sliceNum e.sl * 2 ^ 10))) ∧
    (opcSlice opc = none ∨ opcSlice opc = some e.sl → privFault opc (idxOf i) e.c.owner = true →
      exec i s = .next (s.trapped e 7 (opc + if opc = 0x38D ∨ opc = 0x38E then idxOf i * 2 ^ 16 else 0))) ∧
    (early → ∀ f, i.encFault e.encCtx = some f → exec i s = .next (s.trapped e 2 (f.field.toNat * 256 + f.detail.toNat))) ∧
    (early → i.encFault e.encCtx = none →
      (e.exec = 0 → exec i s = .next ((s.begun e).ended e h false s)) ∧
      (e.exec ≠ 0 → needsWidth opc = true → e.g.width ≠ 64 → exec i s = .next (s.trapped e 6 (widthCode e.g.width))) ∧
      (e.exec ≠ 0 → (needsWidth opc = false ∨ e.g.width = 64) → needsAll opc = true → out ≠ 0 →
        exec i s = .next (s.trapped e 5 (lowLane out))))

/-- A NOP word with its operand fields and MOD zero is NOP, under any guard and hints, and any other takes ILLEGAL_ENCODING; NOP does
nothing but what its SW and YLD bits say and the joins that it meets. What the split stack then takes back from the spill area must be readable, which
holds when it has no more than eight entries; else the NOP traps in the state that it found, as the model reads R161 and R188 (DEDUCED, log 123)
(R242). -/
def Obligations.NopRule : Prop :=
  (∀ r : Raw, r.opc = 0 → (∃ h, r.hdr = .ok h) →
    (r.opd = 0 → r.opa = 0 → r.opb = 0 → r.mod = 0 → ∃ h, r.hdr = .ok h ∧ decode r.toWord = .ok (.nop h)) ∧
    (¬(r.opd = 0 ∧ r.opa = 0 ∧ r.opb = 0 ∧ r.mod = 0) → ∃ f, decode r.toWord = .error (.encoding 0 0 f))) ∧
  (∀ (s : State) (h : Hdr) (e : Env), s.issues h e →
    let t := (s.begun e).updSlice e.gid e.sl fun x =>
      let x := x.goTo e.f.slot (e.f.pc + 12)
      let x := (if h.sw then x.marked e.f.mask else x).settle
      if h.yld && !e.f.handler then x.switch else x
    exec (.nop h) s = .next (if t.refillBad e.gid e.sl e.x.stackUse then s.trapped e 0x1E 1 else t) ∧
      (e.x.stackUse ≤ 8 → exec (.nop h) s = .next t))

/-- A trap is handled or fatal. A handled one writes the slice's trap registers and sends its fragment to TRAPVEC with its mask,
and changes nothing else. A fatal one stops its slice at the instruction with SKIDCNT 0, broadcasts a halt to every running slice of the
team, and is kept for the error record (R190, R191). -/
def Obligations.TrapEntry : Prop :=
  ∀ (s : State) (e : Env) (cause info : Nat) (tm : Team) (g : Sys2Proof.Machine.Group),
    s.teamOf? e.gid = some tm → s.team? tm.id = some tm → tm.group? e.gid = some g →
    let c := s.ctx e.c.num
    let own := e.t.isPrompter && (cause == 0x16 || cause == 0x17 || cause == 0x18)
    let handled := e.f.handler = false ∧ own = false ∧ c.handles cause = true ∧ pcAligned c.trapvec = true
    (handled → ∃ t g', s.trapped e cause info = t ∧ t = { s with teams := t.teams, cur := none } ∧ t.group? e.gid = some g' ∧
      g' = g.updSlice e.sl (fun _ => g'.slice e.sl) ∧
      (g'.slice e.sl).trap = { (g.slice e.sl).trap with
        cause := BitVec.ofNat 32 cause, info := BitVec.ofNat 32 info, pc := e.f.pc,
        resume := if cause = 8 ∨ cause = 9 then e.f.pc + 12 else e.f.pc } ∧
      (g'.slice e.sl).served = e.f.slot ∧
      ∀ f, (g.slice e.sl).frag? e.f.slot = some f →
        (g'.slice e.sl).frag? e.f.slot = some { f with pc := c.trapvec, handler := true, wait := .none, run := 0 }) ∧
    (e.f.handler = true ∨ own = true ∨ c.handles cause = false →
      ∃ t tm' g', s.trapped e cause info = t ∧ t = { s with teams := t.teams, cur := none } ∧ t.team? tm.id = some tm' ∧
        tm'.life = (match tm.life with | .running => .halting | l => l) ∧
        tm'.traps.length = tm.traps.length + 1 ∧ tm'.group? e.gid = some g' ∧
        (g'.slice e.sl).halt = .halted ∧ (g'.slice e.sl).trap.cause = BitVec.ofNat 32 cause ∧
        (g'.slice e.sl).trap.info = BitVec.ofNat 32 info ∧ (g'.slice e.sl).trap.pc = e.f.pc ∧ (g'.slice e.sl).trap.skid = 0 ∧
        ∀ x ∈ tm'.groups, ∀ sl, (x.slice sl).halt ≠ .running)

/-! ## Frames -/

/-- What an instruction of Tables 10-3 and 11-1 that computes one value per lane changes, of fixed latency or (`late`) with a result that is written
later: its destination's lanes in exec or its outstanding result, the queues it pops or pushes, and the place of its fragment; every other register,
group, byte of memory, counter and trap register stays, and so do the lanes outside exec. A write to p7 is ignored. What its split stack keeps in the
spill area can be read (R150, R161, R165, R202, R222, R249). -/
def Obligations.RegisterFrame : Prop :=
  ∀ (i : Instr) (F : Form) (s : State) (e : Env) (vs : List (Nat → Nat)) (g : Sys2Proof.Machine.Group) (late : Bool),
    (if late then lateForm i = some F else intForm i = some F ∨ fltForm i = some F ∨ cvtForm i = some F) →
    s.runs i F.h e → F.reads s e vs → s.group? e.gid = some g →
    (∀ n, 8 < n → n ≤ e.x.stackUse → s.spillOk e.c (stackPlace e.g n) = true) →
    ∃ t g', exec i s = .next t ∧ t = { s with teams := t.teams, cur := none, nextId := t.nextId } ∧
      (late = false → t.nextId = s.nextId) ∧ t.group? e.gid = some g' ∧
      (∀ gid, gid ≠ e.gid → t.group? gid = s.group? gid) ∧
      g' = { g with a := g'.a, c := g'.c, queues := g'.queues, lodcnt := g'.lodcnt } ∧
      (∀ sl, sl ≠ e.sl → g'.slice sl = g.slice sl) ∧
      ((∀ q, F.d ≠ .que q) → (∀ x ∈ F.srcs, x.queue? = none) → g'.queues = g.queues ∧ g'.lodcnt = g.lodcnt) ∧
      (let x := g.slice e.sl
       let y := g'.slice e.sl
       let k := if F.pair then 2 else 1
       y.counts = x.counts ∧ (late = false ∨ (∃ q, F.d = .que q) → y.outs = x.outs) ∧
       (late = true → (∀ q, F.d ≠ .que q) → ∃ o, y.outs = x.outs ++ [o] ∧ o.dst = e.dst F.d ∧ o.pend = e.dstLanes F.d ∧
         o.regs = (splitVal F.pair (F.result vs)).map (laneList e.g.width)) ∧
       y.trap = x.trap ∧ y.exited = x.exited ∧ y.ixs = x.ixs ∧
       ((∀ z ∈ F.srcs, z.o ≠ .spc 8) → y.timeh = x.timeh) ∧
       (∀ n l, late = true ∨ ((∀ v, F.d ≠ .vec v) ∧ (∀ b ix, F.d ≠ .ind b ix)) ∨ n < e.regNum F.d ∨ e.regNum F.d + k ≤ n →
         y.vreg n l = x.vreg n l) ∧
       (∀ n, late = true ∨ (∀ v, F.d ≠ .sca v) ∨ n < e.regNum F.d ∨ e.regNum F.d + k ≤ n → y.sreg n = x.sreg n) ∧
       (∀ p, late = true ∨ F.d ≠ .pred p ∨ p = 7 → y.pred p = x.pred p) ∧
       (late = false →
         (∀ j l, ((∃ v, F.d = .vec v) ∨ ∃ b ix, F.d = .ind b ix) → j < k → e.regNum F.d + j < x.vregs.length →
           l < (x.vregs.getD (e.regNum F.d + j) []).length →
           y.vreg (e.regNum F.d + j) l =
             if e.exec.getLsbD l then Val.of (BitVec.ofNat 32 (F.result vs l / 2 ^ (32 * j))) else x.vreg (e.regNum F.d + j) l) ∧
         (∀ v j, F.d = .sca v → j < k → e.regNum F.d + j < x.scal.length →
           y.sreg (e.regNum F.d + j) = Val.of (BitVec.ofNat 32 (F.result vs (lowLane e.exec) / 2 ^ (32 * j)))) ∧
         ∀ p l, F.d = .pred p → p ≠ 7 → p.toNat < x.preds.length → l < 64 →
           (y.pred p).getLsbD l = if e.exec.getLsbD l then (F.result vs l).testBit 0 else (x.pred p).getLsbD l))

/-- The integer operations of Table 10-3 and R247 are those of two's-complement words: sums, differences and products wrap at the width of
TYPE, and the shifts, counts and fields are those of n-bit words: POPC counts the set bits, CLZ the zeros above the highest set bit, and BFE and
BFI take and put the bits of a field (R244 to R248). -/
def Obligations.IntegerArithmetic : Prop :=
  (∀ (ty : Ty) (a b : Nat), let n := ty.bits
    let x := BitVec.ofNat n a
    let y := BitVec.ofNat n b
    intResult ty false (intVal ty a + intVal ty b) = (x + y).toNat ∧
    intResult ty false (intVal ty a - intVal ty b) = (x - y).toNat ∧
    intResult ty false (intVal ty a * intVal ty b) = (x * y).toNat ∧
    intVal ty a = (if ty.signed then x.toInt else (x.toNat : Int)) ∧
    intVal ty (intResult ty true (intVal ty a + intVal ty b)) =
      max (intMin ty) (min (intMax ty) (intVal ty a + intVal ty b))) ∧
  (∀ (n : Nat) (a : BitVec n) (k : Nat), 0 < n →
    shlVal n a.toNat k = (a <<< k).toNat ∧ shrVal n a.toNat k = (a >>> k).toNat ∧
    sarVal n a.toNat k = (a.sshiftRight k).toNat ∧ rotVal n a.toNat k = (a.rotateLeft k).toNat ∧
    brevVal n a.toNat = a.reverse.toNat ∧
    (∀ b c truth i, i < n → bitN (lop3Val truth n a.toNat b c) i =
      truth.getLsbD (boolNat (a.getLsbD i) + 2 * boolNat (bitN b i) + 4 * boolNat (bitN c i))) ∧
    popcVal n a.toNat = (Finset.univ.filter fun i : Fin n => a.getLsbD i = true).card ∧
    (a = 0 → clzVal n a.toNat = n) ∧
    (a ≠ 0 → clzVal n a.toNat < n ∧ a.getLsbD (n - 1 - clzVal n a.toNat) = true ∧
      ∀ i, n - 1 - clzVal n a.toNat < i → a.getLsbD i = false)) ∧
  (∀ (a c : BitVec 32) (desc i : Nat), i < 32 →
    let pos := bits desc 0 8
    let len := bits desc 8 8
    (∀ signed,
      let src := fun (j : Nat) => if j < 32 then a.getLsbD j else signed && a.msb
      bitN (bfeVal signed a.toNat desc) i =
        if len = 0 then false else if i < min len 32 then src (pos + i) else signed && src (pos + min len 32 - 1)) ∧
    bitN (bfiVal a.toNat desc c.toNat) i = if pos ≤ i ∧ i < min (pos + len) 32 then a.getLsbD (i - pos) else c.getLsbD i)

/-- The value of an E3M5 scale: 2^(e − 3) × (1 + m/32) for e ≥ 1 and 2^(−2) × m/32 for e = 0; code 0 is zero, 0xFF is 31.5, and codes 0x1F
and 0x20 are 31/128 and 1/4 (R96). -/
def Obligations.ScaleValues : Prop :=
  (∀ c : Byte, ∃ n d, e3m5Val c.toNat = .fin false n d ∧ 0 < d ∧
    let e := (c.extractLsb' 5 3).toNat
    let m := (c.extractLsb' 0 5).toNat
    (n : ℚ) / d = if e = 0 then (2 : ℚ) ^ (-2 : ℤ) * (m / 32) else (2 : ℚ) ^ ((e : ℤ) - 3) * (1 + m / 32)) ∧
  (∀ c v, (c, v) ∈ [(0x00, (0 : ℚ)), (0xFF, 63 / 2), (0x1F, 31 / 128), (0x20, 1 / 4)] →
    ∃ n d, e3m5Val c = .fin false n d ∧ (n : ℚ) / d = v)

/-! ## Memory -/

/-- Reading a byte after a write gives the byte written, or what it was when the write did not reach it, at a home of device memory, in the
configuration registers and in a scratchpad; each write keeps the canonical form, in which memories that read alike are equal (R43, R52, R357;
the form is the model's). -/
def Obligations.MemoryBytes : Prop :=
  (∀ (s : State) (key : Nat) (bs : List PByte) (a : Nat), s.memOk → key % 2 ^ 48 + bs.length ≤ 2 ^ 48 →
    (s.memWrite key bs).memOk ∧
    (s.memWrite key bs).memBytes a 1 =
      if key ≤ a ∧ a < key + bs.length then [(bs.getD (a - key) (0, none)).1] else s.memBytes a 1) ∧
  (∀ (s : State) (key n a : Nat), s.memOk → key % 64 = 0 → n % 64 = 0 → key % 2 ^ 48 + n ≤ 2 ^ 48 →
    (s.memZero key n).memOk ∧
    (s.memZero key n).memBytes a 1 = if key ≤ a ∧ a < key + n then [0] else s.memBytes a 1) ∧
  (∀ (s : State) (die off n v a : Nat), Memory.ok regDefault s.regs = true →
    Memory.ok regDefault (s.setReg die off n v).regs = true ∧
    cellRead regDefault (s.setReg die off n v).regs a =
      if regKey die off ≤ a ∧ a < regKey die off + n then (leBytes n v).getD (a - regKey die off) 0 else cellRead regDefault s.regs a) ∧
  (∀ (k : Core) (key : Nat) (bs : List PByte) (a : Nat), k.spad.wf = true →
    (k.spadWrite key bs).spad.wf = true ∧
    cellRead memDefault (k.spadWrite key bs).spad a =
      if key ≤ a ∧ a < key + bs.length then (bs.getD (a - key) (0, none)).1 else cellRead memDefault k.spad a) ∧
  (∀ m m' : Memory, m.wf = true → m'.wf = true → (∀ a, cellRead memDefault m a = cellRead memDefault m' a) → m = m')

/-- An acquire at PAIR or wider drops every clean line of the core's L1, leaves of each dirty line only its dirty bytes valid, and empties
the tile-layout cache; at GRP or CORE it changes nothing (R40). -/
def Obligations.Acquires : Prop :=
  ∀ (s : State) (c : Nat) (sc : Scope), c < s.cores.length →
    (sc = .grp ∨ sc = .core → s.acquire c sc = s) ∧
    (sc ≠ .grp → sc ≠ .core →
      let l1 := (s.core c).l1
      let after := ((s.acquire c sc).core c).l1
      (∀ l ∈ after, ∃ l0 ∈ l1, l0.isDirty = true ∧ l = { l0 with valid := l0.valid &&& l0.dirty }) ∧
      (∀ l0 ∈ l1, l0.isDirty = true → { l0 with valid := l0.valid &&& l0.dirty } ∈ after) ∧
      ((s.acquire c sc).core c).tcache = [])

/-! ## Whole machine -/

/-- Memory stays in its canonical form over every step, whatever the step is. -/
def Obligations.StepKeepsMemory : Prop :=
  ∀ s t : State, s.memOk → step s = .next t → t.memOk

/-- A step always goes on: the machine has no instruction and no event that stops it (R188: replayable faults never trap, and every other
fate is a trap that the machine takes). That an instruction with no issuer stops is the model's choice (log 1), which no due step or input is. -/
def Obligations.StepGoesOn : Prop :=
  ∀ s : State, s.onlyEvents = true → goesOn (step s)

/-- What reset leaves: TILEBUDGET 1,048,576 in each cluster, PLGNT at PL0 with the equal ratio, the registers of Tables 16-2, 16-11 and 15-7
at their values, nothing resident, and memory in its canonical form (R319, R345, R350, R358). That unlisted memory reads zero is the
model's choice (DESIGN CHOICE, log 3). -/
def Obligations.ResetState : Prop :=
  let s := State.reset
  (∀ cl < 40, s.reg 0 (0x30000 + 4 * cl) 4 = 1048576 ∧ (s.cluster cl).level = 0 ∧ (s.cluster cl).ratio = 1) ∧
  s.reg 0 0x10080 2 = 0x88B5 ∧ s.reg 0 0x10084 1 = 20 ∧ s.reg 0 0x10088 1 = 50 ∧
  (∀ v < 8, s.reg 0 (0x100030 + 0x40 * v) 4 = 20000 ∧ s.viewEn v = false) ∧
  s.teams = [] ∧ s.launches = [] ∧ s.accs = [] ∧ s.engs = [] ∧ s.ghost = false ∧ s.memOk ∧ s.whole = true
end

