-- ==== Sys2Proof/Laws/State.lean ====
section
/-!
SUPPORT. What each update of the state leaves unchanged: one lemma per field per update.
-/

namespace Sys2Proof.Machine

/-! ## updCore -/

@[simp] theorem State.updCore_time (s : State) (c : Nat) (f : Core → Core) : (s.updCore c f).time = s.time := rfl
@[simp] theorem State.updCore_timeLocked (s : State) (c : Nat) (f : Core → Core) : (s.updCore c f).timeLocked = s.timeLocked := rfl
@[simp] theorem State.updCore_timeSource (s : State) (c : Nat) (f : Core → Core) : (s.updCore c f).timeSource = s.timeSource := rfl
@[simp] theorem State.updCore_mem (s : State) (c : Nat) (f : Core → Core) : (s.updCore c f).mem = s.mem := rfl
@[simp] theorem State.updCore_memPoison (s : State) (c : Nat) (f : Core → Core) : (s.updCore c f).memPoison = s.memPoison := rfl
@[simp] theorem State.updCore_flaws (s : State) (c : Nat) (f : Core → Core) : (s.updCore c f).flaws = s.flaws := rfl
@[simp] theorem State.updCore_units (s : State) (c : Nat) (f : Core → Core) : (s.updCore c f).units = s.units := rfl
@[simp] theorem State.updCore_stamps (s : State) (c : Nat) (f : Core → Core) : (s.updCore c f).stamps = s.stamps := rfl
@[simp] theorem State.updCore_seals (s : State) (c : Nat) (f : Core → Core) : (s.updCore c f).seals = s.seals := rfl
@[simp] theorem State.updCore_l2 (s : State) (c : Nat) (f : Core → Core) : (s.updCore c f).l2 = s.l2 := rfl
@[simp] theorem State.updCore_mdc (s : State) (c : Nat) (f : Core → Core) : (s.updCore c f).mdc = s.mdc := rfl
@[simp] theorem State.updCore_regs (s : State) (c : Nat) (f : Core → Core) : (s.updCore c f).regs = s.regs := rfl
@[simp] theorem State.updCore_rdcs (s : State) (c : Nat) (f : Core → Core) : (s.updCore c f).rdcs = s.rdcs := rfl
@[simp] theorem State.updCore_stale (s : State) (c : Nat) (f : Core → Core) : (s.updCore c f).stale = s.stale := rfl
@[simp] theorem State.updCore_outdated (s : State) (c : Nat) (f : Core → Core) : (s.updCore c f).outdated = s.outdated := rfl
@[simp] theorem State.updCore_homes (s : State) (c : Nat) (f : Core → Core) : (s.updCore c f).homes = s.homes := rfl
@[simp] theorem State.updCore_teams (s : State) (c : Nat) (f : Core → Core) : (s.updCore c f).teams = s.teams := rfl
@[simp] theorem State.updCore_accs (s : State) (c : Nat) (f : Core → Core) : (s.updCore c f).accs = s.accs := rfl
@[simp] theorem State.updCore_engs (s : State) (c : Nat) (f : Core → Core) : (s.updCore c f).engs = s.engs := rfl
@[simp] theorem State.updCore_launches (s : State) (c : Nat) (f : Core → Core) : (s.updCore c f).launches = s.launches := rfl
@[simp] theorem State.updCore_draws (s : State) (c : Nat) (f : Core → Core) : (s.updCore c f).draws = s.draws := rfl
@[simp] theorem State.updCore_ctxs (s : State) (c : Nat) (f : Core → Core) : (s.updCore c f).ctxs = s.ctxs := rfl
@[simp] theorem State.updCore_gfx (s : State) (c : Nat) (f : Core → Core) : (s.updCore c f).gfx = s.gfx := rfl
@[simp] theorem State.updCore_saves (s : State) (c : Nat) (f : Core → Core) : (s.updCore c f).saves = s.saves := rfl
@[simp] theorem State.updCore_batches (s : State) (c : Nat) (f : Core → Core) : (s.updCore c f).batches = s.batches := rfl
@[simp] theorem State.updCore_records (s : State) (c : Nat) (f : Core → Core) : (s.updCore c f).records = s.records := rfl
@[simp] theorem State.updCore_collectives (s : State) (c : Nat) (f : Core → Core) : (s.updCore c f).collectives = s.collectives := rfl
@[simp] theorem State.updCore_passes (s : State) (c : Nat) (f : Core → Core) : (s.updCore c f).passes = s.passes := rfl
@[simp] theorem State.updCore_owners (s : State) (c : Nat) (f : Core → Core) : (s.updCore c f).owners = s.owners := rfl
@[simp] theorem State.updCore_views (s : State) (c : Nat) (f : Core → Core) : (s.updCore c f).views = s.views := rfl
@[simp] theorem State.updCore_descs (s : State) (c : Nat) (f : Core → Core) : (s.updCore c f).descs = s.descs := rfl
@[simp] theorem State.updCore_streams (s : State) (c : Nat) (f : Core → Core) : (s.updCore c f).streams = s.streams := rfl
@[simp] theorem State.updCore_ports (s : State) (c : Nat) (f : Core → Core) : (s.updCore c f).ports = s.ports := rfl
@[simp] theorem State.updCore_pausing (s : State) (c : Nat) (f : Core → Core) : (s.updCore c f).pausing = s.pausing := rfl
@[simp] theorem State.updCore_lost (s : State) (c : Nat) (f : Core → Core) : (s.updCore c f).lost = s.lost := rfl
@[simp] theorem State.updCore_reads (s : State) (c : Nat) (f : Core → Core) : (s.updCore c f).reads = s.reads := rfl
@[simp] theorem State.updCore_prefetches (s : State) (c : Nat) (f : Core → Core) : (s.updCore c f).prefetches = s.prefetches := rfl
@[simp] theorem State.updCore_clusters (s : State) (c : Nat) (f : Core → Core) : (s.updCore c f).clusters = s.clusters := rfl
@[simp] theorem State.updCore_overload (s : State) (c : Nat) (f : Core → Core) : (s.updCore c f).overload = s.overload := rfl
@[simp] theorem State.updCore_calm (s : State) (c : Nat) (f : Core → Core) : (s.updCore c f).calm = s.calm := rfl
@[simp] theorem State.updCore_board (s : State) (c : Nat) (f : Core → Core) : (s.updCore c f).board = s.board := rfl
@[simp] theorem State.updCore_urxia (s : State) (c : Nat) (f : Core → Core) : (s.updCore c f).urxia = s.urxia := rfl
@[simp] theorem State.updCore_ghost (s : State) (c : Nat) (f : Core → Core) : (s.updCore c f).ghost = s.ghost := rfl
@[simp] theorem State.updCore_understudy (s : State) (c : Nat) (f : Core → Core) : (s.updCore c f).understudy = s.understudy := rfl
@[simp] theorem State.updCore_spared (s : State) (c : Nat) (f : Core → Core) : (s.updCore c f).spared = s.spared := rfl
@[simp] theorem State.updCore_repairs (s : State) (c : Nat) (f : Core → Core) : (s.updCore c f).repairs = s.repairs := rfl
@[simp] theorem State.updCore_rr (s : State) (c : Nat) (f : Core → Core) : (s.updCore c f).rr = s.rr := rfl
@[simp] theorem State.updCore_inbox (s : State) (c : Nat) (f : Core → Core) : (s.updCore c f).inbox = s.inbox := rfl
@[simp] theorem State.updCore_due (s : State) (c : Nat) (f : Core → Core) : (s.updCore c f).due = s.due := rfl
@[simp] theorem State.updCore_poolOwner (s : State) (c : Nat) (f : Core → Core) : (s.updCore c f).poolOwner = s.poolOwner := rfl
@[simp] theorem State.updCore_offered (s : State) (c : Nat) (f : Core → Core) : (s.updCore c f).offered = s.offered := rfl
@[simp] theorem State.updCore_picked (s : State) (c : Nat) (f : Core → Core) : (s.updCore c f).picked = s.picked := rfl
@[simp] theorem State.updCore_cur (s : State) (c : Nat) (f : Core → Core) : (s.updCore c f).cur = s.cur := rfl
@[simp] theorem State.updCore_nextId (s : State) (c : Nat) (f : Core → Core) : (s.updCore c f).nextId = s.nextId := rfl
@[simp] theorem State.updCore_free (s : State) (c : Nat) (f : Core → Core) : (s.updCore c f).free = s.free := rfl

/-! ## updHome -/

@[simp] theorem State.updHome_time (s : State) (h : Nat) (f : Home → Home) : (s.updHome h f).time = s.time := rfl
@[simp] theorem State.updHome_timeLocked (s : State) (h : Nat) (f : Home → Home) : (s.updHome h f).timeLocked = s.timeLocked := rfl
@[simp] theorem State.updHome_timeSource (s : State) (h : Nat) (f : Home → Home) : (s.updHome h f).timeSource = s.timeSource := rfl
@[simp] theorem State.updHome_mem (s : State) (h : Nat) (f : Home → Home) : (s.updHome h f).mem = s.mem := rfl
@[simp] theorem State.updHome_memPoison (s : State) (h : Nat) (f : Home → Home) : (s.updHome h f).memPoison = s.memPoison := rfl
@[simp] theorem State.updHome_flaws (s : State) (h : Nat) (f : Home → Home) : (s.updHome h f).flaws = s.flaws := rfl
@[simp] theorem State.updHome_units (s : State) (h : Nat) (f : Home → Home) : (s.updHome h f).units = s.units := rfl
@[simp] theorem State.updHome_stamps (s : State) (h : Nat) (f : Home → Home) : (s.updHome h f).stamps = s.stamps := rfl
@[simp] theorem State.updHome_seals (s : State) (h : Nat) (f : Home → Home) : (s.updHome h f).seals = s.seals := rfl
@[simp] theorem State.updHome_l2 (s : State) (h : Nat) (f : Home → Home) : (s.updHome h f).l2 = s.l2 := rfl
@[simp] theorem State.updHome_mdc (s : State) (h : Nat) (f : Home → Home) : (s.updHome h f).mdc = s.mdc := rfl
@[simp] theorem State.updHome_regs (s : State) (h : Nat) (f : Home → Home) : (s.updHome h f).regs = s.regs := rfl
@[simp] theorem State.updHome_cores (s : State) (h : Nat) (f : Home → Home) : (s.updHome h f).cores = s.cores := rfl
@[simp] theorem State.updHome_rdcs (s : State) (h : Nat) (f : Home → Home) : (s.updHome h f).rdcs = s.rdcs := rfl
@[simp] theorem State.updHome_stale (s : State) (h : Nat) (f : Home → Home) : (s.updHome h f).stale = s.stale := rfl
@[simp] theorem State.updHome_outdated (s : State) (h : Nat) (f : Home → Home) : (s.updHome h f).outdated = s.outdated := rfl
@[simp] theorem State.updHome_teams (s : State) (h : Nat) (f : Home → Home) : (s.updHome h f).teams = s.teams := rfl
@[simp] theorem State.updHome_accs (s : State) (h : Nat) (f : Home → Home) : (s.updHome h f).accs = s.accs := rfl
@[simp] theorem State.updHome_engs (s : State) (h : Nat) (f : Home → Home) : (s.updHome h f).engs = s.engs := rfl
@[simp] theorem State.updHome_launches (s : State) (h : Nat) (f : Home → Home) : (s.updHome h f).launches = s.launches := rfl
@[simp] theorem State.updHome_draws (s : State) (h : Nat) (f : Home → Home) : (s.updHome h f).draws = s.draws := rfl
@[simp] theorem State.updHome_ctxs (s : State) (h : Nat) (f : Home → Home) : (s.updHome h f).ctxs = s.ctxs := rfl
@[simp] theorem State.updHome_gfx (s : State) (h : Nat) (f : Home → Home) : (s.updHome h f).gfx = s.gfx := rfl
@[simp] theorem State.updHome_saves (s : State) (h : Nat) (f : Home → Home) : (s.updHome h f).saves = s.saves := rfl
@[simp] theorem State.updHome_batches (s : State) (h : Nat) (f : Home → Home) : (s.updHome h f).batches = s.batches := rfl
@[simp] theorem State.updHome_records (s : State) (h : Nat) (f : Home → Home) : (s.updHome h f).records = s.records := rfl
@[simp] theorem State.updHome_collectives (s : State) (h : Nat) (f : Home → Home) : (s.updHome h f).collectives = s.collectives := rfl
@[simp] theorem State.updHome_passes (s : State) (h : Nat) (f : Home → Home) : (s.updHome h f).passes = s.passes := rfl
@[simp] theorem State.updHome_owners (s : State) (h : Nat) (f : Home → Home) : (s.updHome h f).owners = s.owners := rfl
@[simp] theorem State.updHome_views (s : State) (h : Nat) (f : Home → Home) : (s.updHome h f).views = s.views := rfl
@[simp] theorem State.updHome_descs (s : State) (h : Nat) (f : Home → Home) : (s.updHome h f).descs = s.descs := rfl
@[simp] theorem State.updHome_streams (s : State) (h : Nat) (f : Home → Home) : (s.updHome h f).streams = s.streams := rfl
@[simp] theorem State.updHome_ports (s : State) (h : Nat) (f : Home → Home) : (s.updHome h f).ports = s.ports := rfl
@[simp] theorem State.updHome_pausing (s : State) (h : Nat) (f : Home → Home) : (s.updHome h f).pausing = s.pausing := rfl
@[simp] theorem State.updHome_lost (s : State) (h : Nat) (f : Home → Home) : (s.updHome h f).lost = s.lost := rfl
@[simp] theorem State.updHome_reads (s : State) (h : Nat) (f : Home → Home) : (s.updHome h f).reads = s.reads := rfl
@[simp] theorem State.updHome_prefetches (s : State) (h : Nat) (f : Home → Home) : (s.updHome h f).prefetches = s.prefetches := rfl
@[simp] theorem State.updHome_clusters (s : State) (h : Nat) (f : Home → Home) : (s.updHome h f).clusters = s.clusters := rfl
@[simp] theorem State.updHome_overload (s : State) (h : Nat) (f : Home → Home) : (s.updHome h f).overload = s.overload := rfl
@[simp] theorem State.updHome_calm (s : State) (h : Nat) (f : Home → Home) : (s.updHome h f).calm = s.calm := rfl
@[simp] theorem State.updHome_board (s : State) (h : Nat) (f : Home → Home) : (s.updHome h f).board = s.board := rfl
@[simp] theorem State.updHome_urxia (s : State) (h : Nat) (f : Home → Home) : (s.updHome h f).urxia = s.urxia := rfl
@[simp] theorem State.updHome_ghost (s : State) (h : Nat) (f : Home → Home) : (s.updHome h f).ghost = s.ghost := rfl
@[simp] theorem State.updHome_understudy (s : State) (h : Nat) (f : Home → Home) : (s.updHome h f).understudy = s.understudy := rfl
@[simp] theorem State.updHome_spared (s : State) (h : Nat) (f : Home → Home) : (s.updHome h f).spared = s.spared := rfl
@[simp] theorem State.updHome_repairs (s : State) (h : Nat) (f : Home → Home) : (s.updHome h f).repairs = s.repairs := rfl
@[simp] theorem State.updHome_rr (s : State) (h : Nat) (f : Home → Home) : (s.updHome h f).rr = s.rr := rfl
@[simp] theorem State.updHome_inbox (s : State) (h : Nat) (f : Home → Home) : (s.updHome h f).inbox = s.inbox := rfl
@[simp] theorem State.updHome_due (s : State) (h : Nat) (f : Home → Home) : (s.updHome h f).due = s.due := rfl
@[simp] theorem State.updHome_poolOwner (s : State) (h : Nat) (f : Home → Home) : (s.updHome h f).poolOwner = s.poolOwner := rfl
@[simp] theorem State.updHome_offered (s : State) (h : Nat) (f : Home → Home) : (s.updHome h f).offered = s.offered := rfl
@[simp] theorem State.updHome_picked (s : State) (h : Nat) (f : Home → Home) : (s.updHome h f).picked = s.picked := rfl
@[simp] theorem State.updHome_cur (s : State) (h : Nat) (f : Home → Home) : (s.updHome h f).cur = s.cur := rfl
@[simp] theorem State.updHome_nextId (s : State) (h : Nat) (f : Home → Home) : (s.updHome h f).nextId = s.nextId := rfl
@[simp] theorem State.updHome_free (s : State) (h : Nat) (f : Home → Home) : (s.updHome h f).free = s.free := rfl

/-! ## updRdc -/

@[simp] theorem State.updRdc_time (s : State) (d : Nat) (f : List Line → List Line) : (s.updRdc d f).time = s.time := rfl
@[simp] theorem State.updRdc_timeLocked (s : State) (d : Nat) (f : List Line → List Line) : (s.updRdc d f).timeLocked = s.timeLocked := rfl
@[simp] theorem State.updRdc_timeSource (s : State) (d : Nat) (f : List Line → List Line) : (s.updRdc d f).timeSource = s.timeSource := rfl
@[simp] theorem State.updRdc_mem (s : State) (d : Nat) (f : List Line → List Line) : (s.updRdc d f).mem = s.mem := rfl
@[simp] theorem State.updRdc_memPoison (s : State) (d : Nat) (f : List Line → List Line) : (s.updRdc d f).memPoison = s.memPoison := rfl
@[simp] theorem State.updRdc_flaws (s : State) (d : Nat) (f : List Line → List Line) : (s.updRdc d f).flaws = s.flaws := rfl
@[simp] theorem State.updRdc_units (s : State) (d : Nat) (f : List Line → List Line) : (s.updRdc d f).units = s.units := rfl
@[simp] theorem State.updRdc_stamps (s : State) (d : Nat) (f : List Line → List Line) : (s.updRdc d f).stamps = s.stamps := rfl
@[simp] theorem State.updRdc_seals (s : State) (d : Nat) (f : List Line → List Line) : (s.updRdc d f).seals = s.seals := rfl
@[simp] theorem State.updRdc_l2 (s : State) (d : Nat) (f : List Line → List Line) : (s.updRdc d f).l2 = s.l2 := rfl
@[simp] theorem State.updRdc_mdc (s : State) (d : Nat) (f : List Line → List Line) : (s.updRdc d f).mdc = s.mdc := rfl
@[simp] theorem State.updRdc_regs (s : State) (d : Nat) (f : List Line → List Line) : (s.updRdc d f).regs = s.regs := rfl
@[simp] theorem State.updRdc_cores (s : State) (d : Nat) (f : List Line → List Line) : (s.updRdc d f).cores = s.cores := rfl
@[simp] theorem State.updRdc_stale (s : State) (d : Nat) (f : List Line → List Line) : (s.updRdc d f).stale = s.stale := rfl
@[simp] theorem State.updRdc_outdated (s : State) (d : Nat) (f : List Line → List Line) : (s.updRdc d f).outdated = s.outdated := rfl
@[simp] theorem State.updRdc_homes (s : State) (d : Nat) (f : List Line → List Line) : (s.updRdc d f).homes = s.homes := rfl
@[simp] theorem State.updRdc_teams (s : State) (d : Nat) (f : List Line → List Line) : (s.updRdc d f).teams = s.teams := rfl
@[simp] theorem State.updRdc_accs (s : State) (d : Nat) (f : List Line → List Line) : (s.updRdc d f).accs = s.accs := rfl
@[simp] theorem State.updRdc_engs (s : State) (d : Nat) (f : List Line → List Line) : (s.updRdc d f).engs = s.engs := rfl
@[simp] theorem State.updRdc_launches (s : State) (d : Nat) (f : List Line → List Line) : (s.updRdc d f).launches = s.launches := rfl
@[simp] theorem State.updRdc_draws (s : State) (d : Nat) (f : List Line → List Line) : (s.updRdc d f).draws = s.draws := rfl
@[simp] theorem State.updRdc_ctxs (s : State) (d : Nat) (f : List Line → List Line) : (s.updRdc d f).ctxs = s.ctxs := rfl
@[simp] theorem State.updRdc_gfx (s : State) (d : Nat) (f : List Line → List Line) : (s.updRdc d f).gfx = s.gfx := rfl
@[simp] theorem State.updRdc_saves (s : State) (d : Nat) (f : List Line → List Line) : (s.updRdc d f).saves = s.saves := rfl
@[simp] theorem State.updRdc_batches (s : State) (d : Nat) (f : List Line → List Line) : (s.updRdc d f).batches = s.batches := rfl
@[simp] theorem State.updRdc_records (s : State) (d : Nat) (f : List Line → List Line) : (s.updRdc d f).records = s.records := rfl
@[simp] theorem State.updRdc_collectives (s : State) (d : Nat) (f : List Line → List Line) : (s.updRdc d f).collectives = s.collectives := rfl
@[simp] theorem State.updRdc_passes (s : State) (d : Nat) (f : List Line → List Line) : (s.updRdc d f).passes = s.passes := rfl
@[simp] theorem State.updRdc_owners (s : State) (d : Nat) (f : List Line → List Line) : (s.updRdc d f).owners = s.owners := rfl
@[simp] theorem State.updRdc_views (s : State) (d : Nat) (f : List Line → List Line) : (s.updRdc d f).views = s.views := rfl
@[simp] theorem State.updRdc_descs (s : State) (d : Nat) (f : List Line → List Line) : (s.updRdc d f).descs = s.descs := rfl
@[simp] theorem State.updRdc_streams (s : State) (d : Nat) (f : List Line → List Line) : (s.updRdc d f).streams = s.streams := rfl
@[simp] theorem State.updRdc_ports (s : State) (d : Nat) (f : List Line → List Line) : (s.updRdc d f).ports = s.ports := rfl
@[simp] theorem State.updRdc_pausing (s : State) (d : Nat) (f : List Line → List Line) : (s.updRdc d f).pausing = s.pausing := rfl
@[simp] theorem State.updRdc_lost (s : State) (d : Nat) (f : List Line → List Line) : (s.updRdc d f).lost = s.lost := rfl
@[simp] theorem State.updRdc_reads (s : State) (d : Nat) (f : List Line → List Line) : (s.updRdc d f).reads = s.reads := rfl
@[simp] theorem State.updRdc_prefetches (s : State) (d : Nat) (f : List Line → List Line) : (s.updRdc d f).prefetches = s.prefetches := rfl
@[simp] theorem State.updRdc_clusters (s : State) (d : Nat) (f : List Line → List Line) : (s.updRdc d f).clusters = s.clusters := rfl
@[simp] theorem State.updRdc_overload (s : State) (d : Nat) (f : List Line → List Line) : (s.updRdc d f).overload = s.overload := rfl
@[simp] theorem State.updRdc_calm (s : State) (d : Nat) (f : List Line → List Line) : (s.updRdc d f).calm = s.calm := rfl
@[simp] theorem State.updRdc_board (s : State) (d : Nat) (f : List Line → List Line) : (s.updRdc d f).board = s.board := rfl
@[simp] theorem State.updRdc_urxia (s : State) (d : Nat) (f : List Line → List Line) : (s.updRdc d f).urxia = s.urxia := rfl
@[simp] theorem State.updRdc_ghost (s : State) (d : Nat) (f : List Line → List Line) : (s.updRdc d f).ghost = s.ghost := rfl
@[simp] theorem State.updRdc_understudy (s : State) (d : Nat) (f : List Line → List Line) : (s.updRdc d f).understudy = s.understudy := rfl
@[simp] theorem State.updRdc_spared (s : State) (d : Nat) (f : List Line → List Line) : (s.updRdc d f).spared = s.spared := rfl
@[simp] theorem State.updRdc_repairs (s : State) (d : Nat) (f : List Line → List Line) : (s.updRdc d f).repairs = s.repairs := rfl
@[simp] theorem State.updRdc_rr (s : State) (d : Nat) (f : List Line → List Line) : (s.updRdc d f).rr = s.rr := rfl
@[simp] theorem State.updRdc_inbox (s : State) (d : Nat) (f : List Line → List Line) : (s.updRdc d f).inbox = s.inbox := rfl
@[simp] theorem State.updRdc_due (s : State) (d : Nat) (f : List Line → List Line) : (s.updRdc d f).due = s.due := rfl
@[simp] theorem State.updRdc_poolOwner (s : State) (d : Nat) (f : List Line → List Line) : (s.updRdc d f).poolOwner = s.poolOwner := rfl
@[simp] theorem State.updRdc_offered (s : State) (d : Nat) (f : List Line → List Line) : (s.updRdc d f).offered = s.offered := rfl
@[simp] theorem State.updRdc_picked (s : State) (d : Nat) (f : List Line → List Line) : (s.updRdc d f).picked = s.picked := rfl
@[simp] theorem State.updRdc_cur (s : State) (d : Nat) (f : List Line → List Line) : (s.updRdc d f).cur = s.cur := rfl
@[simp] theorem State.updRdc_nextId (s : State) (d : Nat) (f : List Line → List Line) : (s.updRdc d f).nextId = s.nextId := rfl
@[simp] theorem State.updRdc_free (s : State) (d : Nat) (f : List Line → List Line) : (s.updRdc d f).free = s.free := rfl

/-! ## updCluster -/

@[simp] theorem State.updCluster_time (s : State) (c : Nat) (f : Cluster → Cluster) : (s.updCluster c f).time = s.time := rfl
@[simp] theorem State.updCluster_timeLocked (s : State) (c : Nat) (f : Cluster → Cluster) : (s.updCluster c f).timeLocked = s.timeLocked := rfl
@[simp] theorem State.updCluster_timeSource (s : State) (c : Nat) (f : Cluster → Cluster) : (s.updCluster c f).timeSource = s.timeSource := rfl
@[simp] theorem State.updCluster_mem (s : State) (c : Nat) (f : Cluster → Cluster) : (s.updCluster c f).mem = s.mem := rfl
@[simp] theorem State.updCluster_memPoison (s : State) (c : Nat) (f : Cluster → Cluster) : (s.updCluster c f).memPoison = s.memPoison := rfl
@[simp] theorem State.updCluster_flaws (s : State) (c : Nat) (f : Cluster → Cluster) : (s.updCluster c f).flaws = s.flaws := rfl
@[simp] theorem State.updCluster_units (s : State) (c : Nat) (f : Cluster → Cluster) : (s.updCluster c f).units = s.units := rfl
@[simp] theorem State.updCluster_stamps (s : State) (c : Nat) (f : Cluster → Cluster) : (s.updCluster c f).stamps = s.stamps := rfl
@[simp] theorem State.updCluster_seals (s : State) (c : Nat) (f : Cluster → Cluster) : (s.updCluster c f).seals = s.seals := rfl
@[simp] theorem State.updCluster_l2 (s : State) (c : Nat) (f : Cluster → Cluster) : (s.updCluster c f).l2 = s.l2 := rfl
@[simp] theorem State.updCluster_mdc (s : State) (c : Nat) (f : Cluster → Cluster) : (s.updCluster c f).mdc = s.mdc := rfl
@[simp] theorem State.updCluster_regs (s : State) (c : Nat) (f : Cluster → Cluster) : (s.updCluster c f).regs = s.regs := rfl
@[simp] theorem State.updCluster_cores (s : State) (c : Nat) (f : Cluster → Cluster) : (s.updCluster c f).cores = s.cores := rfl
@[simp] theorem State.updCluster_rdcs (s : State) (c : Nat) (f : Cluster → Cluster) : (s.updCluster c f).rdcs = s.rdcs := rfl
@[simp] theorem State.updCluster_stale (s : State) (c : Nat) (f : Cluster → Cluster) : (s.updCluster c f).stale = s.stale := rfl
@[simp] theorem State.updCluster_outdated (s : State) (c : Nat) (f : Cluster → Cluster) : (s.updCluster c f).outdated = s.outdated := rfl
@[simp] theorem State.updCluster_homes (s : State) (c : Nat) (f : Cluster → Cluster) : (s.updCluster c f).homes = s.homes := rfl
@[simp] theorem State.updCluster_teams (s : State) (c : Nat) (f : Cluster → Cluster) : (s.updCluster c f).teams = s.teams := rfl
@[simp] theorem State.updCluster_accs (s : State) (c : Nat) (f : Cluster → Cluster) : (s.updCluster c f).accs = s.accs := rfl
@[simp] theorem State.updCluster_engs (s : State) (c : Nat) (f : Cluster → Cluster) : (s.updCluster c f).engs = s.engs := rfl
@[simp] theorem State.updCluster_launches (s : State) (c : Nat) (f : Cluster → Cluster) : (s.updCluster c f).launches = s.launches := rfl
@[simp] theorem State.updCluster_draws (s : State) (c : Nat) (f : Cluster → Cluster) : (s.updCluster c f).draws = s.draws := rfl
@[simp] theorem State.updCluster_ctxs (s : State) (c : Nat) (f : Cluster → Cluster) : (s.updCluster c f).ctxs = s.ctxs := rfl
@[simp] theorem State.updCluster_gfx (s : State) (c : Nat) (f : Cluster → Cluster) : (s.updCluster c f).gfx = s.gfx := rfl
@[simp] theorem State.updCluster_saves (s : State) (c : Nat) (f : Cluster → Cluster) : (s.updCluster c f).saves = s.saves := rfl
@[simp] theorem State.updCluster_batches (s : State) (c : Nat) (f : Cluster → Cluster) : (s.updCluster c f).batches = s.batches := rfl
@[simp] theorem State.updCluster_records (s : State) (c : Nat) (f : Cluster → Cluster) : (s.updCluster c f).records = s.records := rfl
@[simp] theorem State.updCluster_collectives (s : State) (c : Nat) (f : Cluster → Cluster) : (s.updCluster c f).collectives = s.collectives := rfl
@[simp] theorem State.updCluster_passes (s : State) (c : Nat) (f : Cluster → Cluster) : (s.updCluster c f).passes = s.passes := rfl
@[simp] theorem State.updCluster_owners (s : State) (c : Nat) (f : Cluster → Cluster) : (s.updCluster c f).owners = s.owners := rfl
@[simp] theorem State.updCluster_views (s : State) (c : Nat) (f : Cluster → Cluster) : (s.updCluster c f).views = s.views := rfl
@[simp] theorem State.updCluster_descs (s : State) (c : Nat) (f : Cluster → Cluster) : (s.updCluster c f).descs = s.descs := rfl
@[simp] theorem State.updCluster_streams (s : State) (c : Nat) (f : Cluster → Cluster) : (s.updCluster c f).streams = s.streams := rfl
@[simp] theorem State.updCluster_ports (s : State) (c : Nat) (f : Cluster → Cluster) : (s.updCluster c f).ports = s.ports := rfl
@[simp] theorem State.updCluster_pausing (s : State) (c : Nat) (f : Cluster → Cluster) : (s.updCluster c f).pausing = s.pausing := rfl
@[simp] theorem State.updCluster_lost (s : State) (c : Nat) (f : Cluster → Cluster) : (s.updCluster c f).lost = s.lost := rfl
@[simp] theorem State.updCluster_reads (s : State) (c : Nat) (f : Cluster → Cluster) : (s.updCluster c f).reads = s.reads := rfl
@[simp] theorem State.updCluster_prefetches (s : State) (c : Nat) (f : Cluster → Cluster) : (s.updCluster c f).prefetches = s.prefetches := rfl
@[simp] theorem State.updCluster_overload (s : State) (c : Nat) (f : Cluster → Cluster) : (s.updCluster c f).overload = s.overload := rfl
@[simp] theorem State.updCluster_calm (s : State) (c : Nat) (f : Cluster → Cluster) : (s.updCluster c f).calm = s.calm := rfl
@[simp] theorem State.updCluster_board (s : State) (c : Nat) (f : Cluster → Cluster) : (s.updCluster c f).board = s.board := rfl
@[simp] theorem State.updCluster_urxia (s : State) (c : Nat) (f : Cluster → Cluster) : (s.updCluster c f).urxia = s.urxia := rfl
@[simp] theorem State.updCluster_ghost (s : State) (c : Nat) (f : Cluster → Cluster) : (s.updCluster c f).ghost = s.ghost := rfl
@[simp] theorem State.updCluster_understudy (s : State) (c : Nat) (f : Cluster → Cluster) : (s.updCluster c f).understudy = s.understudy := rfl
@[simp] theorem State.updCluster_spared (s : State) (c : Nat) (f : Cluster → Cluster) : (s.updCluster c f).spared = s.spared := rfl
@[simp] theorem State.updCluster_repairs (s : State) (c : Nat) (f : Cluster → Cluster) : (s.updCluster c f).repairs = s.repairs := rfl
@[simp] theorem State.updCluster_rr (s : State) (c : Nat) (f : Cluster → Cluster) : (s.updCluster c f).rr = s.rr := rfl
@[simp] theorem State.updCluster_inbox (s : State) (c : Nat) (f : Cluster → Cluster) : (s.updCluster c f).inbox = s.inbox := rfl
@[simp] theorem State.updCluster_due (s : State) (c : Nat) (f : Cluster → Cluster) : (s.updCluster c f).due = s.due := rfl
@[simp] theorem State.updCluster_poolOwner (s : State) (c : Nat) (f : Cluster → Cluster) : (s.updCluster c f).poolOwner = s.poolOwner := rfl
@[simp] theorem State.updCluster_offered (s : State) (c : Nat) (f : Cluster → Cluster) : (s.updCluster c f).offered = s.offered := rfl
@[simp] theorem State.updCluster_picked (s : State) (c : Nat) (f : Cluster → Cluster) : (s.updCluster c f).picked = s.picked := rfl
@[simp] theorem State.updCluster_cur (s : State) (c : Nat) (f : Cluster → Cluster) : (s.updCluster c f).cur = s.cur := rfl
@[simp] theorem State.updCluster_nextId (s : State) (c : Nat) (f : Cluster → Cluster) : (s.updCluster c f).nextId = s.nextId := rfl
@[simp] theorem State.updCluster_free (s : State) (c : Nat) (f : Cluster → Cluster) : (s.updCluster c f).free = s.free := rfl

/-! ## updView -/

@[simp] theorem State.updView_time (s : State) (v : Nat) (f : View → View) : (s.updView v f).time = s.time := rfl
@[simp] theorem State.updView_timeLocked (s : State) (v : Nat) (f : View → View) : (s.updView v f).timeLocked = s.timeLocked := rfl
@[simp] theorem State.updView_timeSource (s : State) (v : Nat) (f : View → View) : (s.updView v f).timeSource = s.timeSource := rfl
@[simp] theorem State.updView_mem (s : State) (v : Nat) (f : View → View) : (s.updView v f).mem = s.mem := rfl
@[simp] theorem State.updView_memPoison (s : State) (v : Nat) (f : View → View) : (s.updView v f).memPoison = s.memPoison := rfl
@[simp] theorem State.updView_flaws (s : State) (v : Nat) (f : View → View) : (s.updView v f).flaws = s.flaws := rfl
@[simp] theorem State.updView_units (s : State) (v : Nat) (f : View → View) : (s.updView v f).units = s.units := rfl
@[simp] theorem State.updView_stamps (s : State) (v : Nat) (f : View → View) : (s.updView v f).stamps = s.stamps := rfl
@[simp] theorem State.updView_seals (s : State) (v : Nat) (f : View → View) : (s.updView v f).seals = s.seals := rfl
@[simp] theorem State.updView_l2 (s : State) (v : Nat) (f : View → View) : (s.updView v f).l2 = s.l2 := rfl
@[simp] theorem State.updView_mdc (s : State) (v : Nat) (f : View → View) : (s.updView v f).mdc = s.mdc := rfl
@[simp] theorem State.updView_regs (s : State) (v : Nat) (f : View → View) : (s.updView v f).regs = s.regs := rfl
@[simp] theorem State.updView_cores (s : State) (v : Nat) (f : View → View) : (s.updView v f).cores = s.cores := rfl
@[simp] theorem State.updView_rdcs (s : State) (v : Nat) (f : View → View) : (s.updView v f).rdcs = s.rdcs := rfl
@[simp] theorem State.updView_stale (s : State) (v : Nat) (f : View → View) : (s.updView v f).stale = s.stale := rfl
@[simp] theorem State.updView_outdated (s : State) (v : Nat) (f : View → View) : (s.updView v f).outdated = s.outdated := rfl
@[simp] theorem State.updView_homes (s : State) (v : Nat) (f : View → View) : (s.updView v f).homes = s.homes := rfl
@[simp] theorem State.updView_teams (s : State) (v : Nat) (f : View → View) : (s.updView v f).teams = s.teams := rfl
@[simp] theorem State.updView_accs (s : State) (v : Nat) (f : View → View) : (s.updView v f).accs = s.accs := rfl
@[simp] theorem State.updView_engs (s : State) (v : Nat) (f : View → View) : (s.updView v f).engs = s.engs := rfl
@[simp] theorem State.updView_launches (s : State) (v : Nat) (f : View → View) : (s.updView v f).launches = s.launches := rfl
@[simp] theorem State.updView_draws (s : State) (v : Nat) (f : View → View) : (s.updView v f).draws = s.draws := rfl
@[simp] theorem State.updView_ctxs (s : State) (v : Nat) (f : View → View) : (s.updView v f).ctxs = s.ctxs := rfl
@[simp] theorem State.updView_gfx (s : State) (v : Nat) (f : View → View) : (s.updView v f).gfx = s.gfx := rfl
@[simp] theorem State.updView_saves (s : State) (v : Nat) (f : View → View) : (s.updView v f).saves = s.saves := rfl
@[simp] theorem State.updView_batches (s : State) (v : Nat) (f : View → View) : (s.updView v f).batches = s.batches := rfl
@[simp] theorem State.updView_records (s : State) (v : Nat) (f : View → View) : (s.updView v f).records = s.records := rfl
@[simp] theorem State.updView_collectives (s : State) (v : Nat) (f : View → View) : (s.updView v f).collectives = s.collectives := rfl
@[simp] theorem State.updView_passes (s : State) (v : Nat) (f : View → View) : (s.updView v f).passes = s.passes := rfl
@[simp] theorem State.updView_owners (s : State) (v : Nat) (f : View → View) : (s.updView v f).owners = s.owners := rfl
@[simp] theorem State.updView_descs (s : State) (v : Nat) (f : View → View) : (s.updView v f).descs = s.descs := rfl
@[simp] theorem State.updView_streams (s : State) (v : Nat) (f : View → View) : (s.updView v f).streams = s.streams := rfl
@[simp] theorem State.updView_ports (s : State) (v : Nat) (f : View → View) : (s.updView v f).ports = s.ports := rfl
@[simp] theorem State.updView_pausing (s : State) (v : Nat) (f : View → View) : (s.updView v f).pausing = s.pausing := rfl
@[simp] theorem State.updView_lost (s : State) (v : Nat) (f : View → View) : (s.updView v f).lost = s.lost := rfl
@[simp] theorem State.updView_reads (s : State) (v : Nat) (f : View → View) : (s.updView v f).reads = s.reads := rfl
@[simp] theorem State.updView_prefetches (s : State) (v : Nat) (f : View → View) : (s.updView v f).prefetches = s.prefetches := rfl
@[simp] theorem State.updView_clusters (s : State) (v : Nat) (f : View → View) : (s.updView v f).clusters = s.clusters := rfl
@[simp] theorem State.updView_overload (s : State) (v : Nat) (f : View → View) : (s.updView v f).overload = s.overload := rfl
@[simp] theorem State.updView_calm (s : State) (v : Nat) (f : View → View) : (s.updView v f).calm = s.calm := rfl
@[simp] theorem State.updView_board (s : State) (v : Nat) (f : View → View) : (s.updView v f).board = s.board := rfl
@[simp] theorem State.updView_urxia (s : State) (v : Nat) (f : View → View) : (s.updView v f).urxia = s.urxia := rfl
@[simp] theorem State.updView_ghost (s : State) (v : Nat) (f : View → View) : (s.updView v f).ghost = s.ghost := rfl
@[simp] theorem State.updView_understudy (s : State) (v : Nat) (f : View → View) : (s.updView v f).understudy = s.understudy := rfl
@[simp] theorem State.updView_spared (s : State) (v : Nat) (f : View → View) : (s.updView v f).spared = s.spared := rfl
@[simp] theorem State.updView_repairs (s : State) (v : Nat) (f : View → View) : (s.updView v f).repairs = s.repairs := rfl
@[simp] theorem State.updView_rr (s : State) (v : Nat) (f : View → View) : (s.updView v f).rr = s.rr := rfl
@[simp] theorem State.updView_inbox (s : State) (v : Nat) (f : View → View) : (s.updView v f).inbox = s.inbox := rfl
@[simp] theorem State.updView_due (s : State) (v : Nat) (f : View → View) : (s.updView v f).due = s.due := rfl
@[simp] theorem State.updView_poolOwner (s : State) (v : Nat) (f : View → View) : (s.updView v f).poolOwner = s.poolOwner := rfl
@[simp] theorem State.updView_offered (s : State) (v : Nat) (f : View → View) : (s.updView v f).offered = s.offered := rfl
@[simp] theorem State.updView_picked (s : State) (v : Nat) (f : View → View) : (s.updView v f).picked = s.picked := rfl
@[simp] theorem State.updView_cur (s : State) (v : Nat) (f : View → View) : (s.updView v f).cur = s.cur := rfl
@[simp] theorem State.updView_nextId (s : State) (v : Nat) (f : View → View) : (s.updView v f).nextId = s.nextId := rfl
@[simp] theorem State.updView_free (s : State) (v : Nat) (f : View → View) : (s.updView v f).free = s.free := rfl

/-! ## updTeam -/

@[simp] theorem State.updTeam_time (s : State) (i : Nat) (f : Team → Team) : (s.updTeam i f).time = s.time := rfl
@[simp] theorem State.updTeam_timeLocked (s : State) (i : Nat) (f : Team → Team) : (s.updTeam i f).timeLocked = s.timeLocked := rfl
@[simp] theorem State.updTeam_timeSource (s : State) (i : Nat) (f : Team → Team) : (s.updTeam i f).timeSource = s.timeSource := rfl
@[simp] theorem State.updTeam_mem (s : State) (i : Nat) (f : Team → Team) : (s.updTeam i f).mem = s.mem := rfl
@[simp] theorem State.updTeam_memPoison (s : State) (i : Nat) (f : Team → Team) : (s.updTeam i f).memPoison = s.memPoison := rfl
@[simp] theorem State.updTeam_flaws (s : State) (i : Nat) (f : Team → Team) : (s.updTeam i f).flaws = s.flaws := rfl
@[simp] theorem State.updTeam_units (s : State) (i : Nat) (f : Team → Team) : (s.updTeam i f).units = s.units := rfl
@[simp] theorem State.updTeam_stamps (s : State) (i : Nat) (f : Team → Team) : (s.updTeam i f).stamps = s.stamps := rfl
@[simp] theorem State.updTeam_seals (s : State) (i : Nat) (f : Team → Team) : (s.updTeam i f).seals = s.seals := rfl
@[simp] theorem State.updTeam_l2 (s : State) (i : Nat) (f : Team → Team) : (s.updTeam i f).l2 = s.l2 := rfl
@[simp] theorem State.updTeam_mdc (s : State) (i : Nat) (f : Team → Team) : (s.updTeam i f).mdc = s.mdc := rfl
@[simp] theorem State.updTeam_regs (s : State) (i : Nat) (f : Team → Team) : (s.updTeam i f).regs = s.regs := rfl
@[simp] theorem State.updTeam_cores (s : State) (i : Nat) (f : Team → Team) : (s.updTeam i f).cores = s.cores := rfl
@[simp] theorem State.updTeam_rdcs (s : State) (i : Nat) (f : Team → Team) : (s.updTeam i f).rdcs = s.rdcs := rfl
@[simp] theorem State.updTeam_stale (s : State) (i : Nat) (f : Team → Team) : (s.updTeam i f).stale = s.stale := rfl
@[simp] theorem State.updTeam_outdated (s : State) (i : Nat) (f : Team → Team) : (s.updTeam i f).outdated = s.outdated := rfl
@[simp] theorem State.updTeam_homes (s : State) (i : Nat) (f : Team → Team) : (s.updTeam i f).homes = s.homes := rfl
@[simp] theorem State.updTeam_accs (s : State) (i : Nat) (f : Team → Team) : (s.updTeam i f).accs = s.accs := rfl
@[simp] theorem State.updTeam_engs (s : State) (i : Nat) (f : Team → Team) : (s.updTeam i f).engs = s.engs := rfl
@[simp] theorem State.updTeam_launches (s : State) (i : Nat) (f : Team → Team) : (s.updTeam i f).launches = s.launches := rfl
@[simp] theorem State.updTeam_draws (s : State) (i : Nat) (f : Team → Team) : (s.updTeam i f).draws = s.draws := rfl
@[simp] theorem State.updTeam_ctxs (s : State) (i : Nat) (f : Team → Team) : (s.updTeam i f).ctxs = s.ctxs := rfl
@[simp] theorem State.updTeam_gfx (s : State) (i : Nat) (f : Team → Team) : (s.updTeam i f).gfx = s.gfx := rfl
@[simp] theorem State.updTeam_saves (s : State) (i : Nat) (f : Team → Team) : (s.updTeam i f).saves = s.saves := rfl
@[simp] theorem State.updTeam_batches (s : State) (i : Nat) (f : Team → Team) : (s.updTeam i f).batches = s.batches := rfl
@[simp] theorem State.updTeam_records (s : State) (i : Nat) (f : Team → Team) : (s.updTeam i f).records = s.records := rfl
@[simp] theorem State.updTeam_collectives (s : State) (i : Nat) (f : Team → Team) : (s.updTeam i f).collectives = s.collectives := rfl
@[simp] theorem State.updTeam_passes (s : State) (i : Nat) (f : Team → Team) : (s.updTeam i f).passes = s.passes := rfl
@[simp] theorem State.updTeam_owners (s : State) (i : Nat) (f : Team → Team) : (s.updTeam i f).owners = s.owners := rfl
@[simp] theorem State.updTeam_views (s : State) (i : Nat) (f : Team → Team) : (s.updTeam i f).views = s.views := rfl
@[simp] theorem State.updTeam_descs (s : State) (i : Nat) (f : Team → Team) : (s.updTeam i f).descs = s.descs := rfl
@[simp] theorem State.updTeam_streams (s : State) (i : Nat) (f : Team → Team) : (s.updTeam i f).streams = s.streams := rfl
@[simp] theorem State.updTeam_ports (s : State) (i : Nat) (f : Team → Team) : (s.updTeam i f).ports = s.ports := rfl
@[simp] theorem State.updTeam_pausing (s : State) (i : Nat) (f : Team → Team) : (s.updTeam i f).pausing = s.pausing := rfl
@[simp] theorem State.updTeam_lost (s : State) (i : Nat) (f : Team → Team) : (s.updTeam i f).lost = s.lost := rfl
@[simp] theorem State.updTeam_reads (s : State) (i : Nat) (f : Team → Team) : (s.updTeam i f).reads = s.reads := rfl
@[simp] theorem State.updTeam_prefetches (s : State) (i : Nat) (f : Team → Team) : (s.updTeam i f).prefetches = s.prefetches := rfl
@[simp] theorem State.updTeam_clusters (s : State) (i : Nat) (f : Team → Team) : (s.updTeam i f).clusters = s.clusters := rfl
@[simp] theorem State.updTeam_overload (s : State) (i : Nat) (f : Team → Team) : (s.updTeam i f).overload = s.overload := rfl
@[simp] theorem State.updTeam_calm (s : State) (i : Nat) (f : Team → Team) : (s.updTeam i f).calm = s.calm := rfl
@[simp] theorem State.updTeam_board (s : State) (i : Nat) (f : Team → Team) : (s.updTeam i f).board = s.board := rfl
@[simp] theorem State.updTeam_urxia (s : State) (i : Nat) (f : Team → Team) : (s.updTeam i f).urxia = s.urxia := rfl
@[simp] theorem State.updTeam_ghost (s : State) (i : Nat) (f : Team → Team) : (s.updTeam i f).ghost = s.ghost := rfl
@[simp] theorem State.updTeam_understudy (s : State) (i : Nat) (f : Team → Team) : (s.updTeam i f).understudy = s.understudy := rfl
@[simp] theorem State.updTeam_spared (s : State) (i : Nat) (f : Team → Team) : (s.updTeam i f).spared = s.spared := rfl
@[simp] theorem State.updTeam_repairs (s : State) (i : Nat) (f : Team → Team) : (s.updTeam i f).repairs = s.repairs := rfl
@[simp] theorem State.updTeam_rr (s : State) (i : Nat) (f : Team → Team) : (s.updTeam i f).rr = s.rr := rfl
@[simp] theorem State.updTeam_inbox (s : State) (i : Nat) (f : Team → Team) : (s.updTeam i f).inbox = s.inbox := rfl
@[simp] theorem State.updTeam_due (s : State) (i : Nat) (f : Team → Team) : (s.updTeam i f).due = s.due := rfl
@[simp] theorem State.updTeam_poolOwner (s : State) (i : Nat) (f : Team → Team) : (s.updTeam i f).poolOwner = s.poolOwner := rfl
@[simp] theorem State.updTeam_offered (s : State) (i : Nat) (f : Team → Team) : (s.updTeam i f).offered = s.offered := rfl
@[simp] theorem State.updTeam_picked (s : State) (i : Nat) (f : Team → Team) : (s.updTeam i f).picked = s.picked := rfl
@[simp] theorem State.updTeam_cur (s : State) (i : Nat) (f : Team → Team) : (s.updTeam i f).cur = s.cur := rfl
@[simp] theorem State.updTeam_nextId (s : State) (i : Nat) (f : Team → Team) : (s.updTeam i f).nextId = s.nextId := rfl
@[simp] theorem State.updTeam_free (s : State) (i : Nat) (f : Team → Team) : (s.updTeam i f).free = s.free := rfl

/-! ## updGroup -/

@[simp] theorem State.updGroup_time (s : State) (g : Nat) (f : Sys2Proof.Machine.Group → Sys2Proof.Machine.Group) : (s.updGroup g f).time = s.time := rfl
@[simp] theorem State.updGroup_timeLocked (s : State) (g : Nat) (f : Sys2Proof.Machine.Group → Sys2Proof.Machine.Group) : (s.updGroup g f).timeLocked = s.timeLocked := rfl
@[simp] theorem State.updGroup_timeSource (s : State) (g : Nat) (f : Sys2Proof.Machine.Group → Sys2Proof.Machine.Group) : (s.updGroup g f).timeSource = s.timeSource := rfl
@[simp] theorem State.updGroup_mem (s : State) (g : Nat) (f : Sys2Proof.Machine.Group → Sys2Proof.Machine.Group) : (s.updGroup g f).mem = s.mem := rfl
@[simp] theorem State.updGroup_memPoison (s : State) (g : Nat) (f : Sys2Proof.Machine.Group → Sys2Proof.Machine.Group) : (s.updGroup g f).memPoison = s.memPoison := rfl
@[simp] theorem State.updGroup_flaws (s : State) (g : Nat) (f : Sys2Proof.Machine.Group → Sys2Proof.Machine.Group) : (s.updGroup g f).flaws = s.flaws := rfl
@[simp] theorem State.updGroup_units (s : State) (g : Nat) (f : Sys2Proof.Machine.Group → Sys2Proof.Machine.Group) : (s.updGroup g f).units = s.units := rfl
@[simp] theorem State.updGroup_stamps (s : State) (g : Nat) (f : Sys2Proof.Machine.Group → Sys2Proof.Machine.Group) : (s.updGroup g f).stamps = s.stamps := rfl
@[simp] theorem State.updGroup_seals (s : State) (g : Nat) (f : Sys2Proof.Machine.Group → Sys2Proof.Machine.Group) : (s.updGroup g f).seals = s.seals := rfl
@[simp] theorem State.updGroup_l2 (s : State) (g : Nat) (f : Sys2Proof.Machine.Group → Sys2Proof.Machine.Group) : (s.updGroup g f).l2 = s.l2 := rfl
@[simp] theorem State.updGroup_mdc (s : State) (g : Nat) (f : Sys2Proof.Machine.Group → Sys2Proof.Machine.Group) : (s.updGroup g f).mdc = s.mdc := rfl
@[simp] theorem State.updGroup_regs (s : State) (g : Nat) (f : Sys2Proof.Machine.Group → Sys2Proof.Machine.Group) : (s.updGroup g f).regs = s.regs := rfl
@[simp] theorem State.updGroup_cores (s : State) (g : Nat) (f : Sys2Proof.Machine.Group → Sys2Proof.Machine.Group) : (s.updGroup g f).cores = s.cores := rfl
@[simp] theorem State.updGroup_rdcs (s : State) (g : Nat) (f : Sys2Proof.Machine.Group → Sys2Proof.Machine.Group) : (s.updGroup g f).rdcs = s.rdcs := rfl
@[simp] theorem State.updGroup_stale (s : State) (g : Nat) (f : Sys2Proof.Machine.Group → Sys2Proof.Machine.Group) : (s.updGroup g f).stale = s.stale := rfl
@[simp] theorem State.updGroup_outdated (s : State) (g : Nat) (f : Sys2Proof.Machine.Group → Sys2Proof.Machine.Group) : (s.updGroup g f).outdated = s.outdated := rfl
@[simp] theorem State.updGroup_homes (s : State) (g : Nat) (f : Sys2Proof.Machine.Group → Sys2Proof.Machine.Group) : (s.updGroup g f).homes = s.homes := rfl
@[simp] theorem State.updGroup_accs (s : State) (g : Nat) (f : Sys2Proof.Machine.Group → Sys2Proof.Machine.Group) : (s.updGroup g f).accs = s.accs := rfl
@[simp] theorem State.updGroup_engs (s : State) (g : Nat) (f : Sys2Proof.Machine.Group → Sys2Proof.Machine.Group) : (s.updGroup g f).engs = s.engs := rfl
@[simp] theorem State.updGroup_launches (s : State) (g : Nat) (f : Sys2Proof.Machine.Group → Sys2Proof.Machine.Group) : (s.updGroup g f).launches = s.launches := rfl
@[simp] theorem State.updGroup_draws (s : State) (g : Nat) (f : Sys2Proof.Machine.Group → Sys2Proof.Machine.Group) : (s.updGroup g f).draws = s.draws := rfl
@[simp] theorem State.updGroup_ctxs (s : State) (g : Nat) (f : Sys2Proof.Machine.Group → Sys2Proof.Machine.Group) : (s.updGroup g f).ctxs = s.ctxs := rfl
@[simp] theorem State.updGroup_gfx (s : State) (g : Nat) (f : Sys2Proof.Machine.Group → Sys2Proof.Machine.Group) : (s.updGroup g f).gfx = s.gfx := rfl
@[simp] theorem State.updGroup_saves (s : State) (g : Nat) (f : Sys2Proof.Machine.Group → Sys2Proof.Machine.Group) : (s.updGroup g f).saves = s.saves := rfl
@[simp] theorem State.updGroup_batches (s : State) (g : Nat) (f : Sys2Proof.Machine.Group → Sys2Proof.Machine.Group) : (s.updGroup g f).batches = s.batches := rfl
@[simp] theorem State.updGroup_records (s : State) (g : Nat) (f : Sys2Proof.Machine.Group → Sys2Proof.Machine.Group) : (s.updGroup g f).records = s.records := rfl
@[simp] theorem State.updGroup_collectives (s : State) (g : Nat) (f : Sys2Proof.Machine.Group → Sys2Proof.Machine.Group) : (s.updGroup g f).collectives = s.collectives := rfl
@[simp] theorem State.updGroup_passes (s : State) (g : Nat) (f : Sys2Proof.Machine.Group → Sys2Proof.Machine.Group) : (s.updGroup g f).passes = s.passes := rfl
@[simp] theorem State.updGroup_owners (s : State) (g : Nat) (f : Sys2Proof.Machine.Group → Sys2Proof.Machine.Group) : (s.updGroup g f).owners = s.owners := rfl
@[simp] theorem State.updGroup_views (s : State) (g : Nat) (f : Sys2Proof.Machine.Group → Sys2Proof.Machine.Group) : (s.updGroup g f).views = s.views := rfl
@[simp] theorem State.updGroup_descs (s : State) (g : Nat) (f : Sys2Proof.Machine.Group → Sys2Proof.Machine.Group) : (s.updGroup g f).descs = s.descs := rfl
@[simp] theorem State.updGroup_streams (s : State) (g : Nat) (f : Sys2Proof.Machine.Group → Sys2Proof.Machine.Group) : (s.updGroup g f).streams = s.streams := rfl
@[simp] theorem State.updGroup_ports (s : State) (g : Nat) (f : Sys2Proof.Machine.Group → Sys2Proof.Machine.Group) : (s.updGroup g f).ports = s.ports := rfl
@[simp] theorem State.updGroup_pausing (s : State) (g : Nat) (f : Sys2Proof.Machine.Group → Sys2Proof.Machine.Group) : (s.updGroup g f).pausing = s.pausing := rfl
@[simp] theorem State.updGroup_lost (s : State) (g : Nat) (f : Sys2Proof.Machine.Group → Sys2Proof.Machine.Group) : (s.updGroup g f).lost = s.lost := rfl
@[simp] theorem State.updGroup_reads (s : State) (g : Nat) (f : Sys2Proof.Machine.Group → Sys2Proof.Machine.Group) : (s.updGroup g f).reads = s.reads := rfl
@[simp] theorem State.updGroup_prefetches (s : State) (g : Nat) (f : Sys2Proof.Machine.Group → Sys2Proof.Machine.Group) : (s.updGroup g f).prefetches = s.prefetches := rfl
@[simp] theorem State.updGroup_clusters (s : State) (g : Nat) (f : Sys2Proof.Machine.Group → Sys2Proof.Machine.Group) : (s.updGroup g f).clusters = s.clusters := rfl
@[simp] theorem State.updGroup_overload (s : State) (g : Nat) (f : Sys2Proof.Machine.Group → Sys2Proof.Machine.Group) : (s.updGroup g f).overload = s.overload := rfl
@[simp] theorem State.updGroup_calm (s : State) (g : Nat) (f : Sys2Proof.Machine.Group → Sys2Proof.Machine.Group) : (s.updGroup g f).calm = s.calm := rfl
@[simp] theorem State.updGroup_board (s : State) (g : Nat) (f : Sys2Proof.Machine.Group → Sys2Proof.Machine.Group) : (s.updGroup g f).board = s.board := rfl
@[simp] theorem State.updGroup_urxia (s : State) (g : Nat) (f : Sys2Proof.Machine.Group → Sys2Proof.Machine.Group) : (s.updGroup g f).urxia = s.urxia := rfl
@[simp] theorem State.updGroup_ghost (s : State) (g : Nat) (f : Sys2Proof.Machine.Group → Sys2Proof.Machine.Group) : (s.updGroup g f).ghost = s.ghost := rfl
@[simp] theorem State.updGroup_understudy (s : State) (g : Nat) (f : Sys2Proof.Machine.Group → Sys2Proof.Machine.Group) : (s.updGroup g f).understudy = s.understudy := rfl
@[simp] theorem State.updGroup_spared (s : State) (g : Nat) (f : Sys2Proof.Machine.Group → Sys2Proof.Machine.Group) : (s.updGroup g f).spared = s.spared := rfl
@[simp] theorem State.updGroup_repairs (s : State) (g : Nat) (f : Sys2Proof.Machine.Group → Sys2Proof.Machine.Group) : (s.updGroup g f).repairs = s.repairs := rfl
@[simp] theorem State.updGroup_rr (s : State) (g : Nat) (f : Sys2Proof.Machine.Group → Sys2Proof.Machine.Group) : (s.updGroup g f).rr = s.rr := rfl
@[simp] theorem State.updGroup_inbox (s : State) (g : Nat) (f : Sys2Proof.Machine.Group → Sys2Proof.Machine.Group) : (s.updGroup g f).inbox = s.inbox := rfl
@[simp] theorem State.updGroup_due (s : State) (g : Nat) (f : Sys2Proof.Machine.Group → Sys2Proof.Machine.Group) : (s.updGroup g f).due = s.due := rfl
@[simp] theorem State.updGroup_poolOwner (s : State) (g : Nat) (f : Sys2Proof.Machine.Group → Sys2Proof.Machine.Group) : (s.updGroup g f).poolOwner = s.poolOwner := rfl
@[simp] theorem State.updGroup_offered (s : State) (g : Nat) (f : Sys2Proof.Machine.Group → Sys2Proof.Machine.Group) : (s.updGroup g f).offered = s.offered := rfl
@[simp] theorem State.updGroup_picked (s : State) (g : Nat) (f : Sys2Proof.Machine.Group → Sys2Proof.Machine.Group) : (s.updGroup g f).picked = s.picked := rfl
@[simp] theorem State.updGroup_cur (s : State) (g : Nat) (f : Sys2Proof.Machine.Group → Sys2Proof.Machine.Group) : (s.updGroup g f).cur = s.cur := rfl
@[simp] theorem State.updGroup_nextId (s : State) (g : Nat) (f : Sys2Proof.Machine.Group → Sys2Proof.Machine.Group) : (s.updGroup g f).nextId = s.nextId := rfl
@[simp] theorem State.updGroup_free (s : State) (g : Nat) (f : Sys2Proof.Machine.Group → Sys2Proof.Machine.Group) : (s.updGroup g f).free = s.free := rfl

/-! ## updSlice -/

@[simp] theorem State.updSlice_time (s : State) (g : Nat) (sl : Slice) (f : SliceSt → SliceSt) : (s.updSlice g sl f).time = s.time := rfl
@[simp] theorem State.updSlice_timeLocked (s : State) (g : Nat) (sl : Slice) (f : SliceSt → SliceSt) : (s.updSlice g sl f).timeLocked = s.timeLocked := rfl
@[simp] theorem State.updSlice_timeSource (s : State) (g : Nat) (sl : Slice) (f : SliceSt → SliceSt) : (s.updSlice g sl f).timeSource = s.timeSource := rfl
@[simp] theorem State.updSlice_mem (s : State) (g : Nat) (sl : Slice) (f : SliceSt → SliceSt) : (s.updSlice g sl f).mem = s.mem := rfl
@[simp] theorem State.updSlice_memPoison (s : State) (g : Nat) (sl : Slice) (f : SliceSt → SliceSt) : (s.updSlice g sl f).memPoison = s.memPoison := rfl
@[simp] theorem State.updSlice_flaws (s : State) (g : Nat) (sl : Slice) (f : SliceSt → SliceSt) : (s.updSlice g sl f).flaws = s.flaws := rfl
@[simp] theorem State.updSlice_units (s : State) (g : Nat) (sl : Slice) (f : SliceSt → SliceSt) : (s.updSlice g sl f).units = s.units := rfl
@[simp] theorem State.updSlice_stamps (s : State) (g : Nat) (sl : Slice) (f : SliceSt → SliceSt) : (s.updSlice g sl f).stamps = s.stamps := rfl
@[simp] theorem State.updSlice_seals (s : State) (g : Nat) (sl : Slice) (f : SliceSt → SliceSt) : (s.updSlice g sl f).seals = s.seals := rfl
@[simp] theorem State.updSlice_l2 (s : State) (g : Nat) (sl : Slice) (f : SliceSt → SliceSt) : (s.updSlice g sl f).l2 = s.l2 := rfl
@[simp] theorem State.updSlice_mdc (s : State) (g : Nat) (sl : Slice) (f : SliceSt → SliceSt) : (s.updSlice g sl f).mdc = s.mdc := rfl
@[simp] theorem State.updSlice_regs (s : State) (g : Nat) (sl : Slice) (f : SliceSt → SliceSt) : (s.updSlice g sl f).regs = s.regs := rfl
@[simp] theorem State.updSlice_cores (s : State) (g : Nat) (sl : Slice) (f : SliceSt → SliceSt) : (s.updSlice g sl f).cores = s.cores := rfl
@[simp] theorem State.updSlice_rdcs (s : State) (g : Nat) (sl : Slice) (f : SliceSt → SliceSt) : (s.updSlice g sl f).rdcs = s.rdcs := rfl
@[simp] theorem State.updSlice_stale (s : State) (g : Nat) (sl : Slice) (f : SliceSt → SliceSt) : (s.updSlice g sl f).stale = s.stale := rfl
@[simp] theorem State.updSlice_outdated (s : State) (g : Nat) (sl : Slice) (f : SliceSt → SliceSt) : (s.updSlice g sl f).outdated = s.outdated := rfl
@[simp] theorem State.updSlice_homes (s : State) (g : Nat) (sl : Slice) (f : SliceSt → SliceSt) : (s.updSlice g sl f).homes = s.homes := rfl
@[simp] theorem State.updSlice_accs (s : State) (g : Nat) (sl : Slice) (f : SliceSt → SliceSt) : (s.updSlice g sl f).accs = s.accs := rfl
@[simp] theorem State.updSlice_engs (s : State) (g : Nat) (sl : Slice) (f : SliceSt → SliceSt) : (s.updSlice g sl f).engs = s.engs := rfl
@[simp] theorem State.updSlice_launches (s : State) (g : Nat) (sl : Slice) (f : SliceSt → SliceSt) : (s.updSlice g sl f).launches = s.launches := rfl
@[simp] theorem State.updSlice_draws (s : State) (g : Nat) (sl : Slice) (f : SliceSt → SliceSt) : (s.updSlice g sl f).draws = s.draws := rfl
@[simp] theorem State.updSlice_ctxs (s : State) (g : Nat) (sl : Slice) (f : SliceSt → SliceSt) : (s.updSlice g sl f).ctxs = s.ctxs := rfl
@[simp] theorem State.updSlice_gfx (s : State) (g : Nat) (sl : Slice) (f : SliceSt → SliceSt) : (s.updSlice g sl f).gfx = s.gfx := rfl
@[simp] theorem State.updSlice_saves (s : State) (g : Nat) (sl : Slice) (f : SliceSt → SliceSt) : (s.updSlice g sl f).saves = s.saves := rfl
@[simp] theorem State.updSlice_batches (s : State) (g : Nat) (sl : Slice) (f : SliceSt → SliceSt) : (s.updSlice g sl f).batches = s.batches := rfl
@[simp] theorem State.updSlice_records (s : State) (g : Nat) (sl : Slice) (f : SliceSt → SliceSt) : (s.updSlice g sl f).records = s.records := rfl
@[simp] theorem State.updSlice_collectives (s : State) (g : Nat) (sl : Slice) (f : SliceSt → SliceSt) : (s.updSlice g sl f).collectives = s.collectives := rfl
@[simp] theorem State.updSlice_passes (s : State) (g : Nat) (sl : Slice) (f : SliceSt → SliceSt) : (s.updSlice g sl f).passes = s.passes := rfl
@[simp] theorem State.updSlice_owners (s : State) (g : Nat) (sl : Slice) (f : SliceSt → SliceSt) : (s.updSlice g sl f).owners = s.owners := rfl
@[simp] theorem State.updSlice_views (s : State) (g : Nat) (sl : Slice) (f : SliceSt → SliceSt) : (s.updSlice g sl f).views = s.views := rfl
@[simp] theorem State.updSlice_descs (s : State) (g : Nat) (sl : Slice) (f : SliceSt → SliceSt) : (s.updSlice g sl f).descs = s.descs := rfl
@[simp] theorem State.updSlice_streams (s : State) (g : Nat) (sl : Slice) (f : SliceSt → SliceSt) : (s.updSlice g sl f).streams = s.streams := rfl
@[simp] theorem State.updSlice_ports (s : State) (g : Nat) (sl : Slice) (f : SliceSt → SliceSt) : (s.updSlice g sl f).ports = s.ports := rfl
@[simp] theorem State.updSlice_pausing (s : State) (g : Nat) (sl : Slice) (f : SliceSt → SliceSt) : (s.updSlice g sl f).pausing = s.pausing := rfl
@[simp] theorem State.updSlice_lost (s : State) (g : Nat) (sl : Slice) (f : SliceSt → SliceSt) : (s.updSlice g sl f).lost = s.lost := rfl
@[simp] theorem State.updSlice_reads (s : State) (g : Nat) (sl : Slice) (f : SliceSt → SliceSt) : (s.updSlice g sl f).reads = s.reads := rfl
@[simp] theorem State.updSlice_prefetches (s : State) (g : Nat) (sl : Slice) (f : SliceSt → SliceSt) : (s.updSlice g sl f).prefetches = s.prefetches := rfl
@[simp] theorem State.updSlice_clusters (s : State) (g : Nat) (sl : Slice) (f : SliceSt → SliceSt) : (s.updSlice g sl f).clusters = s.clusters := rfl
@[simp] theorem State.updSlice_overload (s : State) (g : Nat) (sl : Slice) (f : SliceSt → SliceSt) : (s.updSlice g sl f).overload = s.overload := rfl
@[simp] theorem State.updSlice_calm (s : State) (g : Nat) (sl : Slice) (f : SliceSt → SliceSt) : (s.updSlice g sl f).calm = s.calm := rfl
@[simp] theorem State.updSlice_board (s : State) (g : Nat) (sl : Slice) (f : SliceSt → SliceSt) : (s.updSlice g sl f).board = s.board := rfl
@[simp] theorem State.updSlice_urxia (s : State) (g : Nat) (sl : Slice) (f : SliceSt → SliceSt) : (s.updSlice g sl f).urxia = s.urxia := rfl
@[simp] theorem State.updSlice_ghost (s : State) (g : Nat) (sl : Slice) (f : SliceSt → SliceSt) : (s.updSlice g sl f).ghost = s.ghost := rfl
@[simp] theorem State.updSlice_understudy (s : State) (g : Nat) (sl : Slice) (f : SliceSt → SliceSt) : (s.updSlice g sl f).understudy = s.understudy := rfl
@[simp] theorem State.updSlice_spared (s : State) (g : Nat) (sl : Slice) (f : SliceSt → SliceSt) : (s.updSlice g sl f).spared = s.spared := rfl
@[simp] theorem State.updSlice_repairs (s : State) (g : Nat) (sl : Slice) (f : SliceSt → SliceSt) : (s.updSlice g sl f).repairs = s.repairs := rfl
@[simp] theorem State.updSlice_rr (s : State) (g : Nat) (sl : Slice) (f : SliceSt → SliceSt) : (s.updSlice g sl f).rr = s.rr := rfl
@[simp] theorem State.updSlice_inbox (s : State) (g : Nat) (sl : Slice) (f : SliceSt → SliceSt) : (s.updSlice g sl f).inbox = s.inbox := rfl
@[simp] theorem State.updSlice_due (s : State) (g : Nat) (sl : Slice) (f : SliceSt → SliceSt) : (s.updSlice g sl f).due = s.due := rfl
@[simp] theorem State.updSlice_poolOwner (s : State) (g : Nat) (sl : Slice) (f : SliceSt → SliceSt) : (s.updSlice g sl f).poolOwner = s.poolOwner := rfl
@[simp] theorem State.updSlice_offered (s : State) (g : Nat) (sl : Slice) (f : SliceSt → SliceSt) : (s.updSlice g sl f).offered = s.offered := rfl
@[simp] theorem State.updSlice_picked (s : State) (g : Nat) (sl : Slice) (f : SliceSt → SliceSt) : (s.updSlice g sl f).picked = s.picked := rfl
@[simp] theorem State.updSlice_cur (s : State) (g : Nat) (sl : Slice) (f : SliceSt → SliceSt) : (s.updSlice g sl f).cur = s.cur := rfl
@[simp] theorem State.updSlice_nextId (s : State) (g : Nat) (sl : Slice) (f : SliceSt → SliceSt) : (s.updSlice g sl f).nextId = s.nextId := rfl
@[simp] theorem State.updSlice_free (s : State) (g : Nat) (sl : Slice) (f : SliceSt → SliceSt) : (s.updSlice g sl f).free = s.free := rfl

/-! ## updFrag -/

@[simp] theorem State.updFrag_time (s : State) (g : Nat) (sl : Slice) (n : Nat) (f : Frag → Frag) : (s.updFrag g sl n f).time = s.time := rfl
@[simp] theorem State.updFrag_timeLocked (s : State) (g : Nat) (sl : Slice) (n : Nat) (f : Frag → Frag) : (s.updFrag g sl n f).timeLocked = s.timeLocked := rfl
@[simp] theorem State.updFrag_timeSource (s : State) (g : Nat) (sl : Slice) (n : Nat) (f : Frag → Frag) : (s.updFrag g sl n f).timeSource = s.timeSource := rfl
@[simp] theorem State.updFrag_mem (s : State) (g : Nat) (sl : Slice) (n : Nat) (f : Frag → Frag) : (s.updFrag g sl n f).mem = s.mem := rfl
@[simp] theorem State.updFrag_memPoison (s : State) (g : Nat) (sl : Slice) (n : Nat) (f : Frag → Frag) : (s.updFrag g sl n f).memPoison = s.memPoison := rfl
@[simp] theorem State.updFrag_flaws (s : State) (g : Nat) (sl : Slice) (n : Nat) (f : Frag → Frag) : (s.updFrag g sl n f).flaws = s.flaws := rfl
@[simp] theorem State.updFrag_units (s : State) (g : Nat) (sl : Slice) (n : Nat) (f : Frag → Frag) : (s.updFrag g sl n f).units = s.units := rfl
@[simp] theorem State.updFrag_stamps (s : State) (g : Nat) (sl : Slice) (n : Nat) (f : Frag → Frag) : (s.updFrag g sl n f).stamps = s.stamps := rfl
@[simp] theorem State.updFrag_seals (s : State) (g : Nat) (sl : Slice) (n : Nat) (f : Frag → Frag) : (s.updFrag g sl n f).seals = s.seals := rfl
@[simp] theorem State.updFrag_l2 (s : State) (g : Nat) (sl : Slice) (n : Nat) (f : Frag → Frag) : (s.updFrag g sl n f).l2 = s.l2 := rfl
@[simp] theorem State.updFrag_mdc (s : State) (g : Nat) (sl : Slice) (n : Nat) (f : Frag → Frag) : (s.updFrag g sl n f).mdc = s.mdc := rfl
@[simp] theorem State.updFrag_regs (s : State) (g : Nat) (sl : Slice) (n : Nat) (f : Frag → Frag) : (s.updFrag g sl n f).regs = s.regs := rfl
@[simp] theorem State.updFrag_cores (s : State) (g : Nat) (sl : Slice) (n : Nat) (f : Frag → Frag) : (s.updFrag g sl n f).cores = s.cores := rfl
@[simp] theorem State.updFrag_rdcs (s : State) (g : Nat) (sl : Slice) (n : Nat) (f : Frag → Frag) : (s.updFrag g sl n f).rdcs = s.rdcs := rfl
@[simp] theorem State.updFrag_stale (s : State) (g : Nat) (sl : Slice) (n : Nat) (f : Frag → Frag) : (s.updFrag g sl n f).stale = s.stale := rfl
@[simp] theorem State.updFrag_outdated (s : State) (g : Nat) (sl : Slice) (n : Nat) (f : Frag → Frag) : (s.updFrag g sl n f).outdated = s.outdated := rfl
@[simp] theorem State.updFrag_homes (s : State) (g : Nat) (sl : Slice) (n : Nat) (f : Frag → Frag) : (s.updFrag g sl n f).homes = s.homes := rfl
@[simp] theorem State.updFrag_accs (s : State) (g : Nat) (sl : Slice) (n : Nat) (f : Frag → Frag) : (s.updFrag g sl n f).accs = s.accs := rfl
@[simp] theorem State.updFrag_engs (s : State) (g : Nat) (sl : Slice) (n : Nat) (f : Frag → Frag) : (s.updFrag g sl n f).engs = s.engs := rfl
@[simp] theorem State.updFrag_launches (s : State) (g : Nat) (sl : Slice) (n : Nat) (f : Frag → Frag) : (s.updFrag g sl n f).launches = s.launches := rfl
@[simp] theorem State.updFrag_draws (s : State) (g : Nat) (sl : Slice) (n : Nat) (f : Frag → Frag) : (s.updFrag g sl n f).draws = s.draws := rfl
@[simp] theorem State.updFrag_ctxs (s : State) (g : Nat) (sl : Slice) (n : Nat) (f : Frag → Frag) : (s.updFrag g sl n f).ctxs = s.ctxs := rfl
@[simp] theorem State.updFrag_gfx (s : State) (g : Nat) (sl : Slice) (n : Nat) (f : Frag → Frag) : (s.updFrag g sl n f).gfx = s.gfx := rfl
@[simp] theorem State.updFrag_saves (s : State) (g : Nat) (sl : Slice) (n : Nat) (f : Frag → Frag) : (s.updFrag g sl n f).saves = s.saves := rfl
@[simp] theorem State.updFrag_batches (s : State) (g : Nat) (sl : Slice) (n : Nat) (f : Frag → Frag) : (s.updFrag g sl n f).batches = s.batches := rfl
@[simp] theorem State.updFrag_records (s : State) (g : Nat) (sl : Slice) (n : Nat) (f : Frag → Frag) : (s.updFrag g sl n f).records = s.records := rfl
@[simp] theorem State.updFrag_collectives (s : State) (g : Nat) (sl : Slice) (n : Nat) (f : Frag → Frag) : (s.updFrag g sl n f).collectives = s.collectives := rfl
@[simp] theorem State.updFrag_passes (s : State) (g : Nat) (sl : Slice) (n : Nat) (f : Frag → Frag) : (s.updFrag g sl n f).passes = s.passes := rfl
@[simp] theorem State.updFrag_owners (s : State) (g : Nat) (sl : Slice) (n : Nat) (f : Frag → Frag) : (s.updFrag g sl n f).owners = s.owners := rfl
@[simp] theorem State.updFrag_views (s : State) (g : Nat) (sl : Slice) (n : Nat) (f : Frag → Frag) : (s.updFrag g sl n f).views = s.views := rfl
@[simp] theorem State.updFrag_descs (s : State) (g : Nat) (sl : Slice) (n : Nat) (f : Frag → Frag) : (s.updFrag g sl n f).descs = s.descs := rfl
@[simp] theorem State.updFrag_streams (s : State) (g : Nat) (sl : Slice) (n : Nat) (f : Frag → Frag) : (s.updFrag g sl n f).streams = s.streams := rfl
@[simp] theorem State.updFrag_ports (s : State) (g : Nat) (sl : Slice) (n : Nat) (f : Frag → Frag) : (s.updFrag g sl n f).ports = s.ports := rfl
@[simp] theorem State.updFrag_pausing (s : State) (g : Nat) (sl : Slice) (n : Nat) (f : Frag → Frag) : (s.updFrag g sl n f).pausing = s.pausing := rfl
@[simp] theorem State.updFrag_lost (s : State) (g : Nat) (sl : Slice) (n : Nat) (f : Frag → Frag) : (s.updFrag g sl n f).lost = s.lost := rfl
@[simp] theorem State.updFrag_reads (s : State) (g : Nat) (sl : Slice) (n : Nat) (f : Frag → Frag) : (s.updFrag g sl n f).reads = s.reads := rfl
@[simp] theorem State.updFrag_prefetches (s : State) (g : Nat) (sl : Slice) (n : Nat) (f : Frag → Frag) : (s.updFrag g sl n f).prefetches = s.prefetches := rfl
@[simp] theorem State.updFrag_clusters (s : State) (g : Nat) (sl : Slice) (n : Nat) (f : Frag → Frag) : (s.updFrag g sl n f).clusters = s.clusters := rfl
@[simp] theorem State.updFrag_overload (s : State) (g : Nat) (sl : Slice) (n : Nat) (f : Frag → Frag) : (s.updFrag g sl n f).overload = s.overload := rfl
@[simp] theorem State.updFrag_calm (s : State) (g : Nat) (sl : Slice) (n : Nat) (f : Frag → Frag) : (s.updFrag g sl n f).calm = s.calm := rfl
@[simp] theorem State.updFrag_board (s : State) (g : Nat) (sl : Slice) (n : Nat) (f : Frag → Frag) : (s.updFrag g sl n f).board = s.board := rfl
@[simp] theorem State.updFrag_urxia (s : State) (g : Nat) (sl : Slice) (n : Nat) (f : Frag → Frag) : (s.updFrag g sl n f).urxia = s.urxia := rfl
@[simp] theorem State.updFrag_ghost (s : State) (g : Nat) (sl : Slice) (n : Nat) (f : Frag → Frag) : (s.updFrag g sl n f).ghost = s.ghost := rfl
@[simp] theorem State.updFrag_understudy (s : State) (g : Nat) (sl : Slice) (n : Nat) (f : Frag → Frag) : (s.updFrag g sl n f).understudy = s.understudy := rfl
@[simp] theorem State.updFrag_spared (s : State) (g : Nat) (sl : Slice) (n : Nat) (f : Frag → Frag) : (s.updFrag g sl n f).spared = s.spared := rfl
@[simp] theorem State.updFrag_repairs (s : State) (g : Nat) (sl : Slice) (n : Nat) (f : Frag → Frag) : (s.updFrag g sl n f).repairs = s.repairs := rfl
@[simp] theorem State.updFrag_rr (s : State) (g : Nat) (sl : Slice) (n : Nat) (f : Frag → Frag) : (s.updFrag g sl n f).rr = s.rr := rfl
@[simp] theorem State.updFrag_inbox (s : State) (g : Nat) (sl : Slice) (n : Nat) (f : Frag → Frag) : (s.updFrag g sl n f).inbox = s.inbox := rfl
@[simp] theorem State.updFrag_due (s : State) (g : Nat) (sl : Slice) (n : Nat) (f : Frag → Frag) : (s.updFrag g sl n f).due = s.due := rfl
@[simp] theorem State.updFrag_poolOwner (s : State) (g : Nat) (sl : Slice) (n : Nat) (f : Frag → Frag) : (s.updFrag g sl n f).poolOwner = s.poolOwner := rfl
@[simp] theorem State.updFrag_offered (s : State) (g : Nat) (sl : Slice) (n : Nat) (f : Frag → Frag) : (s.updFrag g sl n f).offered = s.offered := rfl
@[simp] theorem State.updFrag_picked (s : State) (g : Nat) (sl : Slice) (n : Nat) (f : Frag → Frag) : (s.updFrag g sl n f).picked = s.picked := rfl
@[simp] theorem State.updFrag_cur (s : State) (g : Nat) (sl : Slice) (n : Nat) (f : Frag → Frag) : (s.updFrag g sl n f).cur = s.cur := rfl
@[simp] theorem State.updFrag_nextId (s : State) (g : Nat) (sl : Slice) (n : Nat) (f : Frag → Frag) : (s.updFrag g sl n f).nextId = s.nextId := rfl
@[simp] theorem State.updFrag_free (s : State) (g : Nat) (sl : Slice) (n : Nat) (f : Frag → Frag) : (s.updFrag g sl n f).free = s.free := rfl

/-! ## updAcc -/

@[simp] theorem State.updAcc_time (s : State) (i : Nat) (f : Acc → Acc) : (s.updAcc i f).time = s.time := rfl
@[simp] theorem State.updAcc_timeLocked (s : State) (i : Nat) (f : Acc → Acc) : (s.updAcc i f).timeLocked = s.timeLocked := rfl
@[simp] theorem State.updAcc_timeSource (s : State) (i : Nat) (f : Acc → Acc) : (s.updAcc i f).timeSource = s.timeSource := rfl
@[simp] theorem State.updAcc_mem (s : State) (i : Nat) (f : Acc → Acc) : (s.updAcc i f).mem = s.mem := rfl
@[simp] theorem State.updAcc_memPoison (s : State) (i : Nat) (f : Acc → Acc) : (s.updAcc i f).memPoison = s.memPoison := rfl
@[simp] theorem State.updAcc_flaws (s : State) (i : Nat) (f : Acc → Acc) : (s.updAcc i f).flaws = s.flaws := rfl
@[simp] theorem State.updAcc_units (s : State) (i : Nat) (f : Acc → Acc) : (s.updAcc i f).units = s.units := rfl
@[simp] theorem State.updAcc_stamps (s : State) (i : Nat) (f : Acc → Acc) : (s.updAcc i f).stamps = s.stamps := rfl
@[simp] theorem State.updAcc_seals (s : State) (i : Nat) (f : Acc → Acc) : (s.updAcc i f).seals = s.seals := rfl
@[simp] theorem State.updAcc_l2 (s : State) (i : Nat) (f : Acc → Acc) : (s.updAcc i f).l2 = s.l2 := rfl
@[simp] theorem State.updAcc_mdc (s : State) (i : Nat) (f : Acc → Acc) : (s.updAcc i f).mdc = s.mdc := rfl
@[simp] theorem State.updAcc_regs (s : State) (i : Nat) (f : Acc → Acc) : (s.updAcc i f).regs = s.regs := rfl
@[simp] theorem State.updAcc_cores (s : State) (i : Nat) (f : Acc → Acc) : (s.updAcc i f).cores = s.cores := rfl
@[simp] theorem State.updAcc_rdcs (s : State) (i : Nat) (f : Acc → Acc) : (s.updAcc i f).rdcs = s.rdcs := rfl
@[simp] theorem State.updAcc_stale (s : State) (i : Nat) (f : Acc → Acc) : (s.updAcc i f).stale = s.stale := rfl
@[simp] theorem State.updAcc_outdated (s : State) (i : Nat) (f : Acc → Acc) : (s.updAcc i f).outdated = s.outdated := rfl
@[simp] theorem State.updAcc_homes (s : State) (i : Nat) (f : Acc → Acc) : (s.updAcc i f).homes = s.homes := rfl
@[simp] theorem State.updAcc_teams (s : State) (i : Nat) (f : Acc → Acc) : (s.updAcc i f).teams = s.teams := rfl
@[simp] theorem State.updAcc_engs (s : State) (i : Nat) (f : Acc → Acc) : (s.updAcc i f).engs = s.engs := rfl
@[simp] theorem State.updAcc_launches (s : State) (i : Nat) (f : Acc → Acc) : (s.updAcc i f).launches = s.launches := rfl
@[simp] theorem State.updAcc_draws (s : State) (i : Nat) (f : Acc → Acc) : (s.updAcc i f).draws = s.draws := rfl
@[simp] theorem State.updAcc_ctxs (s : State) (i : Nat) (f : Acc → Acc) : (s.updAcc i f).ctxs = s.ctxs := rfl
@[simp] theorem State.updAcc_gfx (s : State) (i : Nat) (f : Acc → Acc) : (s.updAcc i f).gfx = s.gfx := rfl
@[simp] theorem State.updAcc_saves (s : State) (i : Nat) (f : Acc → Acc) : (s.updAcc i f).saves = s.saves := rfl
@[simp] theorem State.updAcc_batches (s : State) (i : Nat) (f : Acc → Acc) : (s.updAcc i f).batches = s.batches := rfl
@[simp] theorem State.updAcc_records (s : State) (i : Nat) (f : Acc → Acc) : (s.updAcc i f).records = s.records := rfl
@[simp] theorem State.updAcc_collectives (s : State) (i : Nat) (f : Acc → Acc) : (s.updAcc i f).collectives = s.collectives := rfl
@[simp] theorem State.updAcc_passes (s : State) (i : Nat) (f : Acc → Acc) : (s.updAcc i f).passes = s.passes := rfl
@[simp] theorem State.updAcc_owners (s : State) (i : Nat) (f : Acc → Acc) : (s.updAcc i f).owners = s.owners := rfl
@[simp] theorem State.updAcc_views (s : State) (i : Nat) (f : Acc → Acc) : (s.updAcc i f).views = s.views := rfl
@[simp] theorem State.updAcc_descs (s : State) (i : Nat) (f : Acc → Acc) : (s.updAcc i f).descs = s.descs := rfl
@[simp] theorem State.updAcc_streams (s : State) (i : Nat) (f : Acc → Acc) : (s.updAcc i f).streams = s.streams := rfl
@[simp] theorem State.updAcc_ports (s : State) (i : Nat) (f : Acc → Acc) : (s.updAcc i f).ports = s.ports := rfl
@[simp] theorem State.updAcc_pausing (s : State) (i : Nat) (f : Acc → Acc) : (s.updAcc i f).pausing = s.pausing := rfl
@[simp] theorem State.updAcc_lost (s : State) (i : Nat) (f : Acc → Acc) : (s.updAcc i f).lost = s.lost := rfl
@[simp] theorem State.updAcc_reads (s : State) (i : Nat) (f : Acc → Acc) : (s.updAcc i f).reads = s.reads := rfl
@[simp] theorem State.updAcc_prefetches (s : State) (i : Nat) (f : Acc → Acc) : (s.updAcc i f).prefetches = s.prefetches := rfl
@[simp] theorem State.updAcc_clusters (s : State) (i : Nat) (f : Acc → Acc) : (s.updAcc i f).clusters = s.clusters := rfl
@[simp] theorem State.updAcc_overload (s : State) (i : Nat) (f : Acc → Acc) : (s.updAcc i f).overload = s.overload := rfl
@[simp] theorem State.updAcc_calm (s : State) (i : Nat) (f : Acc → Acc) : (s.updAcc i f).calm = s.calm := rfl
@[simp] theorem State.updAcc_board (s : State) (i : Nat) (f : Acc → Acc) : (s.updAcc i f).board = s.board := rfl
@[simp] theorem State.updAcc_urxia (s : State) (i : Nat) (f : Acc → Acc) : (s.updAcc i f).urxia = s.urxia := rfl
@[simp] theorem State.updAcc_ghost (s : State) (i : Nat) (f : Acc → Acc) : (s.updAcc i f).ghost = s.ghost := rfl
@[simp] theorem State.updAcc_understudy (s : State) (i : Nat) (f : Acc → Acc) : (s.updAcc i f).understudy = s.understudy := rfl
@[simp] theorem State.updAcc_spared (s : State) (i : Nat) (f : Acc → Acc) : (s.updAcc i f).spared = s.spared := rfl
@[simp] theorem State.updAcc_repairs (s : State) (i : Nat) (f : Acc → Acc) : (s.updAcc i f).repairs = s.repairs := rfl
@[simp] theorem State.updAcc_rr (s : State) (i : Nat) (f : Acc → Acc) : (s.updAcc i f).rr = s.rr := rfl
@[simp] theorem State.updAcc_inbox (s : State) (i : Nat) (f : Acc → Acc) : (s.updAcc i f).inbox = s.inbox := rfl
@[simp] theorem State.updAcc_due (s : State) (i : Nat) (f : Acc → Acc) : (s.updAcc i f).due = s.due := rfl
@[simp] theorem State.updAcc_poolOwner (s : State) (i : Nat) (f : Acc → Acc) : (s.updAcc i f).poolOwner = s.poolOwner := rfl
@[simp] theorem State.updAcc_offered (s : State) (i : Nat) (f : Acc → Acc) : (s.updAcc i f).offered = s.offered := rfl
@[simp] theorem State.updAcc_picked (s : State) (i : Nat) (f : Acc → Acc) : (s.updAcc i f).picked = s.picked := rfl
@[simp] theorem State.updAcc_cur (s : State) (i : Nat) (f : Acc → Acc) : (s.updAcc i f).cur = s.cur := rfl
@[simp] theorem State.updAcc_nextId (s : State) (i : Nat) (f : Acc → Acc) : (s.updAcc i f).nextId = s.nextId := rfl
@[simp] theorem State.updAcc_free (s : State) (i : Nat) (f : Acc → Acc) : (s.updAcc i f).free = s.free := rfl

/-! ## updEng -/

@[simp] theorem State.updEng_time (s : State) (i : Nat) (f : Eng → Eng) : (s.updEng i f).time = s.time := rfl
@[simp] theorem State.updEng_timeLocked (s : State) (i : Nat) (f : Eng → Eng) : (s.updEng i f).timeLocked = s.timeLocked := rfl
@[simp] theorem State.updEng_timeSource (s : State) (i : Nat) (f : Eng → Eng) : (s.updEng i f).timeSource = s.timeSource := rfl
@[simp] theorem State.updEng_mem (s : State) (i : Nat) (f : Eng → Eng) : (s.updEng i f).mem = s.mem := rfl
@[simp] theorem State.updEng_memPoison (s : State) (i : Nat) (f : Eng → Eng) : (s.updEng i f).memPoison = s.memPoison := rfl
@[simp] theorem State.updEng_flaws (s : State) (i : Nat) (f : Eng → Eng) : (s.updEng i f).flaws = s.flaws := rfl
@[simp] theorem State.updEng_units (s : State) (i : Nat) (f : Eng → Eng) : (s.updEng i f).units = s.units := rfl
@[simp] theorem State.updEng_stamps (s : State) (i : Nat) (f : Eng → Eng) : (s.updEng i f).stamps = s.stamps := rfl
@[simp] theorem State.updEng_seals (s : State) (i : Nat) (f : Eng → Eng) : (s.updEng i f).seals = s.seals := rfl
@[simp] theorem State.updEng_l2 (s : State) (i : Nat) (f : Eng → Eng) : (s.updEng i f).l2 = s.l2 := rfl
@[simp] theorem State.updEng_mdc (s : State) (i : Nat) (f : Eng → Eng) : (s.updEng i f).mdc = s.mdc := rfl
@[simp] theorem State.updEng_regs (s : State) (i : Nat) (f : Eng → Eng) : (s.updEng i f).regs = s.regs := rfl
@[simp] theorem State.updEng_cores (s : State) (i : Nat) (f : Eng → Eng) : (s.updEng i f).cores = s.cores := rfl
@[simp] theorem State.updEng_rdcs (s : State) (i : Nat) (f : Eng → Eng) : (s.updEng i f).rdcs = s.rdcs := rfl
@[simp] theorem State.updEng_stale (s : State) (i : Nat) (f : Eng → Eng) : (s.updEng i f).stale = s.stale := rfl
@[simp] theorem State.updEng_outdated (s : State) (i : Nat) (f : Eng → Eng) : (s.updEng i f).outdated = s.outdated := rfl
@[simp] theorem State.updEng_homes (s : State) (i : Nat) (f : Eng → Eng) : (s.updEng i f).homes = s.homes := rfl
@[simp] theorem State.updEng_teams (s : State) (i : Nat) (f : Eng → Eng) : (s.updEng i f).teams = s.teams := rfl
@[simp] theorem State.updEng_accs (s : State) (i : Nat) (f : Eng → Eng) : (s.updEng i f).accs = s.accs := rfl
@[simp] theorem State.updEng_launches (s : State) (i : Nat) (f : Eng → Eng) : (s.updEng i f).launches = s.launches := rfl
@[simp] theorem State.updEng_draws (s : State) (i : Nat) (f : Eng → Eng) : (s.updEng i f).draws = s.draws := rfl
@[simp] theorem State.updEng_ctxs (s : State) (i : Nat) (f : Eng → Eng) : (s.updEng i f).ctxs = s.ctxs := rfl
@[simp] theorem State.updEng_gfx (s : State) (i : Nat) (f : Eng → Eng) : (s.updEng i f).gfx = s.gfx := rfl
@[simp] theorem State.updEng_saves (s : State) (i : Nat) (f : Eng → Eng) : (s.updEng i f).saves = s.saves := rfl
@[simp] theorem State.updEng_batches (s : State) (i : Nat) (f : Eng → Eng) : (s.updEng i f).batches = s.batches := rfl
@[simp] theorem State.updEng_records (s : State) (i : Nat) (f : Eng → Eng) : (s.updEng i f).records = s.records := rfl
@[simp] theorem State.updEng_collectives (s : State) (i : Nat) (f : Eng → Eng) : (s.updEng i f).collectives = s.collectives := rfl
@[simp] theorem State.updEng_passes (s : State) (i : Nat) (f : Eng → Eng) : (s.updEng i f).passes = s.passes := rfl
@[simp] theorem State.updEng_owners (s : State) (i : Nat) (f : Eng → Eng) : (s.updEng i f).owners = s.owners := rfl
@[simp] theorem State.updEng_views (s : State) (i : Nat) (f : Eng → Eng) : (s.updEng i f).views = s.views := rfl
@[simp] theorem State.updEng_descs (s : State) (i : Nat) (f : Eng → Eng) : (s.updEng i f).descs = s.descs := rfl
@[simp] theorem State.updEng_streams (s : State) (i : Nat) (f : Eng → Eng) : (s.updEng i f).streams = s.streams := rfl
@[simp] theorem State.updEng_ports (s : State) (i : Nat) (f : Eng → Eng) : (s.updEng i f).ports = s.ports := rfl
@[simp] theorem State.updEng_pausing (s : State) (i : Nat) (f : Eng → Eng) : (s.updEng i f).pausing = s.pausing := rfl
@[simp] theorem State.updEng_lost (s : State) (i : Nat) (f : Eng → Eng) : (s.updEng i f).lost = s.lost := rfl
@[simp] theorem State.updEng_reads (s : State) (i : Nat) (f : Eng → Eng) : (s.updEng i f).reads = s.reads := rfl
@[simp] theorem State.updEng_prefetches (s : State) (i : Nat) (f : Eng → Eng) : (s.updEng i f).prefetches = s.prefetches := rfl
@[simp] theorem State.updEng_clusters (s : State) (i : Nat) (f : Eng → Eng) : (s.updEng i f).clusters = s.clusters := rfl
@[simp] theorem State.updEng_overload (s : State) (i : Nat) (f : Eng → Eng) : (s.updEng i f).overload = s.overload := rfl
@[simp] theorem State.updEng_calm (s : State) (i : Nat) (f : Eng → Eng) : (s.updEng i f).calm = s.calm := rfl
@[simp] theorem State.updEng_board (s : State) (i : Nat) (f : Eng → Eng) : (s.updEng i f).board = s.board := rfl
@[simp] theorem State.updEng_urxia (s : State) (i : Nat) (f : Eng → Eng) : (s.updEng i f).urxia = s.urxia := rfl
@[simp] theorem State.updEng_ghost (s : State) (i : Nat) (f : Eng → Eng) : (s.updEng i f).ghost = s.ghost := rfl
@[simp] theorem State.updEng_understudy (s : State) (i : Nat) (f : Eng → Eng) : (s.updEng i f).understudy = s.understudy := rfl
@[simp] theorem State.updEng_spared (s : State) (i : Nat) (f : Eng → Eng) : (s.updEng i f).spared = s.spared := rfl
@[simp] theorem State.updEng_repairs (s : State) (i : Nat) (f : Eng → Eng) : (s.updEng i f).repairs = s.repairs := rfl
@[simp] theorem State.updEng_rr (s : State) (i : Nat) (f : Eng → Eng) : (s.updEng i f).rr = s.rr := rfl
@[simp] theorem State.updEng_inbox (s : State) (i : Nat) (f : Eng → Eng) : (s.updEng i f).inbox = s.inbox := rfl
@[simp] theorem State.updEng_due (s : State) (i : Nat) (f : Eng → Eng) : (s.updEng i f).due = s.due := rfl
@[simp] theorem State.updEng_poolOwner (s : State) (i : Nat) (f : Eng → Eng) : (s.updEng i f).poolOwner = s.poolOwner := rfl
@[simp] theorem State.updEng_offered (s : State) (i : Nat) (f : Eng → Eng) : (s.updEng i f).offered = s.offered := rfl
@[simp] theorem State.updEng_picked (s : State) (i : Nat) (f : Eng → Eng) : (s.updEng i f).picked = s.picked := rfl
@[simp] theorem State.updEng_cur (s : State) (i : Nat) (f : Eng → Eng) : (s.updEng i f).cur = s.cur := rfl
@[simp] theorem State.updEng_nextId (s : State) (i : Nat) (f : Eng → Eng) : (s.updEng i f).nextId = s.nextId := rfl
@[simp] theorem State.updEng_free (s : State) (i : Nat) (f : Eng → Eng) : (s.updEng i f).free = s.free := rfl

/-! ## updLaunch -/

@[simp] theorem State.updLaunch_time (s : State) (i : Nat) (f : Launch → Launch) : (s.updLaunch i f).time = s.time := rfl
@[simp] theorem State.updLaunch_timeLocked (s : State) (i : Nat) (f : Launch → Launch) : (s.updLaunch i f).timeLocked = s.timeLocked := rfl
@[simp] theorem State.updLaunch_timeSource (s : State) (i : Nat) (f : Launch → Launch) : (s.updLaunch i f).timeSource = s.timeSource := rfl
@[simp] theorem State.updLaunch_mem (s : State) (i : Nat) (f : Launch → Launch) : (s.updLaunch i f).mem = s.mem := rfl
@[simp] theorem State.updLaunch_memPoison (s : State) (i : Nat) (f : Launch → Launch) : (s.updLaunch i f).memPoison = s.memPoison := rfl
@[simp] theorem State.updLaunch_flaws (s : State) (i : Nat) (f : Launch → Launch) : (s.updLaunch i f).flaws = s.flaws := rfl
@[simp] theorem State.updLaunch_units (s : State) (i : Nat) (f : Launch → Launch) : (s.updLaunch i f).units = s.units := rfl
@[simp] theorem State.updLaunch_stamps (s : State) (i : Nat) (f : Launch → Launch) : (s.updLaunch i f).stamps = s.stamps := rfl
@[simp] theorem State.updLaunch_seals (s : State) (i : Nat) (f : Launch → Launch) : (s.updLaunch i f).seals = s.seals := rfl
@[simp] theorem State.updLaunch_l2 (s : State) (i : Nat) (f : Launch → Launch) : (s.updLaunch i f).l2 = s.l2 := rfl
@[simp] theorem State.updLaunch_mdc (s : State) (i : Nat) (f : Launch → Launch) : (s.updLaunch i f).mdc = s.mdc := rfl
@[simp] theorem State.updLaunch_regs (s : State) (i : Nat) (f : Launch → Launch) : (s.updLaunch i f).regs = s.regs := rfl
@[simp] theorem State.updLaunch_cores (s : State) (i : Nat) (f : Launch → Launch) : (s.updLaunch i f).cores = s.cores := rfl
@[simp] theorem State.updLaunch_rdcs (s : State) (i : Nat) (f : Launch → Launch) : (s.updLaunch i f).rdcs = s.rdcs := rfl
@[simp] theorem State.updLaunch_stale (s : State) (i : Nat) (f : Launch → Launch) : (s.updLaunch i f).stale = s.stale := rfl
@[simp] theorem State.updLaunch_outdated (s : State) (i : Nat) (f : Launch → Launch) : (s.updLaunch i f).outdated = s.outdated := rfl
@[simp] theorem State.updLaunch_homes (s : State) (i : Nat) (f : Launch → Launch) : (s.updLaunch i f).homes = s.homes := rfl
@[simp] theorem State.updLaunch_teams (s : State) (i : Nat) (f : Launch → Launch) : (s.updLaunch i f).teams = s.teams := rfl
@[simp] theorem State.updLaunch_accs (s : State) (i : Nat) (f : Launch → Launch) : (s.updLaunch i f).accs = s.accs := rfl
@[simp] theorem State.updLaunch_engs (s : State) (i : Nat) (f : Launch → Launch) : (s.updLaunch i f).engs = s.engs := rfl
@[simp] theorem State.updLaunch_draws (s : State) (i : Nat) (f : Launch → Launch) : (s.updLaunch i f).draws = s.draws := rfl
@[simp] theorem State.updLaunch_ctxs (s : State) (i : Nat) (f : Launch → Launch) : (s.updLaunch i f).ctxs = s.ctxs := rfl
@[simp] theorem State.updLaunch_gfx (s : State) (i : Nat) (f : Launch → Launch) : (s.updLaunch i f).gfx = s.gfx := rfl
@[simp] theorem State.updLaunch_saves (s : State) (i : Nat) (f : Launch → Launch) : (s.updLaunch i f).saves = s.saves := rfl
@[simp] theorem State.updLaunch_batches (s : State) (i : Nat) (f : Launch → Launch) : (s.updLaunch i f).batches = s.batches := rfl
@[simp] theorem State.updLaunch_records (s : State) (i : Nat) (f : Launch → Launch) : (s.updLaunch i f).records = s.records := rfl
@[simp] theorem State.updLaunch_collectives (s : State) (i : Nat) (f : Launch → Launch) : (s.updLaunch i f).collectives = s.collectives := rfl
@[simp] theorem State.updLaunch_passes (s : State) (i : Nat) (f : Launch → Launch) : (s.updLaunch i f).passes = s.passes := rfl
@[simp] theorem State.updLaunch_owners (s : State) (i : Nat) (f : Launch → Launch) : (s.updLaunch i f).owners = s.owners := rfl
@[simp] theorem State.updLaunch_views (s : State) (i : Nat) (f : Launch → Launch) : (s.updLaunch i f).views = s.views := rfl
@[simp] theorem State.updLaunch_descs (s : State) (i : Nat) (f : Launch → Launch) : (s.updLaunch i f).descs = s.descs := rfl
@[simp] theorem State.updLaunch_streams (s : State) (i : Nat) (f : Launch → Launch) : (s.updLaunch i f).streams = s.streams := rfl
@[simp] theorem State.updLaunch_ports (s : State) (i : Nat) (f : Launch → Launch) : (s.updLaunch i f).ports = s.ports := rfl
@[simp] theorem State.updLaunch_pausing (s : State) (i : Nat) (f : Launch → Launch) : (s.updLaunch i f).pausing = s.pausing := rfl
@[simp] theorem State.updLaunch_lost (s : State) (i : Nat) (f : Launch → Launch) : (s.updLaunch i f).lost = s.lost := rfl
@[simp] theorem State.updLaunch_reads (s : State) (i : Nat) (f : Launch → Launch) : (s.updLaunch i f).reads = s.reads := rfl
@[simp] theorem State.updLaunch_prefetches (s : State) (i : Nat) (f : Launch → Launch) : (s.updLaunch i f).prefetches = s.prefetches := rfl
@[simp] theorem State.updLaunch_clusters (s : State) (i : Nat) (f : Launch → Launch) : (s.updLaunch i f).clusters = s.clusters := rfl
@[simp] theorem State.updLaunch_overload (s : State) (i : Nat) (f : Launch → Launch) : (s.updLaunch i f).overload = s.overload := rfl
@[simp] theorem State.updLaunch_calm (s : State) (i : Nat) (f : Launch → Launch) : (s.updLaunch i f).calm = s.calm := rfl
@[simp] theorem State.updLaunch_board (s : State) (i : Nat) (f : Launch → Launch) : (s.updLaunch i f).board = s.board := rfl
@[simp] theorem State.updLaunch_urxia (s : State) (i : Nat) (f : Launch → Launch) : (s.updLaunch i f).urxia = s.urxia := rfl
@[simp] theorem State.updLaunch_ghost (s : State) (i : Nat) (f : Launch → Launch) : (s.updLaunch i f).ghost = s.ghost := rfl
@[simp] theorem State.updLaunch_understudy (s : State) (i : Nat) (f : Launch → Launch) : (s.updLaunch i f).understudy = s.understudy := rfl
@[simp] theorem State.updLaunch_spared (s : State) (i : Nat) (f : Launch → Launch) : (s.updLaunch i f).spared = s.spared := rfl
@[simp] theorem State.updLaunch_repairs (s : State) (i : Nat) (f : Launch → Launch) : (s.updLaunch i f).repairs = s.repairs := rfl
@[simp] theorem State.updLaunch_rr (s : State) (i : Nat) (f : Launch → Launch) : (s.updLaunch i f).rr = s.rr := rfl
@[simp] theorem State.updLaunch_inbox (s : State) (i : Nat) (f : Launch → Launch) : (s.updLaunch i f).inbox = s.inbox := rfl
@[simp] theorem State.updLaunch_due (s : State) (i : Nat) (f : Launch → Launch) : (s.updLaunch i f).due = s.due := rfl
@[simp] theorem State.updLaunch_poolOwner (s : State) (i : Nat) (f : Launch → Launch) : (s.updLaunch i f).poolOwner = s.poolOwner := rfl
@[simp] theorem State.updLaunch_offered (s : State) (i : Nat) (f : Launch → Launch) : (s.updLaunch i f).offered = s.offered := rfl
@[simp] theorem State.updLaunch_picked (s : State) (i : Nat) (f : Launch → Launch) : (s.updLaunch i f).picked = s.picked := rfl
@[simp] theorem State.updLaunch_cur (s : State) (i : Nat) (f : Launch → Launch) : (s.updLaunch i f).cur = s.cur := rfl
@[simp] theorem State.updLaunch_nextId (s : State) (i : Nat) (f : Launch → Launch) : (s.updLaunch i f).nextId = s.nextId := rfl
@[simp] theorem State.updLaunch_free (s : State) (i : Nat) (f : Launch → Launch) : (s.updLaunch i f).free = s.free := rfl

/-! ## updDraw -/

@[simp] theorem State.updDraw_time (s : State) (i : Nat) (f : Draw → Draw) : (s.updDraw i f).time = s.time := rfl
@[simp] theorem State.updDraw_timeLocked (s : State) (i : Nat) (f : Draw → Draw) : (s.updDraw i f).timeLocked = s.timeLocked := rfl
@[simp] theorem State.updDraw_timeSource (s : State) (i : Nat) (f : Draw → Draw) : (s.updDraw i f).timeSource = s.timeSource := rfl
@[simp] theorem State.updDraw_mem (s : State) (i : Nat) (f : Draw → Draw) : (s.updDraw i f).mem = s.mem := rfl
@[simp] theorem State.updDraw_memPoison (s : State) (i : Nat) (f : Draw → Draw) : (s.updDraw i f).memPoison = s.memPoison := rfl
@[simp] theorem State.updDraw_flaws (s : State) (i : Nat) (f : Draw → Draw) : (s.updDraw i f).flaws = s.flaws := rfl
@[simp] theorem State.updDraw_units (s : State) (i : Nat) (f : Draw → Draw) : (s.updDraw i f).units = s.units := rfl
@[simp] theorem State.updDraw_stamps (s : State) (i : Nat) (f : Draw → Draw) : (s.updDraw i f).stamps = s.stamps := rfl
@[simp] theorem State.updDraw_seals (s : State) (i : Nat) (f : Draw → Draw) : (s.updDraw i f).seals = s.seals := rfl
@[simp] theorem State.updDraw_l2 (s : State) (i : Nat) (f : Draw → Draw) : (s.updDraw i f).l2 = s.l2 := rfl
@[simp] theorem State.updDraw_mdc (s : State) (i : Nat) (f : Draw → Draw) : (s.updDraw i f).mdc = s.mdc := rfl
@[simp] theorem State.updDraw_regs (s : State) (i : Nat) (f : Draw → Draw) : (s.updDraw i f).regs = s.regs := rfl
@[simp] theorem State.updDraw_cores (s : State) (i : Nat) (f : Draw → Draw) : (s.updDraw i f).cores = s.cores := rfl
@[simp] theorem State.updDraw_rdcs (s : State) (i : Nat) (f : Draw → Draw) : (s.updDraw i f).rdcs = s.rdcs := rfl
@[simp] theorem State.updDraw_stale (s : State) (i : Nat) (f : Draw → Draw) : (s.updDraw i f).stale = s.stale := rfl
@[simp] theorem State.updDraw_outdated (s : State) (i : Nat) (f : Draw → Draw) : (s.updDraw i f).outdated = s.outdated := rfl
@[simp] theorem State.updDraw_homes (s : State) (i : Nat) (f : Draw → Draw) : (s.updDraw i f).homes = s.homes := rfl
@[simp] theorem State.updDraw_teams (s : State) (i : Nat) (f : Draw → Draw) : (s.updDraw i f).teams = s.teams := rfl
@[simp] theorem State.updDraw_accs (s : State) (i : Nat) (f : Draw → Draw) : (s.updDraw i f).accs = s.accs := rfl
@[simp] theorem State.updDraw_engs (s : State) (i : Nat) (f : Draw → Draw) : (s.updDraw i f).engs = s.engs := rfl
@[simp] theorem State.updDraw_launches (s : State) (i : Nat) (f : Draw → Draw) : (s.updDraw i f).launches = s.launches := rfl
@[simp] theorem State.updDraw_ctxs (s : State) (i : Nat) (f : Draw → Draw) : (s.updDraw i f).ctxs = s.ctxs := rfl
@[simp] theorem State.updDraw_gfx (s : State) (i : Nat) (f : Draw → Draw) : (s.updDraw i f).gfx = s.gfx := rfl
@[simp] theorem State.updDraw_saves (s : State) (i : Nat) (f : Draw → Draw) : (s.updDraw i f).saves = s.saves := rfl
@[simp] theorem State.updDraw_batches (s : State) (i : Nat) (f : Draw → Draw) : (s.updDraw i f).batches = s.batches := rfl
@[simp] theorem State.updDraw_records (s : State) (i : Nat) (f : Draw → Draw) : (s.updDraw i f).records = s.records := rfl
@[simp] theorem State.updDraw_collectives (s : State) (i : Nat) (f : Draw → Draw) : (s.updDraw i f).collectives = s.collectives := rfl
@[simp] theorem State.updDraw_passes (s : State) (i : Nat) (f : Draw → Draw) : (s.updDraw i f).passes = s.passes := rfl
@[simp] theorem State.updDraw_owners (s : State) (i : Nat) (f : Draw → Draw) : (s.updDraw i f).owners = s.owners := rfl
@[simp] theorem State.updDraw_views (s : State) (i : Nat) (f : Draw → Draw) : (s.updDraw i f).views = s.views := rfl
@[simp] theorem State.updDraw_descs (s : State) (i : Nat) (f : Draw → Draw) : (s.updDraw i f).descs = s.descs := rfl
@[simp] theorem State.updDraw_streams (s : State) (i : Nat) (f : Draw → Draw) : (s.updDraw i f).streams = s.streams := rfl
@[simp] theorem State.updDraw_ports (s : State) (i : Nat) (f : Draw → Draw) : (s.updDraw i f).ports = s.ports := rfl
@[simp] theorem State.updDraw_pausing (s : State) (i : Nat) (f : Draw → Draw) : (s.updDraw i f).pausing = s.pausing := rfl
@[simp] theorem State.updDraw_lost (s : State) (i : Nat) (f : Draw → Draw) : (s.updDraw i f).lost = s.lost := rfl
@[simp] theorem State.updDraw_reads (s : State) (i : Nat) (f : Draw → Draw) : (s.updDraw i f).reads = s.reads := rfl
@[simp] theorem State.updDraw_prefetches (s : State) (i : Nat) (f : Draw → Draw) : (s.updDraw i f).prefetches = s.prefetches := rfl
@[simp] theorem State.updDraw_clusters (s : State) (i : Nat) (f : Draw → Draw) : (s.updDraw i f).clusters = s.clusters := rfl
@[simp] theorem State.updDraw_overload (s : State) (i : Nat) (f : Draw → Draw) : (s.updDraw i f).overload = s.overload := rfl
@[simp] theorem State.updDraw_calm (s : State) (i : Nat) (f : Draw → Draw) : (s.updDraw i f).calm = s.calm := rfl
@[simp] theorem State.updDraw_board (s : State) (i : Nat) (f : Draw → Draw) : (s.updDraw i f).board = s.board := rfl
@[simp] theorem State.updDraw_urxia (s : State) (i : Nat) (f : Draw → Draw) : (s.updDraw i f).urxia = s.urxia := rfl
@[simp] theorem State.updDraw_ghost (s : State) (i : Nat) (f : Draw → Draw) : (s.updDraw i f).ghost = s.ghost := rfl
@[simp] theorem State.updDraw_understudy (s : State) (i : Nat) (f : Draw → Draw) : (s.updDraw i f).understudy = s.understudy := rfl
@[simp] theorem State.updDraw_spared (s : State) (i : Nat) (f : Draw → Draw) : (s.updDraw i f).spared = s.spared := rfl
@[simp] theorem State.updDraw_repairs (s : State) (i : Nat) (f : Draw → Draw) : (s.updDraw i f).repairs = s.repairs := rfl
@[simp] theorem State.updDraw_rr (s : State) (i : Nat) (f : Draw → Draw) : (s.updDraw i f).rr = s.rr := rfl
@[simp] theorem State.updDraw_inbox (s : State) (i : Nat) (f : Draw → Draw) : (s.updDraw i f).inbox = s.inbox := rfl
@[simp] theorem State.updDraw_due (s : State) (i : Nat) (f : Draw → Draw) : (s.updDraw i f).due = s.due := rfl
@[simp] theorem State.updDraw_poolOwner (s : State) (i : Nat) (f : Draw → Draw) : (s.updDraw i f).poolOwner = s.poolOwner := rfl
@[simp] theorem State.updDraw_offered (s : State) (i : Nat) (f : Draw → Draw) : (s.updDraw i f).offered = s.offered := rfl
@[simp] theorem State.updDraw_picked (s : State) (i : Nat) (f : Draw → Draw) : (s.updDraw i f).picked = s.picked := rfl
@[simp] theorem State.updDraw_cur (s : State) (i : Nat) (f : Draw → Draw) : (s.updDraw i f).cur = s.cur := rfl
@[simp] theorem State.updDraw_nextId (s : State) (i : Nat) (f : Draw → Draw) : (s.updDraw i f).nextId = s.nextId := rfl
@[simp] theorem State.updDraw_free (s : State) (i : Nat) (f : Draw → Draw) : (s.updDraw i f).free = s.free := rfl

/-! ## setSave -/

@[simp] theorem State.setSave_time (s : State) (x : SaveCtr) : (s.setSave x).time = s.time := rfl
@[simp] theorem State.setSave_timeLocked (s : State) (x : SaveCtr) : (s.setSave x).timeLocked = s.timeLocked := rfl
@[simp] theorem State.setSave_timeSource (s : State) (x : SaveCtr) : (s.setSave x).timeSource = s.timeSource := rfl
@[simp] theorem State.setSave_mem (s : State) (x : SaveCtr) : (s.setSave x).mem = s.mem := rfl
@[simp] theorem State.setSave_memPoison (s : State) (x : SaveCtr) : (s.setSave x).memPoison = s.memPoison := rfl
@[simp] theorem State.setSave_flaws (s : State) (x : SaveCtr) : (s.setSave x).flaws = s.flaws := rfl
@[simp] theorem State.setSave_units (s : State) (x : SaveCtr) : (s.setSave x).units = s.units := rfl
@[simp] theorem State.setSave_stamps (s : State) (x : SaveCtr) : (s.setSave x).stamps = s.stamps := rfl
@[simp] theorem State.setSave_seals (s : State) (x : SaveCtr) : (s.setSave x).seals = s.seals := rfl
@[simp] theorem State.setSave_l2 (s : State) (x : SaveCtr) : (s.setSave x).l2 = s.l2 := rfl
@[simp] theorem State.setSave_mdc (s : State) (x : SaveCtr) : (s.setSave x).mdc = s.mdc := rfl
@[simp] theorem State.setSave_regs (s : State) (x : SaveCtr) : (s.setSave x).regs = s.regs := rfl
@[simp] theorem State.setSave_cores (s : State) (x : SaveCtr) : (s.setSave x).cores = s.cores := rfl
@[simp] theorem State.setSave_rdcs (s : State) (x : SaveCtr) : (s.setSave x).rdcs = s.rdcs := rfl
@[simp] theorem State.setSave_stale (s : State) (x : SaveCtr) : (s.setSave x).stale = s.stale := rfl
@[simp] theorem State.setSave_outdated (s : State) (x : SaveCtr) : (s.setSave x).outdated = s.outdated := rfl
@[simp] theorem State.setSave_homes (s : State) (x : SaveCtr) : (s.setSave x).homes = s.homes := rfl
@[simp] theorem State.setSave_teams (s : State) (x : SaveCtr) : (s.setSave x).teams = s.teams := rfl
@[simp] theorem State.setSave_accs (s : State) (x : SaveCtr) : (s.setSave x).accs = s.accs := rfl
@[simp] theorem State.setSave_engs (s : State) (x : SaveCtr) : (s.setSave x).engs = s.engs := rfl
@[simp] theorem State.setSave_launches (s : State) (x : SaveCtr) : (s.setSave x).launches = s.launches := rfl
@[simp] theorem State.setSave_draws (s : State) (x : SaveCtr) : (s.setSave x).draws = s.draws := rfl
@[simp] theorem State.setSave_ctxs (s : State) (x : SaveCtr) : (s.setSave x).ctxs = s.ctxs := rfl
@[simp] theorem State.setSave_gfx (s : State) (x : SaveCtr) : (s.setSave x).gfx = s.gfx := rfl
@[simp] theorem State.setSave_batches (s : State) (x : SaveCtr) : (s.setSave x).batches = s.batches := rfl
@[simp] theorem State.setSave_records (s : State) (x : SaveCtr) : (s.setSave x).records = s.records := rfl
@[simp] theorem State.setSave_collectives (s : State) (x : SaveCtr) : (s.setSave x).collectives = s.collectives := rfl
@[simp] theorem State.setSave_passes (s : State) (x : SaveCtr) : (s.setSave x).passes = s.passes := rfl
@[simp] theorem State.setSave_owners (s : State) (x : SaveCtr) : (s.setSave x).owners = s.owners := rfl
@[simp] theorem State.setSave_views (s : State) (x : SaveCtr) : (s.setSave x).views = s.views := rfl
@[simp] theorem State.setSave_descs (s : State) (x : SaveCtr) : (s.setSave x).descs = s.descs := rfl
@[simp] theorem State.setSave_streams (s : State) (x : SaveCtr) : (s.setSave x).streams = s.streams := rfl
@[simp] theorem State.setSave_ports (s : State) (x : SaveCtr) : (s.setSave x).ports = s.ports := rfl
@[simp] theorem State.setSave_pausing (s : State) (x : SaveCtr) : (s.setSave x).pausing = s.pausing := rfl
@[simp] theorem State.setSave_lost (s : State) (x : SaveCtr) : (s.setSave x).lost = s.lost := rfl
@[simp] theorem State.setSave_reads (s : State) (x : SaveCtr) : (s.setSave x).reads = s.reads := rfl
@[simp] theorem State.setSave_prefetches (s : State) (x : SaveCtr) : (s.setSave x).prefetches = s.prefetches := rfl
@[simp] theorem State.setSave_clusters (s : State) (x : SaveCtr) : (s.setSave x).clusters = s.clusters := rfl
@[simp] theorem State.setSave_overload (s : State) (x : SaveCtr) : (s.setSave x).overload = s.overload := rfl
@[simp] theorem State.setSave_calm (s : State) (x : SaveCtr) : (s.setSave x).calm = s.calm := rfl
@[simp] theorem State.setSave_board (s : State) (x : SaveCtr) : (s.setSave x).board = s.board := rfl
@[simp] theorem State.setSave_urxia (s : State) (x : SaveCtr) : (s.setSave x).urxia = s.urxia := rfl
@[simp] theorem State.setSave_ghost (s : State) (x : SaveCtr) : (s.setSave x).ghost = s.ghost := rfl
@[simp] theorem State.setSave_understudy (s : State) (x : SaveCtr) : (s.setSave x).understudy = s.understudy := rfl
@[simp] theorem State.setSave_spared (s : State) (x : SaveCtr) : (s.setSave x).spared = s.spared := rfl
@[simp] theorem State.setSave_repairs (s : State) (x : SaveCtr) : (s.setSave x).repairs = s.repairs := rfl
@[simp] theorem State.setSave_rr (s : State) (x : SaveCtr) : (s.setSave x).rr = s.rr := rfl
@[simp] theorem State.setSave_inbox (s : State) (x : SaveCtr) : (s.setSave x).inbox = s.inbox := rfl
@[simp] theorem State.setSave_due (s : State) (x : SaveCtr) : (s.setSave x).due = s.due := rfl
@[simp] theorem State.setSave_poolOwner (s : State) (x : SaveCtr) : (s.setSave x).poolOwner = s.poolOwner := rfl
@[simp] theorem State.setSave_offered (s : State) (x : SaveCtr) : (s.setSave x).offered = s.offered := rfl
@[simp] theorem State.setSave_picked (s : State) (x : SaveCtr) : (s.setSave x).picked = s.picked := rfl
@[simp] theorem State.setSave_cur (s : State) (x : SaveCtr) : (s.setSave x).cur = s.cur := rfl
@[simp] theorem State.setSave_nextId (s : State) (x : SaveCtr) : (s.setSave x).nextId = s.nextId := rfl
@[simp] theorem State.setSave_free (s : State) (x : SaveCtr) : (s.setSave x).free = s.free := rfl

/-! ## setOwner -/

@[simp] theorem State.setOwner_time (s : State) (x : OwnerSt) : (s.setOwner x).time = s.time := rfl
@[simp] theorem State.setOwner_timeLocked (s : State) (x : OwnerSt) : (s.setOwner x).timeLocked = s.timeLocked := rfl
@[simp] theorem State.setOwner_timeSource (s : State) (x : OwnerSt) : (s.setOwner x).timeSource = s.timeSource := rfl
@[simp] theorem State.setOwner_mem (s : State) (x : OwnerSt) : (s.setOwner x).mem = s.mem := rfl
@[simp] theorem State.setOwner_memPoison (s : State) (x : OwnerSt) : (s.setOwner x).memPoison = s.memPoison := rfl
@[simp] theorem State.setOwner_flaws (s : State) (x : OwnerSt) : (s.setOwner x).flaws = s.flaws := rfl
@[simp] theorem State.setOwner_units (s : State) (x : OwnerSt) : (s.setOwner x).units = s.units := rfl
@[simp] theorem State.setOwner_stamps (s : State) (x : OwnerSt) : (s.setOwner x).stamps = s.stamps := rfl
@[simp] theorem State.setOwner_seals (s : State) (x : OwnerSt) : (s.setOwner x).seals = s.seals := rfl
@[simp] theorem State.setOwner_l2 (s : State) (x : OwnerSt) : (s.setOwner x).l2 = s.l2 := rfl
@[simp] theorem State.setOwner_mdc (s : State) (x : OwnerSt) : (s.setOwner x).mdc = s.mdc := rfl
@[simp] theorem State.setOwner_regs (s : State) (x : OwnerSt) : (s.setOwner x).regs = s.regs := rfl
@[simp] theorem State.setOwner_cores (s : State) (x : OwnerSt) : (s.setOwner x).cores = s.cores := rfl
@[simp] theorem State.setOwner_rdcs (s : State) (x : OwnerSt) : (s.setOwner x).rdcs = s.rdcs := rfl
@[simp] theorem State.setOwner_stale (s : State) (x : OwnerSt) : (s.setOwner x).stale = s.stale := rfl
@[simp] theorem State.setOwner_outdated (s : State) (x : OwnerSt) : (s.setOwner x).outdated = s.outdated := rfl
@[simp] theorem State.setOwner_homes (s : State) (x : OwnerSt) : (s.setOwner x).homes = s.homes := rfl
@[simp] theorem State.setOwner_teams (s : State) (x : OwnerSt) : (s.setOwner x).teams = s.teams := rfl
@[simp] theorem State.setOwner_accs (s : State) (x : OwnerSt) : (s.setOwner x).accs = s.accs := rfl
@[simp] theorem State.setOwner_engs (s : State) (x : OwnerSt) : (s.setOwner x).engs = s.engs := rfl
@[simp] theorem State.setOwner_launches (s : State) (x : OwnerSt) : (s.setOwner x).launches = s.launches := rfl
@[simp] theorem State.setOwner_draws (s : State) (x : OwnerSt) : (s.setOwner x).draws = s.draws := rfl
@[simp] theorem State.setOwner_ctxs (s : State) (x : OwnerSt) : (s.setOwner x).ctxs = s.ctxs := rfl
@[simp] theorem State.setOwner_gfx (s : State) (x : OwnerSt) : (s.setOwner x).gfx = s.gfx := rfl
@[simp] theorem State.setOwner_saves (s : State) (x : OwnerSt) : (s.setOwner x).saves = s.saves := rfl
@[simp] theorem State.setOwner_batches (s : State) (x : OwnerSt) : (s.setOwner x).batches = s.batches := rfl
@[simp] theorem State.setOwner_records (s : State) (x : OwnerSt) : (s.setOwner x).records = s.records := rfl
@[simp] theorem State.setOwner_collectives (s : State) (x : OwnerSt) : (s.setOwner x).collectives = s.collectives := rfl
@[simp] theorem State.setOwner_passes (s : State) (x : OwnerSt) : (s.setOwner x).passes = s.passes := rfl
@[simp] theorem State.setOwner_views (s : State) (x : OwnerSt) : (s.setOwner x).views = s.views := rfl
@[simp] theorem State.setOwner_descs (s : State) (x : OwnerSt) : (s.setOwner x).descs = s.descs := rfl
@[simp] theorem State.setOwner_streams (s : State) (x : OwnerSt) : (s.setOwner x).streams = s.streams := rfl
@[simp] theorem State.setOwner_ports (s : State) (x : OwnerSt) : (s.setOwner x).ports = s.ports := rfl
@[simp] theorem State.setOwner_pausing (s : State) (x : OwnerSt) : (s.setOwner x).pausing = s.pausing := rfl
@[simp] theorem State.setOwner_lost (s : State) (x : OwnerSt) : (s.setOwner x).lost = s.lost := rfl
@[simp] theorem State.setOwner_reads (s : State) (x : OwnerSt) : (s.setOwner x).reads = s.reads := rfl
@[simp] theorem State.setOwner_prefetches (s : State) (x : OwnerSt) : (s.setOwner x).prefetches = s.prefetches := rfl
@[simp] theorem State.setOwner_clusters (s : State) (x : OwnerSt) : (s.setOwner x).clusters = s.clusters := rfl
@[simp] theorem State.setOwner_overload (s : State) (x : OwnerSt) : (s.setOwner x).overload = s.overload := rfl
@[simp] theorem State.setOwner_calm (s : State) (x : OwnerSt) : (s.setOwner x).calm = s.calm := rfl
@[simp] theorem State.setOwner_board (s : State) (x : OwnerSt) : (s.setOwner x).board = s.board := rfl
@[simp] theorem State.setOwner_urxia (s : State) (x : OwnerSt) : (s.setOwner x).urxia = s.urxia := rfl
@[simp] theorem State.setOwner_ghost (s : State) (x : OwnerSt) : (s.setOwner x).ghost = s.ghost := rfl
@[simp] theorem State.setOwner_understudy (s : State) (x : OwnerSt) : (s.setOwner x).understudy = s.understudy := rfl
@[simp] theorem State.setOwner_spared (s : State) (x : OwnerSt) : (s.setOwner x).spared = s.spared := rfl
@[simp] theorem State.setOwner_repairs (s : State) (x : OwnerSt) : (s.setOwner x).repairs = s.repairs := rfl
@[simp] theorem State.setOwner_rr (s : State) (x : OwnerSt) : (s.setOwner x).rr = s.rr := rfl
@[simp] theorem State.setOwner_inbox (s : State) (x : OwnerSt) : (s.setOwner x).inbox = s.inbox := rfl
@[simp] theorem State.setOwner_due (s : State) (x : OwnerSt) : (s.setOwner x).due = s.due := rfl
@[simp] theorem State.setOwner_poolOwner (s : State) (x : OwnerSt) : (s.setOwner x).poolOwner = s.poolOwner := rfl
@[simp] theorem State.setOwner_offered (s : State) (x : OwnerSt) : (s.setOwner x).offered = s.offered := rfl
@[simp] theorem State.setOwner_picked (s : State) (x : OwnerSt) : (s.setOwner x).picked = s.picked := rfl
@[simp] theorem State.setOwner_cur (s : State) (x : OwnerSt) : (s.setOwner x).cur = s.cur := rfl
@[simp] theorem State.setOwner_nextId (s : State) (x : OwnerSt) : (s.setOwner x).nextId = s.nextId := rfl
@[simp] theorem State.setOwner_free (s : State) (x : OwnerSt) : (s.setOwner x).free = s.free := rfl

/-! ## updStream -/

@[simp] theorem State.updStream_time (s : State) (n : Nat) (f : Stream → Stream) : (s.updStream n f).time = s.time := rfl
@[simp] theorem State.updStream_timeLocked (s : State) (n : Nat) (f : Stream → Stream) : (s.updStream n f).timeLocked = s.timeLocked := rfl
@[simp] theorem State.updStream_timeSource (s : State) (n : Nat) (f : Stream → Stream) : (s.updStream n f).timeSource = s.timeSource := rfl
@[simp] theorem State.updStream_mem (s : State) (n : Nat) (f : Stream → Stream) : (s.updStream n f).mem = s.mem := rfl
@[simp] theorem State.updStream_memPoison (s : State) (n : Nat) (f : Stream → Stream) : (s.updStream n f).memPoison = s.memPoison := rfl
@[simp] theorem State.updStream_flaws (s : State) (n : Nat) (f : Stream → Stream) : (s.updStream n f).flaws = s.flaws := rfl
@[simp] theorem State.updStream_units (s : State) (n : Nat) (f : Stream → Stream) : (s.updStream n f).units = s.units := rfl
@[simp] theorem State.updStream_stamps (s : State) (n : Nat) (f : Stream → Stream) : (s.updStream n f).stamps = s.stamps := rfl
@[simp] theorem State.updStream_seals (s : State) (n : Nat) (f : Stream → Stream) : (s.updStream n f).seals = s.seals := rfl
@[simp] theorem State.updStream_l2 (s : State) (n : Nat) (f : Stream → Stream) : (s.updStream n f).l2 = s.l2 := rfl
@[simp] theorem State.updStream_mdc (s : State) (n : Nat) (f : Stream → Stream) : (s.updStream n f).mdc = s.mdc := rfl
@[simp] theorem State.updStream_regs (s : State) (n : Nat) (f : Stream → Stream) : (s.updStream n f).regs = s.regs := rfl
@[simp] theorem State.updStream_cores (s : State) (n : Nat) (f : Stream → Stream) : (s.updStream n f).cores = s.cores := rfl
@[simp] theorem State.updStream_rdcs (s : State) (n : Nat) (f : Stream → Stream) : (s.updStream n f).rdcs = s.rdcs := rfl
@[simp] theorem State.updStream_stale (s : State) (n : Nat) (f : Stream → Stream) : (s.updStream n f).stale = s.stale := rfl
@[simp] theorem State.updStream_outdated (s : State) (n : Nat) (f : Stream → Stream) : (s.updStream n f).outdated = s.outdated := rfl
@[simp] theorem State.updStream_homes (s : State) (n : Nat) (f : Stream → Stream) : (s.updStream n f).homes = s.homes := rfl
@[simp] theorem State.updStream_teams (s : State) (n : Nat) (f : Stream → Stream) : (s.updStream n f).teams = s.teams := rfl
@[simp] theorem State.updStream_accs (s : State) (n : Nat) (f : Stream → Stream) : (s.updStream n f).accs = s.accs := rfl
@[simp] theorem State.updStream_engs (s : State) (n : Nat) (f : Stream → Stream) : (s.updStream n f).engs = s.engs := rfl
@[simp] theorem State.updStream_launches (s : State) (n : Nat) (f : Stream → Stream) : (s.updStream n f).launches = s.launches := rfl
@[simp] theorem State.updStream_draws (s : State) (n : Nat) (f : Stream → Stream) : (s.updStream n f).draws = s.draws := rfl
@[simp] theorem State.updStream_ctxs (s : State) (n : Nat) (f : Stream → Stream) : (s.updStream n f).ctxs = s.ctxs := rfl
@[simp] theorem State.updStream_gfx (s : State) (n : Nat) (f : Stream → Stream) : (s.updStream n f).gfx = s.gfx := rfl
@[simp] theorem State.updStream_saves (s : State) (n : Nat) (f : Stream → Stream) : (s.updStream n f).saves = s.saves := rfl
@[simp] theorem State.updStream_batches (s : State) (n : Nat) (f : Stream → Stream) : (s.updStream n f).batches = s.batches := rfl
@[simp] theorem State.updStream_records (s : State) (n : Nat) (f : Stream → Stream) : (s.updStream n f).records = s.records := rfl
@[simp] theorem State.updStream_collectives (s : State) (n : Nat) (f : Stream → Stream) : (s.updStream n f).collectives = s.collectives := rfl
@[simp] theorem State.updStream_passes (s : State) (n : Nat) (f : Stream → Stream) : (s.updStream n f).passes = s.passes := rfl
@[simp] theorem State.updStream_owners (s : State) (n : Nat) (f : Stream → Stream) : (s.updStream n f).owners = s.owners := rfl
@[simp] theorem State.updStream_views (s : State) (n : Nat) (f : Stream → Stream) : (s.updStream n f).views = s.views := rfl
@[simp] theorem State.updStream_descs (s : State) (n : Nat) (f : Stream → Stream) : (s.updStream n f).descs = s.descs := rfl
@[simp] theorem State.updStream_ports (s : State) (n : Nat) (f : Stream → Stream) : (s.updStream n f).ports = s.ports := rfl
@[simp] theorem State.updStream_pausing (s : State) (n : Nat) (f : Stream → Stream) : (s.updStream n f).pausing = s.pausing := rfl
@[simp] theorem State.updStream_lost (s : State) (n : Nat) (f : Stream → Stream) : (s.updStream n f).lost = s.lost := rfl
@[simp] theorem State.updStream_reads (s : State) (n : Nat) (f : Stream → Stream) : (s.updStream n f).reads = s.reads := rfl
@[simp] theorem State.updStream_prefetches (s : State) (n : Nat) (f : Stream → Stream) : (s.updStream n f).prefetches = s.prefetches := rfl
@[simp] theorem State.updStream_clusters (s : State) (n : Nat) (f : Stream → Stream) : (s.updStream n f).clusters = s.clusters := rfl
@[simp] theorem State.updStream_overload (s : State) (n : Nat) (f : Stream → Stream) : (s.updStream n f).overload = s.overload := rfl
@[simp] theorem State.updStream_calm (s : State) (n : Nat) (f : Stream → Stream) : (s.updStream n f).calm = s.calm := rfl
@[simp] theorem State.updStream_board (s : State) (n : Nat) (f : Stream → Stream) : (s.updStream n f).board = s.board := rfl
@[simp] theorem State.updStream_urxia (s : State) (n : Nat) (f : Stream → Stream) : (s.updStream n f).urxia = s.urxia := rfl
@[simp] theorem State.updStream_ghost (s : State) (n : Nat) (f : Stream → Stream) : (s.updStream n f).ghost = s.ghost := rfl
@[simp] theorem State.updStream_understudy (s : State) (n : Nat) (f : Stream → Stream) : (s.updStream n f).understudy = s.understudy := rfl
@[simp] theorem State.updStream_spared (s : State) (n : Nat) (f : Stream → Stream) : (s.updStream n f).spared = s.spared := rfl
@[simp] theorem State.updStream_repairs (s : State) (n : Nat) (f : Stream → Stream) : (s.updStream n f).repairs = s.repairs := rfl
@[simp] theorem State.updStream_rr (s : State) (n : Nat) (f : Stream → Stream) : (s.updStream n f).rr = s.rr := rfl
@[simp] theorem State.updStream_inbox (s : State) (n : Nat) (f : Stream → Stream) : (s.updStream n f).inbox = s.inbox := rfl
@[simp] theorem State.updStream_due (s : State) (n : Nat) (f : Stream → Stream) : (s.updStream n f).due = s.due := rfl
@[simp] theorem State.updStream_poolOwner (s : State) (n : Nat) (f : Stream → Stream) : (s.updStream n f).poolOwner = s.poolOwner := rfl
@[simp] theorem State.updStream_offered (s : State) (n : Nat) (f : Stream → Stream) : (s.updStream n f).offered = s.offered := rfl
@[simp] theorem State.updStream_picked (s : State) (n : Nat) (f : Stream → Stream) : (s.updStream n f).picked = s.picked := rfl
@[simp] theorem State.updStream_cur (s : State) (n : Nat) (f : Stream → Stream) : (s.updStream n f).cur = s.cur := rfl
@[simp] theorem State.updStream_nextId (s : State) (n : Nat) (f : Stream → Stream) : (s.updStream n f).nextId = s.nextId := rfl
@[simp] theorem State.updStream_free (s : State) (n : Nat) (f : Stream → Stream) : (s.updStream n f).free = s.free := rfl

/-! ## memWrite -/

@[simp] theorem State.memWrite_time (s : State) (k : Nat) (bs : List PByte) : (s.memWrite k bs).time = s.time := rfl
@[simp] theorem State.memWrite_timeLocked (s : State) (k : Nat) (bs : List PByte) : (s.memWrite k bs).timeLocked = s.timeLocked := rfl
@[simp] theorem State.memWrite_timeSource (s : State) (k : Nat) (bs : List PByte) : (s.memWrite k bs).timeSource = s.timeSource := rfl
@[simp] theorem State.memWrite_flaws (s : State) (k : Nat) (bs : List PByte) : (s.memWrite k bs).flaws = s.flaws := rfl
@[simp] theorem State.memWrite_units (s : State) (k : Nat) (bs : List PByte) : (s.memWrite k bs).units = s.units := rfl
@[simp] theorem State.memWrite_stamps (s : State) (k : Nat) (bs : List PByte) : (s.memWrite k bs).stamps = s.stamps := rfl
@[simp] theorem State.memWrite_seals (s : State) (k : Nat) (bs : List PByte) : (s.memWrite k bs).seals = s.seals := rfl
@[simp] theorem State.memWrite_regs (s : State) (k : Nat) (bs : List PByte) : (s.memWrite k bs).regs = s.regs := rfl
@[simp] theorem State.memWrite_cores (s : State) (k : Nat) (bs : List PByte) : (s.memWrite k bs).cores = s.cores := rfl
@[simp] theorem State.memWrite_rdcs (s : State) (k : Nat) (bs : List PByte) : (s.memWrite k bs).rdcs = s.rdcs := rfl
@[simp] theorem State.memWrite_stale (s : State) (k : Nat) (bs : List PByte) : (s.memWrite k bs).stale = s.stale := rfl
@[simp] theorem State.memWrite_outdated (s : State) (k : Nat) (bs : List PByte) : (s.memWrite k bs).outdated = s.outdated := rfl
@[simp] theorem State.memWrite_homes (s : State) (k : Nat) (bs : List PByte) : (s.memWrite k bs).homes = s.homes := rfl
@[simp] theorem State.memWrite_teams (s : State) (k : Nat) (bs : List PByte) : (s.memWrite k bs).teams = s.teams := rfl
@[simp] theorem State.memWrite_accs (s : State) (k : Nat) (bs : List PByte) : (s.memWrite k bs).accs = s.accs := rfl
@[simp] theorem State.memWrite_engs (s : State) (k : Nat) (bs : List PByte) : (s.memWrite k bs).engs = s.engs := rfl
@[simp] theorem State.memWrite_launches (s : State) (k : Nat) (bs : List PByte) : (s.memWrite k bs).launches = s.launches := rfl
@[simp] theorem State.memWrite_draws (s : State) (k : Nat) (bs : List PByte) : (s.memWrite k bs).draws = s.draws := rfl
@[simp] theorem State.memWrite_ctxs (s : State) (k : Nat) (bs : List PByte) : (s.memWrite k bs).ctxs = s.ctxs := rfl
@[simp] theorem State.memWrite_gfx (s : State) (k : Nat) (bs : List PByte) : (s.memWrite k bs).gfx = s.gfx := rfl
@[simp] theorem State.memWrite_saves (s : State) (k : Nat) (bs : List PByte) : (s.memWrite k bs).saves = s.saves := rfl
@[simp] theorem State.memWrite_batches (s : State) (k : Nat) (bs : List PByte) : (s.memWrite k bs).batches = s.batches := rfl
@[simp] theorem State.memWrite_records (s : State) (k : Nat) (bs : List PByte) : (s.memWrite k bs).records = s.records := rfl
@[simp] theorem State.memWrite_collectives (s : State) (k : Nat) (bs : List PByte) : (s.memWrite k bs).collectives = s.collectives := rfl
@[simp] theorem State.memWrite_passes (s : State) (k : Nat) (bs : List PByte) : (s.memWrite k bs).passes = s.passes := rfl
@[simp] theorem State.memWrite_owners (s : State) (k : Nat) (bs : List PByte) : (s.memWrite k bs).owners = s.owners := rfl
@[simp] theorem State.memWrite_views (s : State) (k : Nat) (bs : List PByte) : (s.memWrite k bs).views = s.views := rfl
@[simp] theorem State.memWrite_descs (s : State) (k : Nat) (bs : List PByte) : (s.memWrite k bs).descs = s.descs := rfl
@[simp] theorem State.memWrite_streams (s : State) (k : Nat) (bs : List PByte) : (s.memWrite k bs).streams = s.streams := rfl
@[simp] theorem State.memWrite_ports (s : State) (k : Nat) (bs : List PByte) : (s.memWrite k bs).ports = s.ports := rfl
@[simp] theorem State.memWrite_pausing (s : State) (k : Nat) (bs : List PByte) : (s.memWrite k bs).pausing = s.pausing := rfl
@[simp] theorem State.memWrite_lost (s : State) (k : Nat) (bs : List PByte) : (s.memWrite k bs).lost = s.lost := rfl
@[simp] theorem State.memWrite_reads (s : State) (k : Nat) (bs : List PByte) : (s.memWrite k bs).reads = s.reads := rfl
@[simp] theorem State.memWrite_prefetches (s : State) (k : Nat) (bs : List PByte) : (s.memWrite k bs).prefetches = s.prefetches := rfl
@[simp] theorem State.memWrite_clusters (s : State) (k : Nat) (bs : List PByte) : (s.memWrite k bs).clusters = s.clusters := rfl
@[simp] theorem State.memWrite_overload (s : State) (k : Nat) (bs : List PByte) : (s.memWrite k bs).overload = s.overload := rfl
@[simp] theorem State.memWrite_calm (s : State) (k : Nat) (bs : List PByte) : (s.memWrite k bs).calm = s.calm := rfl
@[simp] theorem State.memWrite_board (s : State) (k : Nat) (bs : List PByte) : (s.memWrite k bs).board = s.board := rfl
@[simp] theorem State.memWrite_urxia (s : State) (k : Nat) (bs : List PByte) : (s.memWrite k bs).urxia = s.urxia := rfl
@[simp] theorem State.memWrite_ghost (s : State) (k : Nat) (bs : List PByte) : (s.memWrite k bs).ghost = s.ghost := rfl
@[simp] theorem State.memWrite_understudy (s : State) (k : Nat) (bs : List PByte) : (s.memWrite k bs).understudy = s.understudy := rfl
@[simp] theorem State.memWrite_spared (s : State) (k : Nat) (bs : List PByte) : (s.memWrite k bs).spared = s.spared := rfl
@[simp] theorem State.memWrite_repairs (s : State) (k : Nat) (bs : List PByte) : (s.memWrite k bs).repairs = s.repairs := rfl
@[simp] theorem State.memWrite_rr (s : State) (k : Nat) (bs : List PByte) : (s.memWrite k bs).rr = s.rr := rfl
@[simp] theorem State.memWrite_inbox (s : State) (k : Nat) (bs : List PByte) : (s.memWrite k bs).inbox = s.inbox := rfl
@[simp] theorem State.memWrite_due (s : State) (k : Nat) (bs : List PByte) : (s.memWrite k bs).due = s.due := rfl
@[simp] theorem State.memWrite_poolOwner (s : State) (k : Nat) (bs : List PByte) : (s.memWrite k bs).poolOwner = s.poolOwner := rfl
@[simp] theorem State.memWrite_offered (s : State) (k : Nat) (bs : List PByte) : (s.memWrite k bs).offered = s.offered := rfl
@[simp] theorem State.memWrite_picked (s : State) (k : Nat) (bs : List PByte) : (s.memWrite k bs).picked = s.picked := rfl
@[simp] theorem State.memWrite_cur (s : State) (k : Nat) (bs : List PByte) : (s.memWrite k bs).cur = s.cur := rfl
@[simp] theorem State.memWrite_nextId (s : State) (k : Nat) (bs : List PByte) : (s.memWrite k bs).nextId = s.nextId := rfl
@[simp] theorem State.memWrite_free (s : State) (k : Nat) (bs : List PByte) : (s.memWrite k bs).free = s.free := rfl

/-! ## memZero -/

@[simp] theorem State.memZero_time (s : State) (k n : Nat) : (s.memZero k n).time = s.time := rfl
@[simp] theorem State.memZero_timeLocked (s : State) (k n : Nat) : (s.memZero k n).timeLocked = s.timeLocked := rfl
@[simp] theorem State.memZero_timeSource (s : State) (k n : Nat) : (s.memZero k n).timeSource = s.timeSource := rfl
@[simp] theorem State.memZero_flaws (s : State) (k n : Nat) : (s.memZero k n).flaws = s.flaws := rfl
@[simp] theorem State.memZero_units (s : State) (k n : Nat) : (s.memZero k n).units = s.units := rfl
@[simp] theorem State.memZero_stamps (s : State) (k n : Nat) : (s.memZero k n).stamps = s.stamps := rfl
@[simp] theorem State.memZero_seals (s : State) (k n : Nat) : (s.memZero k n).seals = s.seals := rfl
@[simp] theorem State.memZero_regs (s : State) (k n : Nat) : (s.memZero k n).regs = s.regs := rfl
@[simp] theorem State.memZero_cores (s : State) (k n : Nat) : (s.memZero k n).cores = s.cores := rfl
@[simp] theorem State.memZero_rdcs (s : State) (k n : Nat) : (s.memZero k n).rdcs = s.rdcs := rfl
@[simp] theorem State.memZero_stale (s : State) (k n : Nat) : (s.memZero k n).stale = s.stale := rfl
@[simp] theorem State.memZero_outdated (s : State) (k n : Nat) : (s.memZero k n).outdated = s.outdated := rfl
@[simp] theorem State.memZero_homes (s : State) (k n : Nat) : (s.memZero k n).homes = s.homes := rfl
@[simp] theorem State.memZero_teams (s : State) (k n : Nat) : (s.memZero k n).teams = s.teams := rfl
@[simp] theorem State.memZero_accs (s : State) (k n : Nat) : (s.memZero k n).accs = s.accs := rfl
@[simp] theorem State.memZero_engs (s : State) (k n : Nat) : (s.memZero k n).engs = s.engs := rfl
@[simp] theorem State.memZero_launches (s : State) (k n : Nat) : (s.memZero k n).launches = s.launches := rfl
@[simp] theorem State.memZero_draws (s : State) (k n : Nat) : (s.memZero k n).draws = s.draws := rfl
@[simp] theorem State.memZero_ctxs (s : State) (k n : Nat) : (s.memZero k n).ctxs = s.ctxs := rfl
@[simp] theorem State.memZero_gfx (s : State) (k n : Nat) : (s.memZero k n).gfx = s.gfx := rfl
@[simp] theorem State.memZero_saves (s : State) (k n : Nat) : (s.memZero k n).saves = s.saves := rfl
@[simp] theorem State.memZero_batches (s : State) (k n : Nat) : (s.memZero k n).batches = s.batches := rfl
@[simp] theorem State.memZero_records (s : State) (k n : Nat) : (s.memZero k n).records = s.records := rfl
@[simp] theorem State.memZero_collectives (s : State) (k n : Nat) : (s.memZero k n).collectives = s.collectives := rfl
@[simp] theorem State.memZero_passes (s : State) (k n : Nat) : (s.memZero k n).passes = s.passes := rfl
@[simp] theorem State.memZero_owners (s : State) (k n : Nat) : (s.memZero k n).owners = s.owners := rfl
@[simp] theorem State.memZero_views (s : State) (k n : Nat) : (s.memZero k n).views = s.views := rfl
@[simp] theorem State.memZero_descs (s : State) (k n : Nat) : (s.memZero k n).descs = s.descs := rfl
@[simp] theorem State.memZero_streams (s : State) (k n : Nat) : (s.memZero k n).streams = s.streams := rfl
@[simp] theorem State.memZero_ports (s : State) (k n : Nat) : (s.memZero k n).ports = s.ports := rfl
@[simp] theorem State.memZero_pausing (s : State) (k n : Nat) : (s.memZero k n).pausing = s.pausing := rfl
@[simp] theorem State.memZero_lost (s : State) (k n : Nat) : (s.memZero k n).lost = s.lost := rfl
@[simp] theorem State.memZero_reads (s : State) (k n : Nat) : (s.memZero k n).reads = s.reads := rfl
@[simp] theorem State.memZero_prefetches (s : State) (k n : Nat) : (s.memZero k n).prefetches = s.prefetches := rfl
@[simp] theorem State.memZero_clusters (s : State) (k n : Nat) : (s.memZero k n).clusters = s.clusters := rfl
@[simp] theorem State.memZero_overload (s : State) (k n : Nat) : (s.memZero k n).overload = s.overload := rfl
@[simp] theorem State.memZero_calm (s : State) (k n : Nat) : (s.memZero k n).calm = s.calm := rfl
@[simp] theorem State.memZero_board (s : State) (k n : Nat) : (s.memZero k n).board = s.board := rfl
@[simp] theorem State.memZero_urxia (s : State) (k n : Nat) : (s.memZero k n).urxia = s.urxia := rfl
@[simp] theorem State.memZero_ghost (s : State) (k n : Nat) : (s.memZero k n).ghost = s.ghost := rfl
@[simp] theorem State.memZero_understudy (s : State) (k n : Nat) : (s.memZero k n).understudy = s.understudy := rfl
@[simp] theorem State.memZero_spared (s : State) (k n : Nat) : (s.memZero k n).spared = s.spared := rfl
@[simp] theorem State.memZero_repairs (s : State) (k n : Nat) : (s.memZero k n).repairs = s.repairs := rfl
@[simp] theorem State.memZero_rr (s : State) (k n : Nat) : (s.memZero k n).rr = s.rr := rfl
@[simp] theorem State.memZero_inbox (s : State) (k n : Nat) : (s.memZero k n).inbox = s.inbox := rfl
@[simp] theorem State.memZero_due (s : State) (k n : Nat) : (s.memZero k n).due = s.due := rfl
@[simp] theorem State.memZero_poolOwner (s : State) (k n : Nat) : (s.memZero k n).poolOwner = s.poolOwner := rfl
@[simp] theorem State.memZero_offered (s : State) (k n : Nat) : (s.memZero k n).offered = s.offered := rfl
@[simp] theorem State.memZero_picked (s : State) (k n : Nat) : (s.memZero k n).picked = s.picked := rfl
@[simp] theorem State.memZero_cur (s : State) (k n : Nat) : (s.memZero k n).cur = s.cur := rfl
@[simp] theorem State.memZero_nextId (s : State) (k n : Nat) : (s.memZero k n).nextId = s.nextId := rfl
@[simp] theorem State.memZero_free (s : State) (k n : Nat) : (s.memZero k n).free = s.free := rfl

/-! ## updL2 -/

@[simp] theorem State.updL2_time (s : State) (d : Nat) (f : List Line → List Line) : (s.updL2 d f).time = s.time := rfl
@[simp] theorem State.updL2_timeLocked (s : State) (d : Nat) (f : List Line → List Line) : (s.updL2 d f).timeLocked = s.timeLocked := rfl
@[simp] theorem State.updL2_timeSource (s : State) (d : Nat) (f : List Line → List Line) : (s.updL2 d f).timeSource = s.timeSource := rfl
@[simp] theorem State.updL2_mem (s : State) (d : Nat) (f : List Line → List Line) : (s.updL2 d f).mem = s.mem := rfl
@[simp] theorem State.updL2_memPoison (s : State) (d : Nat) (f : List Line → List Line) : (s.updL2 d f).memPoison = s.memPoison := rfl
@[simp] theorem State.updL2_flaws (s : State) (d : Nat) (f : List Line → List Line) : (s.updL2 d f).flaws = s.flaws := rfl
@[simp] theorem State.updL2_units (s : State) (d : Nat) (f : List Line → List Line) : (s.updL2 d f).units = s.units := rfl
@[simp] theorem State.updL2_stamps (s : State) (d : Nat) (f : List Line → List Line) : (s.updL2 d f).stamps = s.stamps := rfl
@[simp] theorem State.updL2_seals (s : State) (d : Nat) (f : List Line → List Line) : (s.updL2 d f).seals = s.seals := rfl
@[simp] theorem State.updL2_mdc (s : State) (d : Nat) (f : List Line → List Line) : (s.updL2 d f).mdc = s.mdc := rfl
@[simp] theorem State.updL2_regs (s : State) (d : Nat) (f : List Line → List Line) : (s.updL2 d f).regs = s.regs := rfl
@[simp] theorem State.updL2_cores (s : State) (d : Nat) (f : List Line → List Line) : (s.updL2 d f).cores = s.cores := rfl
@[simp] theorem State.updL2_rdcs (s : State) (d : Nat) (f : List Line → List Line) : (s.updL2 d f).rdcs = s.rdcs := rfl
@[simp] theorem State.updL2_stale (s : State) (d : Nat) (f : List Line → List Line) : (s.updL2 d f).stale = s.stale := rfl
@[simp] theorem State.updL2_outdated (s : State) (d : Nat) (f : List Line → List Line) : (s.updL2 d f).outdated = s.outdated := rfl
@[simp] theorem State.updL2_homes (s : State) (d : Nat) (f : List Line → List Line) : (s.updL2 d f).homes = s.homes := rfl
@[simp] theorem State.updL2_teams (s : State) (d : Nat) (f : List Line → List Line) : (s.updL2 d f).teams = s.teams := rfl
@[simp] theorem State.updL2_accs (s : State) (d : Nat) (f : List Line → List Line) : (s.updL2 d f).accs = s.accs := rfl
@[simp] theorem State.updL2_engs (s : State) (d : Nat) (f : List Line → List Line) : (s.updL2 d f).engs = s.engs := rfl
@[simp] theorem State.updL2_launches (s : State) (d : Nat) (f : List Line → List Line) : (s.updL2 d f).launches = s.launches := rfl
@[simp] theorem State.updL2_draws (s : State) (d : Nat) (f : List Line → List Line) : (s.updL2 d f).draws = s.draws := rfl
@[simp] theorem State.updL2_ctxs (s : State) (d : Nat) (f : List Line → List Line) : (s.updL2 d f).ctxs = s.ctxs := rfl
@[simp] theorem State.updL2_gfx (s : State) (d : Nat) (f : List Line → List Line) : (s.updL2 d f).gfx = s.gfx := rfl
@[simp] theorem State.updL2_saves (s : State) (d : Nat) (f : List Line → List Line) : (s.updL2 d f).saves = s.saves := rfl
@[simp] theorem State.updL2_batches (s : State) (d : Nat) (f : List Line → List Line) : (s.updL2 d f).batches = s.batches := rfl
@[simp] theorem State.updL2_records (s : State) (d : Nat) (f : List Line → List Line) : (s.updL2 d f).records = s.records := rfl
@[simp] theorem State.updL2_collectives (s : State) (d : Nat) (f : List Line → List Line) : (s.updL2 d f).collectives = s.collectives := rfl
@[simp] theorem State.updL2_passes (s : State) (d : Nat) (f : List Line → List Line) : (s.updL2 d f).passes = s.passes := rfl
@[simp] theorem State.updL2_owners (s : State) (d : Nat) (f : List Line → List Line) : (s.updL2 d f).owners = s.owners := rfl
@[simp] theorem State.updL2_views (s : State) (d : Nat) (f : List Line → List Line) : (s.updL2 d f).views = s.views := rfl
@[simp] theorem State.updL2_descs (s : State) (d : Nat) (f : List Line → List Line) : (s.updL2 d f).descs = s.descs := rfl
@[simp] theorem State.updL2_streams (s : State) (d : Nat) (f : List Line → List Line) : (s.updL2 d f).streams = s.streams := rfl
@[simp] theorem State.updL2_ports (s : State) (d : Nat) (f : List Line → List Line) : (s.updL2 d f).ports = s.ports := rfl
@[simp] theorem State.updL2_pausing (s : State) (d : Nat) (f : List Line → List Line) : (s.updL2 d f).pausing = s.pausing := rfl
@[simp] theorem State.updL2_lost (s : State) (d : Nat) (f : List Line → List Line) : (s.updL2 d f).lost = s.lost := rfl
@[simp] theorem State.updL2_reads (s : State) (d : Nat) (f : List Line → List Line) : (s.updL2 d f).reads = s.reads := rfl
@[simp] theorem State.updL2_prefetches (s : State) (d : Nat) (f : List Line → List Line) : (s.updL2 d f).prefetches = s.prefetches := rfl
@[simp] theorem State.updL2_clusters (s : State) (d : Nat) (f : List Line → List Line) : (s.updL2 d f).clusters = s.clusters := rfl
@[simp] theorem State.updL2_overload (s : State) (d : Nat) (f : List Line → List Line) : (s.updL2 d f).overload = s.overload := rfl
@[simp] theorem State.updL2_calm (s : State) (d : Nat) (f : List Line → List Line) : (s.updL2 d f).calm = s.calm := rfl
@[simp] theorem State.updL2_board (s : State) (d : Nat) (f : List Line → List Line) : (s.updL2 d f).board = s.board := rfl
@[simp] theorem State.updL2_urxia (s : State) (d : Nat) (f : List Line → List Line) : (s.updL2 d f).urxia = s.urxia := rfl
@[simp] theorem State.updL2_ghost (s : State) (d : Nat) (f : List Line → List Line) : (s.updL2 d f).ghost = s.ghost := rfl
@[simp] theorem State.updL2_understudy (s : State) (d : Nat) (f : List Line → List Line) : (s.updL2 d f).understudy = s.understudy := rfl
@[simp] theorem State.updL2_spared (s : State) (d : Nat) (f : List Line → List Line) : (s.updL2 d f).spared = s.spared := rfl
@[simp] theorem State.updL2_repairs (s : State) (d : Nat) (f : List Line → List Line) : (s.updL2 d f).repairs = s.repairs := rfl
@[simp] theorem State.updL2_rr (s : State) (d : Nat) (f : List Line → List Line) : (s.updL2 d f).rr = s.rr := rfl
@[simp] theorem State.updL2_inbox (s : State) (d : Nat) (f : List Line → List Line) : (s.updL2 d f).inbox = s.inbox := rfl
@[simp] theorem State.updL2_due (s : State) (d : Nat) (f : List Line → List Line) : (s.updL2 d f).due = s.due := rfl
@[simp] theorem State.updL2_poolOwner (s : State) (d : Nat) (f : List Line → List Line) : (s.updL2 d f).poolOwner = s.poolOwner := rfl
@[simp] theorem State.updL2_offered (s : State) (d : Nat) (f : List Line → List Line) : (s.updL2 d f).offered = s.offered := rfl
@[simp] theorem State.updL2_picked (s : State) (d : Nat) (f : List Line → List Line) : (s.updL2 d f).picked = s.picked := rfl
@[simp] theorem State.updL2_cur (s : State) (d : Nat) (f : List Line → List Line) : (s.updL2 d f).cur = s.cur := rfl
@[simp] theorem State.updL2_nextId (s : State) (d : Nat) (f : List Line → List Line) : (s.updL2 d f).nextId = s.nextId := rfl
@[simp] theorem State.updL2_free (s : State) (d : Nat) (f : List Line → List Line) : (s.updL2 d f).free = s.free := rfl

/-! ## updMdc -/

@[simp] theorem State.updMdc_time (s : State) (d : Nat) (f : List Line → List Line) : (s.updMdc d f).time = s.time := rfl
@[simp] theorem State.updMdc_timeLocked (s : State) (d : Nat) (f : List Line → List Line) : (s.updMdc d f).timeLocked = s.timeLocked := rfl
@[simp] theorem State.updMdc_timeSource (s : State) (d : Nat) (f : List Line → List Line) : (s.updMdc d f).timeSource = s.timeSource := rfl
@[simp] theorem State.updMdc_mem (s : State) (d : Nat) (f : List Line → List Line) : (s.updMdc d f).mem = s.mem := rfl
@[simp] theorem State.updMdc_memPoison (s : State) (d : Nat) (f : List Line → List Line) : (s.updMdc d f).memPoison = s.memPoison := rfl
@[simp] theorem State.updMdc_flaws (s : State) (d : Nat) (f : List Line → List Line) : (s.updMdc d f).flaws = s.flaws := rfl
@[simp] theorem State.updMdc_units (s : State) (d : Nat) (f : List Line → List Line) : (s.updMdc d f).units = s.units := rfl
@[simp] theorem State.updMdc_stamps (s : State) (d : Nat) (f : List Line → List Line) : (s.updMdc d f).stamps = s.stamps := rfl
@[simp] theorem State.updMdc_seals (s : State) (d : Nat) (f : List Line → List Line) : (s.updMdc d f).seals = s.seals := rfl
@[simp] theorem State.updMdc_l2 (s : State) (d : Nat) (f : List Line → List Line) : (s.updMdc d f).l2 = s.l2 := rfl
@[simp] theorem State.updMdc_regs (s : State) (d : Nat) (f : List Line → List Line) : (s.updMdc d f).regs = s.regs := rfl
@[simp] theorem State.updMdc_cores (s : State) (d : Nat) (f : List Line → List Line) : (s.updMdc d f).cores = s.cores := rfl
@[simp] theorem State.updMdc_rdcs (s : State) (d : Nat) (f : List Line → List Line) : (s.updMdc d f).rdcs = s.rdcs := rfl
@[simp] theorem State.updMdc_stale (s : State) (d : Nat) (f : List Line → List Line) : (s.updMdc d f).stale = s.stale := rfl
@[simp] theorem State.updMdc_outdated (s : State) (d : Nat) (f : List Line → List Line) : (s.updMdc d f).outdated = s.outdated := rfl
@[simp] theorem State.updMdc_homes (s : State) (d : Nat) (f : List Line → List Line) : (s.updMdc d f).homes = s.homes := rfl
@[simp] theorem State.updMdc_teams (s : State) (d : Nat) (f : List Line → List Line) : (s.updMdc d f).teams = s.teams := rfl
@[simp] theorem State.updMdc_accs (s : State) (d : Nat) (f : List Line → List Line) : (s.updMdc d f).accs = s.accs := rfl
@[simp] theorem State.updMdc_engs (s : State) (d : Nat) (f : List Line → List Line) : (s.updMdc d f).engs = s.engs := rfl
@[simp] theorem State.updMdc_launches (s : State) (d : Nat) (f : List Line → List Line) : (s.updMdc d f).launches = s.launches := rfl
@[simp] theorem State.updMdc_draws (s : State) (d : Nat) (f : List Line → List Line) : (s.updMdc d f).draws = s.draws := rfl
@[simp] theorem State.updMdc_ctxs (s : State) (d : Nat) (f : List Line → List Line) : (s.updMdc d f).ctxs = s.ctxs := rfl
@[simp] theorem State.updMdc_gfx (s : State) (d : Nat) (f : List Line → List Line) : (s.updMdc d f).gfx = s.gfx := rfl
@[simp] theorem State.updMdc_saves (s : State) (d : Nat) (f : List Line → List Line) : (s.updMdc d f).saves = s.saves := rfl
@[simp] theorem State.updMdc_batches (s : State) (d : Nat) (f : List Line → List Line) : (s.updMdc d f).batches = s.batches := rfl
@[simp] theorem State.updMdc_records (s : State) (d : Nat) (f : List Line → List Line) : (s.updMdc d f).records = s.records := rfl
@[simp] theorem State.updMdc_collectives (s : State) (d : Nat) (f : List Line → List Line) : (s.updMdc d f).collectives = s.collectives := rfl
@[simp] theorem State.updMdc_passes (s : State) (d : Nat) (f : List Line → List Line) : (s.updMdc d f).passes = s.passes := rfl
@[simp] theorem State.updMdc_owners (s : State) (d : Nat) (f : List Line → List Line) : (s.updMdc d f).owners = s.owners := rfl
@[simp] theorem State.updMdc_views (s : State) (d : Nat) (f : List Line → List Line) : (s.updMdc d f).views = s.views := rfl
@[simp] theorem State.updMdc_descs (s : State) (d : Nat) (f : List Line → List Line) : (s.updMdc d f).descs = s.descs := rfl
@[simp] theorem State.updMdc_streams (s : State) (d : Nat) (f : List Line → List Line) : (s.updMdc d f).streams = s.streams := rfl
@[simp] theorem State.updMdc_ports (s : State) (d : Nat) (f : List Line → List Line) : (s.updMdc d f).ports = s.ports := rfl
@[simp] theorem State.updMdc_pausing (s : State) (d : Nat) (f : List Line → List Line) : (s.updMdc d f).pausing = s.pausing := rfl
@[simp] theorem State.updMdc_lost (s : State) (d : Nat) (f : List Line → List Line) : (s.updMdc d f).lost = s.lost := rfl
@[simp] theorem State.updMdc_reads (s : State) (d : Nat) (f : List Line → List Line) : (s.updMdc d f).reads = s.reads := rfl
@[simp] theorem State.updMdc_prefetches (s : State) (d : Nat) (f : List Line → List Line) : (s.updMdc d f).prefetches = s.prefetches := rfl
@[simp] theorem State.updMdc_clusters (s : State) (d : Nat) (f : List Line → List Line) : (s.updMdc d f).clusters = s.clusters := rfl
@[simp] theorem State.updMdc_overload (s : State) (d : Nat) (f : List Line → List Line) : (s.updMdc d f).overload = s.overload := rfl
@[simp] theorem State.updMdc_calm (s : State) (d : Nat) (f : List Line → List Line) : (s.updMdc d f).calm = s.calm := rfl
@[simp] theorem State.updMdc_board (s : State) (d : Nat) (f : List Line → List Line) : (s.updMdc d f).board = s.board := rfl
@[simp] theorem State.updMdc_urxia (s : State) (d : Nat) (f : List Line → List Line) : (s.updMdc d f).urxia = s.urxia := rfl
@[simp] theorem State.updMdc_ghost (s : State) (d : Nat) (f : List Line → List Line) : (s.updMdc d f).ghost = s.ghost := rfl
@[simp] theorem State.updMdc_understudy (s : State) (d : Nat) (f : List Line → List Line) : (s.updMdc d f).understudy = s.understudy := rfl
@[simp] theorem State.updMdc_spared (s : State) (d : Nat) (f : List Line → List Line) : (s.updMdc d f).spared = s.spared := rfl
@[simp] theorem State.updMdc_repairs (s : State) (d : Nat) (f : List Line → List Line) : (s.updMdc d f).repairs = s.repairs := rfl
@[simp] theorem State.updMdc_rr (s : State) (d : Nat) (f : List Line → List Line) : (s.updMdc d f).rr = s.rr := rfl
@[simp] theorem State.updMdc_inbox (s : State) (d : Nat) (f : List Line → List Line) : (s.updMdc d f).inbox = s.inbox := rfl
@[simp] theorem State.updMdc_due (s : State) (d : Nat) (f : List Line → List Line) : (s.updMdc d f).due = s.due := rfl
@[simp] theorem State.updMdc_poolOwner (s : State) (d : Nat) (f : List Line → List Line) : (s.updMdc d f).poolOwner = s.poolOwner := rfl
@[simp] theorem State.updMdc_offered (s : State) (d : Nat) (f : List Line → List Line) : (s.updMdc d f).offered = s.offered := rfl
@[simp] theorem State.updMdc_picked (s : State) (d : Nat) (f : List Line → List Line) : (s.updMdc d f).picked = s.picked := rfl
@[simp] theorem State.updMdc_cur (s : State) (d : Nat) (f : List Line → List Line) : (s.updMdc d f).cur = s.cur := rfl
@[simp] theorem State.updMdc_nextId (s : State) (d : Nat) (f : List Line → List Line) : (s.updMdc d f).nextId = s.nextId := rfl
@[simp] theorem State.updMdc_free (s : State) (d : Nat) (f : List Line → List Line) : (s.updMdc d f).free = s.free := rfl

/-! ## setReg -/

@[simp] theorem State.setReg_time (s : State) (d o n v : Nat) : (s.setReg d o n v).time = s.time := rfl
@[simp] theorem State.setReg_timeLocked (s : State) (d o n v : Nat) : (s.setReg d o n v).timeLocked = s.timeLocked := rfl
@[simp] theorem State.setReg_timeSource (s : State) (d o n v : Nat) : (s.setReg d o n v).timeSource = s.timeSource := rfl
@[simp] theorem State.setReg_mem (s : State) (d o n v : Nat) : (s.setReg d o n v).mem = s.mem := rfl
@[simp] theorem State.setReg_memPoison (s : State) (d o n v : Nat) : (s.setReg d o n v).memPoison = s.memPoison := rfl
@[simp] theorem State.setReg_flaws (s : State) (d o n v : Nat) : (s.setReg d o n v).flaws = s.flaws := rfl
@[simp] theorem State.setReg_units (s : State) (d o n v : Nat) : (s.setReg d o n v).units = s.units := rfl
@[simp] theorem State.setReg_stamps (s : State) (d o n v : Nat) : (s.setReg d o n v).stamps = s.stamps := rfl
@[simp] theorem State.setReg_seals (s : State) (d o n v : Nat) : (s.setReg d o n v).seals = s.seals := rfl
@[simp] theorem State.setReg_l2 (s : State) (d o n v : Nat) : (s.setReg d o n v).l2 = s.l2 := rfl
@[simp] theorem State.setReg_mdc (s : State) (d o n v : Nat) : (s.setReg d o n v).mdc = s.mdc := rfl
@[simp] theorem State.setReg_cores (s : State) (d o n v : Nat) : (s.setReg d o n v).cores = s.cores := rfl
@[simp] theorem State.setReg_rdcs (s : State) (d o n v : Nat) : (s.setReg d o n v).rdcs = s.rdcs := rfl
@[simp] theorem State.setReg_stale (s : State) (d o n v : Nat) : (s.setReg d o n v).stale = s.stale := rfl
@[simp] theorem State.setReg_outdated (s : State) (d o n v : Nat) : (s.setReg d o n v).outdated = s.outdated := rfl
@[simp] theorem State.setReg_homes (s : State) (d o n v : Nat) : (s.setReg d o n v).homes = s.homes := rfl
@[simp] theorem State.setReg_teams (s : State) (d o n v : Nat) : (s.setReg d o n v).teams = s.teams := rfl
@[simp] theorem State.setReg_accs (s : State) (d o n v : Nat) : (s.setReg d o n v).accs = s.accs := rfl
@[simp] theorem State.setReg_engs (s : State) (d o n v : Nat) : (s.setReg d o n v).engs = s.engs := rfl
@[simp] theorem State.setReg_launches (s : State) (d o n v : Nat) : (s.setReg d o n v).launches = s.launches := rfl
@[simp] theorem State.setReg_draws (s : State) (d o n v : Nat) : (s.setReg d o n v).draws = s.draws := rfl
@[simp] theorem State.setReg_ctxs (s : State) (d o n v : Nat) : (s.setReg d o n v).ctxs = s.ctxs := rfl
@[simp] theorem State.setReg_gfx (s : State) (d o n v : Nat) : (s.setReg d o n v).gfx = s.gfx := rfl
@[simp] theorem State.setReg_saves (s : State) (d o n v : Nat) : (s.setReg d o n v).saves = s.saves := rfl
@[simp] theorem State.setReg_batches (s : State) (d o n v : Nat) : (s.setReg d o n v).batches = s.batches := rfl
@[simp] theorem State.setReg_records (s : State) (d o n v : Nat) : (s.setReg d o n v).records = s.records := rfl
@[simp] theorem State.setReg_collectives (s : State) (d o n v : Nat) : (s.setReg d o n v).collectives = s.collectives := rfl
@[simp] theorem State.setReg_passes (s : State) (d o n v : Nat) : (s.setReg d o n v).passes = s.passes := rfl
@[simp] theorem State.setReg_owners (s : State) (d o n v : Nat) : (s.setReg d o n v).owners = s.owners := rfl
@[simp] theorem State.setReg_views (s : State) (d o n v : Nat) : (s.setReg d o n v).views = s.views := rfl
@[simp] theorem State.setReg_descs (s : State) (d o n v : Nat) : (s.setReg d o n v).descs = s.descs := rfl
@[simp] theorem State.setReg_streams (s : State) (d o n v : Nat) : (s.setReg d o n v).streams = s.streams := rfl
@[simp] theorem State.setReg_ports (s : State) (d o n v : Nat) : (s.setReg d o n v).ports = s.ports := rfl
@[simp] theorem State.setReg_pausing (s : State) (d o n v : Nat) : (s.setReg d o n v).pausing = s.pausing := rfl
@[simp] theorem State.setReg_lost (s : State) (d o n v : Nat) : (s.setReg d o n v).lost = s.lost := rfl
@[simp] theorem State.setReg_reads (s : State) (d o n v : Nat) : (s.setReg d o n v).reads = s.reads := rfl
@[simp] theorem State.setReg_prefetches (s : State) (d o n v : Nat) : (s.setReg d o n v).prefetches = s.prefetches := rfl
@[simp] theorem State.setReg_clusters (s : State) (d o n v : Nat) : (s.setReg d o n v).clusters = s.clusters := rfl
@[simp] theorem State.setReg_overload (s : State) (d o n v : Nat) : (s.setReg d o n v).overload = s.overload := rfl
@[simp] theorem State.setReg_calm (s : State) (d o n v : Nat) : (s.setReg d o n v).calm = s.calm := rfl
@[simp] theorem State.setReg_board (s : State) (d o n v : Nat) : (s.setReg d o n v).board = s.board := rfl
@[simp] theorem State.setReg_urxia (s : State) (d o n v : Nat) : (s.setReg d o n v).urxia = s.urxia := rfl
@[simp] theorem State.setReg_ghost (s : State) (d o n v : Nat) : (s.setReg d o n v).ghost = s.ghost := rfl
@[simp] theorem State.setReg_understudy (s : State) (d o n v : Nat) : (s.setReg d o n v).understudy = s.understudy := rfl
@[simp] theorem State.setReg_spared (s : State) (d o n v : Nat) : (s.setReg d o n v).spared = s.spared := rfl
@[simp] theorem State.setReg_repairs (s : State) (d o n v : Nat) : (s.setReg d o n v).repairs = s.repairs := rfl
@[simp] theorem State.setReg_rr (s : State) (d o n v : Nat) : (s.setReg d o n v).rr = s.rr := rfl
@[simp] theorem State.setReg_inbox (s : State) (d o n v : Nat) : (s.setReg d o n v).inbox = s.inbox := rfl
@[simp] theorem State.setReg_due (s : State) (d o n v : Nat) : (s.setReg d o n v).due = s.due := rfl
@[simp] theorem State.setReg_poolOwner (s : State) (d o n v : Nat) : (s.setReg d o n v).poolOwner = s.poolOwner := rfl
@[simp] theorem State.setReg_offered (s : State) (d o n v : Nat) : (s.setReg d o n v).offered = s.offered := rfl
@[simp] theorem State.setReg_picked (s : State) (d o n v : Nat) : (s.setReg d o n v).picked = s.picked := rfl
@[simp] theorem State.setReg_cur (s : State) (d o n v : Nat) : (s.setReg d o n v).cur = s.cur := rfl
@[simp] theorem State.setReg_nextId (s : State) (d o n v : Nat) : (s.setReg d o n v).nextId = s.nextId := rfl
@[simp] theorem State.setReg_free (s : State) (d o n v : Nat) : (s.setReg d o n v).free = s.free := rfl

/-! ## updCtx -/

@[simp] theorem State.updCtx_time (s : State) (n : Nat) (f : Ctx → Ctx) : (s.updCtx n f).time = s.time := by
  unfold State.updCtx; split <;> rfl
@[simp] theorem State.updCtx_timeLocked (s : State) (n : Nat) (f : Ctx → Ctx) : (s.updCtx n f).timeLocked = s.timeLocked := by
  unfold State.updCtx; split <;> rfl
@[simp] theorem State.updCtx_timeSource (s : State) (n : Nat) (f : Ctx → Ctx) : (s.updCtx n f).timeSource = s.timeSource := by
  unfold State.updCtx; split <;> rfl
@[simp] theorem State.updCtx_mem (s : State) (n : Nat) (f : Ctx → Ctx) : (s.updCtx n f).mem = s.mem := by
  unfold State.updCtx; split <;> rfl
@[simp] theorem State.updCtx_memPoison (s : State) (n : Nat) (f : Ctx → Ctx) : (s.updCtx n f).memPoison = s.memPoison := by
  unfold State.updCtx; split <;> rfl
@[simp] theorem State.updCtx_flaws (s : State) (n : Nat) (f : Ctx → Ctx) : (s.updCtx n f).flaws = s.flaws := by
  unfold State.updCtx; split <;> rfl
@[simp] theorem State.updCtx_units (s : State) (n : Nat) (f : Ctx → Ctx) : (s.updCtx n f).units = s.units := by
  unfold State.updCtx; split <;> rfl
@[simp] theorem State.updCtx_stamps (s : State) (n : Nat) (f : Ctx → Ctx) : (s.updCtx n f).stamps = s.stamps := by
  unfold State.updCtx; split <;> rfl
@[simp] theorem State.updCtx_seals (s : State) (n : Nat) (f : Ctx → Ctx) : (s.updCtx n f).seals = s.seals := by
  unfold State.updCtx; split <;> rfl
@[simp] theorem State.updCtx_l2 (s : State) (n : Nat) (f : Ctx → Ctx) : (s.updCtx n f).l2 = s.l2 := by
  unfold State.updCtx; split <;> rfl
@[simp] theorem State.updCtx_mdc (s : State) (n : Nat) (f : Ctx → Ctx) : (s.updCtx n f).mdc = s.mdc := by
  unfold State.updCtx; split <;> rfl
@[simp] theorem State.updCtx_regs (s : State) (n : Nat) (f : Ctx → Ctx) : (s.updCtx n f).regs = s.regs := by
  unfold State.updCtx; split <;> rfl
@[simp] theorem State.updCtx_cores (s : State) (n : Nat) (f : Ctx → Ctx) : (s.updCtx n f).cores = s.cores := by
  unfold State.updCtx; split <;> rfl
@[simp] theorem State.updCtx_rdcs (s : State) (n : Nat) (f : Ctx → Ctx) : (s.updCtx n f).rdcs = s.rdcs := by
  unfold State.updCtx; split <;> rfl
@[simp] theorem State.updCtx_stale (s : State) (n : Nat) (f : Ctx → Ctx) : (s.updCtx n f).stale = s.stale := by
  unfold State.updCtx; split <;> rfl
@[simp] theorem State.updCtx_outdated (s : State) (n : Nat) (f : Ctx → Ctx) : (s.updCtx n f).outdated = s.outdated := by
  unfold State.updCtx; split <;> rfl
@[simp] theorem State.updCtx_homes (s : State) (n : Nat) (f : Ctx → Ctx) : (s.updCtx n f).homes = s.homes := by
  unfold State.updCtx; split <;> rfl
@[simp] theorem State.updCtx_teams (s : State) (n : Nat) (f : Ctx → Ctx) : (s.updCtx n f).teams = s.teams := by
  unfold State.updCtx; split <;> rfl
@[simp] theorem State.updCtx_accs (s : State) (n : Nat) (f : Ctx → Ctx) : (s.updCtx n f).accs = s.accs := by
  unfold State.updCtx; split <;> rfl
@[simp] theorem State.updCtx_engs (s : State) (n : Nat) (f : Ctx → Ctx) : (s.updCtx n f).engs = s.engs := by
  unfold State.updCtx; split <;> rfl
@[simp] theorem State.updCtx_launches (s : State) (n : Nat) (f : Ctx → Ctx) : (s.updCtx n f).launches = s.launches := by
  unfold State.updCtx; split <;> rfl
@[simp] theorem State.updCtx_draws (s : State) (n : Nat) (f : Ctx → Ctx) : (s.updCtx n f).draws = s.draws := by
  unfold State.updCtx; split <;> rfl
@[simp] theorem State.updCtx_gfx (s : State) (n : Nat) (f : Ctx → Ctx) : (s.updCtx n f).gfx = s.gfx := by
  unfold State.updCtx; split <;> rfl
@[simp] theorem State.updCtx_saves (s : State) (n : Nat) (f : Ctx → Ctx) : (s.updCtx n f).saves = s.saves := by
  unfold State.updCtx; split <;> rfl
@[simp] theorem State.updCtx_batches (s : State) (n : Nat) (f : Ctx → Ctx) : (s.updCtx n f).batches = s.batches := by
  unfold State.updCtx; split <;> rfl
@[simp] theorem State.updCtx_records (s : State) (n : Nat) (f : Ctx → Ctx) : (s.updCtx n f).records = s.records := by
  unfold State.updCtx; split <;> rfl
@[simp] theorem State.updCtx_collectives (s : State) (n : Nat) (f : Ctx → Ctx) : (s.updCtx n f).collectives = s.collectives := by
  unfold State.updCtx; split <;> rfl
@[simp] theorem State.updCtx_passes (s : State) (n : Nat) (f : Ctx → Ctx) : (s.updCtx n f).passes = s.passes := by
  unfold State.updCtx; split <;> rfl
@[simp] theorem State.updCtx_owners (s : State) (n : Nat) (f : Ctx → Ctx) : (s.updCtx n f).owners = s.owners := by
  unfold State.updCtx; split <;> rfl
@[simp] theorem State.updCtx_views (s : State) (n : Nat) (f : Ctx → Ctx) : (s.updCtx n f).views = s.views := by
  unfold State.updCtx; split <;> rfl
@[simp] theorem State.updCtx_descs (s : State) (n : Nat) (f : Ctx → Ctx) : (s.updCtx n f).descs = s.descs := by
  unfold State.updCtx; split <;> rfl
@[simp] theorem State.updCtx_streams (s : State) (n : Nat) (f : Ctx → Ctx) : (s.updCtx n f).streams = s.streams := by
  unfold State.updCtx; split <;> rfl
@[simp] theorem State.updCtx_ports (s : State) (n : Nat) (f : Ctx → Ctx) : (s.updCtx n f).ports = s.ports := by
  unfold State.updCtx; split <;> rfl
@[simp] theorem State.updCtx_pausing (s : State) (n : Nat) (f : Ctx → Ctx) : (s.updCtx n f).pausing = s.pausing := by
  unfold State.updCtx; split <;> rfl
@[simp] theorem State.updCtx_lost (s : State) (n : Nat) (f : Ctx → Ctx) : (s.updCtx n f).lost = s.lost := by
  unfold State.updCtx; split <;> rfl
@[simp] theorem State.updCtx_reads (s : State) (n : Nat) (f : Ctx → Ctx) : (s.updCtx n f).reads = s.reads := by
  unfold State.updCtx; split <;> rfl
@[simp] theorem State.updCtx_prefetches (s : State) (n : Nat) (f : Ctx → Ctx) : (s.updCtx n f).prefetches = s.prefetches := by
  unfold State.updCtx; split <;> rfl
@[simp] theorem State.updCtx_clusters (s : State) (n : Nat) (f : Ctx → Ctx) : (s.updCtx n f).clusters = s.clusters := by
  unfold State.updCtx; split <;> rfl
@[simp] theorem State.updCtx_overload (s : State) (n : Nat) (f : Ctx → Ctx) : (s.updCtx n f).overload = s.overload := by
  unfold State.updCtx; split <;> rfl
@[simp] theorem State.updCtx_calm (s : State) (n : Nat) (f : Ctx → Ctx) : (s.updCtx n f).calm = s.calm := by
  unfold State.updCtx; split <;> rfl
@[simp] theorem State.updCtx_board (s : State) (n : Nat) (f : Ctx → Ctx) : (s.updCtx n f).board = s.board := by
  unfold State.updCtx; split <;> rfl
@[simp] theorem State.updCtx_urxia (s : State) (n : Nat) (f : Ctx → Ctx) : (s.updCtx n f).urxia = s.urxia := by
  unfold State.updCtx; split <;> rfl
@[simp] theorem State.updCtx_ghost (s : State) (n : Nat) (f : Ctx → Ctx) : (s.updCtx n f).ghost = s.ghost := by
  unfold State.updCtx; split <;> rfl
@[simp] theorem State.updCtx_understudy (s : State) (n : Nat) (f : Ctx → Ctx) : (s.updCtx n f).understudy = s.understudy := by
  unfold State.updCtx; split <;> rfl
@[simp] theorem State.updCtx_spared (s : State) (n : Nat) (f : Ctx → Ctx) : (s.updCtx n f).spared = s.spared := by
  unfold State.updCtx; split <;> rfl
@[simp] theorem State.updCtx_repairs (s : State) (n : Nat) (f : Ctx → Ctx) : (s.updCtx n f).repairs = s.repairs := by
  unfold State.updCtx; split <;> rfl
@[simp] theorem State.updCtx_rr (s : State) (n : Nat) (f : Ctx → Ctx) : (s.updCtx n f).rr = s.rr := by
  unfold State.updCtx; split <;> rfl
@[simp] theorem State.updCtx_inbox (s : State) (n : Nat) (f : Ctx → Ctx) : (s.updCtx n f).inbox = s.inbox := by
  unfold State.updCtx; split <;> rfl
@[simp] theorem State.updCtx_due (s : State) (n : Nat) (f : Ctx → Ctx) : (s.updCtx n f).due = s.due := by
  unfold State.updCtx; split <;> rfl
@[simp] theorem State.updCtx_poolOwner (s : State) (n : Nat) (f : Ctx → Ctx) : (s.updCtx n f).poolOwner = s.poolOwner := by
  unfold State.updCtx; split <;> rfl
@[simp] theorem State.updCtx_offered (s : State) (n : Nat) (f : Ctx → Ctx) : (s.updCtx n f).offered = s.offered := by
  unfold State.updCtx; split <;> rfl
@[simp] theorem State.updCtx_picked (s : State) (n : Nat) (f : Ctx → Ctx) : (s.updCtx n f).picked = s.picked := by
  unfold State.updCtx; split <;> rfl
@[simp] theorem State.updCtx_cur (s : State) (n : Nat) (f : Ctx → Ctx) : (s.updCtx n f).cur = s.cur := by
  unfold State.updCtx; split <;> rfl
@[simp] theorem State.updCtx_nextId (s : State) (n : Nat) (f : Ctx → Ctx) : (s.updCtx n f).nextId = s.nextId := by
  unfold State.updCtx; split <;> rfl
@[simp] theorem State.updCtx_free (s : State) (n : Nat) (f : Ctx → Ctx) : (s.updCtx n f).free = s.free := by
  unfold State.updCtx; split <;> rfl

end Sys2Proof.Machine
end

