-- ==== Sys2Proof/Laws/Issue.lean ====
section
/-!
SUPPORT. Everything that the runner of instructions can do: with no issuer it faults, a failed check or effect traps or
waits, no lane has no effect, and otherwise the effect is taken and the fragment goes on.
-/

namespace Sys2Proof.Machine

variable {i : Instr} {h : Hdr} {e : Env} {s : State} {body : Env → State → Chk Eff}

/-- A fatal trap changes the teams alone. -/
theorem State.fatalTrap_eq (s : State) (gid : Nat) (sl : Slice) (cause info : Nat) (pc : W64) (r : Option W64) (k : W32) :
    s.fatalTrap gid sl cause info pc r k = { s with teams := (s.fatalTrap gid sl cause info pc r k).teams } := by
  unfold State.fatalTrap
  split <;> [rfl; (split <;> rfl)]

/-- A trap of the issuing instruction, handled or fatal, changes the teams alone. -/
theorem State.trapIn_eq (s : State) (e : Env) (cause info : Nat) :
    s.trapIn e cause info = { s with teams := (s.trapIn e cause info).teams } := by
  unfold State.trapIn State.takeTrap
  dsimp only
  repeat' split
  · rfl
  · exact State.fatalTrap_eq ..
  · exact State.fatalTrap_eq ..

theorem State.trapped_eq (s : State) (e : Env) (cause info : Nat) :
    s.trapped e cause info = { s with teams := (s.trapped e cause info).teams, cur := none } := by
  unfold State.trapped
  rw [State.trapIn_eq]; rfl

/-- What the split stack takes back changes the teams alone. -/
theorem State.refill_eq (s : State) (gid : Nat) (sl : Slice) (n : Nat) :
    s.refill gid sl n = { s with teams := (s.refill gid sl n).teams } := by
  unfold State.refill
  split
  · exact State.fatalTrap_eq ..
  · rfl

/-- The end of an instruction changes the teams alone, or the instruction traps in the state `b` that it found. -/
theorem State.ended_cases (s : State) (e : Env) (h : Hdr) (moved : Bool) (b : State) :
    s.ended e h moved b = { s with teams := (s.ended e h moved b).teams } ∨ s.ended e h moved b = b.trapped e 0x1E 1 := by
  unfold State.ended
  dsimp only
  split
  · exact .inr rfl
  · exact .inl rfl

theorem runInstr_noIssuer (hs : (s.cur.bind fun w => s.env w h) = none) : runInstr i h body s = .fault .noIssuer := by
  simp only [runInstr, hs]

theorem runInstr_eq (hs : s.issues h e) : runInstr i h body s = s.outcome e h (runEff i body e s) := by
  unfold State.issues at hs
  simp only [runInstr, hs]

theorem runEff_check {x : Stop} (hc : e.check i = .error x) : runEff i body e s = .error x := by
  simp only [runEff, hc, bind, Except.bind]

theorem runEff_empty (hc : e.check i = .ok ()) (he : e.exec = 0) : runEff i body e s = .ok (Eff.on (s.begun e)) := by
  simp only [runEff, hc, bind, Except.bind, if_pos he, pure, Except.pure]

theorem runEff_lanes (hc : e.check i = .ok ()) (he : e.exec ≠ 0) : runEff i body e s = body e (s.begun e) := by
  simp only [runEff, hc, bind, Except.bind, if_neg he]

theorem runInstr_check_trap {c n : Nat} (hs : s.issues h e) (hc : e.check i = .error (.trap c n)) :
    runInstr i h body s = .next (s.trapped e c n) := by
  rw [runInstr_eq hs, runEff_check hc]; simp only [State.outcome]

theorem runInstr_empty (hs : s.issues h e) (hc : e.check i = .ok ()) (he : e.exec = 0) :
    runInstr i h body s = .next ((s.begun e).ended e h false s) := by
  rw [runInstr_eq hs, runEff_empty hc he]; simp only [State.outcome, Eff.on]

theorem runInstr_ok {r : Eff} (hr : s.runs i h e) (hb : body e (s.begun e) = .ok r) :
    runInstr i h body s = .next (r.s.ended e h r.moved s) := by
  rw [runInstr_eq hr.issues, runEff_lanes hr.checks hr.lanes, hb]; simp only [State.outcome]

theorem runInstr_next {t : State} {moved : Bool} (hr : s.runs i h e) (hb : body e (s.begun e) = .ok { s := t, moved := moved }) :
    runInstr i h body s = .next (t.ended e h moved s) := by
  have := runInstr_ok hr hb
  exact this

theorem runInstr_trap {c n : Nat} (hr : s.runs i h e) (hb : body e (s.begun e) = .error (.trap c n)) :
    runInstr i h body s = .next (s.trapped e c n) := by
  rw [runInstr_eq hr.issues, runEff_lanes hr.checks hr.lanes, hb]; simp only [State.outcome]

theorem runInstr_wait {w : Wait} (hr : s.runs i h e) (hb : body e (s.begun e) = .error (.wait w)) :
    runInstr i h body s = .next (s.waits e w) := by
  rw [runInstr_eq hr.issues, runEff_lanes hr.checks hr.lanes, hb]; simp only [State.outcome]

/-- A runner that answers a next state has an issuer, and is in one of these cases. -/
theorem runInstr_cases {t : State} (hn : runInstr i h body s = .next t) :
    ∃ e, s.issues h e ∧
      ((∃ c n, t = s.trapped e c n) ∨ (∃ w, t = s.waits e w) ∨
        (e.check i = .ok () ∧ e.exec = 0 ∧ t = (s.begun e).ended e h false s) ∨
        (∃ r, s.runs i h e ∧ body e (s.begun e) = .ok r ∧ t = r.s.ended e h r.moved s)) := by
  cases hs : s.cur.bind fun w => s.env w h with
  | none => simp only [runInstr_noIssuer hs] at hn; cases hn
  | some e =>
    refine ⟨e, hs, ?_⟩
    rw [runInstr_eq hs] at hn
    cases hc : e.check i with
    | error x =>
      rw [runEff_check hc] at hn
      cases x with
      | trap c n => cases hn; exact .inl ⟨_, _, rfl⟩
      | wait w => cases hn; exact .inr (.inl ⟨_, rfl⟩)
    | ok u =>
      by_cases he : e.exec = 0
      · rw [runEff_empty hc he] at hn
        cases hn
        exact .inr (.inr (.inl ⟨rfl, he, rfl⟩))
      · rw [runEff_lanes hc he] at hn
        cases hb : body e (s.begun e) with
        | ok r => rw [hb] at hn; cases hn; exact .inr (.inr (.inr ⟨r, ⟨hs, hc, he⟩, rfl, rfl⟩))
        | error x =>
          rw [hb] at hn
          cases x with
          | trap c n => cases hn; exact .inl ⟨_, _, rfl⟩
          | wait w => cases hn; exact .inr (.inl ⟨_, rfl⟩)

end Sys2Proof.Machine
end

