-- ==== Sys2Proof/Laws/Effects.lean ====
section
/-!
SUPPORT. What the shared effects do when nothing stops them: forms, branches, releases, range of `exec`.
-/

namespace Sys2Proof.Machine

variable {e : Env} {s : State}

/-- The lanes that execute are active lanes of the fragment. -/
theorem State.issues_exec {h : Hdr} (hs : s.issues h e) : e.exec &&& e.f.mask = e.exec := by
  unfold State.issues at hs
  cases hc : s.cur with
  | none => simp [hc] at hs
  | some w =>
    simp only [hc, Option.bind_some, State.env, Option.map_eq_some_iff] at hs
    obtain ⟨x, -, rfl⟩ := hs
    simp only [SliceSt.passing]
    ext i
    simp only [BitVec.getElem_and]
    cases x.2.2.mask[i] <;> simp

/-- The fragment of an issuing instruction has a lane. -/
theorem State.runs_mask {i : Instr} {h : Hdr} (hr : s.runs i h e) : e.f.mask ≠ 0 := by
  intro hm
  have := State.issues_exec hr.issues
  rw [hm] at this
  exact hr.lanes (by rw [← this]; simp)

theorem aluEff_ok {F : Form} {vs : List (Nat → Nat)} (hr : F.reads s e vs) :
    aluEff F.d F.pair F.srcs F.val e (s.begun e) =
      .ok (Eff.on (((s.begun e).consume e F.srcs).writeDst e F.d F.pair (F.result vs))) := by
  unfold aluEff Form.result
  simp only [hr.bounds, hr.values, bind, Except.bind, pure, Except.pure]

theorem lateEff_ok {F : Form} {vs : List (Nat → Nat)} (hr : F.reads s e vs) :
    lateEff F.d F.pair F.srcs F.val e (s.begun e) =
      .ok (Eff.on (((s.begun e).consume e F.srcs).lateDst e F.d false (splitVal F.pair (F.result vs)))) := by
  unfold lateEff Form.result
  simp only [hr.bounds, hr.values, bind, Except.bind, pure, Except.pure]

theorem LoadForm.ea_def (F : LoadForm) (vs : List (Nat × (Nat → LV))) : F.ea vs = fun l =>
    effAddr (valAt (lvVals vs) 0 l) (valAt (lvVals vs) 1 l) F.m.iscale F.m.ofs (mmSize F.m) := rfl

theorem AtomForm.ea_def (F : AtomForm) (vs : List (Nat × (Nat → LV))) : F.ea vs = fun l =>
    effAddr (valAt (lvVals vs) 0 l) 0 0 F.m.ofs F.m.ty.size := rfl

/-- The delivery of an access starts in the teams alone. -/
theorem State.reserve_eq (s : State) (e : Env) (id : Nat) (d : Opnd) (n : Nat) (c : Option Path) (l : Nat → Lanes) :
    (s.reserve e id d n c l).1 =
      { s with teams := (s.reserve e id d n c l).1.teams, nextId := (s.reserve e id d n c l).1.nextId } := by
  unfold State.reserve
  split <;> rfl

/-- Reading an instruction's sources changes the teams alone. -/
theorem State.consume_eq (s : State) (e : Env) (srcs : List SrcOp) :
    s.consume e srcs = { s with teams := (s.consume e srcs).teams } := by
  unfold State.consume
  dsimp only
  split <;> rfl

/-- A new number taken after reading the sources is the one taken before it. -/
theorem State.consume_fresh (s : State) (e : Env) (srcs : List SrcOp) :
    (s.consume e srcs).fresh = (s.nextId, ({ s with nextId := s.nextId + 1 } : State).consume e srcs) := by
  unfold State.fresh State.consume
  dsimp only
  split <;> rfl

/-- An atomic that acts once does so in the same fragment. -/
theorem Env.once_same (e : Env) (ret : Bool) (a b : Opnd) : e.once ret a b = { e with exec := (e.once ret a b).exec } := by
  unfold Env.once
  split <;> rfl

/-- A transfer that may be made leaves the lanes where `transferred` puts them. -/
theorem transfer_ok {taken : Lanes} {npc tgt jn : W64} (ht : s.mayTransfer e taken npc tgt jn) :
    transfer e s taken npc tgt jn = .ok { s := s.transferred e taken npc tgt jn, moved := taken != 0 } := by
  unfold transfer State.transferred
  by_cases h0 : taken = 0
  · simp [h0, pure, Except.pure, Eff.on]
  · obtain ⟨ha, hk⟩ := ht h0
    have h0' : (taken != 0) = true := by simpa using h0
    rw [if_neg h0, if_neg h0, h0']
    simp only [transferCheck, ha, trapIf, bind, Except.bind, pure, Except.pure, Bool.not_true, Bool.false_eq_true, if_false]
    by_cases hm : taken = e.f.mask
    · simp only [if_pos hm]
    · have := hk hm
      unfold State.transferred at this
      rw [if_neg h0, if_neg hm] at this
      simp only [if_neg hm, State.fresh, this]

/-- A release that has nothing to wait for goes on at once. -/
theorem withRelease_ok {sc : Scope} {k : State → Chk Eff} (hr : s.releases e sc) :
    s.withRelease e sc k = k (s.releaseFor e sc).1 := by
  obtain ⟨hf, ha⟩ := hr
  unfold State.withRelease
  by_cases hsc : sc = .sys
  · simp only [hsc, if_true, hf hsc]
    subst hsc
    simp only [ha, List.isEmpty_nil, if_true]
  · simp only [if_neg hsc, ha, List.isEmpty_nil, if_true]

end Sys2Proof.Machine
end

