-- ==== Sys2Proof/Laws/Memory.lean ====
section
/-!
SUPPORT. The memory operations keep the canonical form, and what one byte reads as after each of them.
-/

namespace Sys2Proof.Machine

variable {dflt : Nat → Byte} {m : Memory} {a k : Nat} {b : Byte}

/-- Every listed address of a canonical memory is above a bound. -/
def Memory.above (m : Memory) (k : Nat) : Prop := ∀ c ∈ m, k < c.1

theorem Memory.ok_cons {c : Nat × Byte} : Memory.ok dflt (c :: m) = true ↔ c.2 ≠ dflt c.1 ∧ m.above c.1 ∧ Memory.ok dflt m = true := by
  induction m generalizing c with
  | nil => simp [Memory.ok, Memory.above]
  | cons d m ih =>
    rw [show Memory.ok dflt (c :: d :: m) = (decide (c.2 ≠ dflt c.1) && decide (c.1 < d.1) && Memory.ok dflt (d :: m)) from rfl]
    simp only [Bool.and_eq_true, decide_eq_true_eq, and_assoc]
    constructor
    · rintro ⟨h1, h2, h3⟩
      refine ⟨h1, ?_, h3⟩
      intro x hx
      rcases List.mem_cons.mp hx with rfl | hx
      · exact h2
      · exact h2.trans ((ih.mp h3).2.1 x hx)
    · rintro ⟨h1, h2, h3⟩
      exact ⟨h1, h2 d (by simp), h3⟩

/-- An address below every listed one reads as unlisted. -/
theorem cellRead_below (h : m.above k) (ha : a ≤ k) : cellRead dflt m a = dflt a := by
  cases m with
  | nil => rfl
  | cons c m =>
    have := h c (by simp)
    simp [cellRead, show ¬ c.1 = a by omega, show a < c.1 by omega]

theorem above_cellWrite (h : m.above k) (ha : k < a) : (cellWrite dflt m a b).above k := by
  induction m with
  | nil =>
    unfold cellWrite
    split
    · exact h
    · intro c hc; simp only [List.mem_singleton] at hc; rw [hc]; exact ha
  | cons d m ih =>
    have hd : k < d.1 := h d (by simp)
    have hm : Memory.above m k := fun c hc => h c (by simp [hc])
    unfold cellWrite
    split
    · split
      · exact h
      · intro c hc
        rcases List.mem_cons.mp hc with rfl | hc
        · exact ha
        · exact h c hc
    · split
      · split
        · exact hm
        · intro c hc
          rcases List.mem_cons.mp hc with rfl | hc
          · exact ha
          · exact hm c hc
      · intro c hc
        rcases List.mem_cons.mp hc with rfl | hc
        · exact hd
        · exact ih hm c hc

/-- A write of one byte keeps the canonical form. -/
theorem ok_cellWrite (h : Memory.ok dflt m = true) : Memory.ok dflt (cellWrite dflt m a b) = true := by
  induction m with
  | nil =>
    unfold cellWrite
    split
    · exact h
    · rename_i hb; simp [Memory.ok, hb]
  | cons d m ih =>
    obtain ⟨h1, h2, h3⟩ := Memory.ok_cons.mp h
    unfold cellWrite
    split
    · rename_i hlt
      split
      · exact h
      · rename_i hb
        refine Memory.ok_cons.mpr ⟨hb, ?_, h⟩
        intro c hc
        rcases List.mem_cons.mp hc with rfl | hc
        · exact hlt
        · exact hlt.trans (h2 c hc)
    · split
      · rename_i heq
        split
        · exact h3
        · rename_i hb
          exact Memory.ok_cons.mpr ⟨hb, heq ▸ h2, h3⟩
      · exact Memory.ok_cons.mpr ⟨h1, above_cellWrite h2 (by omega), ih h3⟩

/-- One byte after a write of one byte. -/
theorem cellRead_cellWrite (h : Memory.ok dflt m = true) :
    cellRead dflt (cellWrite dflt m a b) k = if k = a then b else cellRead dflt m k := by
  induction m with
  | nil =>
    unfold cellWrite
    split
    · rename_i hb; split
      · rename_i hk; subst hk; simp [cellRead, hb]
      · rfl
    · simp only [cellRead]
      by_cases hk : k = a
      · simp [hk]
      · simp [hk, Ne.symm hk]
  | cons d m ih =>
    obtain ⟨h1, h2, h3⟩ := Memory.ok_cons.mp h
    unfold cellWrite
    split
    · rename_i hlt
      split
      · rename_i hb
        by_cases hk : k = a
        · subst hk; simp [cellRead, hb, show ¬ d.1 = k by omega, hlt]
        · simp [hk]
      · by_cases hk : k = a
        · simp [cellRead, hk]
        · simp only [cellRead, Ne.symm hk, hk, if_false]
          by_cases hk2 : k < a
          · simp [hk2, show ¬ d.1 = k by omega, show k < d.1 by omega]
          · simp [hk2]
    · split
      · rename_i heq
        split
        · rename_i hb
          by_cases hk : k = a
          · subst hk
            simp only [if_true, hb]
            exact cellRead_below (k := d.1) h2 (by omega)
          · simp only [hk, if_false, cellRead, show ¬ d.1 = k by omega]
            by_cases hk2 : k < d.1
            · simp only [hk2, if_true]; exact cellRead_below h2 (by omega)
            · simp [hk2]
        · by_cases hk : k = a
          · simp [cellRead, hk]
          · simp [cellRead, hk, Ne.symm hk, heq]
      · by_cases hk : k = a
        · subst hk
          simp only [cellRead, if_true]
          rw [if_neg (by omega), if_neg (by omega), ih h3]; simp
        · simp only [hk, if_false, cellRead, ih h3]

theorem ok_cellWrites {bs : List Byte} (h : Memory.ok dflt m = true) : Memory.ok dflt (cellWrites dflt m a bs) = true := by
  induction bs generalizing m a with
  | nil => exact h
  | cons b bs ih => exact ih (ok_cellWrite h)

theorem ok_filter {p : Nat × Byte → Bool} (h : Memory.ok dflt m = true) : Memory.ok dflt (m.filter p) = true := by
  induction m with
  | nil => rfl
  | cons d m ih =>
    obtain ⟨h1, h2, h3⟩ := Memory.ok_cons.mp h
    simp only [List.filter_cons]
    split
    · exact Memory.ok_cons.mpr ⟨h1, fun c hc => h2 c (List.mem_of_mem_filter hc), ih h3⟩
    · exact ih h3

/-- Clearing a range keeps the canonical form. -/
theorem ok_cellClear {lo hi : Nat} (h : Memory.ok dflt m = true) : Memory.ok dflt (cellClear m lo hi) = true := ok_filter h

/-- An address that the filter does not name reads as before when the filter keeps it, and as unlisted when not. -/
theorem cellRead_filter {p : Nat → Bool} (h : Memory.ok dflt m = true) :
    cellRead dflt (m.filter fun c => p c.1) k = if p k then cellRead dflt m k else dflt k := by
  induction m with
  | nil => simp [cellRead]
  | cons d m ih =>
    obtain ⟨h1, h2, h3⟩ := Memory.ok_cons.mp h
    simp only [List.filter_cons, cellRead]
    by_cases hd : p d.1 = true
    · simp only [hd, if_true, cellRead, ih h3]
      by_cases hk : d.1 = k
      · subst hk; simp [hd]
      · by_cases hlt : k < d.1 <;> simp [hk, hlt]
    · rw [if_neg hd, ih h3]
      by_cases hk : d.1 = k
      · subst hk; simp [hd]
      · by_cases hlt : k < d.1
        · simp [hk, hlt, cellRead_below h2 (show k ≤ d.1 by omega)]
        · simp [hk, hlt]

/-! ## The operations of the state -/

/-- Every write of device memory keeps its canonical form, whatever its caches hold. -/
theorem wf_memWrite {s : State} {key : Nat} {bs : List PByte} (h : s.mem.wf = true) : (s.memWrite key bs).mem.wf = true := by
  unfold State.memWrite
  dsimp only
  generalize (lineParts key bs).filter _ = parts
  generalize s.mem = m at h
  induction parts generalizing m with
  | nil => exact h
  | cons x xs ih => exact ih _ (ok_cellWrites h)

theorem wf_memZero {s : State} {key n : Nat} (h : s.mem.wf = true) : (s.memZero key n).mem.wf = true := ok_cellClear h

theorem wf_put {s : State} {ia key : Nat} {bs : List PByte} (h : s.mem.wf = true) : (s.put ia key bs).mem.wf = true := wf_memWrite h

/-- Every register write keeps the canonical form of the apertures. -/
theorem ok_setReg {s : State} {die off n v : Nat} (h : Memory.ok regDefault s.regs = true) :
    Memory.ok regDefault (s.setReg die off n v).regs = true := ok_cellWrites h

theorem wf_spadWrite {k : Core} {at_ : Nat} {bs : List PByte} (h : k.spad.wf = true) : (k.spadWrite at_ bs).spad.wf = true := ok_cellWrites h

/-- A frame that changes owner is cleared in canonical form. -/
theorem wf_claimFrame {s : State} {frame : Nat} {o : Id12} {k : Nat} (h : s.mem.wf = true) : (s.claimFrame frame o k).mem.wf = true := by
  unfold State.claimFrame
  split
  · exact h
  · exact wf_memZero (s := s.discardFrame frame) h

theorem wf_claimFrames {s : State} {l : List Nat} {f : Nat → Nat} {o : Id12} {k : State → Nat} (h : s.mem.wf = true) :
    (l.foldl (fun (s : State) i => s.claimFrame (f i) o (k s)) s).mem.wf = true := by
  induction l generalizing s with
  | nil => exact h
  | cons x xs ih => exact ih (wf_claimFrame h)

theorem wf_install {s : State} {h base b leaf at_ : Nat} (hs : s.mem.wf = true) : (s.install h base b leaf at_).mem.wf = true := by
  simp only [State.install, State.updHome]
  split
  · exact wf_claimFrames (f := fun i => memKey (entFhome leaf) (entFrame leaf * 4096) / 65536 + i) (k := fun s => s.keyId leaf) hs
  · exact hs

theorem wf_touch {s : State} {ia : Nat} (h : s.mem.wf = true) : (s.touch ia).mem.wf = true := by
  unfold State.touch
  split
  · exact h
  · split
    · exact wf_install h
    · exact h

end Sys2Proof.Machine
end

