-- ==== Sys2Proof/Laws/PerInstr.lean ====
section
/-!
SUPPORT. Per instruction: the fields of its word survive being put together and taken apart.
-/

namespace Sys2Proof

theorem extract_append_lo {a b : Nat} (x : BitVec a) (y : BitVec b) : (x ++ y).extractLsb' 0 b = y := by
  ext i hi
  simp [BitVec.getLsbD_append, hi]

theorem extract_append_hi {a b : Nat} (x : BitVec a) (y : BitVec b) (k l : Nat) :
    (x ++ y).extractLsb' (b + k) l = x.extractLsb' k l := by
  ext i hi
  simp only [BitVec.getElem_extractLsb', BitVec.getLsbD_append]
  rw [if_neg (by omega), show b + k + i - b = k + i by omega]

theorem bit_append_hi {a b : Nat} (x : BitVec a) (y : BitVec b) (k : Nat) : (x ++ y).getLsbD (b + k) = x.getLsbD k := by
  rw [BitVec.getLsbD_append, if_neg (by omega), show b + k - b = k by omega]

theorem bit_append_bool {a : Nat} (x : BitVec a) (y : Bool) : (x ++ BitVec.ofBool y).getLsbD 0 = y := by
  rw [BitVec.getLsbD_append]
  cases y <;> rfl

theorem extract_all {a : Nat} (x : BitVec a) : x.extractLsb' 0 a = x := by
  ext i hi
  simp

/-- The fields of a word are those it was made of. -/
theorem Raw.ofWord_toWord (r : Raw) : Raw.ofWord r.toWord = r := by
  obtain ⟨opc, gn, gp, sw, yld, ru, rsv, opd, opa, opb, mod⟩ := r
  simp only [Raw.toWord, Raw.ofWord, Raw.mk.injEq]
  refine ⟨?_, ?_, ?_, ?_, ?_, ?_, ?_, ?_, ?_, ?_, ?_⟩
  · exact (extract_append_hi _ _ 60 10).trans ((extract_append_hi _ _ 44 10).trans ((extract_append_hi _ _ 28 10).trans
      ((extract_append_hi _ _ 12 10).trans ((extract_append_hi _ _ 9 10).trans ((extract_append_hi _ _ 6 10).trans
      ((extract_append_hi _ _ 5 10).trans ((extract_append_hi _ _ 4 10).trans ((extract_append_hi _ _ 1 10).trans
      ((extract_append_hi _ _ 0 10).trans (extract_all _))))))))))
  · exact (bit_append_hi _ _ 59).trans ((bit_append_hi _ _ 43).trans ((bit_append_hi _ _ 27).trans ((bit_append_hi _ _ 11).trans
      ((bit_append_hi _ _ 8).trans ((bit_append_hi _ _ 5).trans ((bit_append_hi _ _ 4).trans ((bit_append_hi _ _ 3).trans
      ((bit_append_hi _ _ 0).trans (bit_append_bool _ _)))))))))
  · exact (extract_append_hi _ _ 56 3).trans ((extract_append_hi _ _ 40 3).trans ((extract_append_hi _ _ 24 3).trans
      ((extract_append_hi _ _ 8 3).trans ((extract_append_hi _ _ 5 3).trans ((extract_append_hi _ _ 2 3).trans
      ((extract_append_hi _ _ 1 3).trans ((extract_append_hi _ _ 0 3).trans (extract_append_lo _ _))))))))
  · exact (bit_append_hi _ _ 55).trans ((bit_append_hi _ _ 39).trans ((bit_append_hi _ _ 23).trans ((bit_append_hi _ _ 7).trans
      ((bit_append_hi _ _ 4).trans ((bit_append_hi _ _ 1).trans ((bit_append_hi _ _ 0).trans (bit_append_bool _ _)))))))
  · exact (bit_append_hi _ _ 54).trans ((bit_append_hi _ _ 38).trans ((bit_append_hi _ _ 22).trans ((bit_append_hi _ _ 6).trans
      ((bit_append_hi _ _ 3).trans ((bit_append_hi _ _ 0).trans (bit_append_bool _ _))))))
  · exact (extract_append_hi _ _ 51 3).trans ((extract_append_hi _ _ 35 3).trans ((extract_append_hi _ _ 19 3).trans
      ((extract_append_hi _ _ 3 3).trans ((extract_append_hi _ _ 0 3).trans (extract_append_lo _ _)))))
  · exact (extract_append_hi _ _ 48 3).trans ((extract_append_hi _ _ 32 3).trans ((extract_append_hi _ _ 16 3).trans
      ((extract_append_hi _ _ 0 3).trans (extract_append_lo _ _))))
  · exact (extract_append_hi _ _ 32 16).trans ((extract_append_hi _ _ 16 16).trans ((extract_append_hi _ _ 0 16).trans
      (extract_append_lo _ _)))
  · exact (extract_append_hi _ _ 16 16).trans ((extract_append_hi _ _ 0 16).trans (extract_append_lo _ _))
  · exact (extract_append_hi _ _ 0 16).trans (extract_append_lo _ _)
  · exact extract_append_lo _ _

end Sys2Proof

namespace Sys2Proof.Laws.Opcode

/-- The word of the instruction has the fields that its encoding gives, and its reserved bits are zero. -/
def Statement (i : Instr) : Prop := ∀ r, encodeRaw i = some r → Raw.ofWord r.toWord = r ∧ r.rsv = 0

theorem of_raw {i : Instr} {o : BitVec 10} {h : Hdr} {d a b : BitVec 16} {m : BitVec 26}
    (he : encodeRaw i = some (rawOf o h d a b m)) : Statement i := by
  intro r hr
  rw [he] at hr
  cases hr
  exact ⟨Raw.ofWord_toWord _, rfl⟩

theorem of_none {i : Instr} (he : encodeRaw i = none) : Statement i := by
  intro r hr
  rw [he] at hr
  cases hr

theorem nop (h : Hdr) : Statement (.nop h) := of_raw rfl
theorem bra (h : Hdr) (m : MB) : Statement (.bra h m) := of_raw rfl
theorem brx (h : Hdr) (a : Opnd) (m : MB) : Statement (.brx h a m) := of_raw rfl
theorem call (h : Hdr) (b : Opnd) (m : MB) : Statement (.call h b m) := of_raw rfl
theorem callx (h : Hdr) (a : Opnd) (b : Opnd) (m : MB) : Statement (.callx h a b m) := of_raw rfl
theorem ret (h : Hdr) (a : Opnd) : Statement (.ret h a) := of_raw rfl
theorem exitL (h : Hdr) : Statement (.exitL h) := of_raw rfl
theorem brq (h : Hdr) (a : Opnd) (b : Opnd) (m : MB) : Statement (.brq h a b m) := of_raw rfl
theorem pushb (h : Hdr) (d : Opnd) (a : Opnd) (tag : BitVec 4) : Statement (.pushb h d a tag) := of_raw rfl
theorem qpush (h : Hdr) (d : Opnd) (a : Opnd) : Statement (.qpush h d a) := of_raw rfl
theorem qpop (h : Hdr) (d : Opnd) (a : Opnd) (disc : Bool) : Statement (.qpop h d a disc) := of_raw rfl
theorem qsync (h : Hdr) (qmask : BitVec 8) : Statement (.qsync h qmask) := of_raw rfl
theorem slip (h : Hdr) (a : Opnd) : Statement (.slip h a) := of_raw rfl
theorem waitc (h : Hdr) (a : Opnd) (path : BitVec 2) : Statement (.waitc h a path) := of_raw rfl
theorem waitall (h : Hdr) (mem : Bool) : Statement (.waitall h mem) := of_raw rfl
theorem trap (h : Hdr) (code : BitVec 12) : Statement (.trap h code) := of_raw rfl
theorem bkpt (h : Hdr) (code : BitVec 12) : Statement (.bkpt h code) := of_raw rfl
theorem racq (h : Hdr) (d : Opnd) (a : Opnd) (tryIt : Bool) : Statement (.racq h d a tryIt) := of_raw rfl
theorem rrel (h : Hdr) (a : Opnd) : Statement (.rrel h a) := of_raw rfl
theorem iadd (h : Hdr) (d : Opnd) (a : Opnd) (b : Opnd) (m : MA) : Statement (.iadd h d a b m) := of_raw rfl
theorem isub (h : Hdr) (d : Opnd) (a : Opnd) (b : Opnd) (m : MA) : Statement (.isub h d a b m) := of_raw rfl
theorem imul (h : Hdr) (d : Opnd) (a : Opnd) (b : Opnd) (m : MA) : Statement (.imul h d a b m) := of_raw rfl
theorem imulh (h : Hdr) (d : Opnd) (a : Opnd) (b : Opnd) (m : MA) : Statement (.imulh h d a b m) := of_raw rfl
theorem imad (h : Hdr) (d : Opnd) (a : Opnd) (b : Opnd) (m : MF) : Statement (.imad h d a b m) := of_raw rfl
theorem imin (h : Hdr) (d : Opnd) (a : Opnd) (b : Opnd) (m : MA) : Statement (.imin h d a b m) := of_raw rfl
theorem imax (h : Hdr) (d : Opnd) (a : Opnd) (b : Opnd) (m : MA) : Statement (.imax h d a b m) := of_raw rfl
theorem iabs (h : Hdr) (d : Opnd) (b : Opnd) (m : MA) : Statement (.iabs h d b m) := of_raw rfl
theorem ineg (h : Hdr) (d : Opnd) (b : Opnd) (m : MA) : Statement (.ineg h d b m) := of_raw rfl
theorem andB (h : Hdr) (d : Opnd) (a : Opnd) (b : Opnd) (m : MA) : Statement (.andB h d a b m) := of_raw rfl
theorem orB (h : Hdr) (d : Opnd) (a : Opnd) (b : Opnd) (m : MA) : Statement (.orB h d a b m) := of_raw rfl
theorem xorB (h : Hdr) (d : Opnd) (a : Opnd) (b : Opnd) (m : MA) : Statement (.xorB h d a b m) := of_raw rfl
theorem notB (h : Hdr) (d : Opnd) (b : Opnd) (m : MA) : Statement (.notB h d b m) := of_raw rfl
theorem lop3 (h : Hdr) (d : Opnd) (a : Opnd) (b : Opnd) (lop : MLop) : Statement (.lop3 h d a b lop) := of_raw rfl
theorem shl (h : Hdr) (d : Opnd) (a : Opnd) (b : Opnd) (m : MA) : Statement (.shl h d a b m) := of_raw rfl
theorem shr (h : Hdr) (d : Opnd) (a : Opnd) (b : Opnd) (m : MA) : Statement (.shr h d a b m) := of_raw rfl
theorem sar (h : Hdr) (d : Opnd) (a : Opnd) (b : Opnd) (m : MA) : Statement (.sar h d a b m) := of_raw rfl
theorem rot (h : Hdr) (d : Opnd) (a : Opnd) (b : Opnd) (m : MA) : Statement (.rot h d a b m) := of_raw rfl
theorem bfe (h : Hdr) (d : Opnd) (a : Opnd) (b : Opnd) (m : MA) : Statement (.bfe h d a b m) := of_raw rfl
theorem bfi (h : Hdr) (d : Opnd) (a : Opnd) (b : Opnd) (m : MF) : Statement (.bfi h d a b m) := of_raw rfl
theorem popc (h : Hdr) (d : Opnd) (b : Opnd) (m : MA) : Statement (.popc h d b m) := of_raw rfl
theorem clz (h : Hdr) (d : Opnd) (b : Opnd) (m : MA) : Statement (.clz h d b m) := of_raw rfl
theorem brev (h : Hdr) (d : Opnd) (b : Opnd) (m : MA) : Statement (.brev h d b m) := of_raw rfl
theorem isetp (h : Hdr) (d : Opnd) (a : Opnd) (b : Opnd) (m : MA) : Statement (.isetp h d a b m) := of_raw rfl
theorem sel (h : Hdr) (d : Opnd) (a : Opnd) (b : Opnd) (m : MF) : Statement (.sel h d a b m) := of_raw rfl
theorem mov (h : Hdr) (d : Opnd) (b : Opnd) (m : MA) : Statement (.mov h d b m) := of_raw rfl
theorem movi (h : Hdr) (d : Opnd) (imm : W32) : Statement (.movi h d imm) := of_raw rfl
theorem lea (h : Hdr) (d : Opnd) (a : Opnd) (b : Opnd) (m : MA) : Statement (.lea h d a b m) := of_raw rfl
theorem aadd (h : Hdr) (d : Opnd) (a : Opnd) (b : Opnd) (m : MA) : Statement (.aadd h d a b m) := of_raw rfl
theorem plop (h : Hdr) (d : Opnd) (a : Opnd) (b : Opnd) (m : MA) : Statement (.plop h d a b m) := of_raw rfl
theorem pmov (h : Hdr) (d : Opnd) (b : Opnd) (m : MA) : Statement (.pmov h d b m) := of_raw rfl
theorem fadd (h : Hdr) (d : Opnd) (a : Opnd) (b : Opnd) (m : MA) : Statement (.fadd h d a b m) := of_raw rfl
theorem fsub (h : Hdr) (d : Opnd) (a : Opnd) (b : Opnd) (m : MA) : Statement (.fsub h d a b m) := of_raw rfl
theorem fmul (h : Hdr) (d : Opnd) (a : Opnd) (b : Opnd) (m : MA) : Statement (.fmul h d a b m) := of_raw rfl
theorem ffma (h : Hdr) (d : Opnd) (a : Opnd) (b : Opnd) (m : MF) : Statement (.ffma h d a b m) := of_raw rfl
theorem fmin (h : Hdr) (d : Opnd) (a : Opnd) (b : Opnd) (m : MA) : Statement (.fmin h d a b m) := of_raw rfl
theorem fmax (h : Hdr) (d : Opnd) (a : Opnd) (b : Opnd) (m : MA) : Statement (.fmax h d a b m) := of_raw rfl
theorem fsetp (h : Hdr) (d : Opnd) (a : Opnd) (b : Opnd) (m : MA) : Statement (.fsetp h d a b m) := of_raw rfl
theorem fclass (h : Hdr) (d : Opnd) (b : Opnd) (m : MA) : Statement (.fclass h d b m) := of_raw rfl
theorem frnd (h : Hdr) (d : Opnd) (b : Opnd) (m : MA) : Statement (.frnd h d b m) := of_raw rfl
theorem ffrc (h : Hdr) (d : Opnd) (b : Opnd) (m : MA) : Statement (.ffrc h d b m) := of_raw rfl
theorem fdiv (h : Hdr) (d : Opnd) (a : Opnd) (b : Opnd) (m : MA) : Statement (.fdiv h d a b m) := of_raw rfl
theorem fsqrt (h : Hdr) (d : Opnd) (b : Opnd) (m : MA) : Statement (.fsqrt h d b m) := of_raw rfl
theorem frcp (h : Hdr) (d : Opnd) (b : Opnd) (m : MA) : Statement (.frcp h d b m) := of_raw rfl
theorem frsq (h : Hdr) (d : Opnd) (b : Opnd) (m : MA) : Statement (.frsq h d b m) := of_raw rfl
theorem fex2 (h : Hdr) (d : Opnd) (b : Opnd) (m : MA) : Statement (.fex2 h d b m) := of_raw rfl
theorem flg2 (h : Hdr) (d : Opnd) (b : Opnd) (m : MA) : Statement (.flg2 h d b m) := of_raw rfl
theorem fsin (h : Hdr) (d : Opnd) (b : Opnd) (m : MA) : Statement (.fsin h d b m) := of_raw rfl
theorem fcos (h : Hdr) (d : Opnd) (b : Opnd) (m : MA) : Statement (.fcos h d b m) := of_raw rfl
theorem ftanh (h : Hdr) (d : Opnd) (b : Opnd) (m : MA) : Statement (.ftanh h d b m) := of_raw rfl
theorem hadd2 (h : Hdr) (d : Opnd) (a : Opnd) (b : Opnd) (m : MA) : Statement (.hadd2 h d a b m) := of_raw rfl
theorem hmul2 (h : Hdr) (d : Opnd) (a : Opnd) (b : Opnd) (m : MA) : Statement (.hmul2 h d a b m) := of_raw rfl
theorem hfma2 (h : Hdr) (d : Opnd) (a : Opnd) (b : Opnd) (m : MF) : Statement (.hfma2 h d a b m) := of_raw rfl
theorem hmin2 (h : Hdr) (d : Opnd) (a : Opnd) (b : Opnd) (m : MA) : Statement (.hmin2 h d a b m) := of_raw rfl
theorem hmax2 (h : Hdr) (d : Opnd) (a : Opnd) (b : Opnd) (m : MA) : Statement (.hmax2 h d a b m) := of_raw rfl
theorem fdot2 (h : Hdr) (d : Opnd) (a : Opnd) (b : Opnd) (m : MF) : Statement (.fdot2 h d a b m) := of_raw rfl
theorem idot4 (h : Hdr) (d : Opnd) (a : Opnd) (b : Opnd) (m : MF) : Statement (.idot4 h d a b m) := of_raw rfl
theorem cvt (h : Hdr) (d : Opnd) (b : Opnd) (m : MA) : Statement (.cvt h d b m) := of_raw rfl
theorem pack (h : Hdr) (d : Opnd) (a : Opnd) (b : Opnd) (m : MA) : Statement (.pack h d a b m) := of_raw rfl
theorem prmt (h : Hdr) (d : Opnd) (a : Opnd) (b : Opnd) (m : MF) : Statement (.prmt h d a b m) := of_raw rfl
theorem vote (h : Hdr) (d : Opnd) (b : Opnd) (m : MA) : Statement (.vote h d b m) := of_raw rfl
theorem redx (h : Hdr) (d : Opnd) (b : Opnd) (m : MA) : Statement (.redx h d b m) := of_raw rfl
theorem scan (h : Hdr) (d : Opnd) (b : Opnd) (m : MA) : Statement (.scan h d b m) := of_raw rfl
theorem elect (h : Hdr) (d : Opnd) : Statement (.elect h d) := of_raw rfl
theorem matchL (h : Hdr) (d : Opnd) (b : Opnd) (m : MA) : Statement (.matchL h d b m) := of_raw rfl
theorem ldq (h : Hdr) (d : Opnd) (a : Opnd) (b : Opnd) (m : MM) : Statement (.ldq h d a b m) := of_raw rfl
theorem ldr (h : Hdr) (d : Opnd) (a : Opnd) (b : Opnd) (m : MM) : Statement (.ldr h d a b m) := of_raw rfl
theorem st (h : Hdr) (d : Opnd) (a : Opnd) (b : Opnd) (m : MM) : Statement (.st h d a b m) := of_raw rfl
theorem ldk (h : Hdr) (d : Opnd) (a : Opnd) (b : Opnd) (m : MM) : Statement (.ldk h d a b m) := of_raw rfl
theorem ldt (h : Hdr) (d : Opnd) (a : Opnd) (b : Opnd) (m : MM) : Statement (.ldt h d a b m) := of_raw rfl
theorem stt (h : Hdr) (d : Opnd) (a : Opnd) (b : Opnd) (m : MM) : Statement (.stt h d a b m) := of_raw rfl
theorem ldsp (h : Hdr) (d : Opnd) (a : Opnd) (b : Opnd) (m : MM) : Statement (.ldsp h d a b m) := of_raw rfl
theorem stsp (h : Hdr) (d : Opnd) (a : Opnd) (b : Opnd) (m : MM) : Statement (.stsp h d a b m) := of_raw rfl
theorem atom (h : Hdr) (d : Opnd) (a : Opnd) (b : Opnd) (m : MM) : Statement (.atom h d a b m) := of_raw rfl
theorem red (h : Hdr) (a : Opnd) (b : Opnd) (m : MM) : Statement (.red h a b m) := of_raw rfl
theorem atsp (h : Hdr) (d : Opnd) (a : Opnd) (b : Opnd) (m : MM) : Statement (.atsp h d a b m) := of_raw rfl
theorem pfx (h : Hdr) (a : Opnd) (b : Opnd) (m : MM) : Statement (.pfx h a b m) := of_raw rfl
theorem fence (h : Hdr) (m : MM) : Statement (.fence h m) := of_raw rfl
theorem pfence (h : Hdr) (scope : Scope) (src : BitVec 4) (dst : BitVec 4) : Statement (.pfence h scope src dst) := of_raw rfl
theorem smp (h : Hdr) (d : Opnd) (a : Opnd) (b : Opnd) (smp : MSmp) : Statement (.smp h d a b smp) := of_raw rfl
theorem sld (h : Hdr) (d : Opnd) (a : Opnd) (b : Opnd) (sld : MSmp) : Statement (.sld h d a b sld) := of_raw rfl
theorem xformZero (h : Hdr) (a : Opnd) (eng : MEng) : Statement (.xformZero h a eng) := of_raw rfl
theorem xformFill (h : Hdr) (a : Opnd) (eng : MEng) : Statement (.xformFill h a eng) := of_raw rfl
theorem xformTranspose (h : Hdr) (a : Opnd) (eng : MEng) : Statement (.xformTranspose h a eng) := of_raw rfl
theorem synct (h : Hdr) : Statement (.synct h) := of_raw rfl
theorem mbinit (h : Hdr) (a : Opnd) (b : Opnd) : Statement (.mbinit h a b) := of_raw rfl
theorem mbarv (h : Hdr) (d : Opnd) (a : Opnd) (b : Opnd) (rlx : Bool) : Statement (.mbarv h d a b rlx) := of_raw rfl
theorem mbexp (h : Hdr) (d : Opnd) (a : Opnd) (b : Opnd) (rlx : Bool) (arv : Bool) : Statement (.mbexp h d a b rlx arv) := of_raw rfl
theorem mbwait (h : Hdr) (a : Opnd) (b : Opnd) : Statement (.mbwait h a b) := of_raw rfl
theorem mbtest (h : Hdr) (d : Opnd) (a : Opnd) (b : Opnd) : Statement (.mbtest h d a b) := of_raw rfl
theorem bcopy (h : Hdr) (a : Opnd) (eng : MEng) : Statement (.bcopy h a eng) := of_raw rfl
theorem bcopy2 (h : Hdr) (a : Opnd) (eng : MEng) : Statement (.bcopy2 h a eng) := of_raw rfl
theorem bgath (h : Hdr) (a : Opnd) (b : Opnd) (eng : MEng) : Statement (.bgath h a b eng) := of_raw rfl
theorem wlpush (h : Hdr) (d : Opnd) (a : Opnd) (b : Opnd) : Statement (.wlpush h d a b) := of_raw rfl
theorem wlpop (h : Hdr) (d : Opnd) (a : Opnd) (b : Opnd) : Statement (.wlpop h d a b) := of_raw rfl
theorem wlquiet (h : Hdr) (d : Opnd) (a : Opnd) (b : Opnd) : Statement (.wlquiet h d a b) := of_raw rfl
theorem filldone (h : Hdr) (d : Opnd) : Statement (.filldone h d) := of_raw rfl
theorem fillfail (h : Hdr) (d : Opnd) (a : Opnd) : Statement (.fillfail h d a) := of_raw rfl
theorem previct (h : Hdr) (d : Opnd) (a : Opnd) : Statement (.previct h d a) := of_raw rfl
theorem fillq (h : Hdr) (d : Opnd) (a : Opnd) : Statement (.fillq h d a) := of_raw rfl
theorem cstep (h : Hdr) (a : Opnd) (b : Opnd) (bar : BitVec 6) : Statement (.cstep h a b bar) := of_raw rfl
theorem cabort (h : Hdr) (a : Opnd) : Statement (.cabort h a) := of_raw rfl
theorem mma (h : Hdr) (d : Opnd) (a : Opnd) (b : Opnd) (m : MX) : Statement (.mma h d a b m) := of_raw rfl
theorem mmd (h : Hdr) (d : Opnd) (a : Opnd) (b : Opnd) (m : MX) : Statement (.mmd h d a b m) := of_raw rfl
theorem had (h : Hdr) (d : Opnd) (a : Opnd) (hadn : BitVec 2) (hadk : BitVec 5) : Statement (.had h d a hadn hadk) := of_raw rfl
theorem qnt (h : Hdr) (d : Opnd) (a : Opnd) (b : Opnd) : Statement (.qnt h d a b) := of_raw rfl
theorem cbld (h : Hdr) (a : Opnd) : Statement (.cbld h a) := of_raw rfl
theorem spl (h : Hdr) (d : Opnd) (a : Opnd) : Statement (.spl h d a) := of_raw rfl
theorem gpl (h : Hdr) (d : Opnd) (wait : Bool) : Statement (.gpl h d wait) := of_raw rfl
theorem grant (h : Hdr) (d : Opnd) (a : Opnd) : Statement (.grant h d a) := of_raw rfl
theorem revoke (h : Hdr) (d : Opnd) (a : Opnd) : Statement (.revoke h d a) := of_raw rfl
theorem passq (h : Hdr) (d : Opnd) (a : Opnd) : Statement (.passq h d a) := of_raw rfl
theorem emitv (h : Hdr) (a : Opnd) (b : Opnd) (cnt : BitVec 2) (word : BitVec 4) : Statement (.emitv h a b cnt word) := of_raw rfl
theorem emitp (h : Hdr) (a : Opnd) (b : Opnd) : Statement (.emitp h a b) := of_raw rfl
theorem meshend (h : Hdr) (a : Opnd) (b : Opnd) : Statement (.meshend h a b) := of_raw rfl
theorem tld (h : Hdr) (d : Opnd) (a : Opnd) (ty : Ty) (nvec : BitVec 4) : Statement (.tld h d a ty nvec) := of_raw rfl
theorem tsto (h : Hdr) (d : Opnd) (a : Opnd) (ty : Ty) (nvec : BitVec 4) : Statement (.tsto h d a ty nvec) := of_raw rfl
theorem disc (h : Hdr) : Statement (.disc h) := of_raw rfl
theorem ownq (h : Hdr) (d : Opnd) (a : Opnd) (b : Opnd) : Statement (.ownq h d a b) := of_raw rfl
theorem launch (h : Hdr) (d : Opnd) (a : Opnd) : Statement (.launch h d a) := of_raw rfl
theorem gets (h : Hdr) (d : Opnd) (idx : BitVec 9) (w64 : Bool) : Statement (.gets h d idx w64) := of_raw rfl
theorem sets (h : Hdr) (a : Opnd) (idx : BitVec 9) (w64 : Bool) : Statement (.sets h a idx w64) := of_raw rfl
theorem tret (h : Hdr) : Statement (.tret h) := of_raw rfl
theorem preempt (h : Hdr) (d : Opnd) (a : Opnd) (b : Opnd) : Statement (.preempt h d a b) := of_raw rfl
theorem preemptRel (h : Hdr) (d : Opnd) (a : Opnd) : Statement (.preemptRel h d a) := of_raw rfl
theorem csave (h : Hdr) (d : Opnd) (a : Opnd) : Statement (.csave h d a) := of_raw rfl
theorem crest (h : Hdr) (d : Opnd) (a : Opnd) : Statement (.crest h d a) := of_raw rfl
theorem iainv (h : Hdr) (a : Opnd) (b : Opnd) : Statement (.iainv h a b) := of_raw rfl
theorem iainvAll (h : Hdr) (a : Opnd) : Statement (.iainvAll h a) := of_raw rfl
theorem present (h : Hdr) (d : Opnd) (a : Opnd) (b : Opnd) : Statement (.present h d a b) := of_raw rfl
theorem teamHaltComplete (team : Nat) : Statement (.teamHaltComplete team) := of_none rfl
theorem deferredTrap (acc : Nat) : Statement (.deferredTrap acc) := of_none rfl
theorem errorRingRetry (ctx : Nat) : Statement (.errorRingRetry ctx) := of_none rfl
theorem homeAccess (acc lane : Nat) : Statement (.homeAccess acc lane) := of_none rfl
theorem walkSlotFree (acc : Nat) : Statement (.walkSlotFree acc) := of_none rfl
theorem faultBatchRetry (ctx : Nat) : Statement (.faultBatchRetry ctx) := of_none rfl
theorem replayReissue (acc lane : Nat) : Statement (.replayReissue acc lane) := of_none rfl
theorem loadDataReturn (acc : Nat) (lanes : Lanes) : Statement (.loadDataReturn acc lanes) := of_none rfl
theorem varlatResultWrite (gid : Nat) (sl : Slice) (res : Nat) (lanes : Lanes) : Statement (.varlatResultWrite gid sl res lanes) := of_none rfl
theorem qsStoreData (acc : Nat) : Statement (.qsStoreData acc) := of_none rfl
theorem dirtyWriteDropped (cache : CacheId) (line : Nat) : Statement (.dirtyWriteDropped cache line) := of_none rfl
theorem layoutTWrite (acc lane : Nat) : Statement (.layoutTWrite acc lane) := of_none rfl
theorem transformBankPart (eng part : Nat) : Statement (.transformBankPart eng part) := of_none rfl
theorem engineUnitDone (eng unit : Nat) : Statement (.engineUnitDone eng unit) := of_none rfl
theorem migprodWrite (home : Nat) (value : W32) : Statement (.migprodWrite home value) := of_none rfl
theorem migrationCommandStart (home : Nat) : Statement (.migrationCommandStart home) := of_none rfl
theorem migrationRoundEnd (home cmd : Nat) : Statement (.migrationRoundEnd home cmd) := of_none rfl
theorem migrationFreezeDone (home cmd : Nat) : Statement (.migrationFreezeDone home cmd) := of_none rfl
theorem prtEntryWrite (die entry : Nat) : Statement (.prtEntryWrite die entry) := of_none rfl
theorem fillRequestRetry (acc lane : Nat) : Statement (.fillRequestRetry acc lane) := of_none rfl
theorem hostFillRetry (slot : Nat) (tag : W32) : Statement (.hostFillRetry slot tag) := of_none rfl
theorem fillTimeout (die entry block : Nat) : Statement (.fillTimeout die entry block) := of_none rfl
theorem surfaceDescriptorWrite (index : Nat) : Statement (.surfaceDescriptorWrite index) := of_none rfl
theorem contextDescriptorWrite (ctx : Nat) : Statement (.contextDescriptorWrite ctx) := of_none rfl
theorem kick (k : Kick) : Statement (.kick k) := of_none rfl
theorem teamPlace : Statement (.teamPlace) := of_none rfl
theorem levelAging (launch : Nat) : Statement (.levelAging launch) := of_none rfl
theorem placementReserve (launch : Nat) : Statement (.placementReserve launch) := of_none rfl
theorem deadlineHold (launch : Nat) : Statement (.deadlineHold launch) := of_none rfl
theorem teamRestore (team : Nat) : Statement (.teamRestore team) := of_none rfl
theorem groupCleared (gid : Nat) : Statement (.groupCleared gid) := of_none rfl
theorem groupRetire (gid : Nat) : Statement (.groupRetire gid) := of_none rfl
theorem qdeadlock (team : Nat) : Statement (.qdeadlock team) := of_none rfl
theorem barrierStall (team : Nat) (sl : Slice) : Statement (.barrierStall team sl) := of_none rfl
theorem emergencyReserveGrant (core : Nat) : Statement (.emergencyReserveGrant core) := of_none rfl
theorem racqGrant (gid : Nat) : Statement (.racqGrant gid) := of_none rfl
theorem issueCycle (core : Nat) : Statement (.issueCycle core) := of_none rfl
theorem fetchSlotSwitch (gid : Nat) (sl : Slice) : Statement (.fetchSlotSwitch gid sl) := of_none rfl
theorem icacheFill (gid : Nat) (sl : Slice) : Statement (.icacheFill gid sl) := of_none rfl
theorem graphicsContextEntryWrite (ctx : Nat) : Statement (.graphicsContextEntryWrite ctx) := of_none rfl
theorem graphicsPacketStart (ctx : Nat) : Statement (.graphicsPacketStart ctx) := of_none rfl
theorem binning (draw : Nat) : Statement (.binning draw) := of_none rfl
theorem tilePassStart (draw tile core : Nat) : Statement (.tilePassStart draw tile core) := of_none rfl
theorem tileInvocationStart (draw : Nat) : Statement (.tileInvocationStart draw) := of_none rfl
theorem tileWriteOut (draw : Nat) : Statement (.tileWriteOut draw) := of_none rfl
theorem tilePassAbandon (draw : Nat) : Statement (.tilePassAbandon draw) := of_none rfl
theorem fieldStart (view : Nat) : Statement (.fieldStart view) := of_none rfl
theorem outputEnable (view : Nat) (value : W32) : Statement (.outputEnable view value) := of_none rfl
theorem hdcpStateChange (view : Nat) (active : Bool) : Statement (.hdcpStateChange view active) := of_none rfl
theorem vanarRead (h : MsgHdr) (count : Nat) (scope : Scope) (ord : Order) : Statement (.vanarRead h count scope ord) := of_none rfl
theorem vanarWrite (h : MsgHdr) (scope : Scope) (ord : Order) (data : List Byte) : Statement (.vanarWrite h scope ord data) := of_none rfl
theorem vanarAtomic (h : MsgHdr) (aop : BitVec 4) (ty : Ty) (scope : Scope) (ord : Order) (v new : W64) : Statement (.vanarAtomic h aop ty scope ord v new) := of_none rfl
theorem cfgread (h : MsgHdr) (size : Nat) : Statement (.cfgread h size) := of_none rfl
theorem cfgwrite (h : MsgHdr) (size : Nat) (value : W64) : Statement (.cfgwrite h size value) := of_none rfl
theorem recovery (h : MsgHdr) (len : Nat) (data : List Byte) : Statement (.recovery h len data) := of_none rfl
theorem vanarAbort (h : MsgHdr) (cgid code : BitVec 16) : Statement (.vanarAbort h cgid code) := of_none rfl
theorem vanarStep (h : MsgHdr) (cgid : BitVec 16) (committed : W32) : Statement (.vanarStep h cgid committed) := of_none rfl
theorem vanarResponse (h : MsgHdr) (status : W32) (data : List Byte) : Statement (.vanarResponse h status data) := of_none rfl
theorem ack (slot : Nat) (e : W32) (accepted : W64) : Statement (.ack slot e accepted) := of_none rfl
theorem ackDue (slot : Nat) : Statement (.ackDue slot) := of_none rfl
theorem collectiveStepTimeout (cgid : BitVec 16) (member : Nat) : Statement (.collectiveStepTimeout cgid member) := of_none rfl
theorem resendTimeout (slot : Nat) (seq : W32) : Statement (.resendTimeout slot seq) := of_none rfl
theorem pathFailureTimeout (slot : Nat) (seq : W32) : Statement (.pathFailureTimeout slot seq) := of_none rfl
theorem linkDown (port : Nat) : Statement (.linkDown port) := of_none rfl
theorem portProbe (port : Nat) (answered : Bool) : Statement (.portProbe port answered) := of_none rfl
theorem voltageRampDone (cl : Nat) : Statement (.voltageRampDone cl) := of_none rfl
theorem fclkChangeDone (cl : Nat) : Statement (.fclkChangeDone cl) := of_none rfl
theorem clockCrossingDone (cl : Nat) : Statement (.clockCrossingDone cl) := of_none rfl
theorem powerSample (watts : Nat) : Statement (.powerSample watts) := of_none rfl
theorem stallSample (cl : Nat) (memStall issStall : BitVec 16) : Statement (.stallSample cl memStall issStall) := of_none rfl
theorem timingErrorEncore (cl : Nat) : Statement (.timingErrorEncore cl) := of_none rfl
theorem commit : Statement (.commit) := of_none rfl
theorem coolReportMissing : Statement (.coolReportMissing) := of_none rfl
theorem ghostLightEnter (value : W32) : Statement (.ghostLightEnter value) := of_none rfl
theorem wakePhraseDetect : Statement (.wakePhraseDetect) := of_none rfl
theorem ghostLightTimeout : Statement (.ghostLightTimeout) := of_none rfl
theorem wakeack : Statement (.wakeack) := of_none rfl
theorem wake (value : Byte) : Statement (.wake value) := of_none rfl
theorem wearThreshold (unit : WearUnit) : Statement (.wearThreshold unit) := of_none rfl
theorem startUp (ok : Bool) : Statement (.startUp ok) := of_none rfl
theorem attest : Statement (.attest) := of_none rfl
theorem cert : Statement (.cert) := of_none rfl
theorem keygen : Statement (.keygen) := of_none rfl
theorem keyclr : Statement (.keyclr) := of_none rfl
theorem raslostClear : Statement (.raslostClear) := of_none rfl
theorem registerWrite (die off size : Nat) (value : W64) : Statement (.registerWrite die off size value) := of_none rfl
theorem peerPageResolved (slot : Nat) (ia : IA) : Statement (.peerPageResolved slot ia) := of_none rfl
theorem vanarFrameDiscard (frame : PortFrame) : Statement (.vanarFrameDiscard frame) := of_none rfl
theorem priorityPause (slot prio : Nat) (stop : Bool) : Statement (.priorityPause slot prio stop) := of_none rfl
theorem timeSync (r : TimeReport) : Statement (.timeSync r) := of_none rfl

end Sys2Proof.Laws.Opcode
end

