-- ==== Sys2Proof/Tests/Witnesses.lean ====
section
/-!
SUPPORT. Concrete states and operands that meet the hypotheses of the statements about instructions, clause by clause.
-/

namespace Sys2Proof.Tests

set_option Elab.async false

open Sys2Proof Sys2Proof.Machine

/-! ## A small state -/

/-- No guard and no hints. -/
def nog : Hdr := { gp := 7, gn := false, sw := false, yld := false, ru := 0 }

def maOf (ty : Ty) (sub : BitVec 4) : MA :=
  { ty := ty, rnd := .rne, sat := false, xlm := .none, xls := 0, na := false, nb := false, aa := false, ab := false, sub := sub }

def mfOf (ty : Ty) (c : Src3) : MF := { ty := ty, rnd := .rne, sat := false, c := c, nprod := false, nc := false, sub := 0 }

def mmOf (ty : Ty) (aop : BitVec 4) : MM := { ty := ty, scope := .grp, ord := .rlx, iscale := 0, hint := 0, aop := aop, ofs := 0 }

/-- One resident group of 64 lanes on core 0, in context 0 of the house, with a scratchpad of 4,096 bytes; its slice `sl` issues. -/
def grp (sl : Slice) : State :=
  let s := State.reset.withFetchWord 96 0
  { s with
    picked := [], cur := some { gid := 2, sl := sl, slot := 0 },
    teams := s.teams.map fun (t : Team) => { t with scrBytes := 4096, kern := { t.kern with cmax := 16, cmin := 4 } } }

/-- `grp` with its group changed. -/
def grpW (sl : Slice) (f : Sys2Proof.Machine.Group → Sys2Proof.Machine.Group) : State := (grp sl).updGroup 2 f

def sliceW (sl : Slice) (f : SliceSt → SliceSt) : State := (grp sl).updSlice 2 sl f

/-- The check answers a value with `p`. -/
def ok {α : Type} (x : Chk α) (p : α → Bool) : Bool :=
  match x with
  | .ok v => p v
  | .error _ => false

def okay (x : Chk Unit) : Bool := ok x fun _ => true

/-- Instruction `i` with header `h` runs in `s`, with what `p` asks of the state after its fetch and its environment. -/
def meets (i : Instr) (h : Hdr) (s : State) (p : State → Env → Bool) : Bool :=
  match s.cur.bind fun w => s.env w h with
  | some e => okay (e.check i) && e.exec != 0 && p (s.begun e) e
  | none => false

def yes (_ : State) (_ : Env) : Bool := true

/-- `meets` is the hypothesis of the statements about an instruction. -/
theorem meets_runs {i : Instr} {h : Hdr} {s : State} {p : State → Env → Bool} (hm : meets i h s p = true) :
    ∃ e, s.runs i h e ∧ p (s.begun e) e = true := by
  unfold meets at hm
  split at hm
  · rename_i e he
    simp only [Bool.and_eq_true, bne_iff_ne, ne_eq] at hm
    refine ⟨e, ⟨he, ?_, hm.1.2⟩, hm.2⟩
    have hc := hm.1.1
    unfold okay ok at hc
    split at hc
    · rename_i v hv; exact hv
    · cases hc
  · cases hm

/-- The sources may be read. -/
def reads (srcs : List SrcOp) (d : Opnd) (n : Nat) (p : List (Nat → Nat) → Bool) (s : State) (e : Env) : Bool := ok (s.gather e srcs d n) p

/-- The sources may be read with their poison, and none is poisoned. -/
def peeks (srcs : List SrcOp) (p : List (Nat × (Nat → LV)) → Bool) (s : State) (e : Env) : Bool :=
  ok (s.peek e srcs (.vec 0) 0) fun vs => okay (poisonCheck e.exec vs) && p vs

/-- Nothing of the fragment's is open. -/
def calm (s : State) (e : Env) : Bool :=
  okay (s.afterLogged e) && okay (s.afterQs e) && okay (s.afterWrites e) && okay (s.afterAcquires e) &&
  okay (s.afterReads e)

/-- The release has nothing to wait for outside the device. -/
def lets (sc : Scope) (s : State) (e : Env) : Bool :=
  (sc != .sys || (s.failedStore e.gid e.sl).isNone) && (s.releaseFor e sc).2 == []

def queueOf (mask : Lanes) (v : W32) (tag : BitVec 4) : Queue :=
  { depth := 4, entries := [{ mask := mask, ready := mask, popped := 0, vals := List.replicate 64 (Val.of v), tag := tag, acc := none }] }

/-- `grp` with one entry of value `v` in queue `q`. -/
def grpQ (sl : Slice) (q : Nat) (v : W32) : State :=
  grpW sl fun g => { g with queues := g.queues.set q (queueOf (allLanes 64) v 0) }

/-- `grp` with scalar registers set. -/
def grpS (sl : Slice) (vs : List (Nat × W32)) : State :=
  sliceW sl fun x => vs.foldl (fun x v => x.setSreg v.1 (Val.of v.2)) x

/-! ## Group 0 -/

theorem wit_nop : meets (.nop nog) nog (grp .a) yes = true := by decide +kernel
theorem wit_qsync : meets (.qsync nog 0x4F) nog (grp .a) (fun _ e => e.g.busyQueues 0x4F == []) = true := by decide +kernel
theorem wit_qsync_waits : meets (.qsync nog 0x4F) nog (grpQ .a 1 5) (fun _ e => e.g.busyQueues 0x4F != []) = true := by decide +kernel
theorem wit_slip : meets (.slip nog (.imm 0)) nog (grp .a) (fun s e => ok (s.countVal e (.imm 0) anyCount) fun n => n ≤ 128 && e.g.slip ≤ n) = true := by
  decide +kernel
theorem wit_slip_passes : meets (.slip nog (.sca 3)) nog (grpS .a [(3, 129)]) (fun s e => ok (s.countVal e (.sca 3) anyCount) fun n => 128 < n) = true := by
  decide +kernel
theorem wit_slip_waits : meets (.slip nog (.imm 0)) nog (grpQ .a 1 5) (fun s e => ok (s.countVal e (.imm 0) anyCount) fun n => n < e.g.slip) = true := by
  decide +kernel
theorem wit_waitc : meets (.waitc nog (.sca 0) 1) nog (grp .a) (fun s e => ok (s.countVal e (.sca 0) anyCount) fun n => e.x.counter .k ≤ n) = true := by
  decide +kernel
theorem wit_waitc_waits : meets (.waitc nog (.sca 0) 1) nog (sliceW .a fun x => { x with counts := [{ path := .k, acc := 9 }] })
    (fun s e => ok (s.countVal e (.sca 0) anyCount) fun n => n < e.x.counter .k) = true := by decide +kernel
theorem wit_waitall : meets (.waitall nog true) nog (grp .a)
    (fun s e => (s.sliceAccs e.gid e.sl).all (·.needQs.isNone) && s.allDone e.gid e.sl e.x e.f.mask true) = true := by decide +kernel
theorem wit_waitall_qs :
    let a : Acc :=
      { id := 20, gid := 2, sl := .a, pc := 0xC0, issuedAt := 1, kind := .store, path := .g, ty := .b32, nvec := 1, scope := .grp, ord := .rlx,
        nol1 := false, lanes := [], logged := false, needQs := some 1, deliver := .none, taps := [] }
    meets (.waitall nog true) nog { grp .a with accs := [a] } (fun s e => (s.sliceAccs e.gid e.sl).any (·.needQs.isSome)) = true := by decide +kernel
theorem wit_waitall_waits : meets (.waitall nog false) nog (sliceW .a fun x => { x with counts := [{ path := .k, acc := 9 }] })
    (fun s e => !s.allDone e.gid e.sl e.x e.f.mask false) = true := by decide +kernel

/-- A branch of every lane, whose target is aligned. -/
theorem wit_bra : meets (.bra nog { tgt := 3, join := 3 }) nog (grp .a)
    (fun _ e => e.exec == e.f.mask && pcAligned (targetOf { tgt := 3, join := 3 } e.f.pc)) = true := by decide +kernel
/-- A branch of lane 0 only. -/
theorem wit_bra_splits : meets (.bra { nog with gp := 1 } { tgt := 3, join := 3 }) { nog with gp := 1 } (sliceW .a fun x => x.setPred 1 1 1)
    (fun s e => e.exec == 1 && pcAligned (targetOf { tgt := 3, join := 3 } e.f.pc) &&
      okay ((s.transferred e 1 (e.f.pc + 12) (targetOf { tgt := 3, join := 3 } e.f.pc) (joinOf { tgt := 3, join := 3 } e.f.pc)).checkStack e)) = true := by
  decide +kernel
theorem wit_call : meets (.call nog (.sca 8) { tgt := 3, join := 3 }) nog (grp .a)
    (fun _ e => e.exec == e.f.mask && pcAligned (targetOf { tgt := 3, join := 3 } e.f.pc)) = true := by decide +kernel
theorem wit_brx : meets (.brx nog (.vec 1) { tgt := 0, join := 3 }) nog (grp .a)
    (fun s e => okay (e.bounds [{ code := 1, o := .vec 1, n := 1, even := false }]) &&
      reads [{ code := 1, o := .vec 1, ty := .s32 }] (.vec 0) 0
        (fun vs => (lanesOf e.exec).all fun l => valAt vs 0 l == 0 && pcAligned (e.f.pc + 12)) s e) = true := by decide +kernel
theorem wit_callx : meets (.callx nog (.sca 8) (.sca 10) { tgt := 0, join := 0 }) nog (grpS .a [(8, 0x1800)])
    (fun s e => ok (s.pairTarget e (.sca 8)) fun _ => true) = true := by decide +kernel
theorem wit_ret : meets (.ret nog (.sca 8)) nog (grpS .a [(8, 0x1800)]) (fun s e => ok (s.pairTarget e (.sca 8)) fun _ => true) = true := by decide +kernel
theorem wit_brq : meets (.brq nog (.que 7) (.imm 0) { tgt := 3, join := 3 }) nog (grpQ .a 7 1)
    (fun s e => reads [{ code := 1, o := .que 7 }] (.vec 0) 0 (fun vs => (lanesOf e.exec).all fun l =>
      bitN (valAt vs 0 l) 0 && e.g.laneTag 7 l == some 0) s e) = true := by decide +kernel
theorem wit_exit : meets (.exitL nog) nog (grp .c) yes = true := by decide +kernel
theorem wit_disc : meets (.disc nog) nog (grp .c) (fun _ e => e.t.kind == .compute) = true := by decide +kernel
theorem wit_disc_tile :
    let s := grp .c
    meets (.disc nog) nog { s with teams := s.teams.map fun (t : Team) => { t with kind := .tile 7 } } (fun _ e => e.t.kind == .tile 7) = true := by
  decide +kernel
theorem wit_trap : meets (.trap nog 0xFFF) nog (grp .a) yes = true := by decide +kernel
theorem wit_bkpt : meets (.bkpt nog 0xFFF) nog (grp .c) yes = true := by decide +kernel
theorem wit_qpush : meets (.qpush nog (.que 0) (.vec 1)) nog (grp .a) (reads [{ code := 1, o := .vec 1 }] (.que 0) 1 fun _ => true) = true := by
  decide +kernel
theorem wit_qpop : meets (.qpop nog (.vec 1) (.que 0) false) nog (grpQ .c 0 1) (reads [{ code := 1, o := .que 0 }] (.vec 1) 1 fun _ => true) = true := by
  decide +kernel
theorem wit_qpop_discards : meets (.qpop nog (.vec 0) (.que 3) true) nog (grpQ .c 3 1) (reads [{ code := 1, o := .que 3 }] (.vec 0) 0 fun _ => true) = true := by
  decide +kernel
theorem wit_pushb : meets (.pushb nog (.que 6) (.pred 1) 15) nog (grp .a) (reads [{ code := 1, o := .pred 1 }] (.que 6) 1 fun _ => true) = true := by
  decide +kernel

/-- `grp` with `n` blocks held. -/
def grpHolds (n : Nat) : State := grpW .c fun g => { g with held := n }

/-- What decides whether the pool has `n` blocks for the group. -/
def pool (used : List Nat) (keep n : Nat) (qs : Option (List Nat)) (s : State) (e : Env) : Bool :=
  s.usedQuarters e.g.core == used && (s.core e.g.core).reserveUnits + (if e.g.ownSlot then 0 else s.prompterUnits e.g.core) == keep &&
    decide (e.g.held < n) && takeQuarters (quartersOf e.g.width) (n - e.g.held) used == qs &&
    match qs with
    | some qs => decide (keep ≤ wholeFree (qs ++ used))
    | none => true

theorem raises_of_pool {s : State} {e : Env} {used qs : List Nat} {keep n : Nat} (hp : pool used keep n (some qs) s e = true) :
    (s.raiseBlocks e.g e.c.owner n).isSome = true := by
  simp only [pool, Bool.and_eq_true, beq_iff_eq, decide_eq_true_eq] at hp
  obtain ⟨⟨⟨⟨h1, h2⟩, h3⟩, h4⟩, h5⟩ := hp
  simp only [State.raiseBlocks, Nat.not_le.2 h3, if_false, State.generalBlocks, h1, h4, h2, h5, if_true, Option.map_some, Option.isSome_some]

theorem raises_none_of_pool {s : State} {e : Env} {used : List Nat} {keep n : Nat} (hp : pool used keep n none s e = true) :
    s.raiseBlocks e.g e.c.owner n = none := by
  simp only [pool, Bool.and_eq_true, beq_iff_eq, decide_eq_true_eq, Bool.and_true] at hp
  obtain ⟨⟨⟨h1, -⟩, h3⟩, h4⟩ := hp
  simp only [State.raiseBlocks, Nat.not_le.2 h3, if_false, State.generalBlocks, h1, h4, Option.map_none]

def racqN (n : Nat) (a : Opnd) (p : State → Env → Bool) (s : State) (e : Env) : Bool :=
  ok (s.countVal e a fun n => decide (e.t.kern.cmax < n)) (· == n) && p s e

theorem wit_racq_held : meets (.racq nog (.vec 0) (.imm 4) false) nog (grpHolds 4) (racqN 4 (.imm 4) fun _ e => 4 ≤ e.g.held) = true := by decide +kernel
theorem wit_racq : meets (.racq nog (.vec 0) (.imm 5) false) nog (grpW .c fun g => { g with held := 4, quarters := [] }) (racqN 5 (.imm 5) (pool [] 32 5 (some [0, 1, 2, 3]))) = true := by
  decide +kernel
theorem wit_racq_try : meets (.racq nog (.pred 1) (.imm 5) true) nog (grpW .c fun g => { g with held := 4, quarters := [] }) (racqN 5 (.imm 5) (pool [] 32 5 (some [0, 1, 2, 3]))) = true := by
  decide +kernel
def full : List Nat := (List.range 256).map (4 * ·)
theorem wit_racq_fails : meets (.racq nog (.pred 1) (.imm 5) true) nog (grpW .c fun g => { g with held := 4, quarters := full })
    (racqN 5 (.imm 5) (pool full 32 5 none)) = true := by decide +kernel
theorem wit_rrel : meets (.rrel nog (.imm 4)) nog (grpHolds 16)
    (fun s e => ok (s.countVal e (.imm 4) fun n => decide (n < e.t.kern.cmin)) (· == 4) && !e.x.writesAbove 4) = true := by decide +kernel

/-! ## Groups 1 to 3 -/

/-- Instruction `i` is a form of table `t`, runs in `s`, and may read its sources. -/
def formMeets (t : Instr → Option Form) (s : State) (i : Instr) : Bool :=
  match t i with
  | some F => meets i F.h s fun s e => okay (e.bounds (dstUse F.d F.pair :: F.srcs.map SrcOp.use)) && ok (s.gather e F.srcs F.d 1) fun _ => true
  | none => false

def v4 : Opnd := .vec 4
def v6 : Opnd := .vec 6
def v8 : Opnd := .vec 8

def ints : List Instr :=
  let m := maOf .s32 0
  let b := maOf .b32 0
  let f := mfOf .s32 (.vec 10)
  [.iadd nog v4 v6 v8 m, .isub nog v4 v6 v8 m, .imul nog v4 v6 v8 m, .imulh nog v4 v6 v8 m, .imin nog v4 v6 v8 m, .imax nog v4 v6 v8 m,
   .iabs nog v4 v8 m, .ineg nog v4 v8 m, .andB nog v4 v6 v8 b, .orB nog v4 v6 v8 b, .xorB nog v4 v6 v8 b, .notB nog v4 v8 b,
   .shl nog v4 v6 v8 b, .shr nog v4 v6 v8 b, .sar nog v4 v6 v8 b, .rot nog v4 v6 v8 b, .popc nog v4 v8 b, .clz nog v4 v8 b,
   .brev nog v4 v8 b, .mov nog v4 v8 b, .lea nog v4 v6 v8 { m with sub := 2 }, .aadd nog v4 v6 v8 { m with sub := 2 }, .imad nog v4 v6 v8 f,
   .lop3 nog v4 v6 v8 { ty := .b32, c := .vec 10, truth := 0x96 }, .bfe nog v4 v6 v8 m, .bfi nog v4 v6 v8 (mfOf .b32 (.vec 10)),
   .isetp nog (.pred 1) v6 v8 m, .sel nog v4 v6 v8 (mfOf .b32 (.pred 1)), .movi nog v4 7, .plop nog (.pred 1) (.pred 2) (.pred 3) b]

theorem wit_ints_a : (ints.take 15).all (formMeets intForm (grp .a)) = true := by decide +kernel
theorem wit_ints_b : (ints.drop 15).all (formMeets intForm (grp .a)) = true := by decide +kernel

def flts : List Instr :=
  let m := maOf .f32 0
  let h := maOf .f16x2 0
  let f := mfOf .f32 (.vec 10)
  [.fadd nog v4 v6 v8 m, .fsub nog v4 v6 v8 m, .fmul nog v4 v6 v8 m, .ffma nog v4 v6 v8 f, .fmin nog v4 v6 v8 m, .fmax nog v4 v6 v8 m,
   .fsetp nog (.pred 1) v6 v8 m, .fclass nog v4 v8 m, .frnd nog v4 v8 m, .ffrc nog v4 v8 m, .hadd2 nog v4 v6 v8 h, .hmul2 nog v4 v6 v8 h,
   .hfma2 nog v4 v6 v8 (mfOf .f16x2 (.vec 10)), .hmin2 nog v4 v6 v8 h, .hmax2 nog v4 v6 v8 h, .fdot2 nog v4 v6 v8 (mfOf .f16x2 (.vec 10)),
   .idot4 nog v4 v6 v8 (mfOf .s8 (.vec 10))]

theorem wit_flts : flts.all (formMeets fltForm (grp .c)) = true := by decide +kernel

def lates : List Instr :=
  let m := maOf .f32 0
  [.fdiv nog v4 v6 v8 m, .fsqrt nog v4 v8 m, .frcp nog v4 v8 m, .frsq nog v4 v8 m, .fex2 nog v4 v8 m, .flg2 nog v4 v8 m, .fsin nog v4 v8 m,
   .fcos nog v4 v8 m, .ftanh nog v4 v8 m]

theorem wit_lates : lates.all (formMeets lateForm (grp .c)) = true := by decide +kernel

def cvts : List Instr :=
  [.cvt nog v4 v8 (maOf .f32 1), .pack nog v4 v6 v8 (maOf .f16 0), .pack nog v4 v6 v8 (maOf .e4m3 0), .prmt nog v4 v6 v8 (mfOf .b32 (.vec 10))]

theorem wit_cvts : cvts.all (formMeets cvtForm (grp .c)) = true := by decide +kernel
theorem wit_queue_forms :
    (formMeets queueForm (grp .a) (.qpush nog (.que 0) v6) && formMeets queueForm (grpQ .c 0 1) (.qpop nog v4 (.que 0) false)) = true := by
  decide +kernel
theorem wit_pmov_0 : meets (.pmov nog (.sca 4) (.pred 1) (maOf .b32 0)) nog (grp .a) yes = true := by decide +kernel
theorem wit_pmov_1 : meets (.pmov nog (.pred 1) (.sca 4) (maOf .b32 1)) nog (grp .a)
    (fun s e => ok (s.gather e [{ code := 2, o := .sca 4, pair := e.g.width == 64 }] (.pred 1) 1) fun _ => true) = true := by decide +kernel
theorem wit_pmov_2 : meets (.pmov nog (.pred 1) v4 (maOf .b32 2)) nog (grp .a) (fun s e =>
    okay (e.bounds [dstUse (.pred 1) false, (srcB v4 .b32 (maOf .b32 2)).use]) &&
      ok (s.gather e [srcB v4 .b32 (maOf .b32 2)] (.pred 1) 1) fun _ => true) = true := by decide +kernel
theorem wit_pmov_3 : meets (.pmov nog v4 (.pred 1) (maOf .b32 3)) nog (grp .a) (fun s e =>
    okay (e.bounds [dstUse v4 false, ({ code := 2, o := .pred 1 } : SrcOp).use]) && ok (s.gather e [{ code := 2, o := .pred 1 }] v4 1) fun _ => true) =
      true := by decide +kernel

theorem wit_votes : ([0, 1, 2].all fun n => meets (.vote nog (.pred 1) (.pred 2) (maOf .b32 n)) nog (grp .c) yes) = true := by decide +kernel
theorem wit_ballot : meets (.vote nog v4 (.pred 2) (maOf .b32 3)) nog (grp .c)
    (fun _ e => okay (e.bounds [dstUse v4 (e.g.width == 64)])) = true := by decide +kernel
theorem wit_elect : meets (.elect nog (.pred 1)) nog (grp .c) yes = true := by decide +kernel
theorem wit_elect_value : meets (.elect nog v4) nog (grp .c) (fun s e => okay (e.bounds [dstUse v4 false]) && ok (s.peek e [] v4 1) fun _ => true) = true := by
  decide +kernel
theorem wit_redx_scan : ([.redx nog v4 v8 (maOf .s32 0), .scan nog v4 v8 (maOf .s32 0)].all fun (i : Instr) => meets i nog (grp .c) fun s e =>
    okay (e.bounds [dstUse v4 false, (srcB v8 .s32 (maOf .s32 0)).use]) && ok (s.gather e [srcB v8 .s32 (maOf .s32 0)] v4 1) fun _ => true) = true := by
  decide +kernel
theorem wit_match : ([(v4, 0), (.pred 1, 1)].all fun (x : Opnd × BitVec 4) => meets (.matchL nog x.1 v8 (maOf .b32 x.2)) nog (grp .c) fun s e =>
    okay (e.bounds [dstUse x.1 (x.2.toNat = 0 && e.g.width == 64), (srcB v8 .b32 (maOf .b32 x.2)).use]) &&
      ok (s.gather e [srcB v8 .b32 (maOf .b32 x.2)] x.1 1) fun _ => true) = true := by decide +kernel

/-! ## Group 4 -/

def surface : List Byte := leBytes 8 1 ++ leBytes 4 0x302 ++ leBytes 4 0x3F003F ++ leBytes 4 256 ++ List.replicate 44 0

/-- The frames of the first 2 MiB of home 0, stamped with the house (R138). -/
def houseFrames : List (Nat × Id12) := (List.range 32).map fun i => (i, 0)

/-- `s` with window 0 of its context readable, writable, executable and reachable by the constant and sampler routes, window 1, at VA 64 Ki, a
view of the same bytes, the translation of the first 2 MiB of home 0 cached, and surface 0, of 64 by 64 pixels in C4U8, at IA 0; the surface table is at IA 0x80000. -/
def dataW (s : State) : State :=
  let s := (s.updCtx 0 fun c => { c with vrg := [0xCF, 0, 0, 0, 0x1002F, 0, 0, 0] ++ List.replicate 56 0 }).updHome 0 fun x =>
    { x with tlb := [{ base := 0, bits := 21, leaf := 3, at_ := 0 }] }
  ({ s with descs := [(0x80000, surface)], stamps := houseFrames } : State).setReg 0 0x10008 8 0x80000

def gMM : MM := mmOf .b32 0
def atomM (aop : BitVec 4) : MM := { gMM with aop := aop }

def loadMeets (s : State) (i : Instr) : Bool :=
  match loadForm i with
  | some F => meets i F.h s fun s e =>
      okay (e.bounds ({ code := 0, o := F.d, n := Encoding.accRegs F.m.ty F.m.aop, even := F.m.ty == .b64 } :: addrUses F.a F.b)) &&
      peeks [baseSrc F.a, indexSrc F.b] (fun vs => okay (s.addressed e (F.ea vs) (mmSize F.m) F.rights false) &&
        okay (s.accessWaits e (F.load s e vs)) && okay (s.fatalAtIssue (F.load s e vs))) s e &&
      okay (loadRoom e F.d (Encoding.accRegs F.m.ty F.m.aop) F.p)
  | none => false

theorem wit_loads :
    (loadMeets (dataW (grp .a)) (.ldq nog (.que 0) v6 (.vec 0) gMM) && loadMeets (dataW (grp .a)) (.ldr nog v4 v6 (.imm 0) gMM) &&
      loadMeets (dataW (grp .a)) (.ldk nog (.sca 4) (.sca 6) (.imm 0) gMM) && loadMeets (dataW (grpS .a [(6, 0x10000)])) (.ldt nog (.que 0) (.sca 6) (.imm 0) gMM)) = true := by
  decide +kernel
def storeMeets (s : State) (i : Instr) : Bool :=
  match storeForm i with
  | some F => meets i F.h s fun s e =>
      okay (e.bounds (dataUse F.d F.m :: addrUses F.a F.b)) &&
      peeks (baseSrc F.a :: indexSrc F.b :: dataSrcs F.d F.m.ty (nvecCount F.m.aop)) (fun vs =>
        okay (s.addressed e (F.ea vs) (mmSize F.m) F.rights true) && okay (s.accessWaits e (F.store s e vs)) &&
        okay (s.storeRoom e (F.store s e vs)) && okay (s.spillAtIssue (F.store s e vs))) s e && lets F.m.scope s e
  | none => false

theorem wit_stores :
    (storeMeets (dataW (grp .a)) (.st nog v4 v6 (.vec 0) { gMM with ord := .rel, scope := .sys }) &&
      storeMeets (dataW (grp .a)) (.st nog (.que 4) v6 (.vec 0) gMM) &&
      storeMeets (dataW (grpS .a [(6, 0x10000)])) (.stt nog v4 (.sca 6) (.imm 0) gMM)) = true := by decide +kernel

def atomMeets (s : State) (i : Instr) : Bool :=
  match atomForm i with
  | some F => meets i F.h s fun s e' =>
      let e := F.env e'
      okay (e.bounds [{ code := 1, o := F.a, n := 2, even := true }, atomUse F.b F.m]) && okay (e.quadCheck F.b F.m) &&
      peeks (baseSrc F.a :: atomSrcs F.b F.m) (fun vs => okay (s.addressed e (F.ea vs) F.m.ty.size atomRights true) &&
        okay (s.accessWaits e (F.acc s e vs)) && okay (s.fatalAtIssue (F.acc s e vs))) s e &&
      F.d.all (fun d => okay (loadRoom e d (if F.m.ty == .b64 then 2 else 1) .g)) && lets F.m.scope s e
  | none => false

theorem wit_atomics :
    (atomMeets (dataW (grp .a)) (.atom nog (.que 2) v6 v8 (atomM 8)) &&
      atomMeets (dataW (grp .a)) (.red nog (.sca 6) (.imm 1) { atomM 2 with scope := .sys, ord := .rel })) = true := by decide +kernel

def spadMeets (i : Instr) (s : State) (srcs : List SrcOp) (bounds : Env → Chk Unit) (wr : Bool) (m : MM) : Bool :=
  meets i nog s fun s e => okay (bounds e) && e.t.scrBytes != 0 && calm s e && lets m.scope s e &&
    peeks srcs (fun vs => okay (s.spadChecks e (fun l => spadOfs m (valAt (lvVals vs) 0 l) (valAt (lvVals vs) 1 l) l) (mmSize m) wr)) s e

theorem wit_ldsp : spadMeets (.ldsp nog v4 v6 (.imm 0) gMM) (grp .c) (spadSrcs v6 (.imm 0)) (fun e => e.bounds (dataUse v4 gMM :: spadUses v6 (.imm 0)))
    false gMM = true := by decide +kernel
theorem wit_stsp : spadMeets (.stsp nog v4 v6 (.imm 0) gMM) (grp .c) (spadSrcs v6 (.imm 0) ++ dataSrcs v4 .b32 1)
    (fun e => e.bounds (dataUse v4 gMM :: spadUses v6 (.imm 0))) true gMM = true := by decide +kernel
theorem wit_atsp : meets (.atsp nog v4 v6 v8 (atomM 2)) nog (grp .c) (fun s e' =>
    let e := e'.once (atspReturns v4) v6 v8
    okay (e.bounds [{ code := 0, o := v4, n := 1, even := false }, { code := 1, o := v6, n := 1, even := false }, atomUse v8 (atomM 2)]) &&
      okay (e.quadCheck v8 (atomM 2)) && e.t.scrBytes != 0 && calm s e && lets .grp s e &&
      peeks ({ code := 1, o := v6 } :: atomSrcs v8 (atomM 2)) (fun vs =>
        okay (s.spadChecks e (fun l => spadAddr32 (valAt (lvVals vs) 0 l) 0 0 0 4) 4 true)) s e) = true := by decide +kernel
theorem wit_pfx : meets (.pfx nog v6 (.vec 0) gMM) nog (grp .a)
    (fun s e => okay (e.bounds (addrUses v6 (.vec 0))) && ok (s.gather e [baseSrc v6, indexSrc (.vec 0)] (.vec 0) 0) fun _ => true) = true := by
  decide +kernel
theorem wit_fence : meets (.fence nog { gMM with ord := .ar, scope := .sys }) nog (grp .a) (fun s e => calm s e && lets .sys s e) = true := by
  decide +kernel
theorem wit_pfence : meets (.pfence nog .pair 1 4) nog (grp .c) (fun s e => calm s e && lets .pair (s.pushL1 e.g.core .pair) e) = true := by
  decide +kernel

/-- The conditions of SamplersIssue. -/
def samples (i : Instr) (smp : Bool) (d a b : Opnd) (m : MSmp) (s : State) (p : StateRead → Bool) : Bool :=
  meets i nog s fun s e =>
    let r := if smp then s.sampState e m.scope m.ssi.toNat else (.refused, s)
    let nch := 2 ^ m.nch.toNat
    peeks [baseSrc a, { code := 2, o := b }] (fun vs =>
      let lanes := (lanesOf e.exec).map fun l => r.2.sampLane e.c smp r.1 (BitVec.ofNat 32 (valAt (lvVals vs) 1 l)) (s.owner e.c.owner).frameno
        (BitVec.ofNat 32 (valAt (lvVals vs) 0 l)) (BitVec.ofNat 32 (valAt (lvVals vs) 0 l / 2 ^ 32)) l
      let regs := lanes.foldl (fun n x => max n (sampRegs smp m.ty nch x.1)) 0
      let mm : MM := { ty := m.ty, scope := m.scope, ord := .rlx, iscale := 0, hint := 0, aop := 0, ofs := 0 }
      let acc := { e.newAcc r.2.nextId (.sample smp) .s mm nch (lanes.flatMap fun x => x.2.1) with taps := lanes.map (·.1) }
      p r.1 && okay (e.bounds [{ code := 0, o := d, n := regs, even := false }, { code := 1, o := a, n := 2, even := true },
        { code := 2, o := b, n := 1, even := false }]) && !isQueue d &&
      okay (s.surfChecks e fun l => BitVec.ofNat 32 (valAt (lvVals vs) 1 l)) && okay (r.2.texelLocks e (lanes.flatMap fun x => x.2.1)) &&
      okay (r.2.afterAcquires e) && okay (loadRoom e d regs .s) && okay (r.2.fatalAtIssue acc)) s e

def smpM : MSmp := { ty := .b32, scope := .grp, ssi := 0, nch := 0 }

theorem wit_sld : samples (.sld nog v4 v6 v8 smpM) false v4 v6 v8 smpM (dataW (grp .c)) (fun _ => true) = true := by decide +kernel
/-- An SMP whose context has no sampler states: every lane is refused. -/
theorem wit_smp : samples (.smp nog v4 v6 v8 { smpM with ty := .f32 }) true v4 v6 v8 { smpM with ty := .f32 } (dataW (grp .c)) (· == .refused) = true := by
  decide +kernel

/-! ### Engines -/

/-- The conditions of EnginesStart, for an operation of `bytes` bytes. -/
def engMeets (s : State) (i : Instr) (F : EngForm) (bytes : Nat) : Bool :=
  meets i F.h s fun s e =>
    okay (e.bounds (F.indices.map SrcOp.use)) && e.t.scrBytes != 0 &&
    ok (s.peek e (blockSrcs F.a F.n F.m.bar ++ F.indices) (.vec 0) 0) fun vs =>
      let g := F.eng e vs
      g.rows * g.len == bytes && decide (bytes ≤ 2 ^ 30) && decide (g.rows ≤ 65536) && (F.block e vs).getD F.n 0 % 16 == 0 &&
        (!g.kind.transform || (g.dst % xformAlign g.kind F.m.dsp == 0 && g.len % xformAlign g.kind F.m.dsp == 0)) &&
        okay (poisonCheck e.exec (F.used e vs)) &&
        (bytes == 0 || ok (engPlace e g) fun g =>
          calm s e && ((if g.ssp then [] else [g.srcSpan]) ++ (if g.dsp then [] else [g.dstSpan])).all
            (fun x => s.qsStores e.gid e.sl .g x.1.toNat (spanLen x) == []) &&
          (g.kind.transform || decide (s.copiesOn e.g.core < 64)) && okay (lockWaits (s.core e.g.core) (s.engRanges g)))

def engM (ssp dsp : Bool) : MEng := { bar := 20, ssp := ssp, dsp := dsp, hint := 0 }
/-- `dataW` with an operation block in s24 to s31. -/
def blk (vs : List W32) : State := dataW (grpS .a ((List.range 8).zip vs |>.map fun x => (24 + x.1, x.2)))

/-- The engine forms, each with its block at s24. -/
def s24 : Opnd := .sca 24
def copyF (m : MEng) : EngForm := { h := nog, n := 5, kind := fun _ _ => .copy, a := s24, b := none, m := m }

theorem wit_bcopy : ([(false, 64), (true, 64), (false, 0)].all fun (x : Bool × Nat) =>
    engMeets (blk [0, 0, 0x100, 0, BitVec.ofNat 32 x.2]) (.bcopy nog s24 (engM false x.1)) (copyF (engM false x.1)) x.2) = true := by decide +kernel
theorem wit_bcopy2 : engMeets (blk [0, 0, 0x100, 0, 64, 2, 256, 256]) (.bcopy2 nog s24 (engM true false))
    { h := nog, n := 8, kind := fun _ _ => .copy2, a := s24, b := none, m := engM true false } 128 = true := by decide +kernel
theorem wit_bgath : engMeets (blk [0, 0, 0x1000, 0, 64, 0, 64]) (.bgath nog s24 v6 (engM false false))
    { h := nog, n := 7, kind := fun _ idx => .gather idx, a := s24, b := some v6, m := engM false false } 4096 = true := by decide +kernel
theorem wit_xform_zero : engMeets (blk [0, 0, 4096]) (.xformZero nog s24 (engM false false))
    { h := nog, n := 4, kind := fun _ _ => .zero, a := s24, b := none, m := engM false false } 4096 = true := by decide +kernel
theorem wit_xform_fill : engMeets (blk [0, 0, 4096, 7]) (.xformFill nog s24 (engM false false))
    { h := nog, n := 4, kind := fun r _ => .fill (BitVec.ofNat 32 (r.getD 3 0)), a := s24, b := none, m := engM false false } 4096 = true := by
  decide +kernel
theorem wit_xform_transpose : engMeets (blk [0, 0, 4096]) (.xformTranspose nog s24 (engM false true))
    { h := nog, n := 4, kind := fun _ _ => .transpose, a := s24, b := none, m := engM false true } 4096 = true := by decide +kernel

/-! ## Group 5 -/

/-- The arguments of an MB instruction, with a check of its object. -/
def barMeets (i : Instr) (s : State) (a b : Opnd) (refused : Nat → Bool) (p : BarObj → Nat → Bool) : Bool :=
  meets i nog s fun s e => calm s e && lets .core s e &&
    ok (s.mbArgs e a b refused) fun x => p (s.barObj e.g.core (e.spadAt x.1)) x.2

theorem wit_synct : meets (.synct nog) nog (grp .a) calm = true := by decide +kernel
theorem wit_mbinit : barMeets (.mbinit nog (.imm 16) (.imm 1)) (grp .a) (.imm 16) (.imm 1) (fun n => decide (n < 1) || decide (65535 < n))
    (fun _ n => n == 1) = true := by decide +kernel
theorem wit_mbarv : ([true, false].all fun r => barMeets (.mbarv nog (.sca 4) (.imm 16) (.imm 0) r) (grp .a) (.imm 16) (.imm 0)
    (fun n => decide (65535 < n)) fun _ _ => true) = true := by decide +kernel
theorem wit_mbexp : ([(true, true), (false, true), (false, false)].all fun (x : Bool × Bool) =>
    barMeets (.mbexp nog (.sca 4) (.imm 16) (.imm 64) x.1 x.2) (grp .a) (.imm 16) (.imm 64) anyCount fun _ _ => true) = true := by decide +kernel
theorem wit_mbwait : barMeets (.mbwait nog (.imm 16) (.imm 0)) (grp .c) (.imm 16) (.imm 0) anyCount (fun o n => o.reached n) = true := by decide +kernel
theorem wit_mbwait_waits : barMeets (.mbwait nog (.imm 16) (.imm 1)) (grp .c) (.imm 16) (.imm 1) anyCount (fun o n => !o.reached n) = true := by decide +kernel
theorem wit_mbtest : ([0, 1].all fun n => barMeets (.mbtest nog (.sca 4) (.imm 16) (.imm n)) (grp .c) (.imm 16) (.imm n) anyCount
    fun o m => o.reached m == (n == 0)) = true := by decide +kernel

/-! ### Work lists -/

theorem okay_ok {c : Chk Unit} (h : okay c = true) : c = .ok () := by
  revert h
  unfold okay ok
  split
  · intro _; rfl
  · intro h; cases h

/-- The header of a work list, once its home lets it be read. -/
def listAt? (s : State) (e : Env) (va : Nat) (w : Window) : Option (Nat × WorkList × State) :=
  if 3 < homeOf (w.iaOf va) || !okay (s.listBankWait e [w.iaOf va]) then none else
  match s.gate (e.req w true e.t.level) (w.iaOf va) with
  | (.go key _ _, s) =>
    let r := (s.expel e.g.core (w.iaOf va / 64)).homeRead (w.iaOf va) key 64
    if (anyPoison r.1).isNone && wlOk (w.iaOf va) (values r.1) then some (key, WorkList.ofBytes (values r.1), r.2) else none
  | _ => none

theorem withList_of {s : State} {e : Env} {va : Nat} {w : Window} {key : Nat} {l : WorkList} {u : State} (h : listAt? s e va w = some (key, l, u)) :
    ∀ k, s.withList e va w k = k key l u := by
  intro k
  unfold listAt? at h
  unfold State.withList
  split at h
  · cases h
  · rename_i hh
    simp only [Bool.or_eq_true, Bool.not_eq_true', not_or, Bool.not_eq_false, decide_eq_true_eq] at hh
    simp only [hh.1, if_false, okay_ok hh.2]
    change s.answer _ _ _ _ _ = _
    split at h
    · rename_i key' ow pr t hg
      dsimp only at h
      simp only [State.answer, hg]
      split at h
      · rename_i hc
        simp only [Bool.and_eq_true, Option.isNone_iff_eq_none] at hc
        cases h
        simp only [hc.1, hc.2, if_true]
      · cases h
    · cases h

/-- The homes let the items of some lanes be reached. -/
def itemsOk (s : State) (e : Env) (w : Window) (l : WorkList) (k0 : Nat) (lanes : List Nat) (write : Bool) : Bool :=
  let at_ := fun (lane : Nat) => l.item (k0 + lanes.idxOf lane)
  okay (s.lockCheck e none lanes at_ 4 write) && okay (s.listBankWait e (lanes.map at_)) && lanes.all fun lane =>
    match (s.gate (e.req w true e.t.level) (at_ lane)).1 with
    | .go _ _ _ => true
    | _ => false

theorem withItems_of {s : State} {e : Env} {w : Window} {l : WorkList} {k0 : Nat} {lanes : List Nat} {write : Bool}
    (h : itemsOk s e w l k0 lanes write = true) : ∀ k, s.withItems e w l k0 lanes write k = k s := by
  intro k
  simp only [itemsOk, Bool.and_eq_true, List.all_eq_true] at h
  obtain ⟨⟨hl, hb⟩, hg⟩ := h
  unfold State.withItems
  dsimp only
  rw [okay_ok hl, okay_ok hb]
  rw [List.find?_eq_none.2]
  · rfl
  · intro x hx
    obtain ⟨lane, hm, rfl⟩ := List.mem_map.1 hx
    have := hg lane hm
    dsimp only at this ⊢
    split at this
    · rename_i hq; simp only [hq, Bool.false_eq_true, not_false_eq_true]
    · cases this

/-- A list of 2^`log` items at VA 0x100, whose ring is at 0x1000, with its three counts. -/
def listS (log head tail busy : Nat) : State :=
  (dataW (grpS .a [(24, 0x100)])).memWrite 0x100 (plain (leBytes 8 0x1000 ++ leBytes 4 log ++ leBytes 4 head ++ leBytes 4 tail ++ leBytes 4 busy))

def listMeets (i : Instr) (s : State) (srcs : List SrcOp) (bounds : Env → Chk Unit) (rel : Bool)
    (p : State → Env → Window → WorkList → Bool) : Bool :=
  meets i nog s fun s e => okay (bounds e) && calm s e && lets .dev s e &&
    peeks srcs (fun vs => ok (s.wlAddr e vs) fun x =>
      (listAt? (if rel then (s.releaseFor e .dev).1 else s) e x.1 x.2).any fun y => p y.2.2 e x.2 y.2.1) s e

theorem wit_wlpush_full : listMeets (.wlpush nog (.pred 1) (.sca 24) v6) (listS 4 0 0 0) [baseSrc (.sca 24), { code := 2, o := v6 }]
    (fun e => e.bounds [{ code := 2, o := v6, n := 1, even := false }]) true
    (fun _ e _ l => 2 ^ l.log < l.count + (lanesOf e.exec).length) = true := by decide +kernel
theorem wit_wlpush : listMeets (.wlpush nog (.pred 1) (.sca 24) v6) (listS 6 0xFFFFFFFF 0xFFFFFFFF 0) [baseSrc (.sca 24), { code := 2, o := v6 }]
    (fun e => e.bounds [{ code := 2, o := v6, n := 1, even := false }]) true
    (fun u e w l => l.count + (lanesOf e.exec).length ≤ 2 ^ l.log && itemsOk u e w l l.tail.toNat (lanesOf e.exec) true) = true := by
  decide +kernel
theorem wit_wlpop : ([0, 3].all fun n => listMeets (.wlpop nog v4 (.sca 24) (.pred 1)) (listS 4 0 n 0) [baseSrc (.sca 24)]
    (fun e => e.bounds [{ code := 0, o := v4, n := 1, even := false }]) false
    fun u e w l => l.count == n && itemsOk u e w l l.head.toNat ((lanesOf e.exec).take n) false) = true := by decide +kernel
theorem wit_wlquiet : listMeets (.wlquiet nog (.sca 4) (.sca 24) (.imm 2)) (listS 4 0 0 1) [baseSrc (.sca 24), { code := 2, o := .imm 2 }]
    (fun _ => .ok ()) true (fun _ _ _ l => l.busy == 1) = true := by decide +kernel

/-! ### Fills -/

/-- `dataW` with procedural range 0 of home 0: blocks of 64 KiB from IA 1 Mi on, whose fill states stand at IA 0, through a P window at VA 1 Mi. -/
def ranged (sl : Slice) (f : Sys2Proof.Machine.Team → Sys2Proof.Machine.Team) (fst : Byte) (pin : Nat) : State :=
  let s := (dataW (grpS sl [(24, 0x100000), (25, 0)])).updCtx 0 fun c =>
    { c with vrg := c.vrg.take 8 ++ [0x100017, 0, 15, 0x10] ++ c.vrg.drop 12 }
  let s := s.updHome 0 fun x => { x with prts := [{ entry := 0, base := 0x100000, nblk := 16, bsz := 0, level := 0, ptmo := 0, pctx := 0, pva := 0,
                                                    code := 0, arg := 0, fst := 0, fail := 0x40, pin := pin }] }
  ({ s with teams := s.teams.map f }).memWrite 0 (plain [fst])

def range0 : Prt := { entry := 0, base := 0x100000, nblk := 16, bsz := 0, level := 0, ptmo := 0, pctx := 0, pva := 0, code := 0, arg := 0, fst := 0,
                      fail := 0x40, pin := 0x80 }

/-- A fill in flight, started by launch `launch`. -/
def mergeOf (blk launch : Nat) : Merge :=
  { entry := 0, blk := blk, prt := range0, level := 0, depth := 0, rctx := 0, ltag := 0, launch := launch, zeroed := true, since := 0 }

/-- Block 1 of `ranged` is FILLING, and the team is its prompter. -/
def prompting (sl : Slice) : State :=
  let s := ranged sl (fun (t : Team) => { t with kind := .prompter 0 0 1 0 [] }) 4 0x80
  s.updHome 0 fun x => { x with merges := s.teams.map fun (t : Team) => mergeOf 1 t.launch }

theorem wit_filldone_outside : meets (.filldone nog (.sca 4)) nog (grp .a) (fun s e => (s.filling? e.t).isNone) = true := by decide +kernel
theorem wit_filldone : meets (.filldone nog (.sca 4)) nog (prompting .a) (fun s e => s.filling? e.t == some (0, 0, 1) && calm s e && lets .dev s e &&
    (s.merge? 0 0 1).any fun m => s.blockAccs e.gid (m.prt.base + m.prt.blockSize) m.prt.blockSize == [] &&
      s.blockEngs e.gid (m.prt.base + m.prt.blockSize) m.prt.blockSize == []) = true := by decide +kernel
theorem wit_fillfail_outside : meets (.fillfail nog (.sca 4) (.imm 7)) nog (grp .a)
    (fun s e => (s.filling? e.t).isNone && ok (s.countVal e (.imm 7) anyCount) (· == 7)) = true := by decide +kernel
theorem wit_fillfail : meets (.fillfail nog (.sca 4) (.imm 7)) nog (prompting .c)
    (fun s e => s.filling? e.t == some (0, 0, 1) && ok (s.countVal e (.imm 7) anyCount) (· == 7)) = true := by decide +kernel
theorem wit_previct : meets (.previct nog (.sca 4) (.sca 24)) nog (ranged .a id 0 0x80)
    (fun s e => calm s e && lets .dev s e && ok (s.blockArg e (.sca 24) (·.wr)) fun x => x.1 == 0 && x.2.2 == 0) = true := by decide +kernel
theorem wit_fillq : meets (.fillq nog (.sca 4) (.sca 24)) nog (ranged .c id 0 0x80)
    (fun s e => ok (s.blockArg e (.sca 24) (·.rd)) fun x => x.1 == 0 && x.2.2 == 0) = true := by decide +kernel

/-- A block in each state: EMPTY, FILLING, FILLED, POISONED; and pinned or not (the pin bitmap at IA 0 is the state table itself). -/
theorem wit_evict : (let s := ranged .a id 0xE4 0x80
    let t := s.updHome 0 fun x => { x with merges := [mergeOf 1 0] }
    [0, 1, 2, 3].map (t.fillState 0 range0) == [0, 1, 2, 3] && !t.pinned range0 2 && t.pinned { range0 with pin := 0 } 2) = true := by decide +kernel

/-! ### Collectives and power -/

theorem wit_cstep : meets (.cstep nog (.imm 12) (.vec 0) 0) nog (grp .a) (fun s e => calm s e && lets .sys s e &&
    peeks [{ code := 1, o := .imm 12 }] (fun _ => true) s e) = true := by decide +kernel
/-- The conditions of a CSTEP with a span of `len` bytes at VA 0x100. -/
def steps (len : Nat) (p : State → Env → List Nat → Bool) : Bool :=
  meets (.cstep nog (.sca 9) s24 8) nog (dataW (grpS .a [(9, 12), (24, 0x100), (26, BitVec.ofNat 32 len), (8, 16)])) fun s e =>
    calm s e && e.t.scrBytes != 0 && lets .sys s e &&
    peeks [{ code := 1, o := .sca 9 }, { code := 2, o := s24, ty := .b64, pair := true }, { code := 2, o := shiftOpnd s24 2 }, { code := 2, o := .sca 8 }]
      (fun vs => let u := uniformVals e vs
        u.getD 3 0 % 16 == 0 && u.getD 2 0 == len && (s.sliceAccs e.gid e.sl).isEmpty && p s e u) s e

theorem wit_cstep_empty : steps 0 (fun _ _ _ => true) = true := by decide +kernel
theorem wit_cstep_span : steps 64 (fun s e u =>
    let va := u.getD 1 0
    ok (e.c.side va (va, va + 64) fun w => !w.l) fun x =>
      let rs := [(false, lockSpans none 0 x.start 64)]
      let s1 := s.addLocks e.g.core (stepKey e.gid e.sl e.slot) rs
      okay (lockWaits (s.core e.g.core) rs) && (s.core e.g.core).locks.isEmpty && lets .sys s1 e && (s1.sliceAccs e.gid e.sl).isEmpty) = true := by
  decide +kernel
theorem wit_cabort : ([Opnd.sca 9, .imm 0x21].all fun o => meets (.cabort nog o) nog (grp .a) fun s e => ok (s.countVal e o anyCount) fun _ => true) = true := by
  decide +kernel
theorem wit_spl : meets (.spl nog (.sca 4) (.imm 5)) nog (grp .a) (fun s e =>
    okay (e.bounds [({ code := 1, o := .imm 5 } : SrcOp).use]) && ok (s.lowVal e { code := 1, o := .imm 5 }) (· == 5)) = true := by decide +kernel
theorem wit_gpl : ([true, false].all fun w => meets (.gpl nog (.sca 4) w) nog (grp .a) fun _ e =>
    okay (e.bounds [dstUse (.sca 4) false]) && !(w && e.c.plstat.getLsbD 2)) = true := by decide +kernel

/-! ## Group 6 -/

def matM (shape : BitVec 2) (aty bty : Ty) : MX := { aty := aty, bty := bty, shape := shape, acc := true, nega := false, band := 0, sub := 0 }

theorem wit_mma : meets (.mma nog (.vec 16) (.vec 0) (.vec 8) (matM 0 .f16 .f16)) nog (grp .c) (fun _ e =>
    okay (e.bounds [{ code := 0, o := .vec 16, n := 16, even := false }, { code := 1, o := .vec 0, n := 8, even := false },
      { code := 2, o := .vec 8, n := 8, even := false }]) && okay (e.matSources (.vec 16) (.vec 0) (.vec 8) 8 8 true [])) = true := by decide +kernel
theorem wit_mmd : meets (.mmd nog (.vec 16) (.vec 0) (.vec 8) (matM 2 .e2m1 .e4m3)) nog (grpW .c fun g => { g with c := { g.c with vregs := List.replicate 48 (List.replicate 64 Val.zero) } }) (fun _ e =>
    okay (e.bounds [{ code := 0, o := .vec 16, n := 16, even := false }, { code := 1, o := .vec 0, n := 8, even := false },
      { code := 2, o := .vec 8, n := 12, even := false }]) &&
    okay (e.matSources (.vec 16) (.vec 0) (.vec 8) 8 12 true [(3, fun _ => LV.ofVal (e.x.sreg 0))]) &&
    okay (dbfCheck (matM 2 .e2m1 .e4m3) fun r n => descByte (span e (.vec 0)) r n)) = true := by decide +kernel
theorem wit_had : ([0, 1].all fun n => meets (.had nog (.vec 0) (.vec 0) n 5) nog (grp .c) fun _ e =>
    okay (e.bounds [{ code := 0, o := .vec 0, n := 2 ^ (4 + n.toNat), even := false }, { code := 1, o := .vec 0, n := 2 ^ (4 + n.toNat), even := false }]) &&
      okay (poisonCheck e.exec [(1, e.spanPoison (.vec 0) (2 ^ (4 + n.toNat)))])) = true := by decide +kernel
theorem wit_qnt : meets (.qnt nog (.vec 24) (.vec 0) (.sca 4)) nog (grp .c) (fun _ e =>
    okay (e.bounds [{ code := 0, o := .vec 24, n := 8, even := false }, { code := 1, o := .vec 0, n := 24, even := false }]) &&
      okay (poisonCheck e.exec [(1, e.spanPoison (.vec 0) 24), (2, fun _ => LV.ofVal (e.x.sreg 4))])) = true := by decide +kernel
theorem wit_cbld : meets (.cbld nog (.sca 56)) nog (grp .c) (fun _ e =>
    okay (poisonCheck e.exec (((List.range 8).map fun m => e.x.sreg (56 + m)).map fun v => (1, fun _ => LV.ofVal v)))) = true := by decide +kernel

/-! ## Group 7 -/

def passEntry (i : Nat) : Pass :=
  { idx := i, sample := true, capture := false, grantee := 5, grantor := 0, handle := 0, x0 := 0, y0 := 0, x1 := 8, y1 := 8, startf := 0, endf := 0xFFFFFFFF }

/-- `dataW` with pass 1023 granted by the house to owner 5. -/
def passS (vs : List (Nat × W32)) : State := { dataW (grpS .a vs) with passes := [passEntry 1023] }

theorem wit_grant : meets (.grant nog (.sca 4) (.sca 24)) nog (passS [(25, 0x1005), (27, 0x80008)]) (fun s e => ok (s.blockVals e (.sca 24) 5) fun v =>
    s.grantRefusal e.c.owner (v.getD 0 0) (v.getD 1 0) (v.getD 2 0) (v.getD 3 0) == none) = true := by decide +kernel
theorem wit_grant_refused : ([(0, 0, 0, 0, 0, 5), (0, 0xFFF0, 0x1005, 0, 0x80008, 4), (5, 0, 0x1005, 0, 0x80008, 2)].all
    fun (x : Id12 × Nat × Nat × Nat × Nat × Nat) => (passS []).grantRefusal x.1 x.2.1 x.2.2.1 x.2.2.2.1 x.2.2.2.2.1 == some x.2.2.2.2.2) = true := by
  decide +kernel
theorem wit_grant_protected : ({ passS [] with descs := [(0x80000, 5 :: surface.drop 1)] } : State).grantRefusal 0 0 0x1005 0 0x80008 = some 3 := by decide +kernel
theorem wit_grant_full : ({ passS [] with passes := List.replicate 1024 (passEntry 0) } : State).grantRefusal 0 0 0x1005 0 0x80008 = some 1 := by
  decide +kernel
theorem wit_revoke : meets (.revoke nog (.sca 4) (.imm 1023)) nog (passS []) (fun s e => ok (s.countVal e (.imm 1023) anyCount) (· == 1023)) = true := by
  decide +kernel
theorem wit_revoke_cases : ((passS []).pass? 0 == none && ((passS []).pass? 1023).any fun p => p.grantor == 0 && p.grantor != 5) = true := by decide +kernel
/-- A pass in force, and one that would only come into force with the next frame. -/
theorem wit_revoked : ([0, 1].map fun (x : W32) => let s : State := { passS [] with passes := [{ passEntry 1023 with startf := x }] }
    (s.pass? 1023).map fun p => decide (min p.endf.toNat ((s.owner p.grantee).frameno.toNat + 1) ≤ p.startf.toNat)) = [some false, some true] := by
  decide +kernel
theorem wit_passq : meets (.passq nog (.sca 8) (.imm 1023)) nog (passS []) (fun s e => ok (s.countVal e (.imm 1023) anyCount) fun i =>
    (s.pass? i).any fun p => p.grantor == e.c.owner) = true := by decide +kernel
theorem wit_passq_none : meets (.passq nog (.sca 8) (.imm 0)) nog (passS []) (fun s e => ok (s.countVal e (.imm 0) anyCount) fun i => s.pass? i == none) =
    true := by decide +kernel
theorem wit_ownq : meets (.ownq nog v4 v6 v8) nog (grp .c) (fun s e =>
    okay (e.bounds (dstUse v4 false :: [({ code := 1, o := v6, ty := .b64, pair := true } : SrcOp), { code := 2, o := v8 }].map SrcOp.use)) &&
      reads [{ code := 1, o := v6, ty := .b64, pair := true }, { code := 2, o := v8 }] (.vec 0) 0 (fun _ => true) s e) = true := by decide +kernel

/-- The conditions of a PRESENT of handle `h`, when `n` frames are queued. -/
def presents (h : W32) (n : Nat) (p : State → Id12 → Bool) : Bool :=
  let f : QFrame := { frameno := 1, handle := 0, target := 0, at_ := 0, latched := false }
  let s := dataW (grpS .a [(8, h)])
  meets (.present nog (.sca 4) (.sca 8) (.imm 0)) nog (s.setOwner { s.owner (s.ctx 0).owner with queue := List.replicate n f }) fun s e =>
    calm s e && lets .dev s e &&
    peeks [{ code := 1, o := .sca 8 }, { code := 2, o := .imm 0, ty := .b64, pair := true }] (fun vs =>
      let r := (s.releaseFor e .dev).1
      (r.ownSurface e (BitVec.ofNat 32 ((uniformVals e vs).getD 0 0))).isSome == (h == 0) && p r e.c.owner) s e

theorem wit_present : presents 0 0 (fun r o => (r.owner o).queue.length < r.presentDepth o) = true := by decide +kernel
theorem wit_present_parks : presents 0 1 (fun r o => r.presentMode o != 1 && r.presentDepth o ≤ (r.owner o).queue.length) = true := by decide +kernel
theorem wit_present_refused : presents 0xFFFF 0 (fun _ _ => true) = true := by decide +kernel

theorem wit_emitv : meets (.emitv nog (.imm 0) v6 1 14) nog (grp .c) (fun s e =>
    okay (e.bounds [{ code := 1, o := .imm 0, n := 1, even := false }, { code := 2, o := v6, n := 2, even := false }]) &&
      reads [{ code := 1, o := .imm 0 }, { code := 2, o := v6 }, { code := 2, o := shiftOpnd v6 1 }] (.vec 0) 0 (fun _ => true) s e) = true := by
  decide +kernel
theorem wit_emitp : meets (.emitp nog (.imm 0) v6) nog (grp .c) (fun s e =>
    okay (e.bounds ([({ code := 1, o := .imm 0 } : SrcOp), { code := 2, o := v6 }].map SrcOp.use)) &&
      reads [{ code := 1, o := .imm 0 }, { code := 2, o := v6 }] (.vec 0) 0 (fun _ => true) s e) = true := by decide +kernel
theorem wit_meshend : meets (.meshend nog (.imm 3) (.imm 1)) nog (grp .c)
    (reads [{ code := 1, o := .imm 3 }, { code := 2, o := .imm 1 }] (.vec 0) 0 fun _ => true) = true := by decide +kernel

def drawOf (stage : DrawStage) : Draw :=
  { did := 9, ctx := 0, pkt := 0, at_ := 0, bytes := List.replicate 128 0, stage := stage, header := none, mkern := fetchKernel, fkern := fetchKernel,
    launch := 0, takenAt := 0, frame := 0, outputs := [], pages := [], prims := [], lists := [(0, [0])], binned := false, passes := [], doneTiles := [],
    fatal := false }

def passOf (team : Option Nat) : TilePass := { tile := 0, core := 0, base := 0, sub := 0, nextPrim := 0, touched := [], team := team }

/-- The team is an invocation of draw 9's tile pass. -/
def tileS : State :=
  let s := grp .c
  { s with teams := s.teams.map fun (t : Team) => { t with kind := .tile 9 }
           draws := [{ drawOf .tiles with passes := [passOf (some 1)] }] }

theorem wit_tld : meets (.tld nog v4 (.imm 0) .b32 0) nog tileS (fun s e =>
    okay (e.bounds [tileUse v4 .b32 0, { code := 1, o := .imm 0, n := 1, even := false }]) && calm s e && (s.tileMem e.t).isSome &&
      ok (s.peek e [{ code := 1, o := .imm 0 }] v4 1) fun vs => okay (poisonCheck e.exec vs) && (lanesOf e.exec).all fun l => valAt (lvVals vs) 0 l == 0) =
    true := by decide +kernel
theorem wit_tsto : meets (.tsto nog v4 (.imm 0) .b32 0) nog tileS (fun s e =>
    okay (e.bounds [tileUse v4 .b32 0, { code := 1, o := .imm 0, n := 1, even := false }]) && calm s e && (s.tileMem e.t).isSome &&
      peeks (({ code := 1, o := .imm 0 } : SrcOp) :: dataSrcs v4 .b32 1) (fun vs => (lanesOf e.exec).all fun l => valAt (lvVals vs) 0 l == 0) s e) =
    true := by decide +kernel

theorem wit_launch : meets (.launch nog (.sca 4) (.imm 0)) nog (grp .a)
    (fun s e => calm s e && lets .dev s e && ok (s.countVal e (.imm 0) anyCount) fun v => (s.ctx (v % 4096)).valid) = true := by decide +kernel
theorem wit_gets : meets (.gets nog (.sca 4) 0x12 true) nog (grp .a) (fun _ e => okay (e.bounds [dstUse (.sca 4) true])) = true := by decide +kernel
theorem wit_sets : meets (.sets nog (.sca 4) 0x13 true) nog (grp .a) (fun s e => peeks [{ code := 1, o := .sca 4, ty := .b64, pair := true }]
    (fun vs => !e.c.sysRefused 0x13 (valAt (lvVals vs) 0 (lowLane e.exec))) s e) = true := by decide +kernel
theorem wit_tret : meets (.tret nog) nog (sliceW .c fun x => { x with frags := x.frags.map fun f => { f with handler := true } })
    (fun _ e => e.f.handler && pcAligned e.x.trap.resume) = true := by decide +kernel

theorem wit_preempt : meets (.preempt nog (.sca 4) (.imm 1) (.imm 2)) nog (grp .a) (fun s e =>
    peeks [{ code := 1, o := .imm 1 }, { code := 2, o := .imm 2 }] (fun vs =>
      let r := s.preempt e.c.num ((uniformVals e vs).getD 0 0 % 4096) ((uniformVals e vs).getD 1 0)
      !r.2.passesOn r.1 && e.f.wait == .none) s e) = true := by decide +kernel
/-- A tile team of context 1 runs on core 2. -/
def besideS : State :=
  let s := grp .a
  { s with
    draws := [{ drawOf .tiles with passes := [{ passOf (some 60) with core := 2 }] }],
    teams := s.teams ++ s.teams.map fun (t : Team) =>
      { t with id := 60, ctx := 1, kind := .tile 9, groups := t.groups.map fun (g : Sys2Proof.Machine.Group) => { g with gid := 61, core := 2 } } }

theorem wit_preempt_waits : meets (.preempt nog (.sca 4) (.imm 1) (.imm 2)) nog besideS (fun s e =>
    peeks [{ code := 1, o := .imm 1 }, { code := 2, o := .imm 2 }] (fun vs =>
      let r := s.preempt e.c.num ((uniformVals e vs).getD 0 0 % 4096) ((uniformVals e vs).getD 1 0)
      r.2.passesOn r.1 && e.f.wait == .none) s e) = true := by decide +kernel
theorem wit_preempt_rel : meets (.preemptRel nog (.sca 4) (.imm 1)) nog (grp .a) (fun s e => ok (s.countVal e (.imm 1) anyCount) (· == 1)) = true := by
  decide +kernel

/-- A team of one group without storage in its way, stopped with its image saved. -/
def stoppedTeam (ctx : Nat) (life : TeamLife) : Team :=
  let s := grp .a
  { (s.teams.headD (newTeam 0 .compute 0 0 0 0 0 1 0 fetchPc fetchKernel { core := 0, own := false, fits := [] } [])) with
    id := 50, ctx := ctx, num := 7, life := life, groups := [], scrBytes := 0 }

def savedS : State :=
  let s := dataW (grpS .a [(24, 0x1000), (28, 7), (29, 400)])
  { s with teams := s.teams ++ [stoppedTeam 0 (.stopped 0 0 1 none)] }

theorem wit_csave_none : meets (.csave nog (.sca 4) (.sca 24)) nog (dataW (grp .a)) (fun s e => ok (s.blockVals e (.sca 24) 6) fun v =>
    (s.savable (v.getD 2 0) (v.getD 3 0) (v.getD 4 0)).isNone) = true := by decide +kernel
/-- `savedS`, whose block names a window at the host's home. -/
def farS : State := savedS.updCtx 0 fun c => { c with vrg := c.vrg.take 8 ++ [0x200007, 0x09000000, 0, 0] ++ c.vrg.drop 12 }

/-- The conditions of a CSAVE that gets as far as its bytes, at `va`. -/
def saves (va : Nat) (s : State) (p : State → Env → Team → Bool) : Bool :=
  meets (.csave nog (.sca 4) s24) nog s fun s e => ok (s.blockVals e s24 6) fun v =>
    (s.savable (v.getD 2 0) (v.getD 3 0) (v.getD 4 0)).any fun t =>
      !(s.save t.ctx).exhausted && decide (t.imageLen ≤ v.getD 5 0) && e.c.spanOk va t.imageLen (·.wr) && p s e t

/-- The bytes of its image are written or sent, and the messages that carry them are `p`. -/
def puts (va : Nat) (p : List (Nat × W32) → Bool) (s : State) (e : Env) (t : Team) : Bool :=
  let r := s.putPieces e va (s.image t (s.save t.ctx).take.c (decide (t.life = .fatal))) (e.c.pieces va t.imageLen)
  r.1 == Reached.none && p (r.2.unacked.filter fun m => !s.unacked.contains m)

theorem wit_csave : saves 0x1000 savedS (puts 0x1000 (· == [])) = true := by decide +kernel
theorem wit_csave_sends :
    saves 0x200000 { farS with teams := (grpS .a [(24, 0x200000), (28, 7), (29, 400)]).teams ++ [stoppedTeam 0 (.stopped 0 0 1 none)] }
      (puts 0x200000 (· != [])) = true := by decide +kernel
theorem wit_csave_done :
    saves 0x1000 (savedS.updFrag 2 .a 0 fun f => { f with wait := .saving ((savedS.save 0).take.c) [] })
      (fun s e t => e.f.wait == .saving (s.save t.ctx).take.c []) = true := by decide +kernel
/-- A message that carried the image has failed. -/
theorem wit_csave_lost : saves 0x1000 (savedS.updFrag 2 .a 0 fun f => { f with wait := .saveLost }) (fun _ e _ => e.f.wait == .saveLost) = true := by
  decide +kernel
theorem wit_csave_refused : ([(400, 0xFFFFFFFF), (8, 0)].all fun (x : W32 × W32) =>
    meets (.csave nog (.sca 4) s24) nog ((savedS.updSlice 2 .a fun y => y.setSreg 29 (Val.of x.1)).setSave { ctx := 0, c := x.2, mask := 0 }) fun s e =>
      ok (s.blockVals e s24 6) fun v => (s.savable (v.getD 2 0) (v.getD 3 0) (v.getD 4 0)).any fun t =>
        if x.2 = 0 then !(s.save t.ctx).exhausted && decide (v.getD 5 0 < t.imageLen) else (s.save t.ctx).exhausted) = true := by decide +kernel

theorem wit_crest : meets (.crest nog (.sca 4) s24) nog (dataW (grpS .a [(24, 0x1000), (26, 80)])) (fun s e => calm s e && ok (s.blockVals e s24 3) fun v =>
    v.getD 2 0 == 80 && e.c.spanOk 0x1000 80 (·.rd) &&
      let ps := e.c.pieces 0x1000 80
      let x := (ps.foldl (fun (s : State) p => s.expel e.g.core (p.ia / 64)) s).askPieces e ps
      x.1 && (x.2.getPieces e ps).1 == Reached.none) = true := by decide +kernel
theorem wit_crest_short : meets (.crest nog (.sca 4) s24) nog (dataW (grpS .a [(24, 0x1000), (26, 79)])) (fun s e => calm s e &&
    ok (s.blockVals e s24 3) fun v => decide (v.getD 2 0 < 80)) = true := by decide +kernel

/-- A team that CSAVE has detached under number 1, and a device that holds it. -/
def awayTeam : Team := { stoppedTeam 0 (.detached 1) with launch := 77 }
def awayS : State :=
  let s := grp .a
  ({ s with teams := [awayTeam], launches := [{ meshLaunch 77 (drawOf .queued) 0 with lid := 77 }] } : State).setSave { ctx := 0, c := 1, mask := 0 }

/-- The image that was made of it. -/
def awayImage (seq : W32) (fatal : Bool) : List Byte := awayS.image awayTeam seq fatal

/-- What the checks of RestoreChecks find before the body: the header, the context and its owner, the bit that says protected, the number, FATAL, and
whether the team is there. -/
def restores (s : State) (bs : List Byte) : List Bool :=
  let hd := bs.take 64
  let ctx := bits (fieldAt hd 8 4) 0 12
  let c := s.ctx ctx
  [imageHeaderOk hd && decide (80 + fieldAt hd 24 8 ≤ bs.length), c.valid && c.owner.toNat == bits (fieldAt hd 8 4) 12 12,
   !bitN (fieldAt hd 12 4) 0 && !c.prot, (s.save ctx).current (fieldAt hd 4 4), !bitN (fieldAt hd 12 4) 1, (s.detached ctx hd).isSome]

theorem wit_restore : restores awayS (awayImage 1 false) = [true, true, true, true, true, true] := by decide +kernel
theorem wit_restore_malformed : (restores awayS ((awayImage 1 false).set 0 2)).head? = some false := by decide +kernel
theorem wit_restore_owner : restores (awayS.updCtx 0 fun c => { c with owner := 5 }) (awayImage 1 false) = [true, false, true, true, true, true] := by
  decide +kernel
theorem wit_restore_stale : restores (awayS.setSave { ctx := 0, c := 1, mask := 2 }) (awayImage 1 false) = [true, true, true, false, true, true] := by
  decide +kernel
theorem wit_restore_fatal : restores awayS (awayImage 1 true) = [true, true, true, true, false, true] := by decide +kernel
theorem wit_restore_gone : restores { awayS with teams := [] } (awayImage 1 false) = [true, true, true, true, true, false] := by decide +kernel

theorem away_body : ((awayImage 1 false).drop 64).take 256 = plainBody (imageKey 0 1) awayTeam [] := by
  have h : awayImage 1 false = imageHeader (awayS.ctx 0) awayTeam 1 false ++ plainBody (imageKey 0 1) awayTeam [] ++ List.replicate 16 0 := rfl
  have h64 : (imageHeader (awayS.ctx 0) awayTeam 1 false).length = 64 := by decide +kernel
  have hb : (plainBody (imageKey 0 1) awayTeam []).length = 256 := by decide +kernel
  rw [h, List.append_assoc, List.drop_left' h64, List.take_left' hb]

/-- Its body is the one that the device wrote; one cut short is not. -/
theorem wit_restore_body : bodyOk awayTeam 1 (((awayImage 1 false).drop 64).take 256) = true ∧ bodyOk awayTeam 1 ((awayImage 1 false).take 255) = false := by
  refine ⟨?_, by decide +kernel⟩
  rw [away_body]
  have hb : (plainBody (imageKey 0 1) awayTeam []).length = 256 := by decide +kernel
  have he : plainBody (imageKey awayTeam.ctx 1) (awayTeam.fromBody (plainBody (imageKey 0 1) awayTeam []))
    ((awayTeam.fromBody (plainBody (imageKey 0 1) awayTeam [])).scratch.map values) = plainBody (imageKey 0 1) awayTeam [] := rfl
  simp only [bodyOk, he, hb, beq_self_eq_true, Bool.and_true, decide_eq_true_eq]
  rfl

/-- Of two tags at most one is genuine, whatever the root key is. -/
theorem wit_restore_tag (o : Id12) (c : Nat) (h b : List Byte) : ∃ tag, tagGood o c h b tag = false := by
  cases h0 : tagGood o c h b [] with
  | false => exact ⟨[], h0⟩
  | true =>
    refine ⟨[0], ?_⟩
    simp only [tagGood, beq_iff_eq] at h0 ⊢
    rw [h0]
    rfl
theorem wit_iainv : meets (.iainv nog (.sca 4) (.imm 1)) nog (grp .a) (fun s e => calm s e && lets .dev s e &&
    reads [{ code := 1, o := .sca 4, ty := .b64, pair := true }, { code := 2, o := .imm 1 }] (.vec 0) 0 (fun _ => true) s e) = true := by decide +kernel
theorem wit_iainv_all : meets (.iainvAll nog (.sca 4)) nog (grp .a) (fun s e => calm s e && lets .dev s e &&
    reads [{ code := 1, o := .sca 4, ty := .b64, pair := true }] (.vec 0) 0 (fun _ => true) s e) = true := by decide +kernel

end Sys2Proof.Tests
end

