-- ==== Sys2Proof/Tests/EventWitnesses.lean ====
section
/-!
SUPPORT. Concrete states that meet the hypotheses of the statements about events, fetch, traps and the whole machine.
-/

namespace Sys2Proof.Tests

set_option Elab.async false

open Sys2Proof Sys2Proof.Machine

/-! ## Events: accesses and engines -/

def laneOf (st : LaneSt) : LaneAcc := { lane := 0, va := 0x40, ia := 0x40, pwin := false, prot := false, exempt := false, data := [1, 2, 3, 4], st := st }

def accOf (kind : AccKind) (path : Path) (deliver : Deliver) (st : LaneSt) : Acc :=
  { id := 20, gid := 2, sl := .a, pc := 0xC0, issuedAt := 1, kind := kind, path := path, ty := .b32, nvec := 1, scope := .grp, ord := .rlx,
    nol1 := false, lanes := [laneOf st], logged := false, needQs := none, deliver := deliver, taps := [] }

/-- `dataW` with one access in flight, and the home changed. -/
def accS (a : Acc) (f : Home → Home) : State := ({ dataW (grp .a) with accs := [a] } : State).updHome 0 f

def noTlb (h : Home) : Home := { h with tlb := [] }
def noSlots (h : Home) : Home := { h with tlb := [], walks := (List.range 64).map fun i => ((i + 5) * 2 ^ 21, 7) }

def requests (a : Acc) (f : Home → Home) (p : State → Req → LaneAcc → Bool) : Bool :=
  let s := accS a f
  match s.acc? 20, a.lanes[0]? with
  | some a, some l => (s.accReq a l).any fun r => s.mayPerform a 0 && p s r l
  | _, _ => false

/-- A lane at home goes on, one that must walk walks, and one that finds no slot is held. -/
theorem wit_perform : ([(id, false, false), (noTlb, true, false), (noSlots, false, true)].all
    fun (x : (Home → Home) × Bool × Bool) => requests (accOf .load .g .none .todo) x.1 fun s r l =>
      let a := accOf .load .g .none .todo
      let y := s.performLane r a l
      (a.leader 0).isNone && walked s y.2 y.1 (s.walkIa a l) == x.2.1 &&
        ((s.tlb? (s.walkIa a l)).isNone && !(s.home 0).walkRoom (s.walkIa a l)) == x.2.2 && (y.1 == .blocked .held) == x.2.2) = true := by decide +kernel

/-- A store whose second request names the bytes of the first, which is parked. -/
theorem wit_leader : ({ accOf .store .g .none .todo with lanes := [laneOf (.parked 0 12 true), { laneOf .todo with lane := 1 }] } : Acc).leader 1 =
    some (.parked 0 12 true) := by decide +kernel

/-- A spill area at a home that translates nothing fails wherever an entry lies in it. -/
theorem spill_fails {s : State} {c : Ctx} (hb : c.spillbase.toNat = 5 * 2 ^ 48) (hl : c.spilllen = 0) (n : Nat) : s.spillOk c n = false := by
  have hx : homeOf (c.spillbase.toNat + Config.spillPlace n % ((c.spilllen + 1) * 65536)) = 5 := by
    rw [hb, hl, homeOf]
    omega
  simp only [State.spillOk, State.phys, State.physLeaf, hx]
  rfl

theorem low_lookup {s : State} {m : Nat} (hm : m < 65536) (ht : (s.home 0).tlb = [{ base := 0, bits := 21, leaf := 3, at_ := 0 }]) :
    homeOf m = 0 ∧ s.lookup m = .hit 0 21 3 0 := by
  have hx : homeOf m = 0 := Nat.div_eq_of_lt (Nat.lt_trans hm (by decide))
  have hd : m / 2 ^ 21 * 2 ^ 21 = 0 := by omega
  have h1 : s.tlb? m = some { base := 0, bits := 21, leaf := 3, at_ := 0 } := by
    rw [State.tlb?, hx, ht, List.find?_cons_of_pos]
    exact beq_iff_eq.2 hd.symm
  refine ⟨hx, ?_⟩
  rw [State.lookup, h1]
  rfl

/-- One in the page that `dataW` maps does not. -/
theorem spill_works {s : State} {c : Ctx} (ht : (s.home 0).tlb = [{ base := 0, bits := 21, leaf := 3, at_ := 0 }]) (hb : c.spillbase.toNat = 0)
    (hl : c.spilllen = 0) (n : Nat) : s.spillOk c n = true := by
  obtain ⟨hh, hw⟩ := low_lookup (s := s) (Nat.mod_lt (Config.spillPlace n) (y := 65536) (by decide)) ht
  rw [State.spillOk, hb, hl, Nat.zero_add, Nat.zero_add, Nat.one_mul, State.phys, State.physLeaf, hw, hh]
  rfl

/-- Five logged accesses: the oldest has spilled, to an area that fails or not. -/
def spilledS (base : IA) : State :=
  let s := (accS (accOf .load .g .none .todo) id).updCtx 0 fun c => { c with spillbase := base, spilllen := 0 }
  { s with accs := (List.range 5).map fun i => { accOf .load .g .none .todo with id := 20 + i, logged := true } }

theorem wit_refill : (spilledS 0x5000000000000).refillFails 2 .a 20 = true ∧ (spilledS 0).refillFails 2 .a 20 = false := by
  constructor
  · rw [State.refillFails, spill_fails (by decide +kernel) (by decide +kernel)]
    decide +kernel
  · rw [State.refillFails, spill_works (by decide +kernel) (by decide +kernel) (by decide +kernel)]
    decide +kernel
theorem wit_unspilled : (spilledS 0x5000000000000).refillFails 2 .a 24 = false ∧ (grp .a).refillFails 2 .a 30 = false := by decide +kernel
theorem wit_walk_ends : requests (accOf .load .g .none .walking) noTlb (fun _ _ l => l.st == .walking) = true := by decide +kernel
theorem wit_walk_starts : (let s := accS (accOf .load .g .none .queued) noTlb
    (s.acc? 20).any fun a => a.lanes.findIdx? (fun l => l.st == .queued) == some 0 && (s.home 0).walkRoom 0x40) = true := by decide +kernel
/-- A request parked on a page of another home stays parked when a peer reports a page. -/
theorem wit_peer : (match exec (.peerPageResolved 9 0) (accS (accOf .load .g .none (.parked 0 12 true)) noTlb) with
    | .next t => t.accs.any fun a => a.lanes.any fun l => l.st == .parked 0 12 true
    | _ => false) = true := by decide +kernel
theorem wit_reissue : ([LaneSt.parked 0 12 true, .returned].all fun st => (accS (accOf .load .g .none st) noTlb).acc? 20 ==
    some (accOf .load .g .none st) && !(accS (accOf .load .g .none st) noTlb).batchHeld 20) = true := by decide +kernel

def loadsBack (d : Deliver) : State := accS (accOf .load .g d (.got (plain [1, 2, 3, 4]))) id

theorem wit_data_returns : ([Deliver.queue 0 1, .out 30].all fun d => ((loadsBack d).acc? 20).any fun a =>
    a.kind.reads && !acquires a.ord && (loadsBack d).runsGid a.gid && !(loadsBack d).edgeWaits a && a.deliver == d && (a.laneVals 0).isSome) = true := by decide +kernel
theorem wit_runs : (grp .a).runsGid 2 = true := by decide +kernel
theorem wit_qs_data :
    let s := grpW .a fun g => { g with queues := g.queues.set 4 (queueOf 1 5 0) }
    let a := { accOf .store .g .none .todo with needQs := some 1 }
    let s := { s with accs := [a] }
    ((s.acc? 20).any fun a => a.needQs == some 1 && s.runsGid a.gid && (s.accs.all fun b => b.needQs.isNone || 20 ≤ b.id) &&
      (s.group? a.gid).any fun g => (g.laneVal 4 0 0).any fun v => v.poison.isNone) = true := by decide +kernel

def engO (kind : EngKind) (ssp dsp : Bool) : Eng :=
  { id := 30, gid := 2, team := 1, core := 0, ctx := 0, pc := 0xC0, issuedAt := 1, kind := kind, ssp := ssp, dsp := dsp, src := 0, dst := 0, rows := 1,
    len := 4096, spitch := 0, dpitch := 0, sprot := false, dprot := false, spwin := false, dpwin := false, sofs := 0, dofs := 0, bar := 0,
    started := false, done := [], parked := [] }

def engS (e : Eng) : State := { dataW (grp .a) with engs := [e] }

theorem wit_unit : ([(false, true, 0), (true, false, 15)].all fun (x : Bool × Bool × Nat) => let e := engO .copy x.1 x.2.1
    let s := engS e
    let t := s.issueBefore e x.2.2
    s.eng? 30 == some e && s.engRuns e && (s.unitPart e x.2.2).2 != 0 && (t.eng? 30).any fun f =>
      (f.ready x.2.2).isSome && t.engClear f 0 4096) = true := by decide +kernel
theorem wit_bank_spad : (let e := engO .zero true true
    let s := engS e
    s.eng? 30 == some e && s.engRuns e && !e.done.contains 0 && !(s.bankWords e 0).isEmpty) = true := by decide +kernel
theorem wit_bank_l2 : (let e := engO .zero false false
    let s := engS e
    let t := s.unitsIssue 30 (s.unitsOf e)
    s.eng? 30 == some e && s.engRuns e && s.engClear e e.dst e.len && (t.eng? 30).any fun f =>
      (List.range 16).any fun b => s.bankClear e b && !(t.bankSectors f b).isEmpty) = true := by
  decide +kernel

/-- A dirty line of owner 5, whose frame is the house's. -/
def lostLine : Line := { line := 1, data := 0, valid := 1, dirty := 1, wide := true, owner := 5, prot := false, frame := 0, poison := [],
                         writers := [] }

theorem wit_lost : (let s := (dataW (grp .a)).updCore 0 fun k => { k with l1 := [lostLine] }
    let t := (dataW (grp .a)).updRdc 0 fun _ => [lostLine]
    findLine (s.core 0).l1 1 == some lostLine && findLine (t.rdc 0) 1 == some lostLine && lostLine.isDirty && s.lineLost lostLine && t.lineLost lostLine) =
    true := by decide +kernel
theorem wit_lost_home : (let s := (dataW (grp .a)).updL2 0 fun _ => [lostLine]
    let t := (dataW (grp .a)).updMdc 0 fun _ => [lostLine]
    findLine (s.l2Of 0) 1 == some lostLine && findLine (t.mdcOf 0) 1 == some lostLine && s.lineLost lostLine && t.lineLost lostLine) = true := by
  decide +kernel

theorem wit_t_write : (let a := accOf .store .t .none .todo
    let s := accS a id
    (s.acc? 20).any fun a => a.needQs.isNone && a.fatalLane.isNone && s.runsGid a.gid && !s.before a 0x40 4 && !a.logged &&
      (s.accReq a (laneOf .todo)).any fun r => (s.surfAt 0x40).any fun f =>
        let st := f.viewOfs (0x40 - f.base)
        let ls := unitLanes a f (st / 256)
        ls.length == 1 && !s.bankBusy a (f.base + st) && match s.gateT r 0x40 with
        | (.go key ow _, t) =>
          (match t.writeUnit f st (key - st % 256) (ls.flatMap fun x => x.2.data.mapIdx fun j b =>
              (f.viewOfs (x.2.ia.toNat - f.base) % 256 + j, (b, none))) ow with
            | (g, _) => g.isNone)
        | _ => false) = true := by decide +kernel

/-! ## Events: traps, migration, fills and checked tables -/

def aLaunch (lid : Nat) : Launch :=
  { lid := lid, ctx := 0, pkt := 0, at_ := 0, entry := 0xC0, teams := 2, level := 3, raised := 0, dl := false, ltag := 0, wait0 := 0, wval0 := 0,
    wait1 := 0, wval1 := 0, signal := 0, cgid := 0, param := [], dltime := 0, overran := false, wrun := 1, dlpl := 0, npair := 1, fpair := 0, tlead := 0,
    kern := { fetchKernel with grps := 1 }, kind := .compute, next := 0, retired := 0, ready := true, takenAt := 0, since := 0, waits := 0, checked := true, header := none,
    holding := false, fatal := false, abort := none, abortAt := 0, steps := [], minStep := none, resv := none }

def halting (s : State) (ls : List Launch) : State :=
  { s with teams := s.teams.map fun (t : Team) => { t with life := .halting }, launches := ls }

def haltCase (s : State) : Option (Bool × Bool × Option Bool) :=
  (s.team? 1).map fun t =>
    let t' : Team := { t with
      life := .fatal, groups := t.groups.map fun (g : Sys2Proof.Machine.Group) => { g with life := .halted, a := g.a.stopSkid, c := g.c.stopSkid } }
    let s1 := s.updTeam 1 fun _ => t'
    (t.life == .halting && s.quiet t, (s1.filling? t').isSome, (s1.launch? t.launch).map fun l => l.abort.isSome)

theorem wit_halts : ([(prompting .a, []), (grp .a, []), (grp .a, [{ aLaunch 0 with abort := some (true, 7) }]), (grp .a, [aLaunch 0])].map
    fun (x : State × List Launch) => haltCase (halting x.1 x.2)) =
      [some (true, true, none), some (true, false, none), some (true, false, some true), some (true, false, some false)] := by decide +kernel

theorem wit_deferred : ((accS (accOf .load .g .none (.fatal 0x12 0x80)) id).acc? 20).any (fun a => a.fatalLane == some (0, 0x12, 0x80)) = true := by
  decide +kernel

def heldS : State := { dataW (grp .a) with records := [{ ctx := 0, body := [], team := 1 }], batches := [{ ctx := 0, recs := [[1]], acc := 20 }] }

theorem wit_rings : (heldS.records.any (fun h => h.ctx == 0) && heldS.errorFits 0 && heldS.batches.any (fun b => b.ctx == 0) && heldS.batchFits 0 1) =
    true := by decide +kernel

/-- Both slices of the group wait for a queue that the other would fill. -/
def stuckS : State :=
  let w := fun (x : SliceSt) (q : Nat) => { x with frags := x.frags.map fun f => { f with wait := .pop q 1 0 } }
  grpW .a fun g => { g with a := w g.a 7, c := w g.c 0 }

theorem wit_deadlock : (stuckS.team? 1).any (fun t => t.life.runs && t.groups.length == 1 && t.groups.all fun g => stuckS.deadlocked t g) = true := by
  decide +kernel

def barS : State :=
  let s := (grp .a).updCtx 0 fun c => { c with barto := 1 }
  { s with time := 1000, teams := s.teams.map fun (t : Team) => { t with barA := [{ gid := 2, lanes := 1, at_ := 0 }] } }

theorem wit_barrier : (barS.team? 1).any (fun t => t.life.runs && (t.arrivals .a).any (fun a => a.at_.toNat + (barS.ctx t.ctx).barto.toNat * 1000 ≤ 1000) &&
    t.groups.any fun g => t.missing .a g != 0) = true := by decide +kernel

/-- Home 0 with a migration ring at IA 0x50000 and a page table: root at 0x10000, second level at 0x20000, whose entry 0 is a 2 MiB leaf. -/
def migS (cmd : List Byte) : State :=
  let s := (grp .a).updHome 0 fun h => { h with tlb := [{ base := 0, bits := 21, leaf := 3, at_ := 0 }] }
  let s := (({ s with stamps := houseFrames } : State).setReg 0 0x10 8 0x50000).setReg 0 0x18 4 1
  let s := s.setReg 0 0 8 (1 + 16 * 2 ^ 28)
  ((s.memWrite 0x10000 (plain (leBytes 8 (1 + 32 * 2 ^ 28)))).memWrite 0x20000 (plain (leBytes 8 3))).memWrite 0x50000 (plain cmd)

/-- Page 0 to the frame at 2 MiB. -/
def migCmd : List Byte := leBytes 8 0 ++ leBytes 8 (512 * 2 ^ 28) ++ List.replicate 16 0

theorem wit_migprod : ((migS []).migBase 0 == 0x50000 && homeOf ((migS []).migBase 0) == 0 && [1, 64].all fun v => (v + 2 ^ 32 - (migS []).migCons 0) %
    2 ^ 32 ≤ 64) = true := by decide +kernel
theorem wit_migration : ([migCmd, List.replicate 32 0xFF].map fun c =>
    let s := migS c
    (decide (s.migBase 0 ≠ 0 ∧ (s.home 0).migNext ≠ s.migProd 0 ∧ (s.home 0).migs.length < 8),
      match (s.updHome 0 fun x => { x with migNext := 1 }).migCheck 0 0 ((s.hwRead (s.migAt 0 0) 32).getD (List.replicate 32 0)) with
      | .ok m => some m.bits
      | .error _ => none)) = [(true, some 21), (true, none)] := by decide +kernel

def migOf (frozen : Bool) : Mig :=
  { cmd := 0, page := 0, bits := 21, leafAt := 0x20000, oldF := 0, newF := 0x200000, thresh := 32, maxRnd := 8, round := 1, dirty := [], frozen := frozen,
    reads := [], acks := [] }

theorem wit_rounds : ([true, false].all fun f => let s := (migS migCmd).updHome 0 fun x => { x with migs := [migOf f] }
    s.mig? 0 0 == some (migOf f) && !s.migFlying (migOf f)) = true := by decide +kernel

/-- `dataW` with the procedural range table, the context table and the graphics table of home 0 at IAs 0x60000, 0x40000 and 0x70000. -/
def tableS (at_ : Nat) (bs : List Byte) : State :=
  ((((dataW (grp .a)).setReg 0 8 8 0x60000).setReg 0 0x10010 8 0x40000).setReg 0 0x10018 8 0x70000).memWrite at_ (plain bs)

def prtBytes (v : Nat) : List Byte :=
  leBytes 8 (v + 0x100000) ++ leBytes 4 15 ++ leBytes 4 0 ++ List.replicate 24 0 ++ leBytes 8 0 ++ leBytes 8 0x40 ++ leBytes 8 0x80

theorem wit_prt : ([0, 1, 3].map fun v => let s := tableS 0x60000 (prtBytes v)
    (s.hwRead (s.reg 0 8 8) 64).map fun bs => (bitN (fieldAt bs 0 8) 0, s.prtBad 0 bs (prtOf 0 bs))) = [some (false, false), some (true, false), some (true, true)] := by
  decide +kernel

theorem wit_fill_timeout : (let m := { mergeOf 1 0 with prt := { range0 with ptmo := 1 } }
    let s := (ranged .a id 4 0x80).updHome 0 fun x => { x with merges := [m] }
    (s.merge? 0 0 1).any fun m => m.prt.ptmo != 0 && decide (m.since.toNat + m.prt.ptmo * 16000 ≤ 16000)) = true := by decide +kernel

theorem wit_surface : ([0, 1, 3].map fun (v : Byte) => let s := tableS 0x80000 (v :: surface.drop 1)
    (s.phys s.surfBase).bind fun _ => (s.hwRead s.surfBase 64).map fun bs => (bitN (fieldAt bs 0 8) 0, ({ s with descs := [] } : State).surfBad 0 bs)) =
      [some (false, false), some (true, false), some (true, true)] := by decide +kernel

/-- A descriptor of context 5 with 2^`lq` launch packets. -/
def ctxBytes (v lq : Nat) : List Byte :=
  leBytes 4 (v * 2 ^ 31) ++ List.replicate 12 0 ++ leBytes 4 lq ++ List.replicate 20 0 ++ leBytes 4 6 ++ List.replicate 468 0

theorem wit_context : ([(0, 4), (1, 4), (1, 12), (1, 13)].map fun (x : Nat × Nat) => let s := tableS 0x40A00 (ctxBytes x.1 x.2)
    let bs := s.hwBytes (s.descAt 5) 512
    (bitN (fieldAt bs 0 4) 31, descBad 5 bs, (s.ctx 5).valid, s.ctxBusy 5)) =
      [(false, false, false, false), (true, false, false, false), (true, false, false, false), (true, true, false, false)] := by decide +kernel

theorem wit_graphics : ([(0, 2), (1, 2), (1, 10), (1, 11)].map fun (x : Nat × Nat) => let s := tableS 0x70140 (leBytes 8 x.1 ++ leBytes 4 x.2)
    let bs := s.hwBytes (s.gfxAt 5) 64
    (bitN (fieldAt bs 0 8) 0, gfxBad bs, s.gfx.isEmpty)) = [(false, false, true), (true, false, true), (true, false, true), (true, true, true)] := by
  decide +kernel

/-! ## Events: launches, storage and the issue cycle -/

/-- Context 0 with its launch ring of 2^4 packets at IA 0x50000 and `n` packets written. -/
def ringS (n : Nat) (ls : List Launch) : State :=
  let s := ((dataW (grp .a)).setReg 0 0x10010 8 0x40000).updCtx 0 fun c => { c with lqbase := 0x50000, lqlog := 4 }
  { s.memWrite 0x40014 (plain (leBytes 4 n)) with launches := ls }

theorem wit_kick : ([16, 17].all fun n => (ringS n []).ctxBase != 0 && ((ringS n []).ctx 0).valid &&
    ringCount ((ringS n []).descNat 0 20) ((ringS n []).ctx 0).lqcons.toNat == n && ((ringS n []).ctx 0).lqlog == 4) = true := by decide +kernel

/-- Another context holds every core but core 0. -/
def oneCore (s : State) : State := { s with cores := s.cores.take 1 ++ List.replicate 159 { Core.reset with held := some (9, 9) } }

/-- A state with no team, in which one launch has a place. -/
def placeS : State := oneCore { ringS 0 [aLaunch 40] with teams := [] }

/-- The next turn is of launch `lid`, at level `lv`, and of the kind `p`. -/
def turnIs (s : State) (lid lv : Nat) (p : Turn → Bool) : Bool :=
  s.turn.any (fun x => x.1.lid == lid && p x.2) && s.turn == s.turnAt lv

def isTeam (t : Turn) : Bool := match t with
  | .team _ => true
  | _ => false

theorem wit_place : turnIs placeS.readHeaders.aged 40 3 isTeam = true := by decide +kernel

/-- Core 0 is filled by a team of a lower level. -/
def fullS : State :=
  let s := grpW .a fun g => { g with quarters := full }
  oneCore { s with time := 100000, launches := [aLaunch 40] }

theorem wit_reserve : (fullS.launch? 40).any (fun l => fullS.waiting l && !l.dl && l.resv.isNone && (fullS.launches.all fun m => m.lv ≤ l.lv) &&
    decide (l.waits.toNat + 100000 ≤ fullS.time.toNat) && (fullS.turnOf l).isNone &&
      ((fullS.without l.lv).turnOf l).any fun t => t.cores != []) = true := by decide +kernel
theorem wit_aging : (let s := (ringS 0 [{ aLaunch 40 with level := 20 }]).updCtx 0 fun c => { c with agelim := 1 }
    (s.launch? 40).any fun l => s.waiting l && !l.dl && (s.ctx l.ctx).agelim != 0 && decide (l.lv ≤ 21) && l.next == 0) = true := by decide +kernel
theorem wit_deadline : (let s := ringS 0 [{ aLaunch 40 with dl := true, dltime := 100, tlead := 100 }]
    (s.launch? 40).any fun l => l.dl && l.checked && !l.holding && decide (l.start ≤ (s.time.toNat : Int))) = true := by decide +kernel
theorem wit_kick_ready : (ringS 0 [aLaunch 40]).testReady.launches.any (fun l => l.header.isNone) = true := by decide +kernel

def restoring (life : TeamLife) (seq : Nat) : State :=
  let s := (dataW (grp .a)).updCtx 0 fun c => { c with savebase := 0x30000 }
  let s := s.memWrite 0x30000 (plain (leBytes 4 1 ++ leBytes 4 seq))
  oneCore { s with teams := [{ stoppedTeam 0 life with launch := 40 }], launches := [aLaunch 40], saves := [{ ctx := 0, c := 70, mask := 0 }] }

def isBack (t : Turn) : Bool := match t with
  | .back tid _ => tid == 50
  | _ => false

theorem wit_team_restore : ([(6, 1), (7, 0)].all fun (x : Nat × Nat) => let s := restoring (.stopped 7 0 1 none) x.1
    turnIs s.aged 40 3 isBack && (s.team? 50).any fun t => t.life == .stopped 7 0 1 none && s.aged.turn.any fun y =>
      let u := s.aged.served y.1
      u.checkSaved t (u.hwGet (u.ctx t.ctx).savebase.toNat t.imageLen) == x.2) = true := by decide +kernel
theorem wit_team_back : (let s := restoring .placing 0
    (s.team? 50).any (fun t => t.life == .placing) && turnIs s.aged 40 3 isBack) = true := by decide +kernel

/-- The group is in the green room, with or without another in its team. -/
def greenS (two : Bool) : State :=
  let s := grpW .a fun g => { g with life := .green }
  { s with teams := s.teams.map fun (t : Team) => { t with groups := if two then t.groups ++ t.groups.map fun g => { g with gid := 3 } else t.groups } }

theorem wit_retire : ([false, true].all fun b => ((greenS b).teamOf? 2).any fun t => (t.group? 2).any fun g => g.life == .green && t.life == .running &&
    (greenS b).drained 2 && (t.groups.all fun x => x.gid == 2) == !b) = true := by decide +kernel

/-- The C-slice waits in RACQ for five blocks, in a full core or with room. -/
def racqS (quarters : List Nat) : State :=
  let wait := fun (x : SliceSt) => { x with frags := x.frags.map fun f => { f with wait := .racq 5 } }
  grpW .c fun g => { g with held := 4, quarters := quarters, a := wait g.a, c := wait g.c }

theorem wit_racq_grant : ((racqS []).teamOf? 2).any (fun t => (t.group? 2).any fun g => g.racq? == some 5 && t.life.holds &&
    (racqS []).usedQuarters 0 == [] && ((racqS []).core 0).reserveUnits + (racqS []).prompterUnits 0 == 32 && takeQuarters (quartersOf g.width) (5 - g.held) [] ==
      some [0, 1, 2, 3] && decide (32 ≤ wholeFree [0, 1, 2, 3])) = true := by decide +kernel

/-- All but unit 255, which the emergency reserve keeps. -/
def most : List Nat := full.dropLast

theorem wit_emergency : (let s := racqS most
    s.coreIdle 0 && (((s.coreGroups 0).filter fun g => g.life == .resident).find? fun g => g.racq?.isSome).any fun g => g.racq? == some 5 && g.held == 4 &&
      s.usedQuarters 0 == most && takeQuarters (quartersOf g.width) 1 most == some [1020, 1021, 1022, 1023] && 4 ≤ (s.core 0).reserve) = true := by
  decide +kernel

/-- The served fragment waits and the other does not. -/
def switchS : State := sliceW .a fun x =>
  { x with frags := x.frags.map (fun f => { f with wait := .pop 7 1 0, mask := 1 }) ++ x.frags.map (fun f => { f with slot := 1, mask := 2 }) }

theorem wit_switch : (switchS.teamOf? 2).any (fun t => (t.group? 2).any fun g => switchS.switchDue t g .a) = true := by decide +kernel

/-- A fragment that waits for the word at its PC. -/
def fetchS (s : State) : State :=
  let s := s.updSlice 2 .a fun x => { x with frags := x.frags.map fun f => { f with wait := .fetch } }
  s.updCore 0 fun k => { k with icache := [] }

/-- How the fetch ends. -/
def fetchEnds (s : State) : Option Nat :=
  (s.issuer { gid := 2, sl := .a, slot := 0 }).bind fun x =>
    if x.2.2.wait == .fetch && s.codeMissing x.1 x.2.1 x.2.2 then
      match (s.fillWord { gid := 2, sl := .a, slot := 0 } x x.2.2.pc.toNat).1 with
      | .ok _ => some 0
      | .later => some 1
      | .trap _ _ => some 2
      | .wait _ => some 3
      | .miss _ _ _ _ => some 4
    else none

/-- Window 0 of the group's context: its word 0, its home and its IA in units of 64 KiB. -/
def win0 (s : State) (w0 : W32) (home at_ : Nat) : State := s.updCtx 0 fun c => { c with vrg := [w0, BitVec.ofNat 32 (home * 2 ^ 24), 0, BitVec.ofNat 32 at_] ++ c.vrg.drop 4 }

/-- The page at 2 MiB of home 0 is not mapped. -/
def missS (fqlog : Nat) : State := ((win0 (migS []) 0x9 0 32).setReg 0 0x10010 8 0x40000).updCtx 0 fun c => { c with fqlog := fqlog }

/-- The word is read, comes by a message from a peer, traps, waits for a fill, or misses its page. -/
theorem wit_fetch : [dataW (grp .a), win0 (grp .a) 0x9 9 0, grp .a,
      win0 ((ranged .a id 1 0x80).updHome 0 fun x => { x with merges := [mergeOf 0 0] }) 0x19 0 16, missS 6].map (fun s => fetchEnds (fetchS s)) =
    [some 0, some 1, some 2, some 3, some 4] := by decide +kernel
theorem wit_fetch_queue : ([5, 6, 16, 17].map fun n => (missS n).queueOk 0) = [false, true, true, false] := by decide +kernel

/-! ## Events: graphics and composition -/

def triangle (x : W32) : MeshOut :=
  { verts := [List.replicate 16 0, x :: List.replicate 15 0, 0 :: x :: List.replicate 14 0], prims := [0x00020100], ended := true, nvert := 3, nprim := 1 }

/-- `dataW` with a pool of bins and one draw. -/
def drawS (d : Draw) (pool : Nat) : State :=
  let s := ((dataW (grp .a)).setReg 0 0x10020 8 0x90000).setReg 0 0x10028 8 pool
  { s with draws := [d], teams := [] }

theorem wit_packet_start : ([0, 0x40].all fun (b : Byte) => let d := { drawOf .queued with bytes := [0, 0, 0, b] ++ List.replicate 188 0 }
    let s := drawS d 0
    s.draws.any (fun d => d.ctx == 0 && d.header.isNone && d.stage == .queued) && d.isCapture == (b == 0x40) && s.draw? 9 == some d &&
      s.eventMet (BitVec.ofNat 64 (fieldAt d.bytes 48 8)) (BitVec.ofNat 64 (fieldAt d.bytes 56 8))) = true := by decide +kernel

/-- What decides a binning: the target, whether the draw is dropped, and whether it touches a tile. -/
def binCase (s : State) (did : Nat) : Option (Option (Bool × Bool)) :=
  (s.draw? did).bind fun d =>
    if d.stage = .mesh ∧ !d.fatal ∧ s.launches.all (fun l => l.lid != d.launch) ∧ s.teams.all (fun t => t.kind.draw? != some did) then
      some ((s.targetOf? d).map fun f =>
        let all := (d.outputs.flatMap fun o => o.2.2.1.passed o.1 o.2.1).mergeSort fun a b => primLe a.order b.order
        let prims := all.filter fun p => !(primTiles p.words f.w f.h).isEmpty
        let tiles := (prims.flatMap fun p => primTiles p.words f.w f.h).eraseDups
        let lists := tiles.map fun t => (t, (prims.zipIdx.filter fun p => (primTiles p.1.words f.w f.h).contains t).map (·.2))
        let n := (binContents prims lists).length
        (s.binBase == 0 || s.binLen % 2 ^ 32 == 0 || decide (d.binmax < n) || decide ((s.binFree did).length < n), lists.isEmpty))
    else none

def binBytes (target max : Nat) : List Byte := List.replicate 28 0 ++ [1, 4, 0, 0] ++ leBytes 4 target ++ leBytes 4 0 ++ leBytes 4 max ++ List.replicate 148 0

theorem wit_binning : ([(0xFFFF, 2, []), (0, 1, [(1, 0, triangle 0x41000000, 0)]), (0, 2, []), (0, 2, [(1, 0, triangle 0x41000000, 0)])].map
    fun (x : Nat × Nat × List (Nat × Nat × MeshOut × Nat)) =>
      binCase (drawS { drawOf .mesh with bytes := binBytes x.1 x.2.1, outputs := x.2.2 } 8) 9) =
    [some none, some (some (true, false)), some (some (false, true)), some (some (false, false))] := by decide +kernel

def tilesD (ps : List TilePass) (prims : List BinPrim) : Draw :=
  { drawOf .tiles with bytes := binBytes 0 2, passes := ps, prims := prims, lists := [(0, List.range prims.length)],
                       fkern := { fetchKernel with ablk := 1, cmin := 1, grps := 16 } }

/-- `drawS` with a tile launch for its draw; core 0 is the only one open. -/
def tileTurns (d : Draw) : State :=
  oneCore { drawS { d with launch := 40 } 8 with launches := [{ aLaunch 40 with kind := .tile 9, kern := d.fkern }] }

/-- The dispatcher's next turn is of the tile launch, and it is of the kind `p`. -/
def tileTurn (d : Draw) (p : Turn → Bool) : Bool :=
  let s := (tileTurns d).aged
  s.turn.any fun x => p x.2 && (s.tileDraw x.1).any fun y => y.1.did == 9

theorem wit_tile_start : tileTurn (tilesD [] ((triangle 0x41000000).passed 1 0)) (fun t => match t with
    | .pass tile core _ => tile == 0 && core == 0
    | _ => false) = true := by decide +kernel

/-- `d` with its core held since the start, at ten milliseconds. -/
def heldDraw (d : Draw) : State := { (drawS d 8).updCore 0 fun k => { k with held := some (3, 0) } with time := 10 ^ 7 }

theorem wit_tile_abandon : (let s := heldDraw (tilesD [passOf none] [])
    (s.draw? 9).any fun d => d.passes.any fun p => ((s.core p.core).held.isSome || !(s.core p.core).dlHeld.isEmpty) && s.budgetSpent p.core) =
    true := by decide +kernel

def invokes (none_ : Bool) (t : Turn) : Bool := match t with
  | .invocation _ _ fit => fit.isNone == none_
  | _ => false

/-- A triangle between the pixel centres covers nothing; one that covers pixels starts groups. -/
theorem wit_invocation_empty : tileTurn (tilesD [passOf none] ((triangle 0x3E000000).passed 1 0)) (invokes true) = true := by decide +kernel
theorem wit_invocation : tileTurn (tilesD [passOf none] ((triangle 0x41000000).passed 1 0)) (invokes false) = true := by decide +kernel

theorem wit_invocation_over : (let s := drawS (tilesD [{ passOf none with nextPrim := 1 }] ((triangle 0).passed 1 0)) 8
    (s.draw? 9).any fun d => !d.fatal && (s.targetOf? d).isSome && d.passes.any (fun p => d.passOver p && !s.passSpent p) &&
      (s.release 0 .dev).unacked.isEmpty && !((s.send 8 2 false 0x02 0 0 []).release 0 .dev).unacked.isEmpty) = true := by decide +kernel

theorem wit_write_out_spent : (let s := heldDraw (tilesD [{ passOf none with nextPrim := 1 }] ((triangle 0).passed 1 0))
    (s.draw? 9).any fun d => !d.fatal && (s.targetOf? d).isSome && d.passes.any fun p => d.passOver p && s.passSpent p) = true := by decide +kernel

/-- Output 0 with a period of one nanosecond times `per`, a size, and its control register. -/
def outS (ctl : Nat) (per : Nat) (size : Nat) : State :=
  (((State.reset.setReg 0 0x100018 4 size).setReg 0 0x10001C 4 ctl).setReg 0 0x100020 8 (per * 65536)).setReg 0 0x100028 8 0

theorem wit_field : ((outS (2 ^ 31) 16 0).viewEn 0 && ((outS (2 ^ 31) 16 0).fieldNow 0).isSome) = true := by decide +kernel

/-- Without a period; a field of one pixel each ns; ten pixels each ns are 200 GB/s, and eleven are too many; so are five beside six that
another output takes. -/
theorem wit_bandwidth : [(outS 0 0 0, 0), (outS 0 1 0, 0), (outS 0 1 9, 0), (outS 0 1 10, 0),
      ((((outS (2 ^ 31) 1 5).setReg 0 0x100058 4 4).setReg 0 0x100060 8 65536), 1)].map (fun x =>
    (x.1.bandwidth x.2 false).map fun b => x.1.fitsBandwidth x.2 b) = [none, some true, some true, some false, some false] := by decide +kernel
theorem wit_enabled : [bitN ((outS (2 ^ 31) 1 0).viewReg 0 0x1C 4) 31, bitN ((outS 0 1 0).viewReg 0 0x1C 4) 31] = [true, false] := by decide +kernel
theorem wit_hdcp : (let s := (outS (2 ^ 31) 16 0).updView 0 fun x => { x with hdcp := true }
    let s1 := s.updView 0 fun x => { x with hdcp := false }
    (s.view 0).hdcp && s1.viewEn 0 && !(State.reset.view 0).hdcp) = true := by decide +kernel

/-! ## Events: Vanar -/

/-- The ports are up, and slot 8 is listed as the first host. -/
def linkS (s : State) : State :=
  { s with urxia := { s.urxia with started := 4, listed := [8] }
           streams := s.streams.map fun x => { x with got := [3], held := [5] } }

theorem wit_link : [State.reset.linkOpen, (linkS State.reset).linkOpen] = [false, true] := by decide +kernel
theorem wit_arrivals : ([(8, 0), (8, 1023), (8, 3), (8, 5), (8, 1024), (8, 2 ^ 31 - 1), (8, 2 ^ 31), (9, 0)].map fun (x : Nat × Nat) =>
    (linkS State.reset).arrival x.1 (BitVec.ofNat 32 x.2)) = [.fresh, .fresh, .dup, .again, .far, .far, .dup, .unknown] := by decide +kernel
/-- A listed endpoint may kick; one whose slot is valid and lacks the right may not. -/
theorem wit_kicks : ([0, 2 ^ 63].map fun (v : Nat) =>
    let s := linkS ((State.reset.setReg 0 0x20100 8 v).setReg 0 0x20108 4 0x4000)
    (s.linkOpen, s.arrival 8 0 == .fresh, (s.endpoint 8).kick)) = [(true, true, true), (true, true, false)] := by decide +kernel
theorem wit_cfg : (((linkS State.reset).endpoint 8).cfg, cfgGood 0 4, cfgGood 0x3000000000008 8, cfgGood 2 4, cfgGood 0x4000000000000 4) =
    (true, true, true, false, false) := by decide +kernel
theorem wit_recovery : (let s : State := { State.reset with urxia := { Urxia.reset with recovery := true } }
    !s.ghost && s.urxia.recovery && s.arrival 14 0 == .fresh) = true := by decide +kernel

def endpointGo (ia : Nat) (write : Bool) : Bool :=
  let s := linkS (dataW (grp .a))
  s.linkOpen && s.arrival 8 0 == .fresh && (s.endpoint 8).owner != 0xFFF && !inAperture ia &&
    match s.gate (s.slotReq 8 write) ia with
    | (.go _ _ _, _) => true
    | _ => false

theorem wit_requests : (endpointGo 0x100 false && endpointGo 0x1FFF00 true && isPow2 256 && 0x100 % 256 == 0 && Encoding.aopTy 0 .b64 &&
    inAperture 0xFF0000000000 && 0xFF0000000000 % 8 == 0) = true := by
  decide +kernel

def msgOf (tries : Nat) (failed : List Nat) : Msg :=
  { seq := 7, cls := 1, rsp := false, type := 1, tag := 7, addr := 0, body := [], port := 0, tries := tries, failedPorts := failed,
    writers := [], sent := true, since := 0 }

/-- The response to the message numbered 3 is kept, and has been sent. -/
theorem wit_kept : (let s := (linkS State.reset).updStream 8 fun x => { x with out := [msgOf 0 []], stored := [{ req := 3, rsp := 7 }] }
    s.arrival 8 3 == .dup && (s.stream 8).out.any fun m => m.sent && (s.stream 8).stored.any fun y => y.req == 3 && y.rsp == m.seq) = true := by
  decide +kernel

def streamS (m : Msg) : State :=
  { (linkS (dataW (grp .a))).updStream 8 fun x => { x with out := [m], unackd := true } with time := 50000000 }

theorem wit_stream : (let s := streamS (msgOf 0 [])
    (s.stream 8).unackd && ((s.stream 8).sent? 7).any fun m => m.tries < 2 && !s.allFailed 8 m && m.since.toNat + s.rto ≤ s.time.toNat) = true := by
  decide +kernel
theorem wit_resend : (let s := streamS (msgOf 2 [])
    ((s.stream 8).sent? 7).any fun m => 2 ≤ m.tries && !s.allFailed 8 m && m.since.toNat + s.rto ≤ s.time.toNat) = true := by decide +kernel
/-- A failed message carries the READ of a load, the WRITE of a store, or a unit of an engine. -/
theorem wit_path_fails : (let m := msgOf 2 [0, 1]
    let unit : UnitSt := { unit := 0, st := .sent 8 7, data := [], wr := 0, dest := false }
    [{ streamS m with accs := [accOf .load .g .none (.sent 8 7)] }, { streamS m with accs := [accOf .store .g .none (.sent 8 7)] },
      { streamS m with engs := [{ engO .copy false false with parked := [unit] }] }].map fun (s : State) =>
        let s1 := (s.dropMsg 8 7).forgetRead 8 7
        ((s.stream 8).sent? 7 == some m && decide (m.since.toNat + s.vtmo ≤ s.time.toNat) && s.allFailed 8 m && !m.rsp && m.cls != 0,
          (findAcc s1.accs (.sent 8 7)).map fun x => x.1.kind, (findUnit s1.engs (.sent 8 7)).isSome)) =
    [(true, some .load, false), (true, some .store, false), (true, none, true)] := by decide +kernel
theorem wit_step_timeout : (let s : State := { State.reset with launches := [{ aLaunch 0 with cgid := 5, abort := some (true, 1) }], time := 50000000 }
    s.launches.any fun l => l.cgid == 5 && l.abort.isSome && l.abortAt.toNat + s.vtmo ≤ s.time.toNat) = true := by decide +kernel

/-! ## Events: power and platform -/

def stepS (st : PowerStep) : State := State.reset.updCluster 39 fun k => { k with step := st }

theorem wit_ramps : [PowerStep.rampUp, .rampDown, .clock, .crossing].all (fun st => ((stepS st).cluster 39).step == st) = true := by decide +kernel

def limS : State := { State.reset with urxia := { Urxia.reset with tables := [{ medium := 0, plim := 100, minflow := 0, bands := [] }] } }

/-- More than P_lim, less than 95 % of it, and between. -/
theorem wit_power : limS.limPower = some 100 ∧ 100 < 101 ∧ 94 * 100 < 95 * 100 ∧ 95 * 100 ≤ 95 * 100 := by decide +kernel

theorem wit_cooling : ({ State.reset with time := 10 ^ 9 } : State).board.reportAt.toNat + 10 ^ 9 ≤ ({ State.reset with time := 10 ^ 9 } : State).time.toNat := by
  decide

theorem wit_ghost : (bitN 0x40 6 && !State.reset.ghost && State.reset.ghostRefusal 32 == 0 && State.reset.ghostRefusal 33 == 4 &&
    (grp .a).ghostRefusal 0 == 1 && (outS (2 ^ 31) 16 0).ghostRefusal 0 == 2) = true := by decide +kernel
theorem wit_wake : (let s := { State.reset.setReg 0 0x1008E 2 1 with ghost := true }
    s.ghost && !s.board.wakestat.getLsbD 0 && s.reg 0 0x1008E 2 != 0 && State.reset.reg 0 0x1008E 2 == 0) = true := by decide +kernel
theorem wit_start_up : [0, 1, 2, 3].all (fun n => let s : State := { State.reset with urxia := { Urxia.reset with started := n } }
    !s.ghost && !s.urxia.recovery && s.urxia.failed.isNone && s.urxia.started == n) = true := by decide +kernel

/-- The mailbox works on operation `op` with argument `arg`. -/
def mailS (op arg : Nat) : State := ((State.reset.setReg 0 0x300000 4 (2 ^ 31 + op)).setReg 0 0x300008 4 arg).updHome 3 fun x => { x with keys := [(255, 1)] }

theorem wit_mailbox : ([1, 2, 3, 4].all (fun op => (mailS op 0).mailboxAt op) &&
    (mailS 3 0x300).keyArg == (0, 3) && (mailS 3 0x4FF).keyArg == (255, 4) && (mailS 3 0x3FF).keyArg == (255, 3) && (mailS 3 0x301).keyArg == (1, 3) &&
    (((mailS 3 0).home 3).keys.map (·.1)) == [255]) = true := by decide +kernel
theorem wit_register_write : (let bs := leBytes 4 0x80000001
    touches 0x300000 bs 0x300000 4 && touches 8 bs 8 8 && !touches 0x300000 bs 8 8 && !touches 0x300008 bs 0x300000 4 && !State.reset.ghost) = true := by decide +kernel

theorem wit_time : ([TimeSource.gptp, .ptp].all fun x => let s : State := { linkS State.reset with timeSource := some .gptp }
    s.linkOpen && (s.timeSource == some x) == (x == .gptp)) = true := by decide +kernel

/-! ## Fetch, issue and the whole machine -/

/-- The one picked fragment, its window and its word. -/
def fetchIs (s : State) (p : Option CodeSlot → Bool) : Bool :=
  s.due.isEmpty && s.picked.any fun w => (s.issuer w).any fun x =>
    match (s.ctx x.1.ctx).fetchWindow x.2.2.pc.toNat with
    | .ok win => p ((s.core x.2.1.core).code? (win.iaOf x.2.2.pc.toNat) (s.ctx x.1.ctx).owner ((s.ctx x.1.ctx).prot && win.prot))
    | .error _ => false

theorem wit_fetch_word : fetchIs (State.reset.withFetchWord 96 0x001C00000000000000000000) (fun k => k.any fun k => k.poison.isNone &&
    decide (decode k.word = .ok (.nop nog))) = true := by decide +kernel
theorem wit_fetch_none : fetchIs ((State.reset.withFetchWord 96 0).updCore 0 fun k => { k with icache := [] }) (fun k => k.isNone) = true := by
  decide +kernel
theorem wit_due : ({ State.reset with due := [.commit] } : State).due = .commit :: [] := rfl

/-- Fragments offered, and an input that has arrived. -/
theorem wit_offered : (grp .a).due = [] ∧ (grp .a).picked = [] ∧ ({ grp .a with offered := [⟨2, .a, 0⟩] } : State).offered ≠ [] := by decide
theorem wit_inbox : ({ State.reset with inbox := [.commit] } : State).inbox = .commit :: [] ∧ State.reset.offered = [] := by decide

/-- In the ghost light every move is an event, whatever the free choices are. -/
theorem wit_moves (s : State) (hg : s.ghost = true) : ∃ i, s.moves[Config.nextStep s.free % s.moves.length]? = some (.event i) := by
  have hm : s.moves = s.eventMoves := by rw [State.moves, hg]; exact List.append_nil _
  have hpos : 0 < s.moves.length := by
    rw [hm, State.eventMoves, List.length_map]
    apply List.length_pos_of_mem (a := .ghostLightTimeout)
    simp [hg, State.mayCome, actsInGhost]
  have hlt := Nat.mod_lt (Config.nextStep s.free) hpos
  have hmem := List.getElem_mem hlt
  have hall : ∀ m ∈ s.moves, ∃ i, Move.event i = m := by
    intro m h
    rw [hm] at h
    obtain ⟨i, -, hi⟩ := List.mem_map.1 h
    exact ⟨i, hi⟩
  obtain ⟨i, hi⟩ := hall _ hmem
  exact ⟨i, by rw [List.getElem?_eq_getElem hlt, hi]⟩

/-- The unassigned opcodes at the ends of the ranges, fetched. -/
theorem wit_unassigned : ([0x013, 0x07F, 0x09F, 0x0FF, 0x11A, 0x17F, 0x188, 0x1FF, 0x211, 0x27F, 0x292, 0x2FF, 0x305, 0x37F, 0x395, 0x3FF].all fun n =>
    fetchIs (State.reset.withFetchWord 96 (n * 2 ^ 86)) fun k => k.any fun k => k.poison.isNone && (Raw.ofWord k.word).opc.toNat == n) = true := by
  decide +kernel

/-- What the checks of an instruction in `s` meet: slice, privilege, encoding, width and mask. -/
def checkCase (s : State) (i : Instr) (h : Hdr) : Option (List Bool × Nat) :=
  (s.cur.bind fun w => s.env w h).bind fun e => (encodeRaw i).map fun r =>
    let opc := r.opc.toNat
    ([opcSlice opc == none || opcSlice opc == some e.sl, privFault opc (idxOf i) e.c.owner, (i.encFault e.encCtx).isSome, needsWidth opc,
      needsAll opc && allLanes e.g.width &&& ~~~e.exec != 0], e.g.width)

def narrow (sl : Slice) : State := grpW sl fun g => { g with width := 16 }
def noLane : Hdr := { nog with gp := 1 }
def user (s : State) : State := s.updCtx 0 fun c => { c with owner := 5 }

theorem wit_checks : [checkCase (grp .a) (.fadd nog v4 v6 v8 (maOf .f32 0)) nog, checkCase (user (grp .a)) (.preempt nog (.sca 4) (.imm 1) (.imm 2)) nog,
      checkCase (grp .c) (.fadd nog v4 v6 v8 (maOf .b32 0)) nog, checkCase (narrow .c) (.had nog (.vec 0) (.vec 0) 0 5) nog,
      checkCase (grp .a) (.bcopy noLane (.sca 24) (engM false false)) noLane] =
    [some ([false, false, false, false, false], 64), some ([true, true, false, false, false], 64), some ([true, false, true, false, false], 64),
      some ([true, false, false, true, false], 16), some ([true, false, false, false, true], 64)] := by decide +kernel

/-- A handled trap, and a fatal one: in a handler, of a cause that is not handled. -/
def trapS (handler : Bool) (mask : W32) : State :=
  let s := (grp .a).updCtx 0 fun c => { c with trapvec := 0xC0, trapmask := mask }
  s.updSlice 2 .a fun x => { x with frags := x.frags.map fun f => { f with handler := handler } }

theorem wit_traps : ([(false, 0x10000), (true, 0x10000), (false, 0)].map fun (x : Bool × W32) => let s := trapS x.1 x.2
    (s.cur.bind fun w => s.env w nog).map fun e =>
      ((s.teamOf? e.gid).any fun tm => decide (s.team? tm.id = some tm) && (tm.group? e.gid).isSome && tm.life == .running,
        e.f.handler, (s.ctx e.c.num).handles 0x10, pcAligned (s.ctx e.c.num).trapvec)) =
      [some (true, false, true, true), some (true, true, true, true), some (true, false, false, true)] := by decide +kernel

theorem wit_frames : ([Instr.iadd nog v4 v6 v8 (maOf .s32 0), .isetp nog (.pred 7) v6 v8 (maOf .s32 0), .mov nog (.vec 62) v6 (maOf .b64 0)].all
    fun i => formMeets intForm (grp .a) i) && formMeets cvtForm (grp .c) (.cvt nog v4 v6 { maOf .f32 0 with sub := 0x0C }) &&
    formMeets lateForm (grp .c) (.frcp nog v4 v6 (maOf .f32 0)) && ((grp .a).group? 2).isSome && ((grp .c).group? 2).isSome = true := by
  decide +kernel

theorem wit_memory : State.reset.mem.wf = true ∧ Memory.ok regDefault State.reset.regs = true ∧ Core.reset.spad.wf = true := by decide
theorem wit_acquire : (let s := State.reset.updCore 159 fun k => { k with l1 := [lostLine, { lostLine with line := 2, dirty := 0 }] }
    159 < s.cores.length && (s.core 159).l1.any (·.isDirty)) = true := by decide +kernel
theorem wit_step_keeps : (grp .a).mem.wf = true ∧ goesOn (step { State.reset with due := [.commit] }) := ⟨by decide +kernel, ⟨_, rfl⟩⟩
theorem wit_goes_on : ({ State.reset with due := [.commit], inbox := [.startUp true] } : State).onlyEvents = true := by decide +kernel

end Sys2Proof.Tests
end

