-- ==== Sys2Proof/Tests/Slice0.lean ====
section
/-!
SUPPORT. Tests: ill-formed instructions that the checks refuse, words written out from the encoding of the spec, and the worked
examples of the spec.
-/

namespace Sys2Proof.Tests

set_option Elab.async false

open Sys2Proof Sys2Proof.Machine

/-! ## Ill-formed instructions -/

/-- What the encoding checks of a C-slice of width 64 say. -/
def refusal (i : Instr) : Option EncFault := i.encFault { slice := .c, width := 64, cmin := 4, cmax := 16 }

theorem test_formed_guard : Instr.formed (.nop { nog with gn := true }) = false := by decide
theorem test_formed_unguarded :
    ([.brx { nog with gp := 1 } (.vec 1) { tgt := 0, join := 3 }, .callx { nog with gp := 1 } (.sca 8) (.sca 10) { tgt := 0, join := 0 },
      .ret { nog with gp := 1 } (.sca 8), .tret { nog with gp := 1 }] : List Instr).all (fun i => !i.formed) = true := by decide
theorem test_formed_join :
    ([.bra nog { tgt := 3, join := 3 }, .bra { nog with gp := 1 } { tgt := 3, join := 0 }, .call nog (.sca 8) { tgt := 3, join := 3 },
      .brq nog (.que 6) (.imm 3) { tgt := 3, join := 0 }] : List Instr).all (fun i => !i.formed) = true := by decide
theorem test_formed_target :
    ([.brx nog (.vec 1) { tgt := 1, join := 3 }, .callx nog (.sca 8) (.sca 10) { tgt := 1, join := 0 },
      .callx nog (.sca 8) (.sca 10) { tgt := 0, join := 1 }] : List Instr).all (fun i => !i.formed) = true := by decide
theorem test_formed_long_operand :
    ([.qpush nog (.que 0) (.long 5), .ldq nog (.que 0) (.vec 4) (.long 5) gMM, .ffma nog v4 v6 (.long 5) (mfOf .f32 (.vec 10)),
      .iadd nog v4 (.long 5) v8 (maOf .b32 0)] : List Instr).all (fun i => !i.formed) = true := by decide
theorem test_formed_long_type : Instr.formed (.iadd nog v4 v6 (.long 5) (maOf .s32 0)) = false := by decide
theorem test_formed_long_modifier : Instr.formed (.fadd nog v4 v6 (.long 5) { maOf .f32 0 with sat := true }) = false := by decide
theorem test_formed_lop3_predicate : Instr.formed (.lop3 nog v4 v6 v8 { ty := .b32, c := .pred 1, truth := 0x96 }) = false := by decide
theorem test_formed_event : Instr.formed (.kick (.own 0)) = false := by decide
theorem test_well_formed_refusals :
    ([.iadd nog v4 v6 v8 (maOf .f32 0), .slip nog (.imm 129), .waitc nog (.imm 1) 1, .atom nog (.vec 4) v6 v8 (atomM 0),
      .vote nog v4 v6 (maOf .b32 0)] : List Instr).all (fun i => i.formed && (refusal i).isSome) = true := by decide +kernel
theorem test_well_formed : Instr.wellFormed { slice := .c, width := 64, cmin := 4, cmax := 16 } (.iadd nog v4 v6 v8 (maOf .b32 0)) = true := by
  decide +kernel

/-! ## Words of the spec -/

/-- The instruction of the words w0, w1 and w2. -/
def word (w0 w1 w2 : Nat) : Option Instr := decodeTableWord 96 (w0 + w1 * 2 ^ 32 + w2 * 2 ^ 64)

/-- R33. -/
theorem test_decode_iainv :
    word 0x18000000 0x00801080 0xE4DC0000 = some (.iainv nog (.sca 4) (.sca 6)) ∧
    word 1 0x00801280 0xE4DC0000 = some (.iainvAll nog (.sca 4)) ∧
    word 0x04000000 0x00801280 0xE4DC0000 = some (.iainv nog (.sca 4) (.imm 1)) := by decide +kernel

/-- R229: the conditional and the closing BRA of the loop. -/
theorem test_decode_bra :
    word 3 0x0C000000 0x00440000 = some (.bra { nog with gp := 1 } { tgt := 3, join := 3 }) ∧
    word 0x03FFFFFD 0 0x005C0000 = some (.bra nog { tgt := -3, join := 0 }) := by decide +kernel

/-- R245. -/
theorem test_decode_iadd : word 0x14C40000 0x10001000 0x201C0000 = some (.iadd nog (.vec 4) (.vec 4) (.vec 5) { maOf .s16 0 with sat := true }) := by
  decide +kernel

/-- R215. -/
theorem test_decode_fadd :
    word 0x1DC88100 0x16000000 0x402A0000 =
      some (.fadd { nog with gp := 2, gn := true, sw := true } (.vec 5) (.que 0) (.vec 7) { maOf .f32 0 with rnd := .rz, xlm := .xor, xls := 1 }) ∧
    word 0x00020080 0x0C0003A0 0x269C0000 = some (.movi nog (.vec 3) 0x40000401) := by decide +kernel

/-- R262: FFMA.F32 v8, v2, v3, q1. -/
theorem test_decode_ffma : word 0x0DC00402 0x20000800 0x40DC0000 = some (.ffma nog (.vec 8) (.vec 2) (.vec 3) (mfOf .f32 (.que 1))) := by
  decide +kernel

/-- R265: CVT.F32.E4M3.SAT v3, v2. -/
theorem test_decode_cvt : word 0x0A840007 0x0C000000 0x601C0000 = some (.cvt nog (.vec 3) (.vec 2) { maOf .e4m3 7 with sat := true }) := by
  decide +kernel

/-- R282 and R286: LDQ.B32 q1, [a4 + a6*4 + 16] and ATOM.XCHG.B32.AR.DEV q2, [a10], 0. -/
theorem test_decode_memory :
    word 0x18008004 0x04001000 0x801C0200 = some (.ldq nog (.que 1) (.vec 4) (.vec 6) { mmOf .b32 0 with iscale := 2, ofs := 4 }) ∧
    word 0x002B0600 0x08002A80 0x821C0200 = some (.atom nog (.que 2) (.vec 10) (.imm 0) { mmOf .b32 6 with scope := .dev, ord := .ar }) := by
  decide +kernel

/-- R289. -/
theorem test_decode_pfence : word 0x00100014 0 0x835C0000 = some (.pfence nog .pair 1 4) := by decide +kernel

/-- R306: MMA.F16.ACC v32, v0, v8. -/
theorem test_decode_mma :
    word 0x22208000 0x80000000 0xC01C0000 =
      some (.mma nog (.vec 32) (.vec 0) (.vec 8) { aty := .f16, bty := .f16, shape := 0, acc := true, nega := false, band := 0, sub := 0 }) := by
  decide +kernel

/-- R318: GETS.B64 s10, TRAPPC. -/
theorem test_decode_gets : word 0x00000212 0x28000000 0xE35C0080 = some (.gets nog (.sca 10) 0x12 true) := by decide +kernel

/-- Table 17-3: ST.B32.REL.DEV [s2], s13 and @p4 SLD.B32.PAIR a9, a4, s8. -/
theorem test_decode_tfence :
    word 0x002A0000 0x34800A80 0x809C0080 = some (.st nog (.sca 13) (.sca 2) (.imm 0) { mmOf .b32 0 with scope := .dev, ord := .rel }) ∧
    word 0x20100000 0x24001080 0x83D00000 =
      some (.sld { nog with gp := 4 } (.vec 9) (.vec 4) (.sca 8) { ty := .b32, scope := .pair, ssi := 0, nch := 0 }) := by decide +kernel

/-- The listings of the programs: BCOPY s20, s10; SPL p1, 0x26; GPL.WAIT s16; SEL.B32 v8, s7, s6, p1; @p4 FMUL.F32 v14, v14, 0.25;
GRANT s12, s0. -/
theorem test_decode_listings :
    word 0x00A00000 0x00805000 0xA19C0000 = some (.bcopy nog (.sca 20) { bar := 10, ssp := false, dsp := false, hint := 0 }) ∧
    word 0x18000403 0x20801C80 0x261C0000 = some (.sel nog (.vec 8) (.sca 7) (.sca 6) (mfOf .b32 (.pred 1))) ∧
    word 0x40000000 0x38003B9F 0x40900000 = some (.fmul { nog with gp := 4 } (.vec 14) (.vec 14) (.long 0x3E800000) (maOf .f32 0)) ∧
    word 0 0x30800000 0xE09C0080 = some (.grant nog (.sca 12) (.sca 0)) := by decide +kernel

/-- The opcode of the words of all ones is not assigned (R219). -/
theorem test_decode_ones : decode (BitVec.allOnes 96) = .error (.opcode 0x3FF) := by decide +kernel

/-! ## Worked examples of the spec -/

/-- R229: with p1 in every fourth lane, the BRA of the loop makes a join record of all lanes at a_done, where the taken lanes park, and the
other lanes go on behind it. -/
theorem test_bra_splits :
    (match exec (.bra { nog with gp := 1 } { tgt := 3, join := 3 }) (sliceW .a fun x => x.setPred 1 (allLanes 64) 0x1111111111111111) with
    | .next t => (t.group? 2).map fun g =>
        ((g.slice .a).joins.map fun j => (j.addr, j.mask, j.arrived), (g.slice .a).frags.map fun f => (f.pc, f.mask, f.wait == .none))
    | _ => none) =
      ((grp .a).group? 2).bind fun g => ((g.slice .a).frag? 0).map fun f =>
        ([(f.pc + 36, allLanes 64, 0x1111111111111111)], [(f.pc + 12, 0xEEEEEEEEEEEEEEEE, true)]) := by decide +kernel

/-- The lane-0 value of v4 after instruction `i` in `s`. -/
def v4After (i : Instr) (s : State) : Option W32 :=
  match exec i s with
  | .next t => ((t.group? 2).map fun g => ((g.slice .c).vreg 4 0).bits)
  | _ => none

/-- Lane 0 of a C-slice with v4, v6 and v8 set. -/
def lane0 (a b c : W32) : State :=
  sliceW .c fun x => ((x.setVreg 4 1 fun _ => Val.of a).setVreg 6 1 fun _ => Val.of b).setVreg 8 1 fun _ => Val.of c

/-- R245: 32,512 + 512 in S16 is 0x0000_7FFF with SAT and 0x0000_8100 without. -/
theorem test_iadd_s16 :
    v4After (.iadd nog v4 v4 v6 { maOf .s16 0 with sat := true }) (lane0 0x7F00 0x200 0) = some 0x7FFF ∧
    v4After (.iadd nog v4 v4 v6 (maOf .s16 0)) (lane0 0x7F00 0x200 0) = some 0x8100 := by decide +kernel

/-- R266: PACK.P1.E4M3 of 300.0 and −1.0 over 0x0000_5A3C. -/
theorem test_pack_keeps : v4After (.pack nog v4 v6 v8 (maOf .e4m3 1)) (lane0 0x5A3C 0x43960000 0xBF800000) = some 0xB8795A3C := by
  decide +kernel

/-- R267. -/
theorem test_prmt :
    (prmtVal 0x44332211 0x88776655 0x000214C7, prmtVal 0x44332211 0x88776655 0x0008011F, prmtVal 0x44332211 0x88776655 0x00000018) =
      (0x55667788, 0xFF1100FF, 0x11111100) := by decide +kernel

/-- R265: E4M3 of 300.0, 500.0 and 464.0 without and with SAT; S8 of −300.7 under RZ. -/
theorem test_cvt :
    ([0x43960000, 0x43FA0000, 0x43E80000].map fun v => (cvtVal .f32 .e4m3 .rne false (f32.val v), cvtVal .f32 .e4m3 .rne true (f32.val v))) =
      [(0x79, 0x79), (0x7F, 0x7E), (0x7E, 0x7E)] ∧
    cvtVal .f32 .s8 .rz false (f32.val 0xC396599A) = 0x80 := by decide +kernel

/-- R99: FDIV.F32.SAT of 1.0 by −0. -/
theorem test_fdiv_sat : flt2Val { maOf .f32 0 with sat := true } exactDiv 0x3F800000 0x80000000 = 0xFF7FFFFF := by decide +kernel

/-- R261: FFRC of −2^−30 under RNE and RZ, and of −0. -/
theorem test_ffrc :
    (flt1Val (maOf .f32 0) fracExact 0xB0800000, flt1Val { maOf .f32 0 with rnd := .rz } fracExact 0xB0800000,
      flt1Val (maOf .f32 0) fracExact 0x80000000) = (0x3F800000, 0x3F7FFFFF, 0) := by decide +kernel

/-- R94: the E2M1 codes 0xA and 0x7 are −1 and +6. -/
theorem test_e2m1 : (e2m1.val 0xA).eq (.fin true 1 1) = true ∧ (e2m1.val 7).eq (.fin false 6 1) = true := by decide +kernel

/-- R103: the first four elements of the F4D block with band scale 2.0. -/
theorem test_f4d :
    let b : Block := fun n => [0x10, 0xFE, 0x48, 0x2A, 0x71].getD n 0
    let el := fun (k : Nat) (y : Exact) => ((blockElem b k (.fin false 2 1) fun _ => 0).map fun x => x.eq y) == some true
    (el 0 (.fin true 5 16) && el 1 (.fin false 5 16) && el 2 (.fin false 5 32) && el 3 (.fin false 15 8)) = true := by decide +kernel

/-- R286: AMAX at 3.0 with −5.0 and then 4.0; a NaN magnitude becomes canonical. -/
theorem test_amax : (amax 0xC0A00000 0x40400000, amax 0x40800000 0x40A00000, amax 0xFFFFFFFF 0) = (0x40A00000, 0x40A00000, 0x7FC00000) := by
  decide +kernel

/-- R293: an engine's 8,192 bytes land at an object of quota 1 before MBEXP.ARV, whose step then completes the epoch. -/
theorem test_barrier :
    let o := ((BarObj.mk 0 0 1 0 0).land 8192).close
    (o.epoch, o.landed, o.posted) = (0, 8192, 0) ∧
    (let u := ((o.expect 8192).arrive 1).close
    (u.epoch, u.arrived, u.posted, u.reached o.ticket.toNat) = (1, 0, 8192, true)) := by decide +kernel

/-- R153: a width-64 group with four queues of depth 8 has 15 KiB of queue storage. -/
theorem test_queue_storage :
    (State.reset.withFetchWord 96 0).teams.all (fun (t : Team) => ({ t.kern with width := 64, qd := [8, 8, 8, 8] } : Kernel).queueUnits == 15) = true := by
  decide +kernel

/-! ## The algorithms that R196 names, by their published vectors -/

/-- FIPS 197, AES-256. -/
theorem test_aes : aesBlock (aesKeys ((List.range 32).map fun i => BitVec.ofNat 8 i)) ((List.range 16).map fun i => BitVec.ofNat 8 (17 * i)) =
    bigBytes 16 0x8EA2B7CA516745BFEAFC49904B496089 := by decide +kernel

/-- The GCM specification's test cases 13 and 14: the zero key and vector, with no plaintext and with 16 bytes of zeros. -/
theorem test_gcm :
    let ks := aesKeys (List.replicate 32 0)
    let iv : List Byte := List.replicate 12 0
    let ct := gcmStream ks iv (List.replicate 16 0)
    gcmTag ks iv [] [] = bigBytes 16 0x530F8AFBC74536B9A963B4F1C4CB738B ∧ ct = bigBytes 16 0xCEA7403D4D606B6E074EC5D3BAF39D18 ∧
      gcmTag ks iv [] ct = bigBytes 16 0xD0D1C8A799996BF0265B98B5D48AB919 := by decide +kernel

/-- RFC 4231, test case 2. -/
theorem test_hmac :
    hmac [0x4A, 0x65, 0x66, 0x65] (bigBytes 28 0x7768617420646F2079612077616E7420666F72206E6F7468696E673F) =
      bigBytes 32 0x5BDCC146BF60754E6A042426089575C75A003F089D2739839DEC58B964EC3843 := by decide +kernel

end Sys2Proof.Tests
end

/-!
O57: an acquire in the core's own caches (R40).
-/

namespace Sys2Proof.Machine

/-! ## Reading a core after an update -/

theorem getD_updAt_same {α : Type} (d : α) (f : α → α) {l : List α} {n : Nat} (h : n < l.length) :
    (updAt l n f).getD n d = f (l.getD n d) := by
  induction l generalizing n with
  | nil => simp at h
  | cons x xs ih =>
    cases n with
    | zero => rfl
    | succ n => simpa [updAt] using ih (Nat.lt_of_succ_lt_succ h)

theorem State.core_updCore_same {s : State} {c : Nat} (f : Core → Core) (h : c < s.cores.length) :
    (s.updCore c f).core c = f (s.core c) :=
  getD_updAt_same Core.reset f h

@[simp] theorem State.spoil_core (s : State) (cs ls : Nat → Bool) (c : Nat) : (s.spoil cs ls).core c = s.core c := rfl

@[simp] theorem State.acquireRdc_core (s : State) (d c : Nat) : (s.acquireRdc d).core c = s.core c := rfl

/-! ## The acquire -/

theorem wide_eq_false_iff {sc : Scope} : wide sc = false ↔ sc = .grp ∨ sc = .core := by
  cases sc <;> simp [wide, scopeNum]

theorem mem_keepDirty {l : Line} {ls : List Line} :
    l ∈ keepDirty ls ↔ ∃ l0 ∈ ls, l0.isDirty = true ∧ l = { l0 with valid := l0.valid &&& l0.dirty } := by
  simp only [keepDirty, List.mem_map, List.mem_filter, and_assoc, eq_comm (a := l)]

theorem State.acquire_of_not_wide (s : State) (c : Nat) {sc : Scope} (h : wide sc = false) : s.acquire c sc = s := by
  simp [State.acquire, h]

/-- The reach of a scope past PAIR (the RDC, the fills that are spoiled) does not show in the core itself. -/
theorem State.acquire_core_of_wide {s : State} {c : Nat} {sc : Scope} (hc : c < s.cores.length) (h : wide sc = true) :
    (s.acquire c sc).core c = { s.core c with l1 := keepDirty (s.core c).l1, tcache := [] } := by
  simp only [State.acquire, h, Bool.not_true, Bool.false_eq_true, if_false]
  split
  · simp only [spoil_core, acquireRdc_core, core_updCore_same _ hc]
  · simp only [spoil_core, core_updCore_same _ hc]

end Sys2Proof.Machine

namespace Sys2Proof.Proofs

open Sys2Proof.Machine

/-- Settles O57: below PAIR by `State.acquire_of_not_wide`; from PAIR on the core is known whole, and `mem_keepDirty` says which lines its L1
holds. -/
theorem acquires : Obligations.Acquires := by
  intro s c sc hc
  constructor
  · intro hsc
    exact s.acquire_of_not_wide c (wide_eq_false_iff.mpr hsc)
  · intro hgrp hcore
    have hwide : wide sc = true := by
      rw [← Bool.not_eq_false, wide_eq_false_iff]
      exact not_or.mpr ⟨hgrp, hcore⟩
    have hafter := State.acquire_core_of_wide hc hwide
    simp only [hafter]
    refine ⟨fun l hl => mem_keepDirty.mp hl, ?_, trivial⟩
    intro l0 hl0 hdirty
    exact mem_keepDirty.mpr ⟨l0, hl0, hdirty, rfl⟩

end Sys2Proof.Proofs

/-!
O55: the value of an E3M5 scale byte (R96).
-/

namespace Sys2Proof.Machine

/-- Cutting a field out of a word is cutting it out of its number. -/
theorem toNat_extractLsb'_eq_bits {w : Nat} (v : BitVec w) (lo n : Nat) : (v.extractLsb' lo n).toNat = bits v.toNat lo n := by
  rw [BitVec.extractLsb'_toNat, Nat.shiftRight_eq_div_pow, bits]

/-- What `dyadic` stands for: the finite value m × 2^k, over a positive denominator. -/
theorem dyadic_eq_fin (neg : Bool) (m : Nat) (k : Int) :
    ∃ n d, dyadic neg m k = .fin neg n d ∧ 0 < d ∧ (n : ℚ) / d = m * 2 ^ k := by
  unfold dyadic
  split
  case isTrue hk =>
    obtain ⟨j, rfl⟩ := Int.eq_ofNat_of_zero_le hk
    exact ⟨_, _, rfl, Nat.one_pos, by simp⟩
  case isFalse hk =>
    obtain ⟨j, rfl⟩ := Int.exists_eq_neg_ofNat (not_le.mp hk).le
    exact ⟨_, _, rfl, by positivity, by simp [div_eq_mul_inv]⟩

/-- R96's formula, from the exponent field and the mantissa field. -/
def e3m5Scale (e m : Nat) : ℚ := if e = 0 then 2 ^ (-2 : ℤ) * (m / 32) else 2 ^ ((e : ℤ) - 3) * (1 + m / 32)

/-- The model counts in 32nds: it keeps m or 32 + m and lowers the exponent by 5. -/
theorem e3m5Val_eq_fin (x : Nat) :
    ∃ n d, e3m5Val x = .fin false n d ∧ 0 < d ∧ (n : ℚ) / d = e3m5Scale (bits x 5 3) (bits x 0 5) := by
  simp only [e3m5Val, e3m5Scale]
  split
  case isTrue =>
    obtain ⟨n, d, hfin, hpos, hval⟩ := dyadic_eq_fin false (bits x 0 5) (-7)
    refine ⟨n, d, hfin, hpos, hval.trans ?_⟩
    rw [show (-7 : ℤ) = -2 - 5 by norm_num, zpow_sub₀ two_ne_zero]
    ring
  case isFalse =>
    obtain ⟨n, d, hfin, hpos, hval⟩ := dyadic_eq_fin false (32 + bits x 0 5) ((bits x 5 3 : Int) - 8)
    refine ⟨n, d, hfin, hpos, hval.trans ?_⟩
    rw [show (bits x 5 3 : ℤ) - 8 = bits x 5 3 - 3 - 5 by ring, zpow_sub₀ two_ne_zero _ 5]
    push_cast
    ring

end Sys2Proof.Machine

namespace Sys2Proof.Proofs

open Sys2Proof.Machine

/-- Settles O55: both clauses are `e3m5Val_eq_fin`, the second with R96's formula computed at the four codes. -/
theorem scaleValues : Obligations.ScaleValues := by
  constructor
  · intro c
    simpa only [toNat_extractLsb'_eq_bits, e3m5Scale] using e3m5Val_eq_fin c.toNat
  · intro c v hcv
    obtain ⟨n, d, hfin, -, hval⟩ := e3m5Val_eq_fin c
    refine ⟨n, d, hfin, hval.trans ?_⟩
    simp only [List.mem_cons, Prod.mk.injEq, List.not_mem_nil, or_false] at hcv
    obtain ⟨rfl, rfl⟩ | ⟨rfl, rfl⟩ | ⟨rfl, rfl⟩ | ⟨rfl, rfl⟩ := hcv <;> norm_num [e3m5Scale, bits]

end Sys2Proof.Proofs

/-!
O49: the opcodes that Table 9-7 does not assign (R219).
-/

namespace Sys2Proof

/-! ## The decoder -/

/-- How many opcodes of a group Table 9-7 assigns: they are the first ones of the group (R216). -/
def assignedIn : Nat → Nat
  | 0 => 0x13
  | 1 => 0x1F
  | 2 => 0x1A
  | 3 => 0x08
  | 4 => 0x11
  | 5 => 0x12
  | 6 => 0x05
  | 7 => 0x15
  | _ => 0

/-- The lookup that `decodeRaw` makes in Table 9-7, by an opcode's group and its place in the group. -/
def lookupOpcode (g n : Nat) (r : Raw) : Option (Dec Instr) :=
  match g with
  | 0 => decodeGroup0 n r
  | 1 => decodeGroup1 n r
  | 2 => decodeGroup2 n r
  | 3 => decodeGroup3 n r
  | 4 => decodeGroup4 n r
  | 5 => decodeGroup5 n r
  | 6 => decodeGroup6 n r
  | 7 => decodeGroup7 n r
  | _ => none

theorem lookupOpcode_eq_none {g n : Nat} (r : Raw) (h : assignedIn g ≤ n) : lookupOpcode g n r = none := by
  obtain ⟨k, rfl⟩ := Nat.exists_eq_add_of_le' h
  match g with
  | 0 | 1 | 2 | 3 | 4 | 5 | 6 | 7 | _ + 8 => rfl

/-- `lookupOpcode` unfolds to the match inside `decodeRaw`, so a lookup that finds nothing excludes the arms that found a decoder. -/
theorem decodeRaw_eq_error_opcode {r : Raw}
    (h : lookupOpcode (r.opc.extractLsb' 7 3).toNat (r.opc.extractLsb' 0 7).toNat r = none) :
    decodeRaw r = .error (.opcode r.opc) := by
  unfold decodeRaw
  dsimp only
  split
  case h_1 => rfl
  case h_2 hsome => cases h.symm.trans hsome
  case h_3 hsome => cases h.symm.trans hsome

/-- The unassigned opcodes of a group are those past its assigned ones (R219). -/
theorem decodeRaw_of_assignedIn_le {r : Raw} (h : assignedIn (r.opc.toNat / 128) ≤ r.opc.toNat % 128) :
    decodeRaw r = .error (.opcode r.opc) := by
  have hgroup : (r.opc.extractLsb' 7 3).toNat = r.opc.toNat / 128 := by
    rw [Machine.toNat_extractLsb'_eq_bits, Machine.bits]
    omega
  have hplace : (r.opc.extractLsb' 0 7).toNat = r.opc.toNat % 128 := by
    rw [Machine.toNat_extractLsb'_eq_bits, Machine.bits]
    omega
  apply decodeRaw_eq_error_opcode
  rw [hgroup, hplace]
  exact lookupOpcode_eq_none r h

end Sys2Proof

namespace Sys2Proof.Machine

/-! ## The fetch of a picked fragment -/

theorem step_of_picked {s : State} {iss : Issuer} {l : List Issuer} (hdue : s.due = []) (hpicked : s.picked = iss :: l) :
    step s = issueStep iss { s with picked := l } := by
  simp only [step, hdue, hpicked]

theorem issueStep_of_other {s t : State} {iss : Issuer} (h : s.fetch iss = .other t) : issueStep iss s = .next t := by
  simp only [issueStep, h]

/-- A word that the decoder refuses for its opcode traps at the fetch, before the slice and privilege checks (Table 9-9). -/
theorem State.fetch_of_error_opcode {s : State} {iss : Issuer} {x : Team × Group × Frag} {win : Window} {k : CodeSlot} {opc : BitVec 10}
    (hiss : s.issuer iss = some x) (hwin : (s.ctx x.1.ctx).fetchWindow x.2.2.pc.toNat = .ok win)
    (hcode : (s.core x.2.1.core).code? (win.iaOf x.2.2.pc.toNat) (s.ctx x.1.ctx).owner ((s.ctx x.1.ctx).prot && win.prot) = some k)
    (hclean : k.poison = none) (hdec : decode k.word = .error (.opcode opc)) :
    s.fetch iss = .other (s.trapIn (s.fetchEnv iss x) 1 opc.toNat) := by
  simp only [State.fetch, State.fetchEnv, hiss, hwin, hcode, hclean, hdec, decodeTrap]

end Sys2Proof.Machine

namespace Sys2Proof.Proofs

open Sys2Proof.Machine

/-- Settles O49: R219's ranges are the opcodes past the assigned ones of their group, so the decoder refuses the word for its opcode, and
the fetch traps. -/
theorem unassignedOpcodes : Obligations.UnassignedOpcodes := by
  constructor
  · intro w opc hrange s iss l x win k hdue hpicked hiss hwin hcode hclean hword
    have hpast : assignedIn (opc / 128) ≤ opc % 128 := by
      have hgroup : opc / 128 < 8 := by omega
      interval_cases hg : opc / 128 <;> rw [assignedIn] <;> omega
    have hdec : decode k.word = .error (.opcode (Raw.ofWord w).opc) := by
      rw [hword]
      exact decodeRaw_of_assignedIn_le hpast
    have hfetch := State.fetch_of_error_opcode (s := { s with picked := l }) hiss hwin hcode hclean hdec
    exact (step_of_picked hdue hpicked).trans (issueStep_of_other hfetch)
  · decide

end Sys2Proof.Proofs

/-!
O45 and O46: the decoder and the encoder are inverse (Tables 9-1 to 9-9). Each step of the decoder accepts exactly the fields that the
encoder writes, so each entry of Table 9-7 accepts exactly the words of its instruction.
-/

namespace Sys2Proof

/-! ## Taking words apart -/

theorem toNat_append_eq {a b : Nat} (x : BitVec a) (y : BitVec b) : (x ++ y).toNat = x.toNat * 2 ^ b + y.toNat := by
  rw [BitVec.toNat_append, Nat.shiftLeft_eq, mul_comm, Nat.two_pow_add_eq_or_of_lt y.isLt]

theorem toNat_extractLsb'_eq {w k n : Nat} (m : BitVec w) : (m.extractLsb' k n).toNat = m.toNat / 2 ^ k % 2 ^ n := by
  rw [BitVec.extractLsb'_toNat, Nat.shiftRight_eq_div_pow]

theorem extractLsb'_eq_iff {w k n : Nat} {m : BitVec w} {x : BitVec n} : m.extractLsb' k n = x ↔ m.toNat / 2 ^ k % 2 ^ n = x.toNat := by
  rw [← BitVec.toNat_inj, toNat_extractLsb'_eq]

theorem getLsbD_eq_iff {w k : Nat} {m : BitVec w} {b : Bool} : m.getLsbD k = b ↔ m.toNat / 2 ^ k % 2 = (BitVec.ofBool b).toNat := by
  rw [BitVec.getLsbD, Nat.testBit_eq_decide_div_mod_eq]
  cases b <;> simp

/-! ## The steps of the decoder -/

section
variable {α β : Type}

theorem Dec.bind_eq_ok {x : Dec α} {f : α → Dec β} {b : β} : x >>= f = .ok b ↔ ∃ a, x = .ok a ∧ f a = .ok b := by
  cases x <;> simp [bind, Except.bind]

theorem Dec.pure_eq_ok {a b : α} : (pure a : Dec α) = .ok b ↔ a = b := by
  simp [pure, Except.pure]

theorem Dec.ite_badField_eq_ok {c : Prop} [Decidable c] {p q : Nat} {x : Dec α} {b : α} :
    (if c then badField p q else x) = .ok b ↔ ¬c ∧ x = .ok b := by
  split <;> simp [*, badField]

theorem Dec.ite_else_badField_eq_ok {c : Prop} [Decidable c] {p q : Nat} {x : Dec α} {b : α} :
    (if c then x else badField p q) = .ok b ↔ c ∧ x = .ok b := by
  split <;> simp [*, badField]

theorem modCode_eq_ok {bit : Nat} {o : Option α} {x : α} : modCode bit o = .ok x ↔ o = some x := by
  cases o <;> simp [modCode, badField]

end

theorem unused_eq_ok {pos : Nat} {f : BitVec 16} {u : Unit} : unused pos f = .ok u ↔ 0 = f := by
  rw [unused, Dec.ite_else_badField_eq_ok, eq_comm]
  exact and_iff_left rfl

theorem modZero_eq_ok {m used : BitVec 26} {u : Unit} : modZero m used = .ok u ↔ m &&& ~~~used = 0 := by
  rw [modZero, Dec.ite_else_badField_eq_ok]
  exact and_iff_left rfl

theorem maUnused_eq_ok {m : BitVec 26} {u : Unit} : maUnused m = .ok u ↔ m = 0 := by
  rw [maUnused, Dec.ite_else_badField_eq_ok]
  exact and_iff_left rfl

/-- The header of a word is that of the instruction, and its reserved bits are zero. -/
theorem Raw.hdr_eq_ok {r : Raw} {h : Hdr} :
    r.hdr = .ok h ↔ h.formed = true ∧ r.rsv = 0 ∧ { gp := r.gp, gn := r.gn, sw := r.sw, yld := r.yld, ru := r.ru } = h := by
  rw [Raw.hdr, Dec.ite_badField_eq_ok, Dec.ite_badField_eq_ok, Except.ok.injEq]
  constructor
  · rintro ⟨hrsv, hguard, rfl⟩
    exact ⟨by simpa [Hdr.formed, ← imp_iff_not_or] using hguard, not_not.mp hrsv, rfl⟩
  · rintro ⟨hguard, hrsv, rfl⟩
    exact ⟨not_not.mpr hrsv, by simpa [Hdr.formed, ← imp_iff_not_or] using hguard, rfl⟩

/-! ## Codes -/

theorem Ty.ofCode_eq_some {c : BitVec 4} {t : Ty} : Ty.ofCode c = some t ↔ c = t.code := by
  constructor
  · revert c; cases t <;> decide
  · rintro rfl; cases t <;> rfl

theorem Rnd.ofCode_eq_some {c : BitVec 3} {t : Rnd} : Rnd.ofCode c = some t ↔ c = t.code := by
  constructor
  · revert c; cases t <;> decide
  · rintro rfl; cases t <;> rfl

theorem Scope.ofCode_eq_some {c : BitVec 3} {t : Scope} : Scope.ofCode c = some t ↔ c = t.code := by
  constructor
  · revert c; cases t <;> decide
  · rintro rfl; cases t <;> rfl

theorem Order.ofCode_eq_some {c : BitVec 3} {t : Order} : Order.ofCode c = some t ↔ c = t.code := by
  constructor
  · revert c; cases t <;> decide
  · rintro rfl; cases t <;> rfl

theorem Xlm.ofCode_eq_some {c : BitVec 4} {t : Xlm} : Xlm.ofCode c = some t ↔ c = t.code := by
  constructor
  · revert c; cases t <;> decide
  · rintro rfl; cases t <;> rfl

theorem Src3.ofCode_of_codes (c : Src3) : Src3.ofCode c.ckind c.creg = some c := by
  cases c with
  | vec n => rfl
  | sca n => revert n; decide
  | que q => revert q; decide
  | pred p => revert p; decide

theorem Src3.codes_of_ofCode {k : BitVec 2} {g : BitVec 8} {c : Src3} (h : Src3.ofCode k g = some c) : k = c.ckind ∧ g = c.creg := by
  have hk : k.toNat < 4 := k.isLt
  unfold Src3.ofCode at h
  split at h
  case h_1 hzero =>
    obtain rfl := Option.some.inj h
    exact ⟨BitVec.eq_of_toNat_eq hzero, rfl⟩
  all_goals
    simp only [extractLsb'_eq_iff, Option.ite_none_right_eq_some, Option.some.injEq, BitVec.ofNat_eq_ofNat, BitVec.toNat_ofNat] at h
    obtain ⟨hunused, rfl⟩ := h
    refine ⟨BitVec.eq_of_toNat_eq ?_, BitVec.eq_of_toNat_eq ?_⟩
    · simp only [ckind, BitVec.ofNat_eq_ofNat, BitVec.toNat_ofNat]
      grind
    · simp only [creg, toNat_append_eq, toNat_extractLsb'_eq, BitVec.ofNat_eq_ofNat, BitVec.toNat_ofNat]
      omega

/-! ## Operand fields -/

theorem kindOf_append (k : BitVec 3) (v : BitVec 13) : kindOf (k ++ v) = k :=
  (extract_append_hi k v 0 3).trans (extract_all k)

theorem Opnd.ofField_toField {o : Opnd} (h : o.short = true) : Opnd.ofField o.toField = some o := by
  cases o with
  | vec n => revert n; decide
  | sca n => revert n; decide
  | ind b ix => revert b ix; decide
  | pred n => revert n; decide
  | que q => revert q; decide
  | imm i => 
    simp only [Opnd.ofField, Opnd.toField, kindOf_append, extract_append_lo]
    rfl
  | spc n => revert n; decide
  | long i => cases h

theorem Opnd.toField_of_ofField {f : BitVec 16} {o : Opnd} (h : Opnd.ofField f = some o) : o.short = true ∧ o.toField = f := by
  unfold Opnd.ofField at h
  dsimp only at h
  split at h
  case h_8 => cases h
  all_goals
    rename_i hk
    simp only [kindOf, toNat_extractLsb'_eq] at hk
    simp only [extractLsb'_eq_iff, toNat_extractLsb'_eq, Option.ite_none_right_eq_some, Option.some.injEq, BitVec.ofNat_eq_ofNat, BitVec.toNat_ofNat] at h
  case h_6 hk =>
    subst h
    refine ⟨rfl, BitVec.eq_of_toNat_eq ?_⟩
    simp only [Opnd.toField, toNat_append_eq, toNat_extractLsb'_eq, BitVec.ofNat_eq_ofNat, BitVec.toNat_ofNat]
    omega
  all_goals
    obtain ⟨hz, rfl⟩ := h
    refine ⟨rfl, BitVec.eq_of_toNat_eq ?_⟩
    simp only [Opnd.toField, toNat_append_eq, toNat_extractLsb'_eq, BitVec.ofNat_eq_ofNat, BitVec.toNat_ofNat]
    omega

theorem opndAt_eq_ok {pos : Nat} {f : BitVec 16} {o : Opnd} : opndAt pos f = .ok o ↔ o.short = true ∧ o.toField = f := by
  have hfield : opndAt pos f = .ok o ↔ Opnd.ofField f = some o := by
    unfold opndAt
    cases Opnd.ofField f <;> simp [badField]
  rw [hfield]
  constructor
  · exact Opnd.toField_of_ofField
  · rintro ⟨hshort, rfl⟩
    exact Opnd.ofField_toField hshort

/-! ## MOD -/

/-- A concatenation is a word when its parts are the fields of the word. -/
theorem toNat_append_eq_iff {a b w : Nat} {x : BitVec a} {y : BitVec b} {m : BitVec w} (hw : w = a + b) :
    (x ++ y).toNat = m.toNat ↔ x.toNat = (m.extractLsb' b a).toNat ∧ y.toNat = (m.extractLsb' 0 b).toNat := by
  subst hw
  simp only [BitVec.toNat_inj]
  constructor
  · rintro rfl
    exact ⟨((extract_append_hi x y 0 a).trans (extract_all x)).symm, (extract_append_lo x y).symm⟩
  · rintro ⟨rfl, rfl⟩
    apply BitVec.eq_of_toNat_eq
    have hm : m.toNat / 2 ^ b < 2 ^ a := Nat.div_lt_of_lt_mul (m.isLt.trans_eq (by rw [Nat.add_comm, Nat.pow_add]))
    rw [toNat_append_eq, toNat_extractLsb'_eq, toNat_extractLsb'_eq, Nat.mod_eq_of_lt hm, pow_zero, Nat.div_one]
    exact Nat.div_add_mod' ..

theorem extractLsb'_extractLsb' {w k l j n : Nat} (m : BitVec w) (h : j + n ≤ l) :
    (m.extractLsb' k l).extractLsb' j n = m.extractLsb' (k + j) n := by
  ext i hi
  simp [show j + i < l by omega, Nat.add_assoc]

theorem ofBool_eq_extractLsb'_iff {w k : Nat} {m : BitVec w} {b : Bool} : BitVec.ofBool b = m.extractLsb' k 1 ↔ b = m.getLsbD k := by
  rw [eq_comm, extractLsb'_eq_iff, pow_one, ← getLsbD_eq_iff, eq_comm]

theorem MA.toMod_eq_iff {x : MA} {m : BitVec 26} :
    x.toMod = m ↔ x.ty.code = m.extractLsb' 22 4 ∧ x.rnd.code = m.extractLsb' 19 3 ∧ x.sat = m.getLsbD 18 ∧
      x.xlm.code = m.extractLsb' 14 4 ∧ x.xls = m.extractLsb' 8 6 ∧ x.na = m.getLsbD 7 ∧ x.nb = m.getLsbD 6 ∧
      x.aa = m.getLsbD 5 ∧ x.ab = m.getLsbD 4 ∧ x.sub = m.extractLsb' 0 4 := by
  rw [← BitVec.toNat_inj]
  simp (disch := decide) only [MA.toMod, toNat_append_eq_iff, extractLsb'_extractLsb']
  simp only [Nat.reduceAdd, BitVec.toNat_inj, ofBool_eq_extractLsb'_iff, and_assoc]

theorem MF.toMod_eq_iff {x : MF} {m : BitVec 26} :
    x.toMod = m ↔ x.ty.code = m.extractLsb' 22 4 ∧ x.rnd.code = m.extractLsb' 19 3 ∧ x.sat = m.getLsbD 18 ∧
      x.c.creg = m.extractLsb' 10 8 ∧ x.nprod = m.getLsbD 9 ∧ x.nc = m.getLsbD 8 ∧ 0 = m.extractLsb' 4 4 ∧
      x.sub = m.extractLsb' 2 2 ∧ x.c.ckind = m.extractLsb' 0 2 := by
  rw [← BitVec.toNat_inj]
  simp (disch := decide) only [MF.toMod, toNat_append_eq_iff, extractLsb'_extractLsb']
  simp only [Nat.reduceAdd, BitVec.toNat_inj, ofBool_eq_extractLsb'_iff, and_assoc]

theorem MM.toMod_eq_iff {x : MM} {m : BitVec 26} :
    x.toMod = m ↔ x.ty.code = m.extractLsb' 22 4 ∧ x.scope.code = m.extractLsb' 19 3 ∧ x.ord.code = m.extractLsb' 16 3 ∧
      x.iscale = m.extractLsb' 14 2 ∧ x.hint = m.extractLsb' 12 2 ∧ x.aop = m.extractLsb' 8 4 ∧ x.ofs = m.extractLsb' 0 8 := by
  rw [← BitVec.toNat_inj]
  simp (disch := decide) only [MM.toMod, toNat_append_eq_iff, extractLsb'_extractLsb']
  simp only [Nat.reduceAdd, BitVec.toNat_inj, and_assoc]

theorem MX.toMod_eq_iff {x : MX} {m : BitVec 26} :
    x.toMod = m ↔ x.aty.code = m.extractLsb' 22 4 ∧ x.bty.code = m.extractLsb' 18 4 ∧ x.shape = m.extractLsb' 16 2 ∧
      x.acc = m.getLsbD 15 ∧ x.nega = m.getLsbD 14 ∧ x.band = m.extractLsb' 8 6 ∧ 0 = m.extractLsb' 4 4 ∧
      x.sub = m.extractLsb' 0 4 := by
  rw [← BitVec.toNat_inj]
  simp (disch := decide) only [MX.toMod, toNat_append_eq_iff, extractLsb'_extractLsb']
  simp only [Nat.reduceAdd, BitVec.toNat_inj, ofBool_eq_extractLsb'_iff, and_assoc]

theorem MLop.toMod_eq_iff {x : MLop} {m : BitVec 26} :
    x.toMod = m ↔ x.ty.code = m.extractLsb' 22 4 ∧ 0 = m.extractLsb' 18 4 ∧ x.c.creg = m.extractLsb' 10 8 ∧
      x.truth = m.extractLsb' 2 8 ∧ x.c.ckind = m.extractLsb' 0 2 := by
  rw [← BitVec.toNat_inj]
  simp (disch := decide) only [MLop.toMod, toNat_append_eq_iff, extractLsb'_extractLsb']
  simp only [Nat.reduceAdd, BitVec.toNat_inj, and_assoc]

theorem MSmp.toMod_eq_iff {x : MSmp} {m : BitVec 26} :
    x.toMod = m ↔ x.ty.code = m.extractLsb' 22 4 ∧ x.scope.code = m.extractLsb' 19 3 ∧ 0 = m.extractLsb' 16 3 ∧
      x.ssi = m.extractLsb' 8 8 ∧ 0 = m.extractLsb' 2 6 ∧ x.nch = m.extractLsb' 0 2 := by
  rw [← BitVec.toNat_inj]
  simp (disch := decide) only [MSmp.toMod, toNat_append_eq_iff, extractLsb'_extractLsb']
  simp only [Nat.reduceAdd, BitVec.toNat_inj, and_assoc]

theorem MEng.toMod_eq_iff {x : MEng} {cmd : BitVec 2} {m : BitVec 26} :
    x.toMod cmd = m ↔ x.bar = m.extractLsb' 20 6 ∧ 0 = m.extractLsb' 19 1 ∧ x.ssp = m.getLsbD 18 ∧ x.dsp = m.getLsbD 17 ∧
      0 = m.extractLsb' 14 3 ∧ x.hint = m.extractLsb' 12 2 ∧ 0 = m.extractLsb' 2 10 ∧ cmd = m.extractLsb' 0 2 := by
  rw [← BitVec.toNat_inj]
  simp (disch := decide) only [MEng.toMod, toNat_append_eq_iff, extractLsb'_extractLsb']
  simp only [Nat.reduceAdd, BitVec.toNat_inj, ofBool_eq_extractLsb'_iff, and_assoc]

/-- The bits `lo` to `lo + n - 1` of MOD. -/
def modBits (lo n : Nat) : BitVec 26 := (BitVec.allOnes n).setWidth 26 <<< lo

theorem getLsbD_modBits {lo n i : Nat} (h : i < 26) : (modBits lo n).getLsbD i = (decide (lo ≤ i) && decide (i - lo < n)) := by
  have : i - lo < 26 := by omega
  simp only [modBits, BitVec.getLsbD_shiftLeft, BitVec.getLsbD_setWidth, BitVec.getLsbD_allOnes, h, this, decide_true, Bool.true_and]
  grind

theorem and_modBits_eq_zero_iff {m : BitVec 26} {lo n : Nat} (h : lo + n ≤ 26) : m &&& modBits lo n = 0 ↔ 0 = m.extractLsb' lo n := by
  constructor
  · intro hz
    refine BitVec.eq_of_getLsbD_eq fun i hi => ?_
    have hbit := congrArg (fun v => v.getLsbD (lo + i)) hz
    have hclear : m.getLsbD (lo + i) = false := by simpa [getLsbD_modBits (show lo + i < 26 by omega), hi] using hbit
    simp [hclear]
  · intro hz
    refine BitVec.eq_of_getLsbD_eq fun i hi => ?_
    rw [BitVec.getLsbD_and, getLsbD_modBits hi]
    by_cases hin : lo ≤ i ∧ i - lo < n
    · have hbit := congrArg (fun v => v.getLsbD (i - lo)) hz.symm
      have hclear : m.getLsbD i = false := by simpa [hin] using hbit
      simp [hclear]
    · have : (decide (lo ≤ i) && decide (i - lo < n)) = false := by simpa using hin
      simp [this]

theorem and_or_eq_zero_iff {m a b : BitVec 26} : m &&& (a ||| b) = 0 ↔ m &&& a = 0 ∧ m &&& b = 0 := by
  rw [BitVec.and_or_distrib_left]
  exact BitVec.or_eq_zero_iff

theorem MA.ofMod_eq_ok {m : BitVec 26} {x : MA} : MA.ofMod m = .ok x ↔ x.toMod = m := by
  simp only [MA.ofMod, Dec.bind_eq_ok, modCode_eq_ok, Ty.ofCode_eq_some, Rnd.ofCode_eq_some, Xlm.ofCode_eq_some, Dec.pure_eq_ok,
    MA.toMod_eq_iff]
  cases x
  grind

theorem MM.ofMod_eq_ok {m : BitVec 26} {x : MM} : MM.ofMod m = .ok x ↔ x.toMod = m := by
  simp only [MM.ofMod, Dec.bind_eq_ok, modCode_eq_ok, Ty.ofCode_eq_some, Scope.ofCode_eq_some, Order.ofCode_eq_some, Dec.pure_eq_ok,
    MM.toMod_eq_iff]
  cases x
  grind

theorem MX.ofMod_eq_ok {m : BitVec 26} {x : MX} : MX.ofMod m = .ok x ↔ x.toMod = m := by
  simp only [MX.ofMod, Dec.bind_eq_ok, modCode_eq_ok, Ty.ofCode_eq_some, Dec.ite_else_badField_eq_ok, Dec.pure_eq_ok, MX.toMod_eq_iff]
  cases x
  grind

theorem Src3.eq_of_codes {c d : Src3} (hg : c.creg = d.creg) (hk : c.ckind = d.ckind) : d = c := by
  have h := c.ofCode_of_codes
  rw [hg, hk, d.ofCode_of_codes] at h
  exact Option.some.inj h

theorem MF.ofMod_eq_ok {m : BitVec 26} {x : MF} : MF.ofMod m = .ok x ↔ x.toMod = m := by
  rw [MF.toMod_eq_iff]
  unfold MF.ofMod
  cases hc : Src3.ofCode (m.extractLsb' 0 2) (m.extractLsb' 10 8) with
  | none =>
    have hne : ¬(x.c.creg = m.extractLsb' 10 8 ∧ x.c.ckind = m.extractLsb' 0 2) := by
      rintro ⟨hcreg, hckind⟩
      rw [← hcreg, ← hckind, Src3.ofCode_of_codes] at hc
      cases hc
    simp only [badField, bind, Except.bind, reduceCtorEq, false_iff]
    tauto
  | some c =>
    obtain ⟨hckind, hcreg⟩ := Src3.codes_of_ofCode hc
    simp only [Dec.bind_eq_ok, Except.ok.injEq, modCode_eq_ok, Ty.ofCode_eq_some, Rnd.ofCode_eq_some, Dec.ite_else_badField_eq_ok,
      Dec.pure_eq_ok]
    obtain ⟨ty, rnd, sat, c', nprod, nc, sub⟩ := x
    have hinj : c'.creg = c.creg → c'.ckind = c.ckind → c = c' := Src3.eq_of_codes
    grind

theorem Raw.eq_rawOf_iff {r : Raw} {h : Hdr} {d a b : BitVec 16} {m : BitVec 26} :
    r = rawOf r.opc h d a b m ↔
      r.rsv = 0 ∧ { gp := r.gp, gn := r.gn, sw := r.sw, yld := r.yld, ru := r.ru } = h ∧ d = r.opd ∧ a = r.opa ∧ b = r.opb ∧ m = r.mod := by
  obtain ⟨gp, gn, sw, yld, ru⟩ := h
  obtain ⟨⟩ := r
  simp only [rawOf, Raw.mk.injEq, Hdr.mk.injEq]
  grind

theorem modZero_bind_eq_ok {α : Type} {m u : BitVec 26} {k : Dec α} {x : α} :
    (modZero m u >>= fun _ => k) = .ok x ↔ m &&& ~~~u = 0 ∧ k = .ok x := by
  simp only [Dec.bind_eq_ok, modZero_eq_ok, exists_const]

theorem MLop.ofMod_eq_ok {m : BitVec 26} {x : MLop} : MLop.ofMod m = .ok x ↔ x.formed = true ∧ x.toMod = m := by
  have hmask : (~~~0x3C3FFFF : BitVec 26) = modBits 18 4 := rfl
  rw [MLop.toMod_eq_iff]
  unfold MLop.ofMod
  split
  case h_1 p hc =>
    have hne : ¬(x.formed = true ∧ x.c.creg = m.extractLsb' 10 8 ∧ x.c.ckind = m.extractLsb' 0 2) := by
      rintro ⟨hf, hcreg, hckind⟩
      rw [← hcreg, ← hckind, Src3.ofCode_of_codes] at hc
      simp [MLop.formed, Option.some.inj hc] at hf
    simp only [badField, bind, Except.bind, reduceCtorEq, false_iff]
    tauto
  case h_2 c hp hc =>
    obtain ⟨hckind, hcreg⟩ := Src3.codes_of_ofCode hc
    have hformed (ty : Ty) (truth : BitVec 8) : ({ ty := ty, c := c, truth := truth } : MLop).formed = true := by
      cases c with
      | pred p => exact absurd rfl (hp p)
      | _ => rfl
    simp (disch := decide) only [Dec.bind_eq_ok, Except.ok.injEq, modCode_eq_ok, Ty.ofCode_eq_some, modZero_eq_ok, hmask, and_modBits_eq_zero_iff,
      Dec.pure_eq_ok]
    obtain ⟨ty, c', truth⟩ := x
    have hinj : c'.creg = c.creg → c'.ckind = c.ckind → c = c' := Src3.eq_of_codes
    grind
  case h_3 hc =>
    have hne : ¬(x.c.creg = m.extractLsb' 10 8 ∧ x.c.ckind = m.extractLsb' 0 2) := by
      rintro ⟨hcreg, hckind⟩
      rw [← hcreg, ← hckind, Src3.ofCode_of_codes] at hc
      cases hc
    simp only [badField, bind, Except.bind, reduceCtorEq, false_iff]
    tauto

theorem MSmp.ofMod_eq_ok {m : BitVec 26} {x : MSmp} : MSmp.ofMod m = .ok x ↔ x.toMod = m := by
  have hmask : (~~~0x3F8FF03 : BitVec 26) = modBits 16 3 ||| modBits 2 6 := rfl
  simp (disch := decide) only [MSmp.ofMod, Dec.bind_eq_ok, modCode_eq_ok, Ty.ofCode_eq_some, Scope.ofCode_eq_some, modZero_eq_ok, hmask,
    and_or_eq_zero_iff, and_modBits_eq_zero_iff, Dec.pure_eq_ok, MSmp.toMod_eq_iff]
  cases x
  grind

/-- The engines' fields leave CMD, the lowest two bits, to the instruction. -/
theorem MEng.ofMod_eq_ok {m : BitVec 26} {x : MEng} : MEng.ofMod m = .ok x ↔ x.toMod (m.extractLsb' 0 2) = m := by
  have hmask : (~~~0x3F63003 : BitVec 26) = (modBits 19 1 ||| modBits 14 3) ||| modBits 2 10 := rfl
  simp (disch := decide) only [MEng.ofMod, modZero_bind_eq_ok, hmask, and_or_eq_zero_iff, and_modBits_eq_zero_iff, Dec.pure_eq_ok,
    MEng.toMod_eq_iff]
  cases x
  grind

theorem kindOf_toField_of_short {o : Opnd} (h : o.short = true) : kindOf o.toField ≠ 7 := by
  cases o with
  | long i => cases h
  | _ => simp [Opnd.toField, kindOf_append]

theorem MA.toMod_long_iff {i : W32} {sub : BitVec 4} {m : BitVec 26} :
    (i.extractLsb' 0 19 : BitVec 19) ++ (0 : BitVec 3) ++ sub = m ↔
      i.extractLsb' 0 19 = m.extractLsb' 7 19 ∧ 0 = m.extractLsb' 4 3 ∧ sub = m.extractLsb' 0 4 := by
  rw [← BitVec.toNat_inj]
  simp (disch := decide) only [toNat_append_eq_iff, extractLsb'_extractLsb']
  simp only [Nat.reduceAdd, BitVec.toNat_inj, and_assoc]

theorem longField_iff {i : W32} {f : BitVec 16} : (Opnd.long i).toField = f ↔ kindOf f = 7 ∧ i.extractLsb' 19 13 = f.extractLsb' 0 13 := by
  rw [← BitVec.toNat_inj, Opnd.toField, toNat_append_eq_iff (by decide), BitVec.toNat_inj, BitVec.toNat_inj, kindOf, eq_comm]

theorem imm_eq_iff {i : W32} {x : BitVec 13} {y : BitVec 19} : x ++ y = i ↔ x = i.extractLsb' 19 13 ∧ y = i.extractLsb' 0 19 := by
  rw [← BitVec.toNat_inj, toNat_append_eq_iff (by decide), BitVec.toNat_inj, BitVec.toNat_inj]

theorem MA.formed_long {m : MA} {ty : Ty} {i : W32} : m.formed ty (.long i) = true ↔ m = MA.long ty m.sub := by
  cases m
  simp [MA.formed, MA.long, and_assoc]

theorem MA.formed_of_short {m : MA} {ty : Ty} {b : Opnd} (h : b.short = true) : m.formed ty b = true := by
  cases b with
  | long i => cases h
  | _ => rfl

theorem maMod_of_short {m : MA} {b : Opnd} (h : b.short = true) : maMod b m = m.toMod := by
  cases b with
  | long i => cases h
  | _ => rfl

theorem maOperand_eq_ok {ty : Ty} {r : Raw} {b : Opnd} {m : MA} :
    maOperand ty r = .ok (b, m) ↔ m.formed ty b = true ∧ b.toField = r.opb ∧ maMod b m = r.mod := by
  unfold maOperand
  split
  case isTrue hlong =>
    simp only [Dec.ite_else_badField_eq_ok, Except.ok.injEq, Prod.mk.injEq]
    cases b with
    | long i =>
      simp only [Opnd.long.injEq, MA.formed_long, longField_iff, maMod, MA.toMod_long_iff, imm_eq_iff]
      constructor
      · rintro ⟨hz, ⟨hhi, hlo⟩, rfl⟩
        exact ⟨rfl, ⟨hlong, hhi.symm⟩, hlo.symm, hz.symm, rfl⟩
      · rintro ⟨hm, ⟨-, hhi⟩, hlo, hz, hsub⟩
        exact ⟨hz.symm, ⟨hhi.symm, hlo.symm⟩, by rw [hm, hsub]⟩
    | _ =>
      simp only [reduceCtorEq, false_and, and_false, false_iff, not_and]
      rintro - hopb
      exact absurd hlong (hopb ▸ kindOf_toField_of_short rfl)
  case isFalse hshort =>
    simp only [Dec.bind_eq_ok, opndAt_eq_ok, MA.ofMod_eq_ok, Dec.pure_eq_ok, Prod.mk.injEq]
    constructor
    · rintro ⟨b', ⟨hb, hopb⟩, m', hm, rfl, rfl⟩
      exact ⟨MA.formed_of_short hb, hopb, (maMod_of_short hb).trans hm⟩
    · rintro ⟨-, hopb, hm⟩
      have hb : b.short = true := by
        cases b with
        | long i => exact absurd (hopb ▸ kindOf_append 7 _) hshort
        | _ => rfl
      exact ⟨b, ⟨hb, hopb⟩, m, (maMod_of_short hb).symm.trans hm, rfl, rfl⟩

/-! ## Headers and operands -/

section
variable {r : Raw} {i : Instr}

theorem operands_dab {k : Hdr → Opnd → Opnd → Opnd → Dec Instr} :
    (do let h ← r.hdr
        let d ← opndAt 1 r.opd
        let a ← opndAt 2 r.opa
        let b ← opndAt 3 r.opb
        k h d a b) = .ok i ↔
      ∃ h d a b, (h.formed && d.short && a.short && b.short) = true ∧ r = rawOf r.opc h d.toField a.toField b.toField r.mod ∧ k h d a b = .ok i := by
  simp only [Dec.bind_eq_ok, Raw.hdr_eq_ok, opndAt_eq_ok, Raw.eq_rawOf_iff, Bool.and_eq_true]
  grind

theorem operands_da {k : Hdr → Opnd → Opnd → Dec Instr} :
    (do let h ← r.hdr
        let d ← opndAt 1 r.opd
        let a ← opndAt 2 r.opa
        unused 3 r.opb
        k h d a) = .ok i ↔
      ∃ h d a, (h.formed && d.short && a.short) = true ∧ r = rawOf r.opc h d.toField a.toField 0 r.mod ∧ k h d a = .ok i := by
  simp only [Dec.bind_eq_ok, Raw.hdr_eq_ok, opndAt_eq_ok, unused_eq_ok, Raw.eq_rawOf_iff, Bool.and_eq_true]
  grind

theorem operands_d {k : Hdr → Opnd → Dec Instr} :
    (do let h ← r.hdr
        let d ← opndAt 1 r.opd
        unused 2 r.opa
        unused 3 r.opb
        k h d) = .ok i ↔
      ∃ h d, (h.formed && d.short) = true ∧ r = rawOf r.opc h d.toField 0 0 r.mod ∧ k h d = .ok i := by
  simp only [Dec.bind_eq_ok, Raw.hdr_eq_ok, opndAt_eq_ok, unused_eq_ok, Raw.eq_rawOf_iff, Bool.and_eq_true]
  grind

theorem operands_ab {k : Hdr → Opnd → Opnd → Dec Instr} :
    (do let h ← r.hdr
        unused 1 r.opd
        let a ← opndAt 2 r.opa
        let b ← opndAt 3 r.opb
        k h a b) = .ok i ↔
      ∃ h a b, (h.formed && a.short && b.short) = true ∧ r = rawOf r.opc h 0 a.toField b.toField r.mod ∧ k h a b = .ok i := by
  simp only [Dec.bind_eq_ok, Raw.hdr_eq_ok, opndAt_eq_ok, unused_eq_ok, Raw.eq_rawOf_iff, Bool.and_eq_true]
  grind

theorem operands_a {k : Hdr → Opnd → Dec Instr} :
    (do let h ← r.hdr
        unused 1 r.opd
        let a ← opndAt 2 r.opa
        unused 3 r.opb
        k h a) = .ok i ↔
      ∃ h a, (h.formed && a.short) = true ∧ r = rawOf r.opc h 0 a.toField 0 r.mod ∧ k h a = .ok i := by
  simp only [Dec.bind_eq_ok, Raw.hdr_eq_ok, opndAt_eq_ok, unused_eq_ok, Raw.eq_rawOf_iff, Bool.and_eq_true]
  grind

theorem operands_b {k : Hdr → Opnd → Dec Instr} :
    (do let h ← r.hdr
        unused 1 r.opd
        unused 2 r.opa
        let b ← opndAt 3 r.opb
        k h b) = .ok i ↔
      ∃ h b, (h.formed && b.short) = true ∧ r = rawOf r.opc h 0 0 b.toField r.mod ∧ k h b = .ok i := by
  simp only [Dec.bind_eq_ok, Raw.hdr_eq_ok, opndAt_eq_ok, unused_eq_ok, Raw.eq_rawOf_iff, Bool.and_eq_true]
  grind

theorem operands_none {k : Hdr → Dec Instr} :
    (do let h ← r.hdr
        unused 1 r.opd
        unused 2 r.opa
        unused 3 r.opb
        k h) = .ok i ↔
      ∃ h, h.formed = true ∧ r = rawOf r.opc h 0 0 0 r.mod ∧ k h = .ok i := by
  simp only [Dec.bind_eq_ok, Raw.hdr_eq_ok, unused_eq_ok, Raw.eq_rawOf_iff]
  grind

/-- The operands of an MA instruction, whose OPB and MOD belong together (R209). -/
theorem operands_ma {ty : Ty} {mk : Hdr → Opnd → Opnd → Opnd → MA → Instr} :
    (do let h ← r.hdr
        let d ← opndAt 1 r.opd
        let a ← opndAt 2 r.opa
        let (b, m) ← maOperand ty r
        return mk h d a b m) = .ok i ↔
      ∃ h d a b m, i = mk h d a b m ∧ (h.formed && d.short && a.short && m.formed ty b) = true ∧
        r = rawOf r.opc h d.toField a.toField b.toField (maMod b m) := by
  simp only [Dec.bind_eq_ok, Raw.hdr_eq_ok, opndAt_eq_ok, Prod.exists, maOperand_eq_ok, Dec.pure_eq_ok, Raw.eq_rawOf_iff, Bool.and_eq_true]
  grind

/-- The operands of an MA instruction with one source. -/
theorem operands_ma1 {ty : Ty} {mk : Hdr → Opnd → Opnd → MA → Instr} :
    (do let h ← r.hdr
        let d ← opndAt 1 r.opd
        unused 2 r.opa
        let (b, m) ← maOperand ty r
        return mk h d b m) = .ok i ↔
      ∃ h d b m, i = mk h d b m ∧ (h.formed && d.short && m.formed ty b) = true ∧ r = rawOf r.opc h d.toField 0 b.toField (maMod b m) := by
  simp only [Dec.bind_eq_ok, Raw.hdr_eq_ok, opndAt_eq_ok, unused_eq_ok, Prod.exists, maOperand_eq_ok, Dec.pure_eq_ok, Raw.eq_rawOf_iff,
    Bool.and_eq_true]
  grind

end

/-! ## The fields of MOD -/

section
variable {m : BitVec 26} {i : Instr}

theorem mod_mf {mk : MF → Instr} : (do let x ← MF.ofMod m; return mk x) = .ok i ↔ ∃ x, i = mk x ∧ x.toMod = m := by
  simp only [Dec.bind_eq_ok, MF.ofMod_eq_ok, Dec.pure_eq_ok, eq_comm (a := i), and_comm]

theorem mod_mm {mk : MM → Instr} : (do let x ← MM.ofMod m; return mk x) = .ok i ↔ ∃ x, i = mk x ∧ x.toMod = m := by
  simp only [Dec.bind_eq_ok, MM.ofMod_eq_ok, Dec.pure_eq_ok, eq_comm (a := i), and_comm]

theorem mod_mx {mk : MX → Instr} : (do let x ← MX.ofMod m; return mk x) = .ok i ↔ ∃ x, i = mk x ∧ x.toMod = m := by
  simp only [Dec.bind_eq_ok, MX.ofMod_eq_ok, Dec.pure_eq_ok, eq_comm (a := i), and_comm]

theorem mod_msmp {mk : MSmp → Instr} : (do let x ← MSmp.ofMod m; return mk x) = .ok i ↔ ∃ x, i = mk x ∧ x.toMod = m := by
  simp only [Dec.bind_eq_ok, MSmp.ofMod_eq_ok, Dec.pure_eq_ok, eq_comm (a := i), and_comm]

theorem mod_mlop {mk : MLop → Instr} :
    (do let x ← MLop.ofMod m; return mk x) = .ok i ↔ ∃ x, i = mk x ∧ x.formed = true ∧ x.toMod = m := by
  simp only [Dec.bind_eq_ok, MLop.ofMod_eq_ok, Dec.pure_eq_ok, eq_comm (a := i), and_comm]

theorem mod_meng {mk : MEng → Instr} :
    (do let x ← MEng.ofMod m; return mk x) = .ok i ↔ ∃ x, i = mk x ∧ x.toMod (m.extractLsb' 0 2) = m := by
  simp only [Dec.bind_eq_ok, MEng.ofMod_eq_ok, Dec.pure_eq_ok, eq_comm (a := i), and_comm]

theorem toMod_cmd (x : MEng) (cmd : BitVec 2) : (x.toMod cmd).extractLsb' 0 2 = cmd := extract_append_lo _ _

/-- An engine instruction whose CMD field is unused. -/
theorem mod_meng_zero {mk : MEng → Instr} :
    (do let x ← MEng.ofMod m
        if m.extractLsb' 0 2 ≠ 0 then badField 6 0 else return mk x) = .ok i ↔ ∃ x, i = mk x ∧ x.toMod 0 = m := by
  simp only [Dec.bind_eq_ok, MEng.ofMod_eq_ok, Dec.ite_badField_eq_ok, not_not, Dec.pure_eq_ok]
  constructor
  · rintro ⟨x, hx, hcmd, rfl⟩
    exact ⟨x, rfl, hcmd ▸ hx⟩
  · rintro ⟨x, rfl, rfl⟩
    exact ⟨x, by rw [toMod_cmd], toMod_cmd x 0, rfl⟩

theorem modZero_zero_eq_ok {u : Unit} : modZero m 0x0 = .ok u ↔ 0 = m := by
  have hmask : (~~~0x0 : BitVec 26) = modBits 0 26 := rfl
  rw [modZero_eq_ok, hmask, and_modBits_eq_zero_iff (by decide), extract_all]

theorem mod_zero {j : Instr} : (do modZero m 0x0; return j) = .ok i ↔ i = j ∧ 0 = m := by
  simp only [Dec.bind_eq_ok, modZero_zero_eq_ok, Dec.pure_eq_ok, exists_const]
  grind

theorem mod_unused {j : Instr} : (do maUnused m; return j) = .ok i ↔ i = j ∧ 0 = m := by
  simp only [Dec.bind_eq_ok, maUnused_eq_ok, Dec.pure_eq_ok, exists_const]
  grind

theorem low2_eq_iff {x : BitVec 2} : (0 : BitVec 24) ++ x = m ↔ 0 = m.extractLsb' 2 24 ∧ x = m.extractLsb' 0 2 := by
  rw [← BitVec.toNat_inj, toNat_append_eq_iff rfl, BitVec.toNat_inj, BitVec.toNat_inj]

theorem mod_low2 {mk : BitVec 2 → Instr} :
    (do modZero m 0x3; return mk (m.extractLsb' 0 2)) = .ok i ↔ ∃ x, i = mk x ∧ (0 : BitVec 24) ++ x = m := by
  have hmask : (~~~0x3 : BitVec 26) = modBits 2 24 := rfl
  simp (disch := decide) only [modZero_bind_eq_ok, hmask, and_modBits_eq_zero_iff, low2_eq_iff, Dec.pure_eq_ok]
  grind

theorem low4_eq_iff {x : BitVec 4} : (0 : BitVec 22) ++ x = m ↔ 0 = m.extractLsb' 4 22 ∧ x = m.extractLsb' 0 4 := by
  rw [← BitVec.toNat_inj, toNat_append_eq_iff rfl, BitVec.toNat_inj, BitVec.toNat_inj]

theorem mod_low4 {mk : BitVec 4 → Instr} :
    (do modZero m 0xF; return mk (m.extractLsb' 0 4)) = .ok i ↔ ∃ x, i = mk x ∧ (0 : BitVec 22) ++ x = m := by
  have hmask : (~~~0xF : BitVec 26) = modBits 4 22 := rfl
  simp (disch := decide) only [modZero_bind_eq_ok, hmask, and_modBits_eq_zero_iff, low4_eq_iff, Dec.pure_eq_ok]
  grind

theorem low8_eq_iff {x : BitVec 8} : (0 : BitVec 18) ++ x = m ↔ 0 = m.extractLsb' 8 18 ∧ x = m.extractLsb' 0 8 := by
  rw [← BitVec.toNat_inj, toNat_append_eq_iff rfl, BitVec.toNat_inj, BitVec.toNat_inj]

theorem mod_low8 {mk : BitVec 8 → Instr} :
    (do modZero m 0xFF; return mk (m.extractLsb' 0 8)) = .ok i ↔ ∃ x, i = mk x ∧ (0 : BitVec 18) ++ x = m := by
  have hmask : (~~~0xFF : BitVec 26) = modBits 8 18 := rfl
  simp (disch := decide) only [modZero_bind_eq_ok, hmask, and_modBits_eq_zero_iff, low8_eq_iff, Dec.pure_eq_ok]
  grind

theorem low12_eq_iff {x : BitVec 12} : (0 : BitVec 14) ++ x = m ↔ 0 = m.extractLsb' 12 14 ∧ x = m.extractLsb' 0 12 := by
  rw [← BitVec.toNat_inj, toNat_append_eq_iff rfl, BitVec.toNat_inj, BitVec.toNat_inj]

theorem mod_low12 {mk : BitVec 12 → Instr} :
    (do modZero m 0xFFF; return mk (m.extractLsb' 0 12)) = .ok i ↔ ∃ x, i = mk x ∧ (0 : BitVec 14) ++ x = m := by
  have hmask : (~~~0xFFF : BitVec 26) = modBits 12 14 := rfl
  simp (disch := decide) only [modZero_bind_eq_ok, hmask, and_modBits_eq_zero_iff, low12_eq_iff, Dec.pure_eq_ok]
  grind

theorem bit0_eq_iff {x : Bool} : (0 : BitVec 25) ++ BitVec.ofBool x = m ↔ 0 = m.extractLsb' 1 25 ∧ x = m.getLsbD 0 := by
  rw [← BitVec.toNat_inj, toNat_append_eq_iff rfl, BitVec.toNat_inj, BitVec.toNat_inj, ofBool_eq_extractLsb'_iff]

theorem mod_bit0 {mk : Bool → Instr} :
    (do modZero m 0x1; return mk (m.getLsbD 0)) = .ok i ↔ ∃ x, i = mk x ∧ (0 : BitVec 25) ++ BitVec.ofBool x = m := by
  have hmask : (~~~0x1 : BitVec 26) = modBits 1 25 := rfl
  simp (disch := decide) only [modZero_bind_eq_ok, hmask, and_modBits_eq_zero_iff, bit0_eq_iff, Dec.pure_eq_ok]
  grind

theorem bits01_eq_iff {x : Bool} {y : Bool} : (0 : BitVec 24) ++ BitVec.ofBool y ++ BitVec.ofBool x = m ↔ 0 = m.extractLsb' 2 24 ∧ y = m.getLsbD 1 ∧ x = m.getLsbD 0 := by
  rw [← BitVec.toNat_inj]
  simp (disch := decide) only [toNat_append_eq_iff, extractLsb'_extractLsb']
  simp only [Nat.reduceAdd, BitVec.toNat_inj, ofBool_eq_extractLsb'_iff, and_assoc]

theorem mod_bits01 {mk : Bool → Bool → Instr} :
    (do modZero m 0x3; return mk (m.getLsbD 0) (m.getLsbD 1)) = .ok i ↔ ∃ x y, i = mk x y ∧ (0 : BitVec 24) ++ BitVec.ofBool y ++ BitVec.ofBool x = m := by
  have hmask : (~~~0x3 : BitVec 26) = modBits 2 24 := rfl
  simp (disch := decide) only [modZero_bind_eq_ok, hmask, and_modBits_eq_zero_iff, bits01_eq_iff, Dec.pure_eq_ok]
  grind

theorem bar_eq_iff {x : BitVec 6} : x ++ (0 : BitVec 20) = m ↔ x = m.extractLsb' 20 6 ∧ 0 = m.extractLsb' 0 20 := by
  rw [← BitVec.toNat_inj, toNat_append_eq_iff rfl, BitVec.toNat_inj, BitVec.toNat_inj]

theorem mod_bar {mk : BitVec 6 → Instr} :
    (do modZero m 0x3F00000; return mk (m.extractLsb' 20 6)) = .ok i ↔ ∃ x, i = mk x ∧ x ++ (0 : BitVec 20) = m := by
  have hmask : (~~~0x3F00000 : BitVec 26) = modBits 0 20 := rfl
  simp (disch := decide) only [modZero_bind_eq_ok, hmask, and_modBits_eq_zero_iff, bar_eq_iff, Dec.pure_eq_ok]
  grind

theorem had_eq_iff {x : BitVec 2} {y : BitVec 5} : (0 : BitVec 19) ++ y ++ x = m ↔ 0 = m.extractLsb' 7 19 ∧ y = m.extractLsb' 2 5 ∧ x = m.extractLsb' 0 2 := by
  rw [← BitVec.toNat_inj]
  simp (disch := decide) only [toNat_append_eq_iff, extractLsb'_extractLsb']
  simp only [Nat.reduceAdd, BitVec.toNat_inj, and_assoc]

theorem mod_had {mk : BitVec 2 → BitVec 5 → Instr} :
    (do modZero m 0x7F; return mk (m.extractLsb' 0 2) (m.extractLsb' 2 5)) = .ok i ↔ ∃ x y, i = mk x y ∧ (0 : BitVec 19) ++ y ++ x = m := by
  have hmask : (~~~0x7F : BitVec 26) = modBits 7 19 := rfl
  simp (disch := decide) only [modZero_bind_eq_ok, hmask, and_modBits_eq_zero_iff, had_eq_iff, Dec.pure_eq_ok]
  grind

theorem emitv_eq_iff {x : BitVec 2} {y : BitVec 4} : (0 : BitVec 20) ++ x ++ y = m ↔ 0 = m.extractLsb' 6 20 ∧ x = m.extractLsb' 4 2 ∧ y = m.extractLsb' 0 4 := by
  rw [← BitVec.toNat_inj]
  simp (disch := decide) only [toNat_append_eq_iff, extractLsb'_extractLsb']
  simp only [Nat.reduceAdd, BitVec.toNat_inj, and_assoc]

theorem mod_emitv {mk : BitVec 2 → BitVec 4 → Instr} :
    (do modZero m 0x3F; return mk (m.extractLsb' 4 2) (m.extractLsb' 0 4)) = .ok i ↔ ∃ x y, i = mk x y ∧ (0 : BitVec 20) ++ x ++ y = m := by
  have hmask : (~~~0x3F : BitVec 26) = modBits 6 20 := rfl
  simp (disch := decide) only [modZero_bind_eq_ok, hmask, and_modBits_eq_zero_iff, emitv_eq_iff, Dec.pure_eq_ok]
  grind

theorem sysReg_eq_iff {x : BitVec 9} {y : Bool} : (0 : BitVec 16) ++ BitVec.ofBool y ++ x = m ↔ 0 = m.extractLsb' 10 16 ∧ y = m.getLsbD 9 ∧ x = m.extractLsb' 0 9 := by
  rw [← BitVec.toNat_inj]
  simp (disch := decide) only [toNat_append_eq_iff, extractLsb'_extractLsb']
  simp only [Nat.reduceAdd, BitVec.toNat_inj, ofBool_eq_extractLsb'_iff, and_assoc]

theorem mod_sysReg {mk : BitVec 9 → Bool → Instr} :
    (do modZero m 0x3FF; return mk (m.extractLsb' 0 9) (m.getLsbD 9)) = .ok i ↔ ∃ x y, i = mk x y ∧ (0 : BitVec 16) ++ BitVec.ofBool y ++ x = m := by
  have hmask : (~~~0x3FF : BitVec 26) = modBits 10 16 := rfl
  simp (disch := decide) only [modZero_bind_eq_ok, hmask, and_modBits_eq_zero_iff, sysReg_eq_iff, Dec.pure_eq_ok]
  grind

theorem tile_eq_iff {x : BitVec 4} {y : BitVec 4} :
    x ++ (0 : BitVec 10) ++ y ++ (0 : BitVec 8) = m ↔
      x = m.extractLsb' 22 4 ∧ 0 = m.extractLsb' 12 10 ∧ y = m.extractLsb' 8 4 ∧ 0 = m.extractLsb' 0 8 := by
  rw [← BitVec.toNat_inj]
  simp (disch := decide) only [toNat_append_eq_iff, extractLsb'_extractLsb']
  simp only [Nat.reduceAdd, BitVec.toNat_inj, and_assoc]

theorem mod_tile {mk : Ty → BitVec 4 → Instr} :
    (do modZero m 0x3C00F00
        let ty ← modCode 22 (Ty.ofCode (m.extractLsb' 22 4))
        return mk ty (m.extractLsb' 8 4)) = .ok i ↔
      ∃ ty n, i = mk ty n ∧ ty.code ++ (0 : BitVec 10) ++ n ++ (0 : BitVec 8) = m := by
  have hmask : (~~~0x3C00F00 : BitVec 26) = modBits 12 10 ||| modBits 0 8 := rfl
  simp (disch := decide) only [Dec.bind_eq_ok, modZero_eq_ok, exists_const, hmask, and_or_eq_zero_iff, and_modBits_eq_zero_iff, modCode_eq_ok,
    Ty.ofCode_eq_some, Dec.pure_eq_ok, tile_eq_iff]
  grind

theorem pfence_eq_iff {x : BitVec 3} {y z : BitVec 4} :
    (0 : BitVec 4) ++ x ++ (0 : BitVec 11) ++ y ++ z = m ↔
      0 = m.extractLsb' 22 4 ∧ x = m.extractLsb' 19 3 ∧ 0 = m.extractLsb' 8 11 ∧ y = m.extractLsb' 4 4 ∧ z = m.extractLsb' 0 4 := by
  rw [← BitVec.toNat_inj]
  simp (disch := decide) only [toNat_append_eq_iff, extractLsb'_extractLsb']
  simp only [Nat.reduceAdd, BitVec.toNat_inj, and_assoc]

theorem mod_pfence {mk : Scope → BitVec 4 → BitVec 4 → Instr} :
    (do modZero m 0x3800FF
        let sc ← modCode 19 (Scope.ofCode (m.extractLsb' 19 3))
        return mk sc (m.extractLsb' 4 4) (m.extractLsb' 0 4)) = .ok i ↔
      ∃ sc x y, i = mk sc x y ∧ (0 : BitVec 4) ++ sc.code ++ (0 : BitVec 11) ++ x ++ y = m := by
  have hmask : (~~~0x3800FF : BitVec 26) = modBits 22 4 ||| modBits 8 11 := rfl
  simp (disch := decide) only [Dec.bind_eq_ok, modZero_eq_ok, exists_const, hmask, and_or_eq_zero_iff, and_modBits_eq_zero_iff, modCode_eq_ok,
    Scope.ofCode_eq_some, Dec.pure_eq_ok, pfence_eq_iff]
  grind

end

/-! ## The decoders of transfers, and of the others with fields of their own -/

section
variable {r : Raw} {i : Instr}

theorem decodeBra_eq_ok :
    decodeBra r = .ok i ↔ ∃ h m, i = .bra h m ∧ (h.formed && ((h.gp == 7) == (m.join == 0))) = true ∧ r = rawOf r.opc h m.join 0 0 m.tgt := by
  simp only [decodeBra, Dec.bind_eq_ok, Raw.hdr_eq_ok, unused_eq_ok, Raw.eq_rawOf_iff, Bool.and_eq_true, Dec.ite_badField_eq_ok,
    Dec.pure_eq_ok, Raw.mb, ne_eq, not_not, Bool.beq_eq_decide_eq]
  constructor
  · rintro ⟨h, ⟨hf, hrsv, rfl⟩, u, ha, v, hb, hjoin, rfl⟩
    exact ⟨_, _, rfl, ⟨hf, by simpa using hjoin⟩, hrsv, rfl, rfl, ha, hb, rfl⟩
  · rintro ⟨h, ⟨tgt, join⟩, rfl, ⟨hf, hjoin⟩, hrsv, rfl, rfl, ha, hb, rfl⟩
    exact ⟨_, ⟨hf, hrsv, rfl⟩, (), ha, (), hb, by simpa using hjoin, rfl⟩

theorem Hdr.unguarded_iff {h : Hdr} : h.unguarded = true ↔ h.formed = true ∧ h.gp = 7 := by
  obtain ⟨gp, gn, sw, yld, ru⟩ := h
  simp only [Hdr.unguarded, Hdr.formed]
  grind

theorem decodeCall_eq_ok :
    decodeCall r = .ok i ↔ ∃ h b m, i = .call h b m ∧ (h.formed && b.short && ((h.gp == 7) == (m.join == 0))) = true ∧
      r = rawOf r.opc h m.join 0 b.toField m.tgt := by
  simp only [decodeCall, Dec.bind_eq_ok, Raw.hdr_eq_ok, unused_eq_ok, opndAt_eq_ok, Raw.eq_rawOf_iff, Bool.and_eq_true, Dec.ite_badField_eq_ok,
    Dec.pure_eq_ok, Raw.mb, ne_eq, not_not, Bool.beq_eq_decide_eq]
  constructor
  · rintro ⟨h, ⟨hf, hrsv, rfl⟩, u, ha, b, ⟨hb, hopb⟩, hjoin, rfl⟩
    exact ⟨_, _, _, rfl, ⟨⟨hf, hb⟩, by simpa using hjoin⟩, hrsv, rfl, rfl, ha, hopb, rfl⟩
  · rintro ⟨h, b, ⟨tgt, join⟩, rfl, ⟨⟨hf, hb⟩, hjoin⟩, hrsv, rfl, rfl, ha, hopb, rfl⟩
    exact ⟨_, ⟨hf, hrsv, rfl⟩, (), ha, b, ⟨hb, hopb⟩, by simpa using hjoin, rfl⟩

theorem decodeBrx_eq_ok :
    decodeBrx r = .ok i ↔ ∃ h a m, i = .brx h a m ∧ (h.unguarded && a.short && m.tgt == 0) = true ∧
      r = rawOf r.opc h m.join a.toField 0 m.tgt := by
  simp only [decodeBrx, Dec.bind_eq_ok, Raw.hdr_eq_ok, unused_eq_ok, opndAt_eq_ok, Raw.eq_rawOf_iff, Bool.and_eq_true, Dec.ite_badField_eq_ok,
    Dec.pure_eq_ok, Raw.mb, beq_iff_eq, ne_eq, not_not, Hdr.unguarded_iff]
  constructor
  · rintro ⟨h, ⟨hf, hrsv, rfl⟩, hgp, a, ⟨ha, hopa⟩, u, hb, htgt, rfl⟩
    exact ⟨_, _, _, rfl, ⟨⟨⟨hf, hgp⟩, ha⟩, htgt⟩, hrsv, rfl, rfl, hopa, hb, rfl⟩
  · rintro ⟨h, a, ⟨tgt, join⟩, rfl, ⟨⟨⟨hf, hgp⟩, ha⟩, htgt⟩, hrsv, rfl, rfl, hopa, hb, rfl⟩
    exact ⟨_, ⟨hf, hrsv, rfl⟩, hgp, a, ⟨ha, hopa⟩, (), hb, htgt, rfl⟩

theorem decodeCallx_eq_ok :
    decodeCallx r = .ok i ↔ ∃ h a b m, i = .callx h a b m ∧ (h.unguarded && a.short && b.short && m.tgt == 0 && m.join == 0) = true ∧
      r = rawOf r.opc h m.join a.toField b.toField m.tgt := by
  simp only [decodeCallx, Dec.bind_eq_ok, Raw.hdr_eq_ok, opndAt_eq_ok, Raw.eq_rawOf_iff, Bool.and_eq_true, Dec.ite_badField_eq_ok,
    Dec.pure_eq_ok, Raw.mb, beq_iff_eq, ne_eq, not_not, Hdr.unguarded_iff]
  constructor
  · rintro ⟨h, ⟨hf, hrsv, rfl⟩, hgp, a, ⟨ha, hopa⟩, b, ⟨hb, hopb⟩, htgt, hjoin, rfl⟩
    exact ⟨_, _, _, _, rfl, ⟨⟨⟨⟨⟨hf, hgp⟩, ha⟩, hb⟩, htgt⟩, hjoin⟩, hrsv, rfl, rfl, hopa, hopb, rfl⟩
  · rintro ⟨h, a, b, ⟨tgt, join⟩, rfl, ⟨⟨⟨⟨⟨hf, hgp⟩, ha⟩, hb⟩, htgt⟩, hjoin⟩, hrsv, rfl, rfl, hopa, hopb, rfl⟩
    exact ⟨_, ⟨hf, hrsv, rfl⟩, hgp, a, ⟨ha, hopa⟩, b, ⟨hb, hopb⟩, htgt, hjoin, rfl⟩

theorem decodeRet_eq_ok :
    decodeRet r = .ok i ↔ ∃ h a, i = .ret h a ∧ (h.unguarded && a.short) = true ∧ r = rawOf r.opc h 0 a.toField 0 0 := by
  simp only [decodeRet, Dec.bind_eq_ok, Raw.hdr_eq_ok, unused_eq_ok, opndAt_eq_ok, Raw.eq_rawOf_iff, Bool.and_eq_true, Dec.ite_badField_eq_ok,
    modZero_zero_eq_ok, Dec.pure_eq_ok, not_not, ne_eq, Hdr.unguarded_iff]
  grind

theorem decodeTret_eq_ok : decodeTret r = .ok i ↔ ∃ h, i = .tret h ∧ h.unguarded = true ∧ r = rawOf r.opc h 0 0 0 0 := by
  simp only [decodeTret, Dec.bind_eq_ok, Raw.hdr_eq_ok, unused_eq_ok, Raw.eq_rawOf_iff, Dec.ite_badField_eq_ok,
    modZero_zero_eq_ok, Dec.pure_eq_ok, not_not, ne_eq, Hdr.unguarded_iff]
  grind

theorem decodeBrq_eq_ok :
    decodeBrq r = .ok i ↔ ∃ h a b m, i = .brq h a b m ∧ (h.formed && a.short && b.short && m.join != 0) = true ∧
      r = rawOf r.opc h m.join a.toField b.toField m.tgt := by
  simp only [decodeBrq, Dec.bind_eq_ok, Raw.hdr_eq_ok, opndAt_eq_ok, Raw.eq_rawOf_iff, Bool.and_eq_true, Dec.ite_badField_eq_ok,
    Dec.pure_eq_ok, Raw.mb, bne_iff_ne, ne_eq]
  constructor
  · rintro ⟨h, ⟨hf, hrsv, rfl⟩, a, ⟨ha, hopa⟩, b, ⟨hb, hopb⟩, hjoin, rfl⟩
    exact ⟨_, _, _, _, rfl, ⟨⟨⟨hf, ha⟩, hb⟩, hjoin⟩, hrsv, rfl, rfl, hopa, hopb, rfl⟩
  · rintro ⟨h, a, b, ⟨tgt, join⟩, rfl, ⟨⟨⟨hf, ha⟩, hb⟩, hjoin⟩, hrsv, rfl, rfl, hopa, hopb, rfl⟩
    exact ⟨_, ⟨hf, hrsv, rfl⟩, a, ⟨ha, hopa⟩, b, ⟨hb, hopb⟩, hjoin, rfl⟩

theorem movi_eq_iff {x : BitVec 19} {m : BitVec 26} : x ++ (0 : BitVec 7) = m ↔ x = m.extractLsb' 7 19 ∧ 0 = m.extractLsb' 0 7 := by
  rw [← BitVec.toNat_inj, toNat_append_eq_iff rfl, BitVec.toNat_inj, BitVec.toNat_inj]

/-- MOVI has a long immediate in OPB and MOD (R209). -/
theorem decodeMovi_eq_ok :
    decodeMovi r = .ok i ↔ ∃ h d imm, i = .movi h d imm ∧ (h.formed && d.short) = true ∧
      r = rawOf r.opc h d.toField 0 (Opnd.long imm).toField ((imm.extractLsb' 0 19 : BitVec 19) ++ (0 : BitVec 7)) := by
  simp only [decodeMovi, Dec.bind_eq_ok, Raw.hdr_eq_ok, unused_eq_ok, opndAt_eq_ok, Raw.eq_rawOf_iff, Bool.and_eq_true,
    Dec.ite_badField_eq_ok, Dec.pure_eq_ok, longField_iff, movi_eq_iff, ne_eq, not_not]
  constructor
  · rintro ⟨h, ⟨hf, hrsv, rfl⟩, d, ⟨hd, hopd⟩, u, ha, hkind, hz, rfl⟩
    obtain ⟨hhi, hlo⟩ := imm_eq_iff.mp (rfl : r.opb.extractLsb' 0 13 ++ r.mod.extractLsb' 7 19 = _)
    exact ⟨_, _, _, rfl, ⟨hf, hd⟩, hrsv, rfl, hopd, ha, ⟨hkind, hhi.symm⟩, hlo.symm, hz.symm⟩
  · rintro ⟨h, d, imm, rfl, ⟨hf, hd⟩, hrsv, rfl, hopd, ha, ⟨hkind, hhi⟩, hlo, hz⟩
    have himm : r.opb.extractLsb' 0 13 ++ r.mod.extractLsb' 7 19 = imm := imm_eq_iff.mpr ⟨hhi.symm, hlo.symm⟩
    exact ⟨_, ⟨hf, hrsv, rfl⟩, d, ⟨hd, hopd⟩, (), ha, hkind, hz.symm, by rw [himm]⟩

theorem one_eq_iff {m : BitVec 26} : 1 = m ↔ 0 = m.extractLsb' 1 25 ∧ true = m.getLsbD 0 := bit0_eq_iff (x := true)

theorem decodePreemptRel_eq_ok (hbit : r.mod.getLsbD 0 = true) :
    decodePreemptRel r = .ok i ↔ ∃ h d a, i = .preemptRel h d a ∧ (h.formed && d.short && a.short) = true ∧
      r = rawOf r.opc h d.toField a.toField 0 1 := by
  have hmask : (~~~0x1 : BitVec 26) = modBits 1 25 := rfl
  simp (disch := decide) only [decodePreemptRel, Dec.bind_eq_ok, Raw.hdr_eq_ok, unused_eq_ok, opndAt_eq_ok, Raw.eq_rawOf_iff, Bool.and_eq_true,
    modZero_eq_ok, hmask, and_modBits_eq_zero_iff, Dec.pure_eq_ok, one_eq_iff, hbit]
  grind

theorem getLsbD_of_zero_eq {m : BitVec 26} (h : 0 = m) (k : Nat) : m.getLsbD k = false := by
  simp [← h]

theorem decodeIainv_eq_ok :
    decodeIainv r = .ok i ↔ ∃ h a b, i = .iainv h a b ∧ (h.formed && a.short && b.short) = true ∧
      r = rawOf r.opc h 0 a.toField b.toField 0 := by
  simp only [decodeIainv, Dec.bind_eq_ok, Raw.hdr_eq_ok, unused_eq_ok, opndAt_eq_ok, Raw.eq_rawOf_iff, Bool.and_eq_true,
    Dec.ite_badField_eq_ok, modZero_zero_eq_ok, Dec.pure_eq_ok]
  have hz : 0 = r.mod → r.mod.getLsbD 1 = false := fun h => getLsbD_of_zero_eq h 1
  grind

theorem decodeIainvAll_eq_ok (hbit : r.mod.getLsbD 0 = true) :
    decodeIainvAll r = .ok i ↔ ∃ h a, i = .iainvAll h a ∧ (h.formed && a.short) = true ∧ r = rawOf r.opc h 0 a.toField 0xA000 1 := by
  have hmask : (~~~0x1 : BitVec 26) = modBits 1 25 := rfl
  have hone : 1 = r.mod → r.mod.getLsbD 1 = false := by
    intro h
    simp [← h]
  simp (disch := decide) only [decodeIainvAll, Dec.bind_eq_ok, Raw.hdr_eq_ok, unused_eq_ok, opndAt_eq_ok, Raw.eq_rawOf_iff, Bool.and_eq_true,
    Dec.ite_badField_eq_ok, modZero_eq_ok, hmask, and_modBits_eq_zero_iff, Dec.pure_eq_ok, ne_eq, not_not]
  have hiff := one_eq_iff (m := r.mod)
  grind
end

/-! ## The entries of the opcodes -/

/-- The decoder accepts what the entry of the opcode accepts. -/
theorem decodeRaw_eq_ok {r : Raw} {i : Instr} :
    decodeRaw r = .ok i ↔ lookupOpcode (r.opc.extractLsb' 7 3).toNat (r.opc.extractLsb' 0 7).toNat r = some (.ok i) := by
  unfold decodeRaw
  dsimp only
  split
  case h_1 hnone =>
    have hl : lookupOpcode (r.opc.extractLsb' 7 3).toNat (r.opc.extractLsb' 0 7).toNat r = none := hnone
    simp only [hl, reduceCtorEq]
  case h_2 j hok =>
    have hl : lookupOpcode (r.opc.extractLsb' 7 3).toNat (r.opc.extractLsb' 0 7).toNat r = some (.ok j) := hok
    simp only [hl, Except.ok.injEq, Option.some.injEq]
  case h_3 f herr =>
    have hl : lookupOpcode (r.opc.extractLsb' 7 3).toNat (r.opc.extractLsb' 0 7).toNat r = some (.error f) := herr
    simp only [hl, Option.some.injEq, reduceCtorEq]

@[simp] theorem opc_rawOf {o : BitVec 10} {h : Hdr} {d a b : BitVec 16} {m : BitVec 26} : (rawOf o h d a b m).opc = o := rfl

@[simp] theorem mod_rawOf {o : BitVec 10} {h : Hdr} {d a b : BitVec 16} {m : BitVec 26} : (rawOf o h d a b m).mod = m := rfl

theorem decode_of_encodeRaw {r : Raw} {i : Instr} (he : encodeRaw i = some r)
    (hd : lookupOpcode (r.opc.extractLsb' 7 3).toNat (r.opc.extractLsb' 0 7).toNat r = some (.ok i)) :
    ∃ w, encode i = some w ∧ decode w = .ok i := by
  refine ⟨r.toWord, congrArg _ he, ?_⟩
  rw [decode, Raw.ofWord_toWord]
  exact decodeRaw_eq_ok.mpr hd

theorem encode_eq {r : Raw} {o : BitVec 10} {h : Hdr} {d a b : BitVec 16} {m m' : BitVec 26} (ho : r.opc = o)
    (hr : r = rawOf r.opc h d a b m') (hm : m = m') : some (rawOf o h d a b m) = some r := by
  rw [hm, ← ho, ← hr]

theorem eq_ofNat_of_toNat_eq {w k : Nat} {c : BitVec w} (h : c.toNat = k) : c = BitVec.ofNat w k := by
  rw [← h, BitVec.ofNat_toNat, BitVec.setWidth_eq]

theorem decodeGroup0_sound {n : Nat} {r : Raw} {i : Instr} (ho : r.opc = BitVec.ofNat 10 n) (hd : decodeGroup0 n r = some (.ok i)) :
    i.formed = true ∧ encodeRaw i = some r := by
  unfold decodeGroup0 at hd
  split at hd
  case h_1 | h_7 =>
    obtain ⟨h, hf, hr, hk⟩ := operands_none.mp (Option.some.inj hd)
    obtain ⟨rfl, hm⟩ := mod_zero.mp hk
    exact ⟨hf, encode_eq ho hr hm⟩
  case h_2 =>
    obtain ⟨h, m, rfl, hf, hr⟩ := decodeBra_eq_ok.mp (Option.some.inj hd)
    exact ⟨hf, encode_eq ho hr rfl⟩
  case h_3 =>
    obtain ⟨h, a, m, rfl, hf, hr⟩ := decodeBrx_eq_ok.mp (Option.some.inj hd)
    exact ⟨hf, encode_eq ho hr rfl⟩
  case h_4 =>
    obtain ⟨h, b, m, rfl, hf, hr⟩ := decodeCall_eq_ok.mp (Option.some.inj hd)
    exact ⟨hf, encode_eq ho hr rfl⟩
  case h_5 =>
    obtain ⟨h, a, b, m, rfl, hf, hr⟩ := decodeCallx_eq_ok.mp (Option.some.inj hd)
    exact ⟨hf, encode_eq ho hr rfl⟩
  case h_6 =>
    obtain ⟨h, a, rfl, hf, hr⟩ := decodeRet_eq_ok.mp (Option.some.inj hd)
    exact ⟨hf, encode_eq ho hr rfl⟩
  case h_8 =>
    obtain ⟨h, a, b, m, rfl, hf, hr⟩ := decodeBrq_eq_ok.mp (Option.some.inj hd)
    exact ⟨hf, encode_eq ho hr rfl⟩
  case h_9 =>
    obtain ⟨h, d, a, hf, hr, hk⟩ := operands_da.mp (Option.some.inj hd)
    obtain ⟨x, rfl, hm⟩ := mod_low4.mp hk
    exact ⟨hf, encode_eq ho hr hm⟩
  case h_10 =>
    obtain ⟨h, d, a, hf, hr, hk⟩ := operands_da.mp (Option.some.inj hd)
    obtain ⟨rfl, hm⟩ := mod_zero.mp hk
    exact ⟨hf, encode_eq ho hr hm⟩
  case h_11 | h_18 =>
    obtain ⟨h, d, a, hf, hr, hk⟩ := operands_da.mp (Option.some.inj hd)
    obtain ⟨x, rfl, hm⟩ := mod_bit0.mp hk
    exact ⟨hf, encode_eq ho hr hm⟩
  case h_12 =>
    obtain ⟨h, hf, hr, hk⟩ := operands_none.mp (Option.some.inj hd)
    obtain ⟨x, rfl, hm⟩ := mod_low8.mp hk
    exact ⟨hf, encode_eq ho hr hm⟩
  case h_13 | h_19 =>
    obtain ⟨h, a, hf, hr, hk⟩ := operands_a.mp (Option.some.inj hd)
    obtain ⟨rfl, hm⟩ := mod_zero.mp hk
    exact ⟨hf, encode_eq ho hr hm⟩
  case h_14 =>
    obtain ⟨h, a, hf, hr, hk⟩ := operands_a.mp (Option.some.inj hd)
    obtain ⟨x, rfl, hm⟩ := mod_low2.mp hk
    exact ⟨hf, encode_eq ho hr hm⟩
  case h_15 =>
    obtain ⟨h, hf, hr, hk⟩ := operands_none.mp (Option.some.inj hd)
    obtain ⟨x, rfl, hm⟩ := mod_bit0.mp hk
    exact ⟨hf, encode_eq ho hr hm⟩
  case h_16 | h_17 =>
    obtain ⟨h, hf, hr, hk⟩ := operands_none.mp (Option.some.inj hd)
    obtain ⟨x, rfl, hm⟩ := mod_low12.mp hk
    exact ⟨hf, encode_eq ho hr hm⟩
  case h_20 => cases hd

theorem decodeGroup1_sound {n : Nat} {r : Raw} {i : Instr} (ho : r.opc = BitVec.ofNat 10 (128 + n)) (hd : decodeGroup1 n r = some (.ok i)) :
    i.formed = true ∧ encodeRaw i = some r := by
  unfold decodeGroup1 at hd
  split at hd
  case h_1 | h_2 | h_3 | h_4 | h_6 | h_7 | h_10 | h_11 | h_12 | h_15 | h_16 | h_17 | h_18 | h_19 | h_24 | h_28 | h_29 | h_30 =>
    obtain ⟨h, d, a, b, m, rfl, hf, hr⟩ := operands_ma.mp (Option.some.inj hd)
    exact ⟨hf, encode_eq ho hr rfl⟩
  case h_5 | h_20 | h_25 =>
    obtain ⟨h, d, a, b, hf, hr, hk⟩ := operands_dab.mp (Option.some.inj hd)
    obtain ⟨x, rfl, hm⟩ := mod_mf.mp hk
    exact ⟨hf, encode_eq ho hr hm⟩
  case h_8 | h_9 | h_13 | h_21 | h_22 | h_23 | h_26 | h_31 =>
    obtain ⟨h, d, b, m, rfl, hf, hr⟩ := operands_ma1.mp (Option.some.inj hd)
    exact ⟨hf, encode_eq ho hr rfl⟩
  case h_14 =>
    obtain ⟨h, d, a, b, hf, hr, hk⟩ := operands_dab.mp (Option.some.inj hd)
    obtain ⟨x, rfl, hx, hm⟩ := mod_mlop.mp hk
    exact ⟨Bool.and_eq_true_iff.mpr ⟨hf, hx⟩, encode_eq ho hr hm⟩
  case h_27 =>
    obtain ⟨h, d, imm, rfl, hf, hr⟩ := decodeMovi_eq_ok.mp (Option.some.inj hd)
    exact ⟨hf, encode_eq ho hr rfl⟩
  case h_32 => cases hd

theorem decodeGroup2_sound {n : Nat} {r : Raw} {i : Instr} (ho : r.opc = BitVec.ofNat 10 (256 + n)) (hd : decodeGroup2 n r = some (.ok i)) :
    i.formed = true ∧ encodeRaw i = some r := by
  unfold decodeGroup2 at hd
  split at hd
  case h_1 | h_2 | h_3 | h_5 | h_6 | h_7 | h_11 | h_20 | h_21 | h_23 | h_24 =>
    obtain ⟨h, d, a, b, m, rfl, hf, hr⟩ := operands_ma.mp (Option.some.inj hd)
    exact ⟨hf, encode_eq ho hr rfl⟩
  case h_4 | h_22 | h_25 | h_26 =>
    obtain ⟨h, d, a, b, hf, hr, hk⟩ := operands_dab.mp (Option.some.inj hd)
    obtain ⟨x, rfl, hm⟩ := mod_mf.mp hk
    exact ⟨hf, encode_eq ho hr hm⟩
  case h_8 | h_9 | h_10 | h_12 | h_13 | h_14 | h_15 | h_16 | h_17 | h_18 | h_19 =>
    obtain ⟨h, d, b, m, rfl, hf, hr⟩ := operands_ma1.mp (Option.some.inj hd)
    exact ⟨hf, encode_eq ho hr rfl⟩
  case h_27 => cases hd

theorem decodeGroup3_sound {n : Nat} {r : Raw} {i : Instr} (ho : r.opc = BitVec.ofNat 10 (384 + n)) (hd : decodeGroup3 n r = some (.ok i)) :
    i.formed = true ∧ encodeRaw i = some r := by
  unfold decodeGroup3 at hd
  split at hd
  case h_1 | h_4 | h_5 | h_6 | h_8 =>
    obtain ⟨h, d, b, m, rfl, hf, hr⟩ := operands_ma1.mp (Option.some.inj hd)
    exact ⟨hf, encode_eq ho hr rfl⟩
  case h_2 =>
    obtain ⟨h, d, a, b, m, rfl, hf, hr⟩ := operands_ma.mp (Option.some.inj hd)
    exact ⟨hf, encode_eq ho hr rfl⟩
  case h_3 =>
    obtain ⟨h, d, a, b, hf, hr, hk⟩ := operands_dab.mp (Option.some.inj hd)
    obtain ⟨x, rfl, hm⟩ := mod_mf.mp hk
    exact ⟨hf, encode_eq ho hr hm⟩
  case h_7 =>
    obtain ⟨h, d, hf, hr, hk⟩ := operands_d.mp (Option.some.inj hd)
    obtain ⟨rfl, hm⟩ := mod_unused.mp hk
    exact ⟨hf, encode_eq ho hr hm⟩
  case h_9 => cases hd

theorem decodeGroup4_sound {n : Nat} {r : Raw} {i : Instr} (ho : r.opc = BitVec.ofNat 10 (512 + n)) (hd : decodeGroup4 n r = some (.ok i)) :
    i.formed = true ∧ encodeRaw i = some r := by
  unfold decodeGroup4 at hd
  split at hd
  case h_1 | h_2 | h_3 | h_4 | h_5 | h_6 | h_7 | h_8 | h_9 | h_11 =>
    obtain ⟨h, d, a, b, hf, hr, hk⟩ := operands_dab.mp (Option.some.inj hd)
    obtain ⟨x, rfl, hm⟩ := mod_mm.mp hk
    exact ⟨hf, encode_eq ho hr hm⟩
  case h_10 | h_12 =>
    obtain ⟨h, a, b, hf, hr, hk⟩ := operands_ab.mp (Option.some.inj hd)
    obtain ⟨x, rfl, hm⟩ := mod_mm.mp hk
    exact ⟨hf, encode_eq ho hr hm⟩
  case h_13 =>
    obtain ⟨h, hf, hr, hk⟩ := operands_none.mp (Option.some.inj hd)
    obtain ⟨x, rfl, hm⟩ := mod_mm.mp hk
    exact ⟨hf, encode_eq ho hr hm⟩
  case h_14 =>
    obtain ⟨h, hf, hr, hk⟩ := operands_none.mp (Option.some.inj hd)
    obtain ⟨x, y, z, rfl, hm⟩ := mod_pfence.mp hk
    exact ⟨hf, encode_eq ho hr hm⟩
  case h_15 | h_16 =>
    obtain ⟨h, d, a, b, hf, hr, hk⟩ := operands_dab.mp (Option.some.inj hd)
    obtain ⟨x, rfl, hm⟩ := mod_msmp.mp hk
    exact ⟨hf, encode_eq ho hr hm⟩
  case h_17 =>
    replace hd := Option.some.inj hd
    split at hd
    case h_4 => cases hd
    all_goals
      rename_i hcmd
      obtain ⟨h, a, hf, hr, hk⟩ := operands_a.mp hd
      obtain ⟨x, rfl, hm⟩ := mod_meng.mp hk
      rw [eq_ofNat_of_toNat_eq hcmd] at hm
      exact ⟨hf, encode_eq ho hr hm⟩
  case h_18 => cases hd

theorem decodeGroup5_sound {n : Nat} {r : Raw} {i : Instr} (ho : r.opc = BitVec.ofNat 10 (640 + n)) (hd : decodeGroup5 n r = some (.ok i)) :
    i.formed = true ∧ encodeRaw i = some r := by
  unfold decodeGroup5 at hd
  split at hd
  case h_1 =>
    obtain ⟨h, hf, hr, hk⟩ := operands_none.mp (Option.some.inj hd)
    obtain ⟨rfl, hm⟩ := mod_zero.mp hk
    exact ⟨hf, encode_eq ho hr hm⟩
  case h_2 | h_5 =>
    obtain ⟨h, a, b, hf, hr, hk⟩ := operands_ab.mp (Option.some.inj hd)
    obtain ⟨rfl, hm⟩ := mod_zero.mp hk
    exact ⟨hf, encode_eq ho hr hm⟩
  case h_3 =>
    obtain ⟨h, d, a, b, hf, hr, hk⟩ := operands_dab.mp (Option.some.inj hd)
    obtain ⟨x, rfl, hm⟩ := mod_bit0.mp hk
    exact ⟨hf, encode_eq ho hr hm⟩
  case h_4 =>
    obtain ⟨h, d, a, b, hf, hr, hk⟩ := operands_dab.mp (Option.some.inj hd)
    obtain ⟨x, y, rfl, hm⟩ := mod_bits01.mp hk
    exact ⟨hf, encode_eq ho hr hm⟩
  case h_6 | h_10 | h_11 | h_12 =>
    obtain ⟨h, d, a, b, hf, hr, hk⟩ := operands_dab.mp (Option.some.inj hd)
    obtain ⟨rfl, hm⟩ := mod_zero.mp hk
    exact ⟨hf, encode_eq ho hr hm⟩
  case h_7 | h_8 =>
    obtain ⟨h, a, hf, hr, hk⟩ := operands_a.mp (Option.some.inj hd)
    obtain ⟨x, rfl, hm⟩ := mod_meng_zero.mp hk
    exact ⟨hf, encode_eq ho hr hm⟩
  case h_9 =>
    obtain ⟨h, a, b, hf, hr, hk⟩ := operands_ab.mp (Option.some.inj hd)
    obtain ⟨x, rfl, hm⟩ := mod_meng_zero.mp hk
    exact ⟨hf, encode_eq ho hr hm⟩
  case h_13 =>
    obtain ⟨h, d, hf, hr, hk⟩ := operands_d.mp (Option.some.inj hd)
    obtain ⟨rfl, hm⟩ := mod_zero.mp hk
    exact ⟨hf, encode_eq ho hr hm⟩
  case h_14 | h_15 | h_16 =>
    obtain ⟨h, d, a, hf, hr, hk⟩ := operands_da.mp (Option.some.inj hd)
    obtain ⟨rfl, hm⟩ := mod_zero.mp hk
    exact ⟨hf, encode_eq ho hr hm⟩
  case h_17 =>
    obtain ⟨h, a, b, hf, hr, hk⟩ := operands_ab.mp (Option.some.inj hd)
    obtain ⟨x, rfl, hm⟩ := mod_bar.mp hk
    exact ⟨hf, encode_eq ho hr hm⟩
  case h_18 =>
    obtain ⟨h, a, hf, hr, hk⟩ := operands_a.mp (Option.some.inj hd)
    obtain ⟨rfl, hm⟩ := mod_zero.mp hk
    exact ⟨hf, encode_eq ho hr hm⟩
  case h_19 => cases hd

theorem decodeGroup6_sound {n : Nat} {r : Raw} {i : Instr} (ho : r.opc = BitVec.ofNat 10 (768 + n)) (hd : decodeGroup6 n r = some (.ok i)) :
    i.formed = true ∧ encodeRaw i = some r := by
  unfold decodeGroup6 at hd
  split at hd
  case h_1 | h_2 =>
    obtain ⟨h, d, a, b, hf, hr, hk⟩ := operands_dab.mp (Option.some.inj hd)
    obtain ⟨x, rfl, hm⟩ := mod_mx.mp hk
    exact ⟨hf, encode_eq ho hr hm⟩
  case h_3 =>
    obtain ⟨h, d, a, hf, hr, hk⟩ := operands_da.mp (Option.some.inj hd)
    obtain ⟨x, y, rfl, hm⟩ := mod_had.mp hk
    exact ⟨hf, encode_eq ho hr hm⟩
  case h_4 =>
    obtain ⟨h, d, a, b, hf, hr, hk⟩ := operands_dab.mp (Option.some.inj hd)
    obtain ⟨rfl, hm⟩ := mod_zero.mp hk
    exact ⟨hf, encode_eq ho hr hm⟩
  case h_5 =>
    obtain ⟨h, a, hf, hr, hk⟩ := operands_a.mp (Option.some.inj hd)
    obtain ⟨rfl, hm⟩ := mod_zero.mp hk
    exact ⟨hf, encode_eq ho hr hm⟩
  case h_6 => cases hd

theorem decodeGroup7_sound {n : Nat} {r : Raw} {i : Instr} (ho : r.opc = BitVec.ofNat 10 (896 + n)) (hd : decodeGroup7 n r = some (.ok i)) :
    i.formed = true ∧ encodeRaw i = some r := by
  unfold decodeGroup7 at hd
  split at hd
  case h_1 | h_3 | h_4 | h_5 | h_13 | h_18 | h_19 =>
    obtain ⟨h, d, a, hf, hr, hk⟩ := operands_da.mp (Option.some.inj hd)
    obtain ⟨rfl, hm⟩ := mod_zero.mp hk
    exact ⟨hf, encode_eq ho hr hm⟩
  case h_2 =>
    obtain ⟨h, d, hf, hr, hk⟩ := operands_d.mp (Option.some.inj hd)
    obtain ⟨x, rfl, hm⟩ := mod_bit0.mp hk
    exact ⟨hf, encode_eq ho hr hm⟩
  case h_6 =>
    obtain ⟨h, a, b, hf, hr, hk⟩ := operands_ab.mp (Option.some.inj hd)
    obtain ⟨x, y, rfl, hm⟩ := mod_emitv.mp hk
    exact ⟨hf, encode_eq ho hr hm⟩
  case h_7 | h_8 =>
    obtain ⟨h, a, b, hf, hr, hk⟩ := operands_ab.mp (Option.some.inj hd)
    obtain ⟨rfl, hm⟩ := mod_zero.mp hk
    exact ⟨hf, encode_eq ho hr hm⟩
  case h_9 | h_10 =>
    obtain ⟨h, d, a, hf, hr, hk⟩ := operands_da.mp (Option.some.inj hd)
    obtain ⟨x, y, rfl, hm⟩ := mod_tile.mp hk
    exact ⟨hf, encode_eq ho hr hm⟩
  case h_11 =>
    obtain ⟨h, hf, hr, hk⟩ := operands_none.mp (Option.some.inj hd)
    obtain ⟨rfl, hm⟩ := mod_zero.mp hk
    exact ⟨hf, encode_eq ho hr hm⟩
  case h_12 | h_21 =>
    obtain ⟨h, d, a, b, hf, hr, hk⟩ := operands_dab.mp (Option.some.inj hd)
    obtain ⟨rfl, hm⟩ := mod_zero.mp hk
    exact ⟨hf, encode_eq ho hr hm⟩
  case h_14 =>
    obtain ⟨h, d, hf, hr, hk⟩ := operands_d.mp (Option.some.inj hd)
    obtain ⟨x, y, rfl, hm⟩ := mod_sysReg.mp hk
    exact ⟨hf, encode_eq ho hr hm⟩
  case h_15 =>
    obtain ⟨h, a, hf, hr, hk⟩ := operands_a.mp (Option.some.inj hd)
    obtain ⟨x, y, rfl, hm⟩ := mod_sysReg.mp hk
    exact ⟨hf, encode_eq ho hr hm⟩
  case h_16 =>
    obtain ⟨h, rfl, hf, hr⟩ := decodeTret_eq_ok.mp (Option.some.inj hd)
    exact ⟨hf, encode_eq ho hr rfl⟩
  case h_17 =>
    replace hd := Option.some.inj hd
    split at hd
    case isTrue hbit =>
      obtain ⟨h, d, a, rfl, hf, hr⟩ := (decodePreemptRel_eq_ok hbit).mp hd
      exact ⟨hf, encode_eq ho hr rfl⟩
    case isFalse =>
      obtain ⟨h, d, a, b, hf, hr, hk⟩ := operands_dab.mp hd
      obtain ⟨rfl, hm⟩ := mod_zero.mp hk
      exact ⟨hf, encode_eq ho hr hm⟩
  case h_20 =>
    replace hd := Option.some.inj hd
    split at hd
    case isTrue hbit =>
      obtain ⟨h, a, rfl, hf, hr⟩ := (decodeIainvAll_eq_ok hbit).mp hd
      exact ⟨hf, encode_eq ho hr rfl⟩
    case isFalse =>
      obtain ⟨h, a, b, rfl, hf, hr⟩ := decodeIainv_eq_ok.mp hd
      exact ⟨hf, encode_eq ho hr rfl⟩
  case h_22 => cases hd

theorem lookupOpcode_of_encodeRaw {i : Instr} {r : Raw} (hf : i.formed = true) (hr : encodeRaw i = some r) :
    lookupOpcode (r.opc.extractLsb' 7 3).toNat (r.opc.extractLsb' 0 7).toNat r = some (.ok i) := by
  cases i <;> simp only [encodeRaw, reduceCtorEq, Option.some.injEq] at hr
  all_goals
    subst hr
    simp only [opc_rawOf, BitVec.reduceExtractLsb', BitVec.reduceToNat, lookupOpcode, decodeGroup0, decodeGroup1, decodeGroup2, decodeGroup3,
      decodeGroup4, decodeGroup5, decodeGroup6, decodeGroup7, Option.some.injEq]
  case nop h | exitL h | synct h | disc h =>
    exact operands_none.mpr ⟨h, hf, rfl, mod_zero.mpr ⟨rfl, rfl⟩⟩
  case pushb h d a x =>
    exact operands_da.mpr ⟨h, d, a, hf, rfl, mod_low4.mpr ⟨x, rfl, rfl⟩⟩
  case qpush h d a | fillfail h d a | previct h d a | fillq h d a | spl h d a | grant h d a | revoke h d a | passq h d a | launch h d a
      | csave h d a | crest h d a =>
    exact operands_da.mpr ⟨h, d, a, hf, rfl, mod_zero.mpr ⟨rfl, rfl⟩⟩
  case qpop h d a x | racq h d a x =>
    exact operands_da.mpr ⟨h, d, a, hf, rfl, mod_bit0.mpr ⟨x, rfl, rfl⟩⟩
  case qsync h x =>
    exact operands_none.mpr ⟨h, hf, rfl, mod_low8.mpr ⟨x, rfl, rfl⟩⟩
  case slip h a | rrel h a | cabort h a | cbld h a =>
    exact operands_a.mpr ⟨h, a, hf, rfl, mod_zero.mpr ⟨rfl, rfl⟩⟩
  case waitc h a x =>
    exact operands_a.mpr ⟨h, a, hf, rfl, mod_low2.mpr ⟨x, rfl, rfl⟩⟩
  case waitall h x =>
    exact operands_none.mpr ⟨h, hf, rfl, mod_bit0.mpr ⟨x, rfl, rfl⟩⟩
  case trap h x | bkpt h x =>
    exact operands_none.mpr ⟨h, hf, rfl, mod_low12.mpr ⟨x, rfl, rfl⟩⟩
  case iadd h d a b m | isub h d a b m | imul h d a b m | imulh h d a b m | imin h d a b m | imax h d a b m | andB h d a b m
      | orB h d a b m | xorB h d a b m | shl h d a b m | shr h d a b m | sar h d a b m | rot h d a b m | bfe h d a b m | isetp h d a b m
      | lea h d a b m | aadd h d a b m | plop h d a b m | fadd h d a b m | fsub h d a b m | fmul h d a b m | fmin h d a b m
      | fmax h d a b m | fsetp h d a b m | fdiv h d a b m | hadd2 h d a b m | hmul2 h d a b m | hmin2 h d a b m | hmax2 h d a b m
      | pack h d a b m =>
    exact operands_ma.mpr ⟨h, d, a, b, m, rfl, hf, rfl⟩
  case imad h d a b x | bfi h d a b x | sel h d a b x | ffma h d a b x | hfma2 h d a b x | fdot2 h d a b x | idot4 h d a b x
      | prmt h d a b x =>
    exact operands_dab.mpr ⟨h, d, a, b, hf, rfl, mod_mf.mpr ⟨x, rfl, rfl⟩⟩
  case iabs h d b m | ineg h d b m | notB h d b m | popc h d b m | clz h d b m | brev h d b m | mov h d b m | pmov h d b m
      | fclass h d b m | frnd h d b m | ffrc h d b m | fsqrt h d b m | frcp h d b m | frsq h d b m | fex2 h d b m | flg2 h d b m
      | fsin h d b m | fcos h d b m | ftanh h d b m | cvt h d b m | vote h d b m | redx h d b m | scan h d b m | matchL h d b m =>
    exact operands_ma1.mpr ⟨h, d, b, m, rfl, hf, rfl⟩
  case lop3 h d a b x =>
    obtain ⟨hf, hx⟩ := Bool.and_eq_true_iff.mp hf
    exact operands_dab.mpr ⟨h, d, a, b, hf, rfl, mod_mlop.mpr ⟨x, rfl, hx, rfl⟩⟩
  case elect h d =>
    exact operands_d.mpr ⟨h, d, hf, rfl, mod_unused.mpr ⟨rfl, rfl⟩⟩
  case ldq h d a b x | ldr h d a b x | st h d a b x | ldk h d a b x | ldt h d a b x | stt h d a b x | ldsp h d a b x | stsp h d a b x
      | atom h d a b x | atsp h d a b x =>
    exact operands_dab.mpr ⟨h, d, a, b, hf, rfl, mod_mm.mpr ⟨x, rfl, rfl⟩⟩
  case red h a b x | pfx h a b x =>
    exact operands_ab.mpr ⟨h, a, b, hf, rfl, mod_mm.mpr ⟨x, rfl, rfl⟩⟩
  case fence h x =>
    exact operands_none.mpr ⟨h, hf, rfl, mod_mm.mpr ⟨x, rfl, rfl⟩⟩
  case pfence h x y z =>
    exact operands_none.mpr ⟨h, hf, rfl, mod_pfence.mpr ⟨x, y, z, rfl, rfl⟩⟩
  case smp h d a b x | sld h d a b x =>
    exact operands_dab.mpr ⟨h, d, a, b, hf, rfl, mod_msmp.mpr ⟨x, rfl, rfl⟩⟩
  case mbinit h a b | mbwait h a b | emitp h a b | meshend h a b =>
    exact operands_ab.mpr ⟨h, a, b, hf, rfl, mod_zero.mpr ⟨rfl, rfl⟩⟩
  case mbarv h d a b x =>
    exact operands_dab.mpr ⟨h, d, a, b, hf, rfl, mod_bit0.mpr ⟨x, rfl, rfl⟩⟩
  case mbexp h d a b x y =>
    exact operands_dab.mpr ⟨h, d, a, b, hf, rfl, mod_bits01.mpr ⟨x, y, rfl, rfl⟩⟩
  case mbtest h d a b | wlpush h d a b | wlpop h d a b | wlquiet h d a b | qnt h d a b | ownq h d a b | present h d a b =>
    exact operands_dab.mpr ⟨h, d, a, b, hf, rfl, mod_zero.mpr ⟨rfl, rfl⟩⟩
  case bcopy h a x | bcopy2 h a x =>
    exact operands_a.mpr ⟨h, a, hf, rfl, mod_meng_zero.mpr ⟨x, rfl, rfl⟩⟩
  case bgath h a b x =>
    exact operands_ab.mpr ⟨h, a, b, hf, rfl, mod_meng_zero.mpr ⟨x, rfl, rfl⟩⟩
  case filldone h d =>
    exact operands_d.mpr ⟨h, d, hf, rfl, mod_zero.mpr ⟨rfl, rfl⟩⟩
  case cstep h a b x =>
    exact operands_ab.mpr ⟨h, a, b, hf, rfl, mod_bar.mpr ⟨x, rfl, rfl⟩⟩
  case mma h d a b x | mmd h d a b x =>
    exact operands_dab.mpr ⟨h, d, a, b, hf, rfl, mod_mx.mpr ⟨x, rfl, rfl⟩⟩
  case had h d a x y =>
    exact operands_da.mpr ⟨h, d, a, hf, rfl, mod_had.mpr ⟨x, y, rfl, rfl⟩⟩
  case gpl h d x =>
    exact operands_d.mpr ⟨h, d, hf, rfl, mod_bit0.mpr ⟨x, rfl, rfl⟩⟩
  case emitv h a b x y =>
    exact operands_ab.mpr ⟨h, a, b, hf, rfl, mod_emitv.mpr ⟨x, y, rfl, rfl⟩⟩
  case tld h d a x y | tsto h d a x y =>
    exact operands_da.mpr ⟨h, d, a, hf, rfl, mod_tile.mpr ⟨x, y, rfl, rfl⟩⟩
  case gets h d x y =>
    exact operands_d.mpr ⟨h, d, hf, rfl, mod_sysReg.mpr ⟨x, y, rfl, rfl⟩⟩
  case sets h a x y =>
    exact operands_a.mpr ⟨h, a, hf, rfl, mod_sysReg.mpr ⟨x, y, rfl, rfl⟩⟩
  case bra h m => exact decodeBra_eq_ok.mpr ⟨h, m, rfl, hf, rfl⟩
  case brx h a m => exact decodeBrx_eq_ok.mpr ⟨h, a, m, rfl, hf, rfl⟩
  case call h b m => exact decodeCall_eq_ok.mpr ⟨h, b, m, rfl, hf, rfl⟩
  case callx h a b m => exact decodeCallx_eq_ok.mpr ⟨h, a, b, m, rfl, hf, rfl⟩
  case ret h a => exact decodeRet_eq_ok.mpr ⟨h, a, rfl, hf, rfl⟩
  case tret h => exact decodeTret_eq_ok.mpr ⟨h, rfl, hf, rfl⟩
  case brq h a b m => exact decodeBrq_eq_ok.mpr ⟨h, a, b, m, rfl, hf, rfl⟩
  case movi h d imm => exact decodeMovi_eq_ok.mpr ⟨h, d, imm, rfl, hf, rfl⟩
  case preempt h d a b =>
    rw [mod_rawOf, if_neg (by decide)]
    exact operands_dab.mpr ⟨h, d, a, b, hf, rfl, mod_zero.mpr ⟨rfl, rfl⟩⟩
  case preemptRel h d a =>
    rw [mod_rawOf, if_pos (by decide)]
    exact (decodePreemptRel_eq_ok (show (1 : BitVec 26).getLsbD 0 = true by decide)).mpr ⟨h, d, a, rfl, hf, rfl⟩
  case iainv h a b =>
    rw [mod_rawOf, if_neg (by decide)]
    exact decodeIainv_eq_ok.mpr ⟨h, a, b, rfl, hf, rfl⟩
  case iainvAll h a =>
    rw [mod_rawOf, if_pos (by decide)]
    exact (decodeIainvAll_eq_ok (show (1 : BitVec 26).getLsbD 0 = true by decide)).mpr ⟨h, a, rfl, hf, rfl⟩
  case xformZero h a x | xformFill h a x | xformTranspose h a x =>
    simp only [mod_rawOf, toMod_cmd]
    exact operands_a.mpr ⟨h, a, hf, rfl, mod_meng.mpr ⟨x, rfl, by rw [mod_rawOf, toMod_cmd]⟩⟩

/-- What the decoder accepts is the encoding of what it reads. -/
theorem encodeRaw_of_lookupOpcode {g n : Nat} {r : Raw} {i : Instr} (ho : r.opc = BitVec.ofNat 10 (128 * g + n))
    (hd : lookupOpcode g n r = some (.ok i)) : i.formed = true ∧ encodeRaw i = some r := by
  unfold lookupOpcode at hd
  split at hd
  case h_1 => exact decodeGroup0_sound (by simpa using ho) hd
  case h_2 => exact decodeGroup1_sound ho hd
  case h_3 => exact decodeGroup2_sound ho hd
  case h_4 => exact decodeGroup3_sound ho hd
  case h_5 => exact decodeGroup4_sound ho hd
  case h_6 => exact decodeGroup5_sound ho hd
  case h_7 => exact decodeGroup6_sound ho hd
  case h_8 => exact decodeGroup7_sound ho hd
  case h_9 => cases hd

/-- An opcode is its group and its place in the group (R216). -/
theorem opc_eq_group_place (o : BitVec 10) : o = BitVec.ofNat 10 (128 * (o.extractLsb' 7 3).toNat + (o.extractLsb' 0 7).toNat) := by
  apply BitVec.eq_of_toNat_eq
  rw [toNat_extractLsb'_eq, toNat_extractLsb'_eq, BitVec.toNat_ofNat]
  omega

/-- No bit of a word is dropped: with its reserved bits zero, a word is rebuilt from its fields. -/
theorem Raw.toWord_ofWord (w : IWord) : (Raw.ofWord w).toWord = w := by
  rw [← BitVec.toNat_inj]
  simp (disch := decide) only [Raw.toWord, toNat_append_eq_iff, extractLsb'_extractLsb']
  simp only [Raw.ofWord, Nat.reduceAdd, BitVec.toNat_inj, ofBool_eq_extractLsb'_iff, and_true]

end Sys2Proof

namespace Sys2Proof.Proofs

/-- Settles O45: by the instruction; the entry of its opcode accepts the fields that its encoding gives. -/
theorem decodeOfEncode : Obligations.DecodeOfEncode := by
  intro i hf
  cases hr : encodeRaw i with
  | none => cases i <;> simp only [encodeRaw, reduceCtorEq] at hr <;> cases hf
  | some r => exact decode_of_encodeRaw hr (lookupOpcode_of_encodeRaw hf hr)

/-- Settles O46: by the opcode; what an entry accepts is the encoding of what it reads, and a word is its fields. -/
theorem encodeOfDecode : Obligations.EncodeOfDecode := by
  intro w i hd
  have hl := decodeRaw_eq_ok.mp hd
  obtain ⟨hf, hr⟩ := encodeRaw_of_lookupOpcode (opc_eq_group_place _) hl
  refine ⟨hf, ?_⟩
  rw [encode, hr, Option.map_some, Raw.toWord_ofWord]

end Sys2Proof.Proofs

/-!
SUPPORT. The instructions that compute one value per lane: each runs the effect of its form, at once or with a late result.
-/

namespace Sys2Proof.Machine

theorem headD_map_eq_valAt (vs : List (Nat → Nat)) (l : Nat) : (vs.map fun v => v l).headD 0 = valAt vs 0 l := by
  cases vs <;> rfl

variable {i : Instr} {F : Form} {s : State} {e : Env} {vs : List (Nat → Nat)}

/-- A form of Table 10-3 runs the effect of fixed latency. -/
theorem exec_of_intForm (hF : intForm i = some F) (s : State) :
    exec i s = runInstr i F.h (aluEff F.d F.pair F.srcs F.val) s := by
  unfold intForm at hF
  split at hF <;> cases hF <;> rfl

theorem exec_of_fltForm (hF : fltForm i = some F) (s : State) :
    exec i s = runInstr i F.h (aluEff F.d F.pair F.srcs F.val) s := by
  unfold fltForm at hF
  split at hF <;> cases hF <;> rfl

theorem exec_of_lateForm (hF : lateForm i = some F) (s : State) :
    exec i s = runInstr i F.h (lateEff F.d F.pair F.srcs F.val) s := by
  unfold lateForm at hF
  split at hF <;> cases hF <;> rfl

theorem exec_of_queueForm (hF : queueForm i = some F) (s : State) :
    exec i s = runInstr i F.h (aluEff F.d F.pair F.srcs F.val) s := by
  unfold queueForm at hF
  split at hF <;> cases hF <;> rfl

theorem execPack_keeps (h : Hdr) (d a b : Opnd) (m : MA) (hk : packKeeps m.ty = true) (s : State) :
    exec (.pack h d a b m) s = runInstr (.pack h d a b m) h
      (aluEff d false [srcA a (packSource m.ty), srcB b (packSource m.ty) m, { code := 0, o := d }]
        (on3 fun a b old => packVal m old a b)) s := by
  show execPack h d a b m s = _
  simp only [execPack, if_pos hk]
  rfl

theorem execPack_whole (h : Hdr) (d a b : Opnd) (m : MA) (hk : packKeeps m.ty ≠ true) (s : State) :
    exec (.pack h d a b m) s = runInstr (.pack h d a b m) h
      (aluEff d false [srcA a (packSource m.ty), srcB b (packSource m.ty) m] (on2 (packVal m 0))) s := by
  show execPack h d a b m s = _
  simp only [execPack, if_neg hk]

/-- CVT, PACK and PRMT run the effect of fixed latency; PACK reads its destination when it keeps old bits. -/
theorem exec_of_cvtForm (hF : cvtForm i = some F) (s : State) :
    exec i s = runInstr i F.h (aluEff F.d F.pair F.srcs F.val) s := by
  unfold cvtForm at hF
  split at hF
  next => cases hF; rfl
  next =>
    split at hF
    next hk => cases hF; exact execPack_keeps _ _ _ _ _ hk s
    next hk => cases hF; exact execPack_whole _ _ _ _ _ hk s
  next => cases hF; rfl
  next => cases hF

/-- An instruction of a form completes with the form's result written at once. -/
theorem exec_form_after (hx : exec i s = runInstr i F.h (aluEff F.d F.pair F.srcs F.val) s) (hr : s.runs i F.h e)
    (hv : F.reads s e vs) : exec i s = .next (F.after s e vs) :=
  hx.trans (runInstr_next hr (aluEff_ok hv))

theorem exec_form_afterLate (hx : exec i s = runInstr i F.h (lateEff F.d F.pair F.srcs F.val) s) (hr : s.runs i F.h e)
    (hv : F.reads s e vs) : exec i s = .next (F.afterLate s e vs) :=
  hx.trans (runInstr_next hr (lateEff_ok hv))

end Sys2Proof.Machine

namespace Sys2Proof.Proofs
open Sys2Proof.Machine

/-- Settles O5: each form of Table 10-3 runs the effect of its form. -/
theorem integerResults : Obligations.IntegerResults := by
  intro i F s e vs hF hr hv
  exact exec_form_after (exec_of_intForm hF s) hr hv

/-- Settles O6: each form of Table 11-1 runs the effect of its form, at once or late. -/
theorem floatResults : Obligations.FloatResults := by
  refine ⟨?_, ?_⟩
  · intro i F s e vs hF hr hv
    exact exec_form_after (exec_of_fltForm hF s) hr hv
  · intro i F s e vs hF hr hv
    exact exec_form_afterLate (exec_of_lateForm hF s) hr hv

/-- Settles O7: CVT, PACK and PRMT by their forms, PMOV by the four branches of its effect. -/
theorem conversionsAndMoves : Obligations.ConversionsAndMoves := by
  refine ⟨?_, ?_⟩
  · intro i F s e vs hF hr hv
    exact exec_form_after (exec_of_cvtForm hF s) hr hv
  · intro s h d b m e hr
    refine ⟨fun hm => ?_, fun hm vs hv => ?_, fun hm F vs hF hv => ?_, fun hm F vs hF hv => ?_⟩
    · exact runInstr_next (body := pmovEff d b m) hr (by simp only [pmovEff, hm]; rfl)
    · refine runInstr_next (body := pmovEff d b m) hr ?_
      simp only [pmovEff, hm, hv, ← headD_map_eq_valAt]
      rfl
    · subst hF
      exact runInstr_next (body := pmovEff d b m) hr (Eq.trans (by simp only [pmovEff, hm]; rfl) (aluEff_ok hv))
    · subst hF
      exact runInstr_next (body := pmovEff d b m) hr (Eq.trans (by simp only [pmovEff, hm]; rfl) (aluEff_ok hv))

end Sys2Proof.Proofs

/-!
SUPPORT. What the checks of an instruction answer: a check that passes is skipped, and one that fails ends the instruction.
-/

namespace Sys2Proof.Machine

variable {α β : Type}

@[simp] theorem Chk.ok_bind (a : α) (f : α → Chk β) : ((Except.ok a : Chk α) >>= f) = f a := rfl

@[simp] theorem Chk.error_bind (x : Stop) (f : α → Chk β) : ((Except.error x : Chk α) >>= f) = .error x := rfl

@[simp] theorem Chk.pure_eq (a : α) : (pure a : Chk α) = .ok a := rfl

theorem Chk.bind_eq_ok {x : Chk α} {f : α → Chk β} {b : β} : (x >>= f) = .ok b ↔ ∃ a, x = .ok a ∧ f a = .ok b := by
  cases x <;> simp

theorem trapIf_eq_ok {b : Bool} {c n : Nat} {u : Unit} : trapIf b c n = .ok u ↔ b = false := by
  cases b <;> simp [trapIf]

theorem waitIf_eq_ok {b : Bool} {w : Wait} {u : Unit} : waitIf b w = .ok u ↔ b = false := by
  cases b <;> simp [waitIf]

@[simp] theorem waitIf_true (w : Wait) : waitIf true w = .error (.wait w) := rfl

@[simp] theorem waitIf_false (w : Wait) : waitIf false w = .ok () := rfl

@[simp] theorem trapIf_true (c n : Nat) : trapIf true c n = .error (.trap c n) := rfl

@[simp] theorem trapIf_false (c n : Nat) : trapIf false c n = .ok () := rfl

@[simp] theorem waitAccs_nil : waitAccs [] = .ok () := rfl

theorem waitAccs_of_ne_nil {l : List Acc} (hl : l ≠ []) : waitAccs l = .error (.wait (waitOn l)) := by
  cases l with
  | nil => exact absurd rfl hl
  | cons a l => rfl

variable {i : Instr} {h : Hdr} {s : State} {e : Env} {body : Env → State → Chk Eff}

/-- An effect that changes nothing: the instruction only goes on. -/
theorem runInstr_skip (hr : s.runs i h e) (hb : body e (s.begun e) = .ok (Eff.on (s.begun e))) :
    runInstr i h body s = .next ((s.begun e).ended e h false s) :=
  runInstr_next hr hb

end Sys2Proof.Machine

/-!
SUPPORT. NOP, the waits and the software traps.
-/

namespace Sys2Proof.Machine

variable {h : Hdr} {s : State} {e : Env}

theorem filter_needQs_eq_nil {l : List Acc} (hl : ∀ a ∈ l, a.needQs = none) : (l.filter fun a => a.needQs.isSome) = [] := by
  simp only [List.filter_eq_nil_iff]
  intro a ha
  simp [hl a ha]

/-- Accesses that all wait for qs data are waited for until the data comes. -/
theorem waitOn_of_needQs {l : List Acc} (hl : l ≠ []) (hq : ∀ a ∈ l, a.needQs.isSome = true) :
    waitOn l = .qs (l.map fun a => a.id) := by
  obtain ⟨a, ha⟩ := List.exists_mem_of_ne_nil l hl
  have hany : (l.any fun a => a.needQs.isSome) = true := List.any_eq_true.mpr ⟨a, ha, hq a ha⟩
  simp only [waitOn, hany, if_true]

end Sys2Proof.Machine

namespace Sys2Proof.Proofs
open Sys2Proof.Machine

/-- Settles O1: each wait is one check of its effect, which passes or names what the fragment waits for. -/
theorem waits : Obligations.Waits := by
  refine ⟨?_, ?_⟩
  · intro s h e
    refine ⟨fun hr => ?_, fun m hr hm => ?_, fun a n hr hn hs => ?_, fun a p n hr hn hp => ?_, fun mem hr hq hd => ?_⟩
    · exact runInstr_skip hr rfl
    · exact runInstr_skip hr (by simp [hm])
    · refine runInstr_skip hr ?_
      have : (decide (n ≤ 128) && decide (n < e.g.slip)) = false := by simp; omega
      simp [hn, this]
    · refine runInstr_skip hr ?_
      have : decide (n < e.x.counter (pathOf p)) = false := by simpa using hp
      simp [hn, this]
    · refine runInstr_skip hr ?_
      cases mem <;> simp [filter_needQs_eq_nil hq, hd]
  · intro s h e
    refine ⟨fun m hr hm => ?_, fun a n hr hn h1 h2 => ?_, fun a p n hr hn hp => ?_, fun mem hr hq hd => ?_, fun hr hl => ?_⟩
    · exact runInstr_wait hr (by simp [List.isEmpty_eq_false_iff.mpr hm])
    · exact runInstr_wait hr (by simp [hn, h1, h2])
    · exact runInstr_wait hr (by simp [hn, hp])
    · refine runInstr_wait hr ?_
      cases mem with
      | false => simp [hd]
      | true => simp [filter_needQs_eq_nil (hq rfl), hd]
    · refine runInstr_wait hr ?_
      have hq := waitOn_of_needQs hl fun a ha => (List.mem_filter.mp ha).2
      simp only [if_true, waitAccs_of_ne_nil hl, Chk.error_bind, hq]

/-- Settles O3: the effect of TRAP and of BKPT is its trap. -/
theorem softwareTraps : Obligations.SoftwareTraps := by
  intro s h e code
  exact ⟨fun hr => runInstr_trap hr rfl, fun hr => runInstr_trap hr rfl⟩

end Sys2Proof.Proofs

/-!
SUPPORT. The branches, RET, EXIT and DISC.
-/

namespace Sys2Proof.Machine

variable {h : Hdr} {s : State} {e : Env} {i : Instr} {body : Env → State → Chk Eff}

/-- An instruction whose effect is a transfer that may be made leaves the lanes where `transferred` puts them. -/
theorem runInstr_transfer {u : State} {taken : Lanes} {npc tgt jn : W64} (hr : s.runs i h e)
    (hb : body e (s.begun e) = transfer e u taken npc tgt jn) (ht : u.mayTransfer e taken npc tgt jn) :
    runInstr i h body s = .next ((u.transferred e taken npc tgt jn).ended e h (taken != 0) s) :=
  runInstr_next hr (hb.trans (transfer_ok ht))

/-- A transfer of the lanes of `exec` has a lane to move. -/
theorem State.runs.exec_bne (hr : s.runs i h e) : (e.exec != 0) = true := by simpa using hr.lanes

/-- The target of CALLX and RET has passed its alignment check. -/
theorem pairTarget_aligned {u : State} {a : Opnd} {t : W64} (ht : u.pairTarget e a = .ok t) : pcAligned t = true := by
  simp only [State.pairTarget, Chk.bind_eq_ok, transferCheck, trapIf_eq_ok, Chk.pure_eq, Except.ok.injEq, Bool.not_eq_false'] at ht
  obtain ⟨vs, -, -, hal, -, -, rfl⟩ := ht
  exact hal

/-- A transfer of the whole fragment to an aligned target moves it there. -/
theorem transfer_mask {u : State} {npc tgt jn : W64} (ht : pcAligned tgt = true) (hm : e.f.mask ≠ 0) :
    transfer e u e.f.mask npc tgt jn = .ok { s := u.updSlice e.gid e.sl fun x => x.goTo e.slot tgt, moved := true } := by
  simp only [transfer, hm, if_false, transferCheck, ht, Bool.not_true, trapIf_false, Chk.ok_bind, if_true, Chk.pure_eq]

theorem discEff_tile {u : State} {d : Nat} (hk : e.t.kind = .tile d) :
    discEff e u = .ok { s := (u.updGroup e.gid fun g => { g with discarded := g.discarded ||| e.exec }).leave e, moved := true } := by
  simp only [discEff, hk]; rfl

theorem discEff_other {u : State} (hk : ∀ d, e.t.kind ≠ .tile d) : discEff e u = .ok { s := u.leave e, moved := true } := by
  unfold discEff
  split
  next d hd => exact absurd hd (hk d)
  next => rfl

/-- No lane of BRQ meets an entry of another tag. -/
theorem brq_tags {l : List Nat} {q n : Nat} {g : Group} (ht : ∀ x ∈ l, ∀ t, g.laneTag q x = some t → t.toNat = n) :
    (l.find? fun x => (g.laneTag q x).any fun t => t.toNat != n) = none := by
  simp only [List.find?_eq_none, Option.any_eq_true, not_exists, not_and]
  intro x hx t hq
  simp [ht x hx t hq]

theorem gather_eq_ok {u : State} {srcs : List SrcOp} {d : Opnd} {n : Nat} {vs : List (Nat → Nat)} :
    u.gather e srcs d n = .ok vs ↔ ∃ l, u.peek e srcs d n = .ok l ∧ poisonCheck e.exec l = .ok () ∧ lvVals l = vs := by
  simp [State.gather, Chk.bind_eq_ok, Unique.exists_iff]

/-- BRQ on a queue whose entries bear the tag: it pops a bit per lane and transfers the lanes whose bit is 1. -/
theorem brqEff_of_tags {u : State} {q : BitVec 3} {tag : BitVec 13} {m : MB} {vs : List (Nat → Nat)}
    (hv : u.gather e [{ code := 1, o := .que q }] (.vec 0) 0 = .ok vs)
    (ht : ∀ l ∈ lanesOf e.exec, ∀ t, e.g.laneTag q.toNat l = some t → t.toNat = tag.toNat % 16) :
    brqEff (.que q) (.imm tag) m e u = transfer e (u.consume e [{ code := 1, o := .que q }])
      (maskOf fun l => e.exec.getLsbD l && bitN (valAt vs 0 l) 0) (e.f.pc + 12) (targetOf m e.f.pc) (joinOf m e.f.pc) := by
  obtain ⟨l, hp, hc, rfl⟩ := gather_eq_ok.mp hv
  have hf := brq_tags ht
  unfold brqEff
  simp only [← headD_map_eq_valAt]
  rw [hp]
  simp only [Chk.ok_bind]
  rw [show (({ code := 1, o := .que q } : SrcOp).queue?).getD 0 = q.toNat from rfl, hf]
  simp only [hc, Chk.ok_bind]

end Sys2Proof.Machine

namespace Sys2Proof.Proofs
open Sys2Proof.Machine

/-- Settles O2: each branch is one transfer that may be made, and EXIT and DISC let the lanes of exec leave. -/
theorem transfers : Obligations.Transfers := by
  refine ⟨?_, ?_⟩
  · intro s h e
    refine ⟨fun m hr ht => ?_, fun b m hr ht => ?_, ?_, fun a b m t hr ht => ?_, fun a t hr ht => ?_, ?_⟩
    · rw [← hr.exec_bne]
      exact runInstr_transfer hr rfl ht
    · rw [← hr.exec_bne]
      exact runInstr_transfer hr rfl ht
    · intro a m vs t hr hb hv htl taken ht
      refine runInstr_transfer (body := brxEff a m) hr ?_ ht
      simp only [brxEff, hb, hv, Chk.ok_bind, headD_map_eq_valAt, ← htl]
      rfl
    · refine runInstr_next (body := callxEff a b) hr ?_
      simp only [callxEff, ht, Chk.ok_bind]
      exact transfer_mask (pairTarget_aligned ht) (State.runs_mask hr)
    · refine runInstr_next (body := retEff a) hr ?_
      simp only [retEff, ht, Chk.ok_bind]
      exact transfer_mask (pairTarget_aligned ht) (State.runs_mask hr)
    · intro q tag m vs hr hv htag
      extract_lets taken s1
      intro ht
      exact runInstr_transfer (body := brqEff (.que q) (.imm tag) m) hr (brqEff_of_tags hv htag) ht
  · intro s h e
    refine ⟨fun hr => ?_, fun hr hk => ?_, fun d hr hk => ?_⟩
    · exact runInstr_next (body := fun e s => pure { s := s.leave e, moved := true }) hr rfl
    · exact runInstr_next (body := discEff) hr (discEff_other hk)
    · exact runInstr_next (body := discEff) hr (discEff_tile hk)

end Sys2Proof.Proofs

/-!
SUPPORT. The queue operations, the register blocks and the lane combinations.
-/

namespace Sys2Proof.Machine

variable {e : Env} {s : State} {vs : List (Nat → Nat)}

/-- PUSHB of a predicate pushes the bits that the fragment sees. -/
theorem pushbEff_ok {q p : BitVec 3} {tag : BitVec 4}
    (hv : s.gather e [{ code := 1, o := .pred p }] (.que q) 1 = .ok vs) :
    pushbEff (.que q) (.pred p) tag e s = .ok (Eff.on (s.updGroup e.gid fun g => g.push q.toNat e.exec e.exec
      (laneList g.width fun l => Val.of (BitVec.ofNat 32 (boolNat ((e.x.pred p).getLsbD l)))) tag none)) := by
  obtain ⟨l, hp, hc, rfl⟩ := gather_eq_ok.mp hv
  have hl : l = [(1, fun x => s.srcVal e { code := 1, o := .pred p } 0 x)] := by
    simp only [State.peek, Chk.bind_eq_ok, Chk.pure_eq, Except.ok.injEq] at hp
    obtain ⟨-, -, -, -, -, -, rfl⟩ := hp
    rfl
  subst hl
  simp only [pushbEff, hv, Chk.ok_bind]
  rfl

variable {d a : Opnd} {n : Nat} {t : State}

/-- Blocks that the group already holds are not raised. -/
theorem raiseBlocks_held {g : Group} {o : Id12} (hn : n ≤ g.held) : s.raiseBlocks g o n = some s := by
  simp only [State.raiseBlocks, if_pos hn]

/-- The blocks of the count are free: RACQ goes on in the raised state, and with TRY and a rise it says so in its predicate. -/
theorem racqEff_raised {tryIt : Bool} (hc : s.countVal e a (fun n => decide (e.t.kern.cmax < n)) = .ok n)
    (ht : s.raiseBlocks e.g e.c.owner n = some t) (hq : tryIt = false ∨ n ≤ e.g.held) :
    racqEff d a tryIt e s = .ok (Eff.on t) := by
  have hq' : (tryIt && decide (e.g.held < n)) = false := by
    rcases hq with rfl | hn
    · rfl
    · simp [hn]
  simp only [racqEff, hc, Chk.ok_bind, ht, hq', Bool.false_eq_true, if_false, Chk.pure_eq]

theorem racqEff_try_raised {p : BitVec 3} (hc : s.countVal e a (fun n => decide (e.t.kern.cmax < n)) = .ok n)
    (ht : s.raiseBlocks e.g e.c.owner n = some t) (hn : e.g.held < n) :
    racqEff (.pred p) a true e s = .ok (Eff.on (t.updSlice e.gid e.sl fun x => x.setPred p e.exec e.exec)) := by
  simp only [racqEff, hc, Chk.ok_bind, ht, hn, decide_true, Bool.and_true, if_true, Chk.pure_eq]

theorem racqEff_try_none {p : BitVec 3} (hc : s.countVal e a (fun n => decide (e.t.kern.cmax < n)) = .ok n)
    (ht : s.raiseBlocks e.g e.c.owner n = none) :
    racqEff (.pred p) a true e s = .ok (Eff.on (s.updSlice e.gid e.sl fun x => x.setPred p e.exec 0)) := by
  simp only [racqEff, hc, Chk.ok_bind, ht, if_true, Bool.false_eq_true, if_false, Chk.pure_eq]

theorem rrelEff_ok (hc : s.countVal e a (fun n => decide (n < e.t.kern.cmin)) = .ok n) (hw : e.x.writesAbove n = false) :
    rrelEff a e s = .ok (Eff.on (s.dropBlocks e.g n)) := by
  simp only [rrelEff, hc, hw, Chk.ok_bind, waitIf_false, Chk.pure_eq]

/-! ## Lane combinations -/

theorem redxEff_ok {F : Form} {scan : Bool} {d b : Opnd} {m : MA}
    (hF : F = { h := F.h, d := d, pair := m.ty == .b64, srcs := [srcB b m.ty { m with xlm := .none }], val := fun _ => 0 })
    (hv : F.reads s e vs) :
    redxEff scan d b m e (s.begun e) = .ok (Eff.on (((s.begun e).consume e F.srcs).lateDst e d false (splitVal (m.ty == .b64) fun l =>
      combine (m.sub.toNat % 8) m.ty m.rnd m.sat ((scanSet scan m e l).map fun k => redxSource m (valAt vs 0 k))))) := by
  obtain ⟨hb, hg⟩ := hv
  rw [hF] at hb hg ⊢
  simp only [redxEff, hb, hg, Chk.ok_bind, headD_map_eq_valAt, Chk.pure_eq]

/-- MATCH.ALL: whether every lane of exec has the lowest lane's value. -/
theorem matchEff_all {F : Form} {d b : Opnd} {m : MA} (hm : m.sub = 1)
    (hF : F = { h := F.h, d := d, pair := m.sub.toNat = 0 && e.g.width == 64, srcs := [srcB b m.ty { m with xlm := .none }],
                val := fun _ => 0 })
    (hv : F.reads s e vs) :
    matchEff d b m e (s.begun e) = .ok (Eff.on (((s.begun e).consume e F.srcs).lateDst e d false (splitVal false fun _ =>
      boolNat ((lanesOf e.exec).all fun k => valAt vs 0 k == valAt vs 0 (lowLane e.exec))))) := by
  obtain ⟨hb, hg⟩ := hv
  rw [hF] at hb hg ⊢
  simp only [matchEff, hb, hg, Chk.ok_bind, headD_map_eq_valAt, Chk.pure_eq]
  simp only [hm]
  rfl

/-- MATCH.ANY: the lanes of exec with the lane's value. -/
theorem matchEff_any {F : Form} {d b : Opnd} {m : MA} (hm : m.sub = 0)
    (hF : F = { h := F.h, d := d, pair := m.sub.toNat = 0 && e.g.width == 64, srcs := [srcB b m.ty { m with xlm := .none }],
                val := fun _ => 0 })
    (hv : F.reads s e vs) :
    matchEff d b m e (s.begun e) = .ok (Eff.on (((s.begun e).consume e F.srcs).lateDst e d false (splitVal (e.g.width == 64) fun l =>
      (maskOf fun k => e.exec.getLsbD k && valAt vs 0 k == valAt vs 0 l).toNat))) := by
  obtain ⟨hb, hg⟩ := hv
  rw [hF] at hb hg ⊢
  simp only [matchEff, hb, hg, Chk.ok_bind, headD_map_eq_valAt, Chk.pure_eq]
  simp only [hm]
  rfl

end Sys2Proof.Machine

namespace Sys2Proof.Proofs
open Sys2Proof.Machine

/-- Settles O4: the plain moves by their forms, and the others by what their effect does in each case of the count. -/
theorem queuesAndBlocks : Obligations.QueuesAndBlocks := by
  refine ⟨⟨?_, ?_⟩, ?_⟩
  · intro i F s e vs hF hr hv
    exact exec_form_after (exec_of_queueForm hF s) hr hv
  · intro s h e vs
    refine ⟨fun d a hr hv => ?_, fun q p tag hr hv => ?_⟩
    · refine runInstr_next (body := qdiscEff a) hr ?_
      simp only [qdiscEff, hv, Chk.ok_bind, Chk.pure_eq, Eff.on]
    · exact runInstr_next (body := pushbEff (.que q) (.pred p) tag) hr (pushbEff_ok hv)
  · intro s h e a n
    refine ⟨fun d tryIt hr hc hn => ?_, fun d t hr hc ht => ?_, fun p t hr hc hn ht => ?_, fun p hr hc ht => ?_, fun hr hc hw => ?_⟩
    · exact runInstr_next (body := racqEff d a tryIt) hr (racqEff_raised hc (raiseBlocks_held hn) (.inr hn))
    · exact runInstr_next (body := racqEff d a false) hr (racqEff_raised hc ht (.inl rfl))
    · exact runInstr_next (body := racqEff (.pred p) a true) hr (racqEff_try_raised hc ht hn)
    · exact runInstr_next (body := racqEff (.pred p) a true) hr (racqEff_try_none hc ht)
    · exact runInstr_next (body := rrelEff a) hr (rrelEff_ok hc hw)

/-- Settles O8: VOTE and ELECT by the branches of their effects, REDX, SCAN and MATCH by what their source reads in every lane. -/
theorem laneCombinations : Obligations.LaneCombinations := by
  intro s h e
  refine ⟨?_, fun p hr => ?_, fun d vs hr hp hb hv => ?_, ?_, ?_⟩
  · intro d b m hr p
    refine ⟨fun hm => ?_, fun hm => ?_, fun hm => ?_, fun hm hb => ?_⟩
    · exact runInstr_next (body := voteEff d b m) hr (by simp only [voteEff, hm]; rfl)
    · exact runInstr_next (body := voteEff d b m) hr (by simp only [voteEff, hm]; rfl)
    · exact runInstr_next (body := voteEff d b m) hr (by simp only [voteEff, hm]; rfl)
    · exact runInstr_next (body := voteEff d b m) hr (by simp only [voteEff, hm, hb]; rfl)
  · exact runInstr_next (body := electEff (.pred p)) hr rfl
  · refine runInstr_next (body := electEff d) hr ?_
    unfold electEff
    split
    next p => exact absurd rfl (hp p)
    next => simp only [hb, hv, Chk.ok_bind, Chk.pure_eq]; rfl
  · intro d b m scan F vs hF hr hv
    subst hF
    cases scan with
    | true => exact runInstr_next (body := redxEff true d b m) hr (redxEff_ok rfl hv)
    | false => exact runInstr_next (body := redxEff false d b m) hr (redxEff_ok rfl hv)
  · intro d b m F vs hF hr hv
    subst hF
    refine ⟨fun hm => ?_, fun hm => ?_⟩
    · exact runInstr_next (body := matchEff d b m) hr (matchEff_all hm rfl hv)
    · exact runInstr_next (body := matchEff d b m) hr (matchEff_any hm rfl hv)

end Sys2Proof.Proofs

/-!
SUPPORT. The barrier object and its bytes, SYNCT and the MB instructions.
-/

namespace Sys2Proof.Machine

@[simp] theorem length_leBytes (n v : Nat) : (leBytes n v).length = n := by
  induction n generalizing v with
  | zero => rfl
  | succ n ih => simp [leBytes, ih]

/-- The bytes of a number read back as the number modulo their span. -/
theorem leNat_leBytes (n v : Nat) : leNat (leBytes n v) = v % 256 ^ n := by
  induction n generalizing v with
  | zero => simp [leBytes, leNat, Nat.mod_one]
  | succ n ih =>
    have hm : v % (256 * 256 ^ n) = v % 256 + 256 * (v / 256 % 256 ^ n) := Nat.mod_mul
    simp only [leBytes, leNat, ih, BitVec.toNat_ofNat]
    rw [pow_succ' 256 n, hm]

theorem BarObj.ofBytes_bytes (o : BarObj) : BarObj.ofBytes o.bytes = o := by
  obtain ⟨posted, landed, quota, arrived, epoch⟩ := o
  simp only [BarObj.ofBytes, BarObj.bytes, List.append_assoc, BarObj.mk.injEq]
  refine ⟨?_, ?_, ?_, ?_, ?_⟩
  all_goals
    apply BitVec.eq_of_toNat_eq
    simp [List.drop_append, List.drop_eq_nil_of_le, leNat_leBytes, BitVec.isLt posted, BitVec.isLt landed, BitVec.isLt quota,
      BitVec.isLt arrived, BitVec.isLt epoch]

theorem BarObj.arrive_arrived (o : BarObj) (n : Nat) :
    (o.arrive n).arrived.toNat = min (o.arrived.toNat + n) o.quota.toNat := by
  have := o.quota.isLt
  simp only [BarObj.arrive, BitVec.toNat_ofNat]
  omega

theorem BarObj.close_of_complete {o : BarObj} (ho : o.arrived = o.quota ∧ o.landed = o.posted) :
    o.close = { o with epoch := o.epoch + 1, arrived := 0 } := by
  simp only [BarObj.close, if_pos ho]

theorem BarObj.close_of_not_complete {o : BarObj} (ho : ¬(o.arrived = o.quota ∧ o.landed = o.posted)) : o.close = o := by
  simp only [BarObj.close, if_neg ho]

variable {e : Env} {s : State} {a b d : Opnd} {off n : Nat}

theorem synctEff_ok {sw : Bool} (hl : s.afterLogged e = .ok ()) (hw : s.afterWrites e = .ok ()) :
    synctEff sw e s = .ok { s := ((s.updFrag e.gid e.sl e.slot fun f => { f with wait := .barrier sw }).updTeam e.t.id fun t =>
      t.arrive e.sl e.gid e.exec s.time).checkBarrier e.t.id e.sl, moved := true } := by
  simp only [synctEff, hl, hw, Chk.ok_bind, Chk.pure_eq]
  rfl

theorem mbinitEff_ok (ha : s.mbArgs e a b (fun n => decide (n < 1) || decide (65535 < n)) = .ok (off, n)) :
    mbinitEff a b e s = .ok (Eff.on (s.barStep e.g.core (e.spadAt off) fun _ =>
      { posted := 0, landed := 0, quota := BitVec.ofNat 16 n, arrived := 0, epoch := 0 })) := by
  simp only [mbinitEff, ha, Chk.ok_bind, Chk.pure_eq]

/-- The state in which MBARV and MBEXP act at the object: after their release, when they make one. -/
def State.mbReleased (s : State) (e : Env) (rel : Bool) : State := if rel then (s.releaseFor e .core).1 else s

theorem mbUpdate_ok {rel : Bool} {f : BarObj → BarObj}
    (hrel : rel = true → s.afterLogged e = .ok () ∧ s.afterWrites e = .ok () ∧ s.releases e .core) :
    mbUpdate d off rel f e s = .ok (Eff.on (((s.mbReleased e rel).barStep e.g.core (e.spadAt off) fun o => (f o).close).status e d
      ((s.mbReleased e rel).barObj e.g.core (e.spadAt off)).ticket.toNat)) := by
  cases rel with
  | false => rfl
  | true =>
    obtain ⟨hl, hw, hr⟩ := hrel rfl
    simp only [mbUpdate, if_true, hl, hw, Chk.ok_bind, withRelease_ok hr, Chk.pure_eq, State.mbReleased]

theorem mbwaitEff_reached (ha : s.mbArgs e a b anyCount = .ok (off, n))
    (hq : (s.barObj e.g.core (e.spadAt off)).reached n = true) : mbwaitEff a b e s = .ok (Eff.on (s.acquire e.g.core .core)) := by
  simp only [mbwaitEff, ha, hq, Chk.ok_bind, Bool.not_true, waitIf_false, Chk.pure_eq]

theorem mbwaitEff_waits (ha : s.mbArgs e a b anyCount = .ok (off, n))
    (hq : (s.barObj e.g.core (e.spadAt off)).reached n = false) :
    mbwaitEff a b e s = .error (.wait (.ticket (BitVec.ofNat 32 off) (BitVec.ofNat 16 n))) := by
  simp only [mbwaitEff, ha, hq, Chk.ok_bind, Bool.not_false, waitIf_true, Chk.error_bind]

theorem mbtestEff_ok (ha : s.mbArgs e a b anyCount = .ok (off, n)) :
    mbtestEff d a b e s = .ok (Eff.on ((if (s.barObj e.g.core (e.spadAt off)).reached n then s.acquire e.g.core .core else s).status e d
      (boolNat ((s.barObj e.g.core (e.spadAt off)).reached n)))) := by
  simp only [mbtestEff, ha, Chk.ok_bind, Chk.pure_eq]

end Sys2Proof.Machine

namespace Sys2Proof.Proofs
open Sys2Proof.Machine

/-- Settles O16: each MB instruction is its entry checks and one step at its object, and the object's updates are R84's. -/
theorem barriers : Obligations.Barriers := by
  refine ⟨?_, ?_⟩
  · intro s h e
    refine ⟨fun hr hl hw => ?_, fun a b off n hr ha => ?_, ?_, ?_, fun a b off n hr ha hq => ?_, fun a b off n hr ha hq => ?_, ?_⟩
    · exact runInstr_next (body := synctEff h.sw) hr (synctEff_ok hl hw)
    · exact runInstr_next (body := mbinitEff a b) hr (mbinitEff_ok ha)
    · intro d a b rlx off n hr ha hrel r
      refine runInstr_next (body := mbarvEff d a b rlx) hr ?_
      simp only [mbarvEff, ha, Chk.ok_bind]
      rw [mbUpdate_ok (by simpa using hrel)]
      cases rlx <;> rfl
    · intro d a b rlx arv off n hr ha hrel r
      refine runInstr_next (body := mbexpEff d a b rlx arv) hr ?_
      simp only [mbexpEff, ha, Chk.ok_bind]
      exact mbUpdate_ok (by simpa using hrel)
    · exact runInstr_next (body := mbwaitEff a b) hr (mbwaitEff_reached ha hq)
    · exact runInstr_wait (body := mbwaitEff a b) hr (mbwaitEff_waits ha hq)
    · intro d a b off n hr ha q
      exact runInstr_next (body := mbtestEff d a b) hr (mbtestEff_ok ha)
  · intro o n
    refine ⟨o.arrive_arrived n, rfl, rfl, rfl, fun ho => ?_, BarObj.close_of_not_complete, fun t => ?_, o.ofBytes_bytes⟩
    · rw [BarObj.close_of_complete ho]
      exact ⟨rfl, rfl⟩
    · simp only [BarObj.reached, decide_eq_true_eq]

end Sys2Proof.Proofs

/-!
SUPPORT. Every instruction runs an effect under its header, after the checks of Table 9-9 in their order.
-/

namespace Sys2Proof.Machine

theorem hdr_of_rawOf {o : BitVec 10} {h h' : Hdr} {d a b : BitVec 16} {m : BitVec 26} (hh : (rawOf o h d a b m).hdr = .ok h') :
    h' = h := by
  obtain ⟨-, -, rfl⟩ := Raw.hdr_eq_ok.mp hh
  rfl

/-- Every instruction of Tables 9-7 and 9-8 runs some effect under its header. -/
theorem exec_of_encodeRaw {i : Instr} {h : Hdr} {r : Raw} (hr : encodeRaw i = some r) (hh : r.hdr = .ok h) :
    ∃ body, ∀ s, exec i s = runInstr i h body s := by
  unfold encodeRaw at hr
  split at hr <;> cases hr <;> cases hdr_of_rawOf hh <;> exact ⟨_, fun _ => rfl⟩

theorem opcOf_of_encodeRaw {i : Instr} {r : Raw} (hr : encodeRaw i = some r) : opcOf i = r.opc.toNat := by
  simp only [opcOf, hr, Option.map_some, Option.getD_some]

variable {e : Env} {i : Instr} {opc idx : Nat}

/-! ## Checks 3 and 4 -/

theorem earlyChecks_slice {sl : Slice} (ho : opcSlice opc = some sl) (hs : sl ≠ e.sl) :
    earlyChecks e opc idx = .error (.trap 3 (opc + sliceNum e.sl * 2 ^ 10)) := by
  have hs' : ((opcSlice opc).any (· != e.sl)) = true := by simp [ho, hs]
  simp only [earlyChecks, hs', trapIf_true, Chk.error_bind]

theorem sliceOk (hs : opcSlice opc = none ∨ opcSlice opc = some e.sl) : ((opcSlice opc).any (· != e.sl)) = false := by
  rcases hs with h | h <;> simp [h]

theorem earlyChecks_priv (hs : opcSlice opc = none ∨ opcSlice opc = some e.sl) (hp : privFault opc idx e.c.owner = true) :
    earlyChecks e opc idx = .error (.trap 7 (opc + if opc = 0x38D ∨ opc = 0x38E then idx * 2 ^ 16 else 0)) := by
  simp only [earlyChecks, sliceOk hs, hp, trapIf_false, Chk.ok_bind, trapIf_true]

theorem earlyChecks_ok (hs : opcSlice opc = none ∨ opcSlice opc = some e.sl) (hp : privFault opc idx e.c.owner = false) :
    earlyChecks e opc idx = .ok () := by
  simp only [earlyChecks, sliceOk hs, hp, trapIf_false, Chk.ok_bind]

/-! ## The checks of an instruction -/

theorem check_early {x : Stop} (hx : earlyChecks e (opcOf i) (idxOf i) = .error x) : e.check i = .error x := by
  simp only [Env.check, hx, Chk.error_bind]

theorem check_encoding {f : EncFault} (hx : earlyChecks e (opcOf i) (idxOf i) = .ok ()) (hf : i.encFault e.encCtx = some f) :
    e.check i = .error (encTrap f) := by
  simp only [Env.check, hx, hf, Chk.ok_bind, Chk.error_bind]

theorem check_empty (hx : earlyChecks e (opcOf i) (idxOf i) = .ok ()) (hf : i.encFault e.encCtx = none) (he : e.exec = 0) :
    e.check i = .ok () := by
  simp only [Env.check, hx, hf, Chk.ok_bind, if_pos he]

theorem check_width (hx : earlyChecks e (opcOf i) (idxOf i) = .ok ()) (hf : i.encFault e.encCtx = none) (he : e.exec ≠ 0)
    (hn : needsWidth (opcOf i) = true) (hw : e.g.width ≠ 64) : e.check i = .error (.trap 6 (widthCode e.g.width)) := by
  have hw' : (e.g.width != 64) = true := by simpa using hw
  simp only [Env.check, hx, hf, Chk.ok_bind, if_neg he, hn, hw', Bool.and_true, trapIf_true, Chk.error_bind]

theorem check_partial (hx : earlyChecks e (opcOf i) (idxOf i) = .ok ()) (hf : i.encFault e.encCtx = none) (he : e.exec ≠ 0)
    (hw : needsWidth (opcOf i) = false ∨ e.g.width = 64) (ha : needsAll (opcOf i) = true) (ho : allLanes e.g.width &&& ~~~e.exec ≠ 0) :
    e.check i = .error (.trap 5 (lowLane (allLanes e.g.width &&& ~~~e.exec))) := by
  have hw' : (needsWidth (opcOf i) && e.g.width != 64) = false := by rcases hw with h | h <;> simp [h]
  have ho' : (allLanes e.g.width &&& ~~~e.exec != 0) = true := by simpa using ho
  simp only [Env.check, hx, hf, Chk.ok_bind, if_neg he, hw', trapIf_false, ha, ho', Bool.and_true, trapIf_true]

end Sys2Proof.Machine

namespace Sys2Proof.Proofs
open Sys2Proof.Machine

/-- Settles O50: the checks are those of `Env.check`, and the first that fails is the instruction's trap. -/
theorem checksInOrder : Obligations.ChecksInOrder := by
  intro s i h e r hr hh hs opc out early
  obtain ⟨body, hx⟩ := exec_of_encodeRaw hr hh
  have ho : opcOf i = opc := opcOf_of_encodeRaw hr
  rw [hx s]
  refine ⟨fun sl hsl hne => ?_, fun hsl hp => ?_, fun ⟨hsl, hp⟩ f hf => ?_, fun ⟨hsl, hp⟩ hf => ?_⟩
  · exact runInstr_check_trap hs (check_early (by rw [ho]; exact earlyChecks_slice hsl hne))
  · exact runInstr_check_trap hs (check_early (by rw [ho]; exact earlyChecks_priv hsl hp))
  · exact runInstr_check_trap hs (check_encoding (by rw [ho]; exact earlyChecks_ok hsl hp) hf)
  · have hearly : earlyChecks e (opcOf i) (idxOf i) = .ok () := by rw [ho]; exact earlyChecks_ok hsl hp
    refine ⟨fun he => ?_, fun he hn hw => ?_, fun he hw ha hout => ?_⟩
    · exact runInstr_empty hs (check_empty hearly hf he) he
    · exact runInstr_check_trap hs (check_width hearly hf he (by rw [ho]; exact hn) hw)
    · exact runInstr_check_trap hs (check_partial hearly hf he (by rw [ho]; exact hw) (by rw [ho]; exact ha) hout)

end Sys2Proof.Proofs

/-!
SUPPORT. A NOP word whose MOD is 1: the decoder keeps MOD[8:0] as the index of a refused word, for every opcode.
-/

namespace Sys2Proof

/-- A NOP word under no guard, with MOD equal to 1. -/
def nopModOne : Raw := rawOf 0 { gp := 0, gn := false, sw := false, yld := false, ru := 0 } 0 0 0 1

/-- It is refused with index 1, taken from MOD. -/
theorem decode_nopModOne : decode nopModOne.toWord = .error (.encoding 0 1 { field := 6, detail := 0 }) := by
  rw [decode, Raw.ofWord_toWord]
  rfl

end Sys2Proof

namespace Sys2Proof.Proofs
open Sys2Proof Sys2Proof.Machine

/-- Refutes O51: a NOP word with MOD = 1 is refused as an encoding fault whose index is MOD[8:0] = 1, and not 0. -/
theorem not_nopRule : ¬ Obligations.NopRule := by
  rintro ⟨hwords, -⟩
  have hzero : ¬(nopModOne.opd = 0 ∧ nopModOne.opa = 0 ∧ nopModOne.opb = 0 ∧ nopModOne.mod = 0) := by decide
  obtain ⟨f, hf⟩ := (hwords nopModOne rfl ⟨_, rfl⟩).2 hzero
  rw [decode_nopModOne] at hf
  simp at hf

end Sys2Proof.Proofs

/-!
SUPPORT. The integer operations as operations of n-bit words: wrapped results, shifts, counts and bit fields.
-/

namespace Sys2Proof.Machine

/-! ## Wrapped and saturated results -/

theorem bits_pos (ty : Ty) : 0 < ty.bits := by cases ty <;> decide

theorem intVal_eq (ty : Ty) (a : Nat) :
    intVal ty a = if ty.signed then (BitVec.ofNat ty.bits a).toInt else ((BitVec.ofNat ty.bits a).toNat : Int) := by
  simp only [intVal, BitVec.toInt_eq_toNat_cond, BitVec.toNat_ofNat]
  by_cases hs : ty.signed = true <;> simp only [hs, Bool.true_and, Bool.false_and, if_true, decide_eq_true_eq]
  · by_cases h : 2 ^ ty.bits ≤ 2 * (a % 2 ^ ty.bits)
    · rw [if_pos h, if_neg (by omega)]
    · rw [if_neg h, if_pos (by omega)]
  · simp

theorem wrapInt_eq (ty : Ty) (y : Int) : wrapInt ty y = (BitVec.ofInt ty.bits y).toNat := by
  simp only [wrapInt, BitVec.toNat_ofInt]
  push_cast
  rfl

/-- The word of a value of TYPE is the word it was read from. -/
theorem ofInt_intVal (ty : Ty) (a : Nat) : BitVec.ofInt ty.bits (intVal ty a) = BitVec.ofNat ty.bits a := by
  rw [intVal_eq]
  split
  · exact BitVec.ofInt_toInt
  · rw [BitVec.ofInt_natCast, BitVec.ofNat_toNat, BitVec.setWidth_eq]

/-- A value in the range of TYPE survives being wrapped. -/
theorem intVal_wrapInt {ty : Ty} {z : Int} (hlo : intMin ty ≤ z) (hhi : z ≤ intMax ty) : intVal ty (wrapInt ty z) = z := by
  have hb := bits_pos ty
  rw [intVal_eq, wrapInt_eq, BitVec.ofNat_toNat, BitVec.setWidth_eq]
  unfold intMin at hlo
  unfold intMax at hhi
  by_cases hs : ty.signed = true
  · rw [if_pos hs] at hlo hhi ⊢
    exact BitVec.toInt_ofInt_eq_self hb hlo (by omega)
  · rw [if_neg hs] at hlo hhi ⊢
    have hz : z % (2 : Int) ^ ty.bits = z := Int.emod_eq_of_lt hlo (by omega)
    rw [BitVec.toNat_ofInt]
    push_cast
    rw [hz]
    omega

theorem intMin_le_intMax (ty : Ty) : intMin ty ≤ intMax ty := by cases ty <;> decide

theorem intVal_satInt (ty : Ty) (y : Int) : intVal ty (satInt ty y) = max (intMin ty) (min (intMax ty) y) := by
  have := intMin_le_intMax ty
  exact intVal_wrapInt (by omega) (by omega)

/-! ## Bits of numbers -/

theorem bitN_eq_testBit (v i : Nat) : bitN v i = v.testBit i := by
  rw [bitN, Nat.testBit_eq_decide_div_mod_eq]
  rfl

variable {n : Nat} {a : BitVec n}

theorem testBit_toNat_of_ge {i : Nat} (hi : n ≤ i) : a.toNat.testBit i = false :=
  Nat.testBit_lt_two_pow (lt_of_lt_of_le a.isLt (Nat.pow_le_pow_right (by omega) hi))

theorem msb_eq_testBit (a : BitVec n) : a.msb = a.toNat.testBit (n - 1) := by
  rw [BitVec.msb_eq_getLsbD_last, BitVec.testBit_toNat]

/-! ## Shifts -/

theorem shlVal_eq (a : BitVec n) (k : Nat) : shlVal n a.toNat k = (a <<< k).toNat := by
  apply Nat.eq_of_testBit_eq
  intro i
  unfold shlVal
  split <;> simp [Nat.testBit_mul_two_pow, BitVec.testBit_toNat]
  omega

theorem shrVal_eq (a : BitVec n) (k : Nat) : shrVal n a.toNat k = (a >>> k).toNat := by
  unfold shrVal
  split
  · rename_i h
    rw [BitVec.toNat_ushiftRight, Nat.shiftRight_eq_div_pow, Nat.div_eq_of_lt]
    exact lt_of_lt_of_le a.isLt (Nat.pow_le_pow_right (by omega) h)
  · rw [BitVec.toNat_ushiftRight, Nat.shiftRight_eq_div_pow]

/-- The bits of a number put above others. -/
theorem testBit_put_above {x y k i : Nat} (hx : x < 2 ^ k) :
    (x + 2 ^ k * y).testBit i = if i < k then x.testBit i else y.testBit (i - k) := by
  rw [add_comm, Nat.testBit_two_pow_mul_add _ hx]

theorem div_lt_two_pow_sub {k : Nat} (hk : k ≤ n) : a.toNat / 2 ^ k < 2 ^ (n - k) := by
  rw [Nat.div_lt_iff_lt_mul (Nat.two_pow_pos _), ← pow_add, show n - k + k = n by omega]
  exact a.isLt

theorem two_pow_sub_two_pow {k : Nat} (hk : k ≤ n) : 2 ^ n - 2 ^ (n - k) = 2 ^ (n - k) * (2 ^ k - 1) := by
  rw [Nat.mul_sub, ← pow_add, show n - k + k = n by omega, mul_one]

theorem sarVal_eq (a : BitVec n) (k : Nat) : sarVal n a.toNat k = (a.sshiftRight k).toNat := by
  apply Nat.eq_of_testBit_eq
  intro i
  rw [BitVec.testBit_toNat, BitVec.getLsbD_sshiftRight]
  simp only [sarVal, bitN_eq_testBit, ← msb_eq_testBit]
  by_cases hk : n ≤ k
  · rw [if_pos hk, if_neg (show ¬ k + i < n by omega)]
    cases a.msb <;> simp [Nat.testBit_two_pow_sub_one, ← decide_not]
  · rw [if_neg hk]
    have hlow := div_lt_two_pow_sub (a := a) (k := k) (by omega)
    by_cases hi : k + i < n
    · cases a.msb <;> simp [hi, two_pow_sub_two_pow (show k ≤ n by omega), testBit_put_above hlow, Nat.testBit_div_two_pow,
        BitVec.testBit_toNat, show i < n - k by omega, show i < n by omega, add_comm]
    · cases a.msb
      · simp [hi, Nat.testBit_div_two_pow, testBit_toNat_of_ge (show n ≤ i + k by omega)]
      · simp [hi, two_pow_sub_two_pow (show k ≤ n by omega), testBit_put_above hlow, Nat.testBit_two_pow_sub_one,
          show ¬ i < n - k by omega, show i - (n - k) < k ↔ i < n by omega, ← decide_not]

theorem mul_two_pow_mod (x j m : Nat) : x * 2 ^ j % 2 ^ (j + m) = 2 ^ j * (x % 2 ^ m) := by
  rw [mul_comm, pow_add, Nat.mul_mod_mul_left]

theorem rotVal_eq (hn : 0 < n) (a : BitVec n) (k : Nat) : rotVal n a.toNat k = (a.rotateLeft k).toNat := by
  have hk : k % n < n := Nat.mod_lt _ hn
  have hlow : a.toNat / 2 ^ (n - k % n) < 2 ^ (k % n) := by
    have := div_lt_two_pow_sub (a := a) (k := n - k % n) (by omega)
    rwa [show n - (n - k % n) = k % n by omega] at this
  have hhigh : a.toNat * 2 ^ (k % n) % 2 ^ n = 2 ^ (k % n) * (a.toNat % 2 ^ (n - k % n)) := by
    have := mul_two_pow_mod a.toNat (k % n) (n - k % n)
    rwa [show k % n + (n - k % n) = n by omega] at this
  rw [BitVec.toNat_rotateLeft, rotVal, Nat.shiftLeft_eq, Nat.shiftRight_eq_div_pow, hhigh]
  exact Nat.two_pow_add_eq_or_of_lt hlow _

/-! ## Folds that gather bits -/

/-- A fold that adds one term per place is their sum. -/
theorem foldl_add_ite (p : Nat → Bool) (f : Nat → Nat) (n : Nat) :
    (List.range n).foldl (fun acc i => if p i then acc + f i else acc) 0 = ∑ i ∈ Finset.range n, if p i then f i else 0 := by
  induction n with
  | zero => rfl
  | succ n ih =>
    rw [List.range_succ, List.foldl_append, ih, Finset.sum_range_succ]
    simp only [List.foldl_cons, List.foldl_nil]
    split <;> rfl

/-- The number whose bits below `n` are those of `p`. -/
theorem sum_two_pow_bits (p : Nat → Bool) (n : Nat) :
    (∑ i ∈ Finset.range n, if p i then 2 ^ i else 0) < 2 ^ n ∧
      ∀ i, (∑ i ∈ Finset.range n, if p i then 2 ^ i else 0).testBit i = (decide (i < n) && p i) := by
  induction n with
  | zero => simp
  | succ n ih =>
    obtain ⟨hlt, hbit⟩ := ih
    have hterm : (if p n then 2 ^ n else 0) = 2 ^ n * (p n).toNat := by cases p n <;> simp
    rw [Finset.sum_range_succ, hterm]
    refine ⟨?_, fun i => ?_⟩
    · have : (p n).toNat ≤ 1 := Bool.toNat_le _
      calc _ < 2 ^ n + 2 ^ n * (p n).toNat := by omega
        _ ≤ 2 ^ n + 2 ^ n * 1 := by gcongr
        _ = 2 ^ (n + 1) := by ring
    · rw [testBit_put_above hlt, hbit]
      by_cases h1 : i < n
      · simp [h1, show i < n + 1 by omega]
      · rw [if_neg h1]
        by_cases h2 : i = n
        · subst h2; cases p i <;> simp
        · obtain ⟨m, hm⟩ := Nat.exists_eq_add_of_lt (show n < i by omega)
          rw [show i - n = m + 1 by omega]
          cases p n <;> simp [Nat.testBit_succ, show ¬ i < n + 1 by omega]

theorem lop3Val_bit {truth : BitVec 8} {n x b c i : Nat} (hi : i < n) :
    bitN (lop3Val truth n x b c) i = truth.getLsbD (boolNat (bitN x i) + 2 * boolNat (bitN b i) + 4 * boolNat (bitN c i)) := by
  rw [bitN_eq_testBit, lop3Val, foldl_add_ite
    (fun i => truth.getLsbD (boolNat (bitN x i) + 2 * boolNat (bitN b i) + 4 * boolNat (bitN c i))), (sum_two_pow_bits _ n).2 i]
  simp [hi]

theorem brevVal_eq (a : BitVec n) : brevVal n a.toNat = a.reverse.toNat := by
  apply Nat.eq_of_testBit_eq
  intro i
  rw [brevVal, foldl_add_ite (bitN a.toNat), ← Finset.sum_range_reflect]
  have hr : ∀ j ∈ Finset.range n, (if bitN a.toNat (n - 1 - j) = true then 2 ^ (n - 1 - (n - 1 - j)) else 0)
      = if (fun j => bitN a.toNat (n - 1 - j)) j = true then 2 ^ j else 0 := by
    intro j hj
    rw [show n - 1 - (n - 1 - j) = j by have := Finset.mem_range.mp hj; omega]
  rw [Finset.sum_congr rfl hr, (sum_two_pow_bits _ n).2 i, BitVec.testBit_toNat, BitVec.getLsbD_reverse, BitVec.getMsbD,
    bitN_eq_testBit, BitVec.testBit_toNat]

/-! ## Counts -/

theorem popcVal_eq (a : BitVec n) : popcVal n a.toNat = (Finset.univ.filter fun i : Fin n => a.getLsbD i = true).card := by
  have hlist : (List.range n).filter (bitN a.toNat) = (List.range n).filter fun i => a.getLsbD i :=
    List.filter_congr fun i _ => by rw [bitN_eq_testBit, BitVec.testBit_toNat]
  rw [popcVal, hlist, Finset.card_filter, Fin.sum_univ_eq_sum_range (fun i => if a.getLsbD i = true then 1 else 0) n,
    ← Finset.card_filter, Finset.card_def, Finset.filter_val, Finset.range_val, Multiset.range, Multiset.filter_coe, Multiset.coe_card]
  simp

theorem clzVal_zero : clzVal n 0 = n := if_pos rfl

theorem clzVal_log2 (ha : a ≠ 0) : clzVal n a.toNat < n ∧ n - 1 - clzVal n a.toNat = a.toNat.log2 := by
  have h0 : a.toNat ≠ 0 := by simpa [BitVec.toNat_eq] using ha
  have hl : a.toNat.log2 < n := (Nat.log2_lt h0).mpr a.isLt
  rw [clzVal, if_neg h0]
  omega

theorem getLsbD_log2 (ha : a ≠ 0) : a.getLsbD a.toNat.log2 = true := by
  have h0 : a.toNat ≠ 0 := by simpa [BitVec.toNat_eq] using ha
  rw [← BitVec.testBit_toNat]
  exact Nat.testBit_log2 h0

theorem getLsbD_of_log2_lt {i : Nat} (hi : a.toNat.log2 < i) : a.getLsbD i = false := by
  rw [← BitVec.testBit_toNat]
  exact Nat.testBit_lt_two_pow (lt_of_lt_of_le Nat.lt_log2_self (Nat.pow_le_pow_right (by omega) hi))

/-! ## Bit fields -/

/-- The bits of a 32-bit word extended to 320 bits by a sign. -/
theorem testBit_extended (a : BitVec 32) (s : Bool) {j : Nat} (hj : j < 320) :
    (if (s && bitN a.toNat 31) = true then a.toNat + (2 ^ 320 - 2 ^ 32) else a.toNat).testBit j =
      if j < 32 then a.getLsbD j else s && a.msb := by
  have hm : bitN a.toNat 31 = a.msb := by rw [bitN_eq_testBit, msb_eq_testBit]
  rw [hm, show 2 ^ 320 - 2 ^ 32 = 2 ^ 32 * (2 ^ 288 - 1) from two_pow_sub_two_pow (n := 320) (k := 288) (by omega)]
  cases hs : s && a.msb with
  | false =>
    rw [if_neg (by simp)]
    split
    · exact BitVec.testBit_toNat _
    · exact testBit_toNat_of_ge (by omega)
  | true =>
    rw [if_pos rfl, testBit_put_above a.isLt]
    split
    · exact BitVec.testBit_toNat _
    · rw [Nat.testBit_two_pow_sub_one]
      simp; omega

/-- The bits below 32 of a field of `w` bits, continued upwards with its sign. -/
theorem testBit_continued {f w i : Nat} (s : Bool) (hf : f < 2 ^ w) (hw : w ≤ 32) (hi : i < 32) :
    (if s = true then f + (2 ^ 32 - 2 ^ w) else f).testBit i = if i < w then f.testBit i else s := by
  have hp : 2 ^ 32 - 2 ^ w = 2 ^ w * (2 ^ (32 - w) - 1) := by
    rw [Nat.mul_sub, ← pow_add, show w + (32 - w) = 32 by omega, mul_one]
  rw [hp]
  cases s with
  | true =>
    rw [if_pos rfl, testBit_put_above hf, Nat.testBit_two_pow_sub_one]
    split
    · rfl
    · exact decide_eq_true (by omega)
  | false =>
    rw [if_neg (by simp)]
    split
    · rfl
    · exact Nat.testBit_lt_two_pow (lt_of_lt_of_le hf (Nat.pow_le_pow_right (by omega) (by omega)))

theorem bits_lt (v lo n : Nat) : bits v lo n < 2 ^ n := Nat.mod_lt _ (Nat.two_pow_pos n)

theorem bfeVal_bit (signed : Bool) (a : BitVec 32) (desc : Nat) {i : Nat} (hi : i < 32) :
    bitN (bfeVal signed a.toNat desc) i =
      if bits desc 8 8 = 0 then false
      else if i < min (bits desc 8 8) 32 then
        (if bits desc 0 8 + i < 32 then a.getLsbD (bits desc 0 8 + i) else signed && a.msb)
      else signed && (if bits desc 0 8 + min (bits desc 8 8) 32 - 1 < 32 then a.getLsbD (bits desc 0 8 + min (bits desc 8 8) 32 - 1)
        else signed && a.msb) := by
  have hpos : bits desc 0 8 < 256 := bits_lt _ _ _
  rw [bitN_eq_testBit]
  simp only [bfeVal]
  generalize bits desc 0 8 = pos at hpos ⊢
  generalize bits desc 8 8 = len
  by_cases hlen : len = 0
  · simp [hlen]
  · have hbit : ∀ j, j < min len 32 →
        ((if (signed && bitN a.toNat 31) = true then a.toNat + (2 ^ 320 - 2 ^ 32) else a.toNat) / 2 ^ pos % 2 ^ min len 32).testBit j =
          if pos + j < 32 then a.getLsbD (pos + j) else signed && a.msb := by
      intro j hj
      rw [Nat.testBit_mod_two_pow, Nat.testBit_div_two_pow, add_comm j pos, testBit_extended a signed (by omega)]
      simp only [hj, decide_true, Bool.true_and]
    rw [if_neg (by omega), testBit_continued _ (Nat.mod_lt _ (Nat.two_pow_pos _)) (by omega) hi, if_neg hlen, bitN_eq_testBit (_ % _),
      hbit (min len 32 - 1) (by omega), show pos + (min len 32 - 1) = pos + min len 32 - 1 by omega]
    split
    · next h => exact hbit i h
    · rfl

/-- A field of `w` bits at `pos` of a number replaced by the low bits of another. -/
theorem testBit_replaced (c x pos w i : Nat) :
    (c - bits c pos w * 2 ^ pos + x % 2 ^ w * 2 ^ pos).testBit i =
      if pos ≤ i ∧ i < pos + w then x.testBit (i - pos) else c.testBit i := by
  have hlow : c % 2 ^ pos < 2 ^ pos := Nat.mod_lt _ (Nat.two_pow_pos _)
  have hfield : x % 2 ^ w < 2 ^ w := Nat.mod_lt _ (Nat.two_pow_pos _)
  have hc : c = c % 2 ^ pos + 2 ^ pos * (c / 2 ^ pos % 2 ^ w + 2 ^ w * (c / 2 ^ pos / 2 ^ w)) := by
    rw [Nat.mod_add_div, Nat.mod_add_div]
  have hnew : c - bits c pos w * 2 ^ pos + x % 2 ^ w * 2 ^ pos =
      c % 2 ^ pos + 2 ^ pos * (x % 2 ^ w + 2 ^ w * (c / 2 ^ pos / 2 ^ w)) := by
    rw [mul_add] at hc ⊢
    rw [bits, mul_comm _ (2 ^ pos), mul_comm (x % 2 ^ w)]
    omega
  rw [hnew, testBit_put_above hlow, testBit_put_above hfield, Nat.div_div_eq_div_mul, ← pow_add, Nat.testBit_mod_two_pow,
    Nat.testBit_mod_two_pow, Nat.testBit_div_two_pow]
  by_cases h1 : i < pos
  · simp [h1]
  · by_cases h2 : i - pos < w
    · simp [h1, h2, show pos ≤ i by omega, show i < pos + w by omega]
    · simp [h1, h2, show ¬ i < pos + w by omega, show i - pos - w + (pos + w) = i by omega]

theorem bfiVal_bit (a c : BitVec 32) (desc i : Nat) :
    bitN (bfiVal a.toNat desc c.toNat) i =
      if bits desc 0 8 ≤ i ∧ i < min (bits desc 0 8 + bits desc 8 8) 32 then a.getLsbD (i - bits desc 0 8) else c.getLsbD i := by
  rw [bitN_eq_testBit, ← BitVec.testBit_toNat, ← BitVec.testBit_toNat]
  simp only [bfiVal]
  generalize bits desc 0 8 = pos
  generalize bits desc 8 8 = len
  split
  · next h => rw [if_neg (by omega)]
  · next h => rw [testBit_replaced, show pos + (min (pos + len) 32 - pos) = min (pos + len) 32 by omega]

end Sys2Proof.Machine

namespace Sys2Proof.Proofs
open Sys2Proof Sys2Proof.Machine

/-- Settles O54: results of TYPE are words of TYPE, and each shift, count and field is read off bit by bit. -/
theorem integerArithmetic : Obligations.IntegerArithmetic := by
  refine ⟨?_, ?_, ?_⟩
  · intro ty a b n x y
    refine ⟨?_, ?_, ?_, intVal_eq ty a, intVal_satInt ty _⟩
    · rw [intResult, if_neg Bool.false_ne_true, wrapInt_eq, BitVec.ofInt_add, ofInt_intVal, ofInt_intVal]
    · rw [intResult, if_neg Bool.false_ne_true, wrapInt_eq, sub_eq_add_neg, BitVec.ofInt_add, BitVec.ofInt_neg, ofInt_intVal,
        ofInt_intVal, ← BitVec.sub_eq_add_neg]
    · rw [intResult, if_neg Bool.false_ne_true, wrapInt_eq, BitVec.ofInt_mul, ofInt_intVal, ofInt_intVal]
  · intro n a k hn
    refine ⟨shlVal_eq a k, shrVal_eq a k, sarVal_eq a k, rotVal_eq hn a k, brevVal_eq a, fun b c truth i hi => ?_, popcVal_eq a,
      fun ha => ?_, fun ha => ?_⟩
    · rw [lop3Val_bit hi, bitN_eq_testBit a.toNat, BitVec.testBit_toNat]
    · rw [ha]; exact clzVal_zero
    · obtain ⟨hlt, hpos⟩ := clzVal_log2 ha
      rw [hpos]
      exact ⟨hlt, getLsbD_log2 ha, fun i hi => getLsbD_of_log2_lt hi⟩
  · intro a c desc i hi pos len
    exact ⟨fun signed => bfeVal_bit signed a desc hi, bfiVal_bit a c desc i⟩

end Sys2Proof.Proofs

/-!
SUPPORT. Words and reset values that the model computes.
-/

namespace Sys2Proof.Proofs
open Sys2Proof Sys2Proof.Machine

/-- Settles O47: each word is decoded by the model itself. -/
theorem decodeWords : Obligations.DecodeWords := by
  unfold Obligations.DecodeWords
  decide +kernel

/-- Settles O60: the registers and units of the reset state, read off one by one. -/
theorem resetState : Obligations.ResetState := by
  unfold Obligations.ResetState
  refine ⟨?_, ?_, ?_, ?_, ?_, ?_⟩
  · decide +kernel
  · decide +kernel
  · decide +kernel
  · decide +kernel
  · decide +kernel
  · exact ⟨rfl, rfl, rfl, rfl, rfl, rfl, by decide +kernel⟩

end Sys2Proof.Proofs

/-!
SUPPORT. What one byte reads as after a write: of a memory, of a line of a cache, and of device memory behind its caches.
-/

namespace Sys2Proof.Machine

variable {dflt : Nat → Byte} {m : Memory}

/-! ## Cells -/

theorem cellRead_cellWrites {a k : Nat} {bs : List Byte} (h : Memory.ok dflt m = true) :
    cellRead dflt (cellWrites dflt m a bs) k = if a ≤ k ∧ k < a + bs.length then bs.getD (k - a) 0 else cellRead dflt m k := by
  induction bs generalizing m a with
  | nil => simp [cellWrites]
  | cons b bs ih =>
    rw [cellWrites, ih (ok_cellWrite h), cellRead_cellWrite h]
    by_cases hk : k = a
    · subst hk
      simp
    · by_cases hlt : a < k
      · obtain ⟨j, rfl⟩ := Nat.exists_eq_add_of_lt hlt
        rw [if_neg hk, show a + j + 1 - (a + 1) = j by omega, show a + j + 1 - a = j + 1 by omega, List.getD_cons_succ]
        exact if_congr (by rw [List.length_cons]; omega) rfl rfl
      · rw [if_neg (by omega), if_neg hk, if_neg (by omega)]

/-- Writes that agree on the byte they put at an address leave it there, when one of them reaches the address. -/
theorem cellRead_foldl_cellWrites {α : Type} {xs : List α} {p : α → Nat} {v : α → List Byte} {a : Nat} {b : Byte}
    (hm : Memory.ok dflt m = true) (hb : ∀ x ∈ xs, p x ≤ a → a < p x + (v x).length → (v x).getD (a - p x) 0 = b) :
    cellRead dflt (xs.foldl (fun m x => cellWrites dflt m (p x) (v x)) m) a =
      if ∃ x ∈ xs, p x ≤ a ∧ a < p x + (v x).length then b else cellRead dflt m a := by
  induction xs generalizing m with
  | nil => simp
  | cons x xs ih =>
    rw [List.foldl_cons, ih (ok_cellWrites hm) fun y hy => hb y (List.mem_cons_of_mem x hy), cellRead_cellWrites hm]
    have hx := hb x List.mem_cons_self
    by_cases h1 : ∃ y ∈ xs, p y ≤ a ∧ a < p y + (v y).length
    · rw [if_pos h1, if_pos (by obtain ⟨y, hy, hc⟩ := h1; exact ⟨y, List.mem_cons_of_mem x hy, hc⟩)]
    · rw [if_neg h1]
      by_cases h2 : p x ≤ a ∧ a < p x + (v x).length
      · rw [if_pos h2, if_pos ⟨x, List.mem_cons_self, h2⟩, hx h2.1 h2.2]
      · rw [if_neg h2, if_neg]
        rintro ⟨y, hy, hc⟩
        rcases List.mem_cons.mp hy with rfl | hy
        · exact h2 hc
        · exact h1 ⟨y, hy, hc⟩

/-- Canonical memories that read alike are equal. -/
theorem Memory.eq_of_read {m' : Memory} (h : Memory.ok dflt m = true) (h' : Memory.ok dflt m' = true)
    (hr : ∀ a, cellRead dflt m a = cellRead dflt m' a) : m = m' := by
  induction m generalizing m' with
  | nil =>
    cases m' with
    | nil => rfl
    | cons c m' =>
      obtain ⟨hc, -, -⟩ := Memory.ok_cons.mp h'
      have := hr c.1
      simp [cellRead] at this
      exact absurd this.symm hc
  | cons c m ih =>
    obtain ⟨hc, hm, ho⟩ := Memory.ok_cons.mp h
    cases m' with
    | nil =>
      have := hr c.1
      simp [cellRead] at this
      exact absurd this hc
    | cons c' m' =>
      obtain ⟨hc', hm', ho'⟩ := Memory.ok_cons.mp h'
      have h1 := hr c.1
      have h2 := hr c'.1
      simp only [cellRead, if_true] at h1 h2
      have haddr : c.1 = c'.1 := by
        rcases lt_trichotomy c.1 c'.1 with hlt | heq | hgt
        · rw [if_neg (by omega), if_pos hlt] at h1
          exact absurd h1 hc
        · exact heq
        · rw [if_neg (by omega), if_pos hgt] at h2
          exact absurd h2.symm hc'
      rw [haddr, if_pos rfl] at h1
      refine congrArg₂ _ (Prod.ext haddr h1) (ih ho ho' fun a => ?_)
      by_cases ha : a ≤ c.1
      · rw [cellRead_below hm ha, cellRead_below hm' (haddr ▸ ha)]
      · have := hr a
        simp only [cellRead] at this
        rwa [if_neg (by omega), if_neg (by omega), if_neg (by omega), if_neg (by omega)] at this

/-! ## Lines -/

theorem getLsbD_spanMask {o n i : Nat} (hi : i < 64) : (spanMask o n).getLsbD i = (decide (o ≤ i) && decide (i < o + n)) := by
  simp only [spanMask, BitVec.getLsbD_ofNat, hi, decide_true, Bool.true_and, Nat.testBit_mul_two_pow, Nat.testBit_two_pow_sub_one]
  by_cases h : o ≤ i
  · simp [h, show i - o < n ↔ i < o + n by omega]
  · simp [h]

/-- Byte `i` of the number of some bytes. -/
theorem testBit_leNat (bs : List Byte) (i j : Nat) (hj : j < 8) : (leNat bs).testBit (8 * i + j) = (bs.getD i 0).getLsbD j := by
  induction bs generalizing i with
  | nil => simp [leNat]
  | cons b bs ih =>
    have hb : b.toNat < 2 ^ 8 := b.isLt
    rw [leNat, show 256 = 2 ^ 8 by norm_num, testBit_put_above hb]
    cases i with
    | zero => simp [hj, BitVec.testBit_toNat]
    | succ i =>
      rw [if_neg (by omega), show 8 * (i + 1) + j - 8 = 8 * i + j by omega, ih, List.getD_cons_succ]

theorem byte_lineData (bs : List Byte) {i : Nat} (hi : i < 64) : (lineData bs).extractLsb' (8 * i) 8 = bs.getD i 0 := by
  apply BitVec.eq_of_getLsbD_eq
  intro j hj
  rw [BitVec.getLsbD_extractLsb', lineData, BitVec.getLsbD_ofNat, testBit_leNat bs i j hj]
  simp [hj, show 8 * i + j < 512 by omega]

theorem byte_shifted (d : BitVec 512) {o i : Nat} (ho : o ≤ i) (hi : i < 64) :
    (d <<< (8 * o)).extractLsb' (8 * i) 8 = d.extractLsb' (8 * (i - o)) 8 := by
  apply BitVec.eq_of_getLsbD_eq
  intro j hj
  rw [BitVec.getLsbD_extractLsb', BitVec.getLsbD_extractLsb', BitVec.getLsbD_shiftLeft]
  simp [hj, show 8 * i + j < 512 by omega, show ¬ 8 * i + j < 8 * o by omega, show 8 * i + j - 8 * o = 8 * (i - o) + j by omega]

theorem byte_mergeData (old new : BitVec 512) (mask : BitVec 64) {i : Nat} (hi : i < 64) :
    (mergeData old new mask).extractLsb' (8 * i) 8 = if mask.getLsbD i then new.extractLsb' (8 * i) 8 else old.extractLsb' (8 * i) 8 := by
  rw [mergeData, byte_lineData _ hi]
  simp [List.getD_eq_getElem?_getD, hi]

@[simp] theorem phys_write (l : Line) (o : Nat) (bs : List PByte) (d : Bool) : (l.write o bs d).phys = l.phys := by
  simp only [Line.phys, Line.write]

/-- A byte of a line after a write into it. -/
theorem byte_write (l : Line) {o i : Nat} {bs : List PByte} (d : Bool) (hi : i < 64) :
    (l.write o bs d).byte i = if o ≤ i ∧ i < o + bs.length then (bs.getD (i - o) (0, none)).1 else l.byte i := by
  simp only [Line.byte, Line.write, byte_mergeData _ _ _ hi, getLsbD_spanMask hi, Bool.and_eq_true, decide_eq_true_eq]
  split
  · next h =>
    rw [byte_shifted _ h.1 hi, byte_lineData _ (by omega), values]
    exact List.getD_map bs ((0, none) : PByte) Prod.fst
  · rfl

theorem valid_write (l : Line) {o i : Nat} {bs : List PByte} (d : Bool) (hi : i < 64) :
    (l.write o bs d).valid.getLsbD i = (l.valid.getLsbD i || (decide (o ≤ i) && decide (i < o + bs.length))) := by
  simp only [Line.write, BitVec.getLsbD_or, getLsbD_spanMask hi]

/-! ## The parts of a write -/

theorem mem_linesOf {lo n pl : Nat} : pl ∈ linesOf lo n ↔ n ≠ 0 ∧ lo / 64 ≤ pl ∧ pl ≤ (lo + n - 1) / 64 := by
  unfold linesOf
  by_cases hn : n = 0
  · simp [hn]
  · simp only [hn, if_false, List.mem_map, List.mem_range, ne_eq, not_false_eq_true, true_and]
    constructor
    · rintro ⟨i, hi, rfl⟩
      omega
    · rintro ⟨h1, h2⟩
      exact ⟨pl - lo / 64, by omega, by omega⟩

/-- The lines of a write that reach an address are the line of the address, when the write reaches it. -/
theorem mem_linesOf_div {lo n a : Nat} (h : lo ≤ a ∧ a < lo + n) : a / 64 ∈ linesOf lo n :=
  mem_linesOf.mpr ⟨by omega, Nat.div_le_div_right h.1, Nat.div_le_div_right (by omega)⟩

theorem length_pieceOf {key pl : Nat} {bs : List PByte} :
    (pieceOf key bs (pl * 64) 64).length = min (pl * 64 + 64 - key) bs.length - (pl * 64 - key) := by
  simp [pieceOf]

/-- A line's part of a write reaches the line's addresses that the write reaches. -/
theorem part_reaches {key pl a : Nat} {bs : List PByte} (ha : a / 64 = pl) :
    ((partOf key bs.length pl).1 ≤ a - pl * 64 ∧
      a - pl * 64 < (partOf key bs.length pl).1 + (pieceOf key bs (pl * 64) 64).length) ↔ key ≤ a ∧ a < key + bs.length := by
  rw [length_pieceOf]
  simp only [partOf]
  omega

theorem getD_pieceOf {key pl a : Nat} {bs : List PByte} (ha : a / 64 = pl) (h : key ≤ a ∧ a < key + bs.length) :
    (pieceOf key bs (pl * 64) 64).getD (a - pl * 64 - (partOf key bs.length pl).1) (0, none) = bs.getD (a - key) (0, none) := by
  simp only [partOf, pieceOf, List.getD_eq_getElem?_getD, List.getElem?_drop, List.getElem?_take]
  rw [if_pos (by omega), show pl * 64 - key + (a - pl * 64 - (max key (pl * 64) - pl * 64)) = a - key by omega]

end Sys2Proof.Machine

/-!
SUPPORT. One byte of device memory as its home has it, before and after a write and a clearing.
-/

namespace Sys2Proof.Machine

variable {s : State}

theorem getD_updAt_fixed {α : Type} (d : α) {f : α → α} (hf : f d = d) (l : List α) (n : Nat) :
    (updAt l n f).getD n d = f (l.getD n d) := by
  induction l generalizing n with
  | nil => simp [updAt, hf]
  | cons x xs ih =>
    cases n with
    | zero => rfl
    | succ n => exact ih n

theorem getD_updAt_other {α : Type} (d : α) (f : α → α) (l : List α) {n k : Nat} (h : k ≠ n) :
    (updAt l n f).getD k d = l.getD k d := by
  induction l generalizing n k with
  | nil => rfl
  | cons x xs ih =>
    cases n with
    | zero =>
      cases k with
      | zero => exact absurd rfl h
      | succ k => rfl
    | succ n =>
      cases k with
      | zero => rfl
      | succ k => exact ih (by omega)

/-! ## One byte at its home -/

/-- The value of a byte of device memory: the line that its home's caches hold, where it is valid, and else the memory itself. -/
def State.memByte (s : State) (a : Nat) : Byte :=
  match s.heldLine (a / 64) with
  | none => cellRead memDefault s.mem a
  | some l => if l.valid.getLsbD (a % 64) then l.byte (a % 64) else cellRead memDefault s.mem a

theorem memBytes_one (s : State) (a : Nat) : s.memBytes a 1 = [s.memByte a] := by
  have hl : linesOf a 1 = [a / 64] := by
    simp only [linesOf, one_ne_zero, if_false, show (a + 1 - 1) / 64 + 1 - a / 64 = 1 by omega]
    simp
  have hp : partOf a 1 (a / 64) = (a % 64, 1) := by
    simp only [partOf, Prod.mk.injEq]
    omega
  have ha : a / 64 * 64 + a % 64 = a := by omega
  simp only [State.memBytes, State.memRead, hl, List.flatMap_cons, List.flatMap_nil, List.append_nil, hp, State.lineRead, State.memByte,
    values]
  cases s.heldLine (a / 64) with
  | none => simp [State.rawByte, ha]
  | some l =>
    by_cases hv : l.valid.getLsbD (a % 64) = true
    · simp [hv, Line.pbyte]
    · simp [hv, State.rawByte, ha]

/-! ## Writes -/

theorem Line.takes_of_some {l : Line} {parts : List (Nat × Nat × List PByte)} {x : Nat × Nat × List PByte}
    (h : parts.find? (fun x => x.1 == l.phys) = some x) : l.takes parts = l.write x.2.1 x.2.2 true := by
  simp only [Line.takes, h]

theorem Line.takes_of_none {l : Line} {parts : List (Nat × Nat × List PByte)}
    (h : parts.find? (fun x => x.1 == l.phys) = none) : l.takes parts = l := by
  simp only [Line.takes, h]

@[simp] theorem phys_takes (l : Line) (parts : List (Nat × Nat × List PByte)) : (l.takes parts).phys = l.phys := by
  cases h : parts.find? (fun x => x.1 == l.phys) with
  | none => rw [Line.takes_of_none h]
  | some x => rw [Line.takes_of_some h, phys_write]

theorem find_takes (ls : List Line) (parts : List (Nat × Nat × List PByte)) (pl : Nat) :
    (ls.map fun l => l.takes parts).find? (fun l => l.phys == pl) = (ls.find? fun l => l.phys == pl).map fun l => l.takes parts := by
  rw [List.find?_map]
  simp only [Function.comp_def, phys_takes]

/-- The caches of the home of a write hold the lines that they held, each with its part of the write. -/
theorem heldLine_memWrite {key pl : Nat} {bs : List PByte} (hd : pl / 2 ^ 42 = key / 2 ^ 48) :
    (s.memWrite key bs).heldLine pl = (s.heldLine pl).map fun l => l.takes (lineParts key bs) := by
  have hl2 : (s.memWrite key bs).l2Of (key / 2 ^ 48) = (s.l2Of (key / 2 ^ 48)).map fun l => l.takes (lineParts key bs) :=
    getD_updAt_fixed [] rfl s.l2 _
  have hmdc : (s.memWrite key bs).mdcOf (key / 2 ^ 48) = (s.mdcOf (key / 2 ^ 48)).map fun l => l.takes (lineParts key bs) :=
    getD_updAt_fixed [] rfl s.mdc _
  simp only [State.heldLine, hd, hl2, hmdc, find_takes]
  cases (s.mdcOf (key / 2 ^ 48)).find? fun l => l.phys == pl <;> rfl

theorem heldLine_memWrite_other {key pl : Nat} {bs : List PByte} (hd : pl / 2 ^ 42 ≠ key / 2 ^ 48) :
    (s.memWrite key bs).heldLine pl = s.heldLine pl := by
  have hl2 : (s.memWrite key bs).l2Of (pl / 2 ^ 42) = s.l2Of (pl / 2 ^ 42) := getD_updAt_other [] _ s.l2 hd
  have hmdc : (s.memWrite key bs).mdcOf (pl / 2 ^ 42) = s.mdcOf (pl / 2 ^ 42) := getD_updAt_other [] _ s.mdc hd
  simp only [State.heldLine, hl2, hmdc]

theorem mem_lineParts {key : Nat} {bs : List PByte} {x : Nat × Nat × List PByte} :
    x ∈ lineParts key bs ↔ x.1 ∈ linesOf key bs.length ∧ x = (x.1, (partOf key bs.length x.1).1, pieceOf key bs (x.1 * 64) 64) := by
  simp only [lineParts, List.mem_map]
  constructor
  · rintro ⟨pl, hpl, rfl⟩
    exact ⟨hpl, rfl⟩
  · rintro ⟨hpl, hx⟩
    exact ⟨x.1, hpl, hx.symm⟩

theorem length_values (bs : List PByte) : (values bs).length = bs.length := List.length_map _

theorem getD_values (bs : List PByte) (i : Nat) : (values bs).getD i 0 = (bs.getD i (0, none)).1 :=
  List.getD_map bs ((0, none) : PByte) Prod.fst

/-- A part of a write reaches addresses of its own line alone. -/
theorem div_of_part_reaches {key pl a : Nat} {bs : List PByte} (h : pl * 64 + (partOf key bs.length pl).1 ≤ a)
    (h' : a < pl * 64 + (partOf key bs.length pl).1 + (pieceOf key bs (pl * 64) 64).length) : a / 64 = pl := by
  rw [length_pieceOf] at h'
  simp only [partOf] at h h'
  omega

/-- Device memory itself after a write: it takes the bytes of the lines that no cache of the home holds. -/
theorem cellRead_memWrite {key a : Nat} {bs : List PByte} (hm : s.mem.wf = true) :
    cellRead memDefault (s.memWrite key bs).mem a =
      if s.heldLine (a / 64) = none ∧ key ≤ a ∧ a < key + bs.length then (bs.getD (a - key) (0, none)).1 else cellRead memDefault s.mem a := by
  have hb : ∀ x ∈ (lineParts key bs).filter (fun x => (s.heldLine x.1).isNone), x.1 * 64 + x.2.1 ≤ a →
      a < x.1 * 64 + x.2.1 + (values x.2.2).length →
      (s.heldLine (a / 64) = none ∧ key ≤ a ∧ a < key + bs.length) ∧
        (values x.2.2).getD (a - (x.1 * 64 + x.2.1)) 0 = (bs.getD (a - key) (0, none)).1 := by
    intro x hx h1 h2
    obtain ⟨hx, hheld⟩ := List.mem_filter.mp hx
    obtain ⟨-, hx⟩ := mem_lineParts.mp hx
    rw [length_values] at h2
    rw [getD_values]
    generalize x.1 = pl at hx hheld h1 h2 ⊢
    subst hx
    have hpl := div_of_part_reaches h1 h2
    dsimp only at h1 h2
    have hreach := (part_reaches (key := key) (bs := bs) hpl).mp ⟨by omega, by omega⟩
    refine ⟨⟨by simpa [hpl] using hheld, hreach⟩, ?_⟩
    rw [← getD_pieceOf hpl hreach, Nat.sub_add_eq]
  refine (cellRead_foldl_cellWrites hm fun x hx h1 h2 => (hb x hx h1 h2).2).trans (if_congr ⟨?_, ?_⟩ rfl rfl)
  · rintro ⟨x, hx, h1, h2⟩
    exact (hb x hx h1 h2).1
  · rintro ⟨hheld, hreach⟩
    have hpart := (part_reaches rfl).mpr hreach
    refine ⟨(a / 64, (partOf key bs.length (a / 64)).1, pieceOf key bs (a / 64 * 64) 64),
      List.mem_filter.mpr ⟨mem_lineParts.mpr ⟨mem_linesOf_div hreach, rfl⟩, by simp [hheld]⟩, ?_, ?_⟩
    · dsimp only; omega
    · dsimp only; rw [length_values]; omega

/-- What a line has of a byte, where it is valid. -/
def Line.validByte (l : Line) (i : Nat) : Option Byte := if l.valid.getLsbD i then some (l.byte i) else none

/-- A line that a home's cache holds takes the byte of a write that reaches it. -/
theorem validByte_takes {key a : Nat} {bs : List PByte} {l : Line} (hl : l.phys = a / 64) :
    (l.takes (lineParts key bs)).validByte (a % 64) =
      if key ≤ a ∧ a < key + bs.length then some (bs.getD (a - key) (0, none)).1 else l.validByte (a % 64) := by
  cases hx : (lineParts key bs).find? (fun x => x.1 == l.phys) with
  | none =>
    rw [Line.takes_of_none hx, if_neg]
    intro hreach
    have := List.find?_eq_none.mp hx (a / 64, (partOf key bs.length (a / 64)).1, pieceOf key bs (a / 64 * 64) 64)
      (mem_lineParts.mpr ⟨mem_linesOf_div hreach, rfl⟩)
    simp [hl] at this
  | some x =>
    have hpl : x.1 = a / 64 := by simpa [hl] using List.find?_some hx
    obtain ⟨-, hx'⟩ := mem_lineParts.mp (List.mem_of_find?_eq_some hx)
    have hi : a % 64 < 64 := Nat.mod_lt _ (by omega)
    have hmod : a % 64 = a - x.1 * 64 := by omega
    rw [Line.takes_of_some hx, Line.validByte, valid_write _ _ hi, byte_write _ _ hi]
    have hreach := part_reaches (key := key) (bs := bs) hpl.symm
    have hget := getD_pieceOf (key := key) (bs := bs) hpl.symm
    rw [← hmod] at hreach hget
    rw [hx']
    dsimp only
    by_cases h : key ≤ a ∧ a < key + bs.length
    · have h1 := hreach.mpr h
      rw [if_pos h, if_pos h1, hget h]
      simp [h1]
    · have h1 := fun h1 => h (hreach.mp h1)
      rw [if_neg h, if_neg h1, Line.validByte]
      have h2 : (decide ((partOf key bs.length x.1).1 ≤ a % 64) &&
          decide (a % 64 < (partOf key bs.length x.1).1 + (pieceOf key bs (x.1 * 64) 64).length)) = false := by
        simpa only [Bool.and_eq_false_iff, decide_eq_false_iff_not, ← not_and_or] using h1
      rw [h2, Bool.or_false]

theorem memByte_of_none {a : Nat} (h : s.heldLine (a / 64) = none) : s.memByte a = cellRead memDefault s.mem a := by
  simp only [State.memByte, h]

theorem memByte_of_held {a : Nat} {l : Line} (h : s.heldLine (a / 64) = some l) :
    s.memByte a = (l.validByte (a % 64)).getD (cellRead memDefault s.mem a) := by
  simp only [State.memByte, h, Line.validByte]
  split <;> rfl

theorem phys_of_heldLine {pl : Nat} {l : Line} (h : s.heldLine pl = some l) : l.phys = pl := by
  unfold State.heldLine at h
  cases hm : (s.mdcOf (pl / 2 ^ 42)).find? fun l => l.phys == pl with
  | none =>
    rw [hm] at h
    simpa using List.find?_some (p := fun l : Line => l.phys == pl) h
  | some x =>
    rw [hm] at h
    cases h
    simpa using List.find?_some hm

/-- A byte of device memory after a write within one die. -/
theorem memByte_memWrite {key a : Nat} {bs : List PByte} (hm : s.mem.wf = true) (hk : key % 2 ^ 48 + bs.length ≤ 2 ^ 48) :
    (s.memWrite key bs).memByte a = if key ≤ a ∧ a < key + bs.length then (bs.getD (a - key) (0, none)).1 else s.memByte a := by
  by_cases hd : a / 64 / 2 ^ 42 = key / 2 ^ 48
  · have hheld := heldLine_memWrite (s := s) (bs := bs) hd
    cases hl : s.heldLine (a / 64) with
    | none =>
      rw [hl] at hheld
      rw [memByte_of_none hheld, memByte_of_none hl, cellRead_memWrite hm]
      simp only [hl, true_and]
    | some l =>
      rw [hl] at hheld
      rw [memByte_of_held hheld, memByte_of_held hl, validByte_takes (phys_of_heldLine hl), cellRead_memWrite hm, hl]
      split <;> simp
  · have hout : ¬(key ≤ a ∧ a < key + bs.length) := by
      rw [Nat.div_div_eq_div_mul] at hd
      intro h
      apply hd
      omega
    have hheld := heldLine_memWrite_other (s := s) (bs := bs) hd
    have hcell : cellRead memDefault (s.memWrite key bs).mem a = cellRead memDefault s.mem a := by
      rw [cellRead_memWrite hm, if_neg fun h => hout h.2]
    rw [if_neg hout, State.memByte, State.memByte, hheld, hcell]

/-! ## Clearing -/

/-- The line of a home's cache stays when memory of whole lines is zeroed. -/
def keptLine (key n : Nat) (l : Line) : Bool := !(decide (key < l.phys * 64 + 64) && decide (l.phys * 64 < key + n))

theorem find_kept (ls : List Line) (key n pl : Nat) :
    (ls.filter (keptLine key n)).find? (fun l => l.phys == pl) =
      if key < pl * 64 + 64 ∧ pl * 64 < key + n then none else ls.find? fun l => l.phys == pl := by
  induction ls with
  | nil => simp
  | cons l ls ih =>
    have hk : l.phys = pl → (keptLine key n l = true ↔ ¬(key < pl * 64 + 64 ∧ pl * 64 < key + n)) := by
      rintro rfl
      simp only [keptLine, Bool.not_eq_true', Bool.and_eq_false_iff, decide_eq_false_iff_not, ← not_and_or]
    rw [List.filter_cons]
    by_cases hl : l.phys = pl
    · by_cases h : key < pl * 64 + 64 ∧ pl * 64 < key + n
      · rw [if_neg (fun hkept => (hk hl).mp hkept h), ih, if_pos h, if_pos h]
      · rw [if_pos ((hk hl).mpr h), if_neg h, List.find?_cons_of_pos (by simp [hl]), List.find?_cons_of_pos (by simp [hl])]
    · rw [List.find?_cons_of_neg (by simp [hl]), ← ih]
      split
      · rw [List.find?_cons_of_neg (by simp [hl])]
      · rfl

theorem heldLine_memZero {key n pl : Nat} (hd : pl / 2 ^ 42 = key / 2 ^ 48) :
    (s.memZero key n).heldLine pl = if key < pl * 64 + 64 ∧ pl * 64 < key + n then none else s.heldLine pl := by
  have hl2 : (s.memZero key n).l2Of (key / 2 ^ 48) = (s.l2Of (key / 2 ^ 48)).filter (keptLine key n) :=
    getD_updAt_fixed [] rfl s.l2 _
  have hmdc : (s.memZero key n).mdcOf (key / 2 ^ 48) = (s.mdcOf (key / 2 ^ 48)).filter (keptLine key n) :=
    getD_updAt_fixed [] rfl s.mdc _
  simp only [State.heldLine, hd, hl2, hmdc, find_kept]
  split <;> rfl

theorem heldLine_memZero_other {key n pl : Nat} (hd : pl / 2 ^ 42 ≠ key / 2 ^ 48) :
    (s.memZero key n).heldLine pl = s.heldLine pl := by
  have hl2 : (s.memZero key n).l2Of (pl / 2 ^ 42) = s.l2Of (pl / 2 ^ 42) := getD_updAt_other [] _ s.l2 hd
  have hmdc : (s.memZero key n).mdcOf (pl / 2 ^ 42) = s.mdcOf (pl / 2 ^ 42) := getD_updAt_other [] _ s.mdc hd
  simp only [State.heldLine, hl2, hmdc]

theorem cellRead_memZero {key n a : Nat} (hm : s.mem.wf = true) :
    cellRead memDefault (s.memZero key n).mem a = if key ≤ a ∧ a < key + n then 0 else cellRead memDefault s.mem a := by
  refine (cellRead_filter (p := fun x => !(decide (key ≤ x) && decide (x < key + n))) hm).trans ?_
  by_cases h : key ≤ a ∧ a < key + n
  · simp [h, memDefault]
  · rw [if_neg h, if_pos]
    simpa only [Bool.not_eq_true', Bool.and_eq_false_iff, decide_eq_false_iff_not, ← not_and_or] using h

/-- A byte of device memory after whole lines within one die are zeroed. -/
theorem memByte_memZero {key n a : Nat} (hm : s.mem.wf = true) (hkey : key % 64 = 0) (hn : n % 64 = 0) (hk : key % 2 ^ 48 + n ≤ 2 ^ 48) :
    (s.memZero key n).memByte a = if key ≤ a ∧ a < key + n then 0 else s.memByte a := by
  by_cases hd : a / 64 / 2 ^ 42 = key / 2 ^ 48
  · have hheld := heldLine_memZero (s := s) (n := n) hd
    have hline : (key < a / 64 * 64 + 64 ∧ a / 64 * 64 < key + n) ↔ key ≤ a ∧ a < key + n := by omega
    rw [if_congr hline rfl rfl] at hheld
    by_cases h : key ≤ a ∧ a < key + n
    · rw [if_pos h] at hheld ⊢
      rw [memByte_of_none hheld, cellRead_memZero hm, if_pos h]
    · rw [if_neg h] at hheld ⊢
      rw [State.memByte, State.memByte, hheld, cellRead_memZero hm, if_neg h]
  · have hout : ¬(key ≤ a ∧ a < key + n) := by
      rw [Nat.div_div_eq_div_mul] at hd
      intro h
      apply hd
      omega
    rw [if_neg hout, State.memByte, State.memByte, heldLine_memZero_other hd, cellRead_memZero hm, if_neg hout]

end Sys2Proof.Machine

namespace Sys2Proof.Proofs
open Sys2Proof.Machine

/-- Settles O56: a byte after each write, behind the caches of its home, in the registers and in a scratchpad. -/
theorem memoryBytes : Obligations.MemoryBytes := by
  refine ⟨?_, ?_, ?_, ?_, ?_⟩
  · intro s key bs a hm hk
    refine ⟨wf_memWrite hm, ?_⟩
    rw [memBytes_one, memBytes_one, memByte_memWrite hm hk]
    split <;> rfl
  · intro s key n a hm hkey hn hk
    refine ⟨wf_memZero hm, ?_⟩
    rw [memBytes_one, memBytes_one, memByte_memZero hm hkey hn hk]
    split <;> rfl
  · intro s die off n v a hr
    refine ⟨ok_setReg hr, ?_⟩
    rw [State.setReg, cellRead_cellWrites hr, length_leBytes]
  · intro k key bs a hk
    refine ⟨wf_spadWrite hk, ?_⟩
    rw [Core.spadWrite, cellRead_cellWrites hk, length_values, getD_values]
  · intro m m' hm hm' hr
    exact Memory.eq_of_read hm hm' hr

end Sys2Proof.Proofs

/-!
SUPPORT. Which steps are instructions and which are events, and that both go on.
-/

namespace Sys2Proof.Machine

/-- Every event ends in a next state: its arm of the dispatch says so. -/
theorem goesOn_of_event {i : Instr} (hi : isInstruction i = false) (s : State) : goesOn (exec i s) := by
  cases i <;> cases hi <;> exact ⟨_, rfl⟩

/-- Every instruction runs some effect under some header. -/
theorem exec_of_isInstruction {i : Instr} (hi : isInstruction i = true) : ∃ h body, ∀ s, exec i s = runInstr i h body s := by
  obtain ⟨r, hr⟩ := Option.isSome_iff_exists.mp hi
  unfold encodeRaw at hr
  split at hr <;> cases hr <;> exact ⟨_, _, fun _ => rfl⟩

/-- No input from outside is an instruction. -/
theorem isInstruction_of_isInput {i : Instr} (hi : isInput i = true) : isInstruction i = false := by
  by_contra h
  obtain ⟨r, hr⟩ := Option.isSome_iff_exists.mp (eq_true_of_ne_false h)
  unfold encodeRaw at hr
  split at hr <;> cases hr <;> cases hi

/-! ## Moves -/

/-- None of some steps is an instruction. -/
def allEvents (l : List Instr) : Prop := ∀ i ∈ l, isInstruction i = false

theorem allEvents_append {l l' : List Instr} (h : allEvents l) (h' : allEvents l') : allEvents (l ++ l') :=
  fun i hi => (List.mem_append.mp hi).elim (h i) (h' i)

theorem allEvents_flatMap {α : Type} {l : List α} {f : α → List Instr} (h : ∀ a ∈ l, allEvents (f a)) : allEvents (l.flatMap f) := by
  intro i hi
  obtain ⟨a, ha, hf⟩ := List.mem_flatMap.mp hi
  exact h a ha i hf

theorem allEvents_map {α : Type} {l : List α} {f : α → Instr} (h : ∀ a ∈ l, isInstruction (f a) = false) : allEvents (l.map f) := by
  intro i hi
  obtain ⟨a, ha, rfl⟩ := List.mem_map.mp hi
  exact h a ha

theorem allEvents_all {l : List Instr} (h : (l.all fun i => !isInstruction i) = true) : allEvents l := by
  intro i hi
  simpa using List.all_eq_true.mp h i hi

theorem allEvents_accEvents (n : Nat) (a : Acc) : allEvents (accEvents n a) := by
  refine allEvents_append (allEvents_all rfl) (allEvents_flatMap fun i _ => ?_)
  refine allEvents_append (allEvents_all rfl) ?_
  split <;> exact allEvents_all rfl

theorem allEvents_engEvents (s : State) (e : Eng) : allEvents (engEvents s e) := by
  refine allEvents_append ?_ (allEvents_flatMap fun u _ => ?_)
  · split
    · exact allEvents_map fun _ _ => rfl
    · exact allEvents_map fun _ _ => rfl
  · split <;> exact allEvents_all rfl

theorem allEvents_sliceEvents (n : Nat) (g : Group) (sl : Slice) : allEvents (sliceEvents n g sl) :=
  allEvents_append (allEvents_all rfl) (allEvents_flatMap fun _ _ => allEvents_all rfl)

theorem allEvents_groupEvents (n : Nat) (g : Group) : allEvents (groupEvents n g) :=
  allEvents_append (allEvents_append (allEvents_all rfl) (allEvents_sliceEvents n g .a)) (allEvents_sliceEvents n g .c)

theorem allEvents_teamEvents (n : Nat) (t : Team) : allEvents (teamEvents n t) :=
  allEvents_append (allEvents_all rfl) (allEvents_flatMap fun g _ => allEvents_groupEvents n g)

theorem allEvents_homeEvents (s : State) (h : Nat) : allEvents (homeEvents s h) := by
  refine allEvents_append (l := [_]) (allEvents_all rfl) (allEvents_append (allEvents_flatMap fun _ _ => allEvents_all rfl) ?_)
  exact allEvents_map fun _ _ => rfl

theorem allEvents_tileEvents (s : State) : allEvents s.tileEvents := by
  unfold State.tileEvents
  split
  · next l _ _ _ _ => cases l.kind.draw? <;> exact allEvents_all rfl
  · next l _ _ _ _ => cases l.kind.draw? <;> exact allEvents_all rfl
  · exact allEvents_all rfl

theorem allEvents_streamEvents (x : Stream) : allEvents (streamEvents x) := by
  refine allEvents_append ?_ (allEvents_flatMap fun _ _ => allEvents_all rfl)
  split <;> exact allEvents_all rfl

theorem allEvents_events (s : State) : allEvents s.events := by
  unfold State.events
  refine allEvents_append (allEvents_append (allEvents_append (allEvents_append (allEvents_append (allEvents_append (allEvents_append
    (allEvents_append (allEvents_append (allEvents_append (allEvents_append (allEvents_append (allEvents_append (allEvents_append
    (allEvents_append (allEvents_append ?_ ?_) ?_) ?_) ?_) ?_) ?_) ?_) ?_) ?_) ?_) ?_) ?_) ?_) ?_) ?_) ?_
  · exact allEvents_flatMap fun _ _ => allEvents_all rfl
  · exact allEvents_flatMap fun a _ => allEvents_accEvents s.free a
  · exact allEvents_flatMap fun e _ => allEvents_engEvents s e
  · exact allEvents_flatMap fun t _ => allEvents_teamEvents s.free t
  · exact allEvents_flatMap fun h _ => allEvents_homeEvents s h
  · exact allEvents_all rfl
  · exact allEvents_flatMap fun _ _ => allEvents_all rfl
  · exact allEvents_flatMap fun _ _ => allEvents_all rfl
  · exact allEvents_tileEvents s
  · exact allEvents_map fun _ _ => rfl
  · exact allEvents_map fun _ _ => rfl
  · exact allEvents_map fun _ _ => rfl
  · exact allEvents_flatMap fun _ _ => allEvents_all rfl
  · exact allEvents_flatMap fun x _ => allEvents_streamEvents x
  · exact allEvents_flatMap fun _ _ => allEvents_map fun _ _ => rfl
  · exact allEvents_map fun _ _ => rfl
  · exact allEvents_all rfl

/-- A move that is a step of the device is no instruction. -/
theorem isInstruction_of_mem_moves {s : State} {i : Instr} (hi : .event i ∈ s.moves) : isInstruction i = false := by
  rcases List.mem_append.mp hi with hi | hi
  · obtain ⟨j, hj, heq⟩ := List.mem_map.mp hi
    cases heq
    have hlist := (List.mem_filter.mp hj).1
    refine allEvents_append (allEvents_append (allEvents_append ?_ ?_) ?_) (allEvents_events s) _ hlist
    · split <;> exact allEvents_all rfl
    · split <;> exact allEvents_all rfl
    · intro k hk
      obtain ⟨-, hin⟩ := Option.filter_eq_some_iff.mp (Option.mem_toList.mp hk)
      exact isInstruction_of_isInput hin
  · split at hi
    · exact absurd hi List.not_mem_nil
    · simp [State.quietMoves, State.errorMoves] at hi

/-! ## The issue of a picked fragment -/

/-- What the decoder gives has a word, and so is an instruction. -/
theorem isInstruction_of_decode {w : IWord} {i : Instr} (hd : decode w = .ok i) : isInstruction i = true := by
  obtain ⟨-, he⟩ := Sys2Proof.Proofs.encodeOfDecode w i hd
  obtain ⟨r, hr, -⟩ := Option.map_eq_some_iff.mp he
  rw [isInstruction, hr, Option.isSome_some]

/-- What a fetch runs has been decoded, and has an issuer. -/
theorem fetch_run {s : State} {w : Issuer} {i : Instr} (hf : s.fetch w = .run i) :
    (∃ x, s.issuer w = some x) ∧ isInstruction i = true := by
  unfold State.fetch at hf
  split at hf
  · cases hf
  · next x hx =>
    refine ⟨⟨x, hx⟩, ?_⟩
    dsimp only at hf
    split at hf
    · split at hf <;> cases hf
    · split at hf
      · cases hf
      · split at hf
        · cases hf
        · split at hf
          · next hd =>
            cases hf
            exact isInstruction_of_decode hd
          · split at hf
            · split at hf <;> cases hf
            · cases hf

/-- An instruction with an issuer goes on: it ends, traps or waits. -/
theorem goesOn_of_issuer {s : State} {w : Issuer} {i : Instr} {x : Team × Group × Frag} (hi : isInstruction i = true)
    (hc : s.cur = some w) (hw : s.issuer w = some x) : goesOn (exec i s) := by
  obtain ⟨h, body, hx⟩ := exec_of_isInstruction hi
  have hiss : ∃ e, s.issues h e := by
    simp only [State.issues, hc, Option.bind_some, State.env, hw, Option.map_some]
    exact ⟨_, rfl⟩
  obtain ⟨e, he⟩ := hiss
  rw [hx, runInstr_eq he]
  unfold State.outcome
  split <;> exact ⟨_, rfl⟩

theorem goesOn_issueStep (s : State) (w : Issuer) : goesOn (issueStep w s) := by
  unfold issueStep
  split
  · exact ⟨_, rfl⟩
  · exact ⟨_, rfl⟩
  · next i hf =>
    obtain ⟨⟨x, hx⟩, hi⟩ := fetch_run hf
    exact goesOn_of_issuer (w := w) (x := x) hi rfl hx

theorem goesOn_moveStep {m : Option Move} {s : State} (hm : ∀ i, m = some (.event i) → isInstruction i = false) :
    goesOn (moveStep m s) := by
  unfold moveStep
  split
  · next i => exact goesOn_of_event (hm i rfl) s
  · exact ⟨_, rfl⟩
  · exact ⟨_, rfl⟩

end Sys2Proof.Machine

namespace Sys2Proof.Proofs
open Sys2Proof.Machine

/-- Settles O59: events and choices always end in a next state, and a picked fragment's instruction has an issuer. -/
theorem stepGoesOn : Obligations.StepGoesOn := by
  intro s hs
  have hev : allEvents (s.due ++ s.inbox) := allEvents_all hs
  unfold step
  split
  · next i r hd => exact goesOn_of_event (hev i (by simp [hd])) _
  · split
    · exact goesOn_issueStep _ _
    · split
      · exact ⟨_, rfl⟩
      · split
        · next i r hb => exact goesOn_of_event (hev i (by simp [hb])) _
        · exact goesOn_moveStep fun i hi => isInstruction_of_mem_moves (List.mem_of_getElem? hi)

end Sys2Proof.Proofs

/-!
SUPPORT. Loads, stores and atomics: the access that each starts when nothing holds it up.
-/

namespace Sys2Proof.Machine

variable {s : State} {e : Env} {vs : List (Nat × (Nat → LV))}

/-! ## Loads -/

theorem exec_of_loadForm {i : Instr} {F : LoadForm} (hF : loadForm i = some F) (s : State) :
    exec i s = runInstr i F.h (loadEff F.p F.rights F.d F.a F.b F.m) s := by
  unfold loadForm at hF
  split at hF <;> cases hF <;> rfl

/-- The state in which a load has taken its number and reserved its destination, and what the load delivers to. -/
def LoadForm.reserved (F : LoadForm) (s : State) (e : Env) : State × Deliver :=
  (({ s with nextId := s.nextId + 1 } : State).consume e [indexSrc F.b]).reserve e s.nextId F.d (Encoding.accRegs F.m.ty F.m.aop)
    (if isQueue F.d then none else some F.p) fun _ => e.exec

theorem loadEff_ok {F : LoadForm} (hl : F.loads s e vs) :
    loadEff F.p F.rights F.d F.a F.b F.m e s =
      .ok (Eff.on ((F.reserved s e).1.addAcc { F.load s e vs with deliver := (F.reserved s e).2 })) := by
  obtain ⟨hb, hv, ha, hc, ho, hr, hf⟩ := hl
  rw [LoadForm.ea_def] at ha
  unfold LoadForm.load at ho hf
  rw [LoadForm.ea_def] at ho hf
  simp only [loadEff, hb, hv, ha, hc, ho, hr, hf, Chk.ok_bind, Chk.pure_eq, State.consume_fresh]
  rfl

/-- Reserving a load's destination changes the teams alone, and the next number. -/
theorem LoadForm.reserved_eq (F : LoadForm) (s : State) (e : Env) :
    (F.reserved s e).1 = { s with teams := (F.reserved s e).1.teams, nextId := (F.reserved s e).1.nextId } := by
  rw [LoadForm.reserved, State.reserve_eq, State.consume_eq]

/-! ## Stores -/

theorem exec_of_storeForm {i : Instr} {F : LoadForm} (hF : storeForm i = some F) (s : State) :
    exec i s = runInstr i F.h (storeEff F.p F.rights F.d F.a F.b F.m) s := by
  unfold storeForm at hF
  split at hF <;> cases hF <;> rfl

/-- An access that may make a release first goes on in the released state. -/
theorem go_released {o : Order} {sc : Scope} {k : State → Chk Eff} (hr : releases o = true → s.releases e sc) :
    (if releases o then s.withRelease e sc k else k s) = k (s.released e o sc) := by
  unfold State.released
  split
  · next h => exact withRelease_ok (hr h)
  · rfl

theorem storeEff_ok {F : LoadForm} (hl : F.stores s e vs) (hr : releases F.m.ord = true → s.releases e F.m.scope) :
    storeEff F.p F.rights F.d F.a F.b F.m e s =
      .ok (Eff.on ((({ s.released e F.m.ord F.m.scope with nextId := (s.released e F.m.ord F.m.scope).nextId + 1 } : State).consume e
        [indexSrc F.b]).addAcc { F.store s e vs with id := (s.released e F.m.ord F.m.scope).nextId })) := by
  obtain ⟨hb, hv, ha, hc, ho, hroom, hsp⟩ := hl
  have hacc : F.store s e vs = if isQueue F.d then { e.newAcc s.nextId .store F.p F.m (nvecCount F.m.aop) (e.laneAccs (F.ea vs) fun l =>
      elemBytes F.m.ty ((lvVals vs).drop 2) l) with needQs := some e.exec } else e.newAcc s.nextId .store F.p F.m (nvecCount F.m.aop)
      (e.laneAccs (F.ea vs) fun l => elemBytes F.m.ty ((lvVals vs).drop 2) l) := by
    unfold LoadForm.store
    split <;> rfl
  rw [hacc] at ho hroom hsp ⊢
  rw [LoadForm.ea_def] at ha ho hroom hsp ⊢
  simp only [storeEff, hb, hv, ha, hc, ho, hroom, hsp, Chk.ok_bind, go_released hr, State.consume_fresh, Chk.pure_eq]

/-! ## Atomics -/

theorem exec_of_atomForm {i : Instr} {F : AtomForm} (hF : atomForm i = some F) (s : State) :
    exec i s = runInstr i F.h (atomEff F.d F.a F.b F.m) s := by
  unfold atomForm at hF
  split at hF <;> cases hF <;> rfl

/-- The lanes in which an atomic acts make the release of its fragment. -/
theorem releaseFor_once (s : State) (e : Env) (ret : Bool) (a b : Opnd) (sc : Scope) :
    s.releaseFor (e.once ret a b) sc = s.releaseFor e sc := by
  rw [Env.once_same]
  rfl

theorem released_once (s : State) (e : Env) (ret : Bool) (a b : Opnd) (o : Order) (sc : Scope) :
    s.released (e.once ret a b) o sc = s.released e o sc := by
  simp only [State.released, releaseFor_once]

/-- The state in which an atomic has taken its number and reserved its destination, if it has one, and what it delivers to. -/
def AtomForm.reserved (F : AtomForm) (r : State) (e : Env) : State × Deliver :=
  if F.d.isSome then
    ({ r with nextId := r.nextId + 1 } : State).reserve e r.nextId (F.d.getD (.vec 0)) (if F.m.ty == .b64 then 2 else 1) none fun _ => e.exec
  else ({ r with nextId := r.nextId + 1 }, .none)

theorem AtomForm.reserved_eq (F : AtomForm) (r : State) (e : Env) :
    (F.reserved r e).1 = { r with teams := (F.reserved r e).1.teams, nextId := (F.reserved r e).1.nextId } := by
  unfold AtomForm.reserved
  split
  · rw [State.reserve_eq]
  · rfl

theorem AtomForm.reserved_none {F : AtomForm} (r : State) (e : Env) (hd : F.d = none) : (F.reserved r e).2 = .none := by
  simp only [AtomForm.reserved, hd, Option.isSome_none, Bool.false_eq_true, if_false]

theorem atomEff_ok {F : AtomForm} (ha : F.acts s (F.env e) vs) :
    let r := s.released e F.m.ord F.m.scope
    atomEff F.d F.a F.b F.m e s =
      .ok (Eff.on ((F.reserved r (F.env e)).1.addAcc
        { F.acc s (F.env e) vs with id := r.nextId, deliver := (F.reserved r (F.env e)).2 })) := by
  intro r
  obtain ⟨hb, hq, hv, haddr, hc, ho, hroom, hf, hrel⟩ := ha
  have hr : s.released (F.env e) F.m.ord F.m.scope = r := released_once s e F.d.isSome F.a F.b F.m.ord F.m.scope
  unfold AtomForm.acc at ho hf ⊢
  rw [AtomForm.ea_def] at haddr ho hf ⊢
  unfold AtomForm.env at *
  simp only [atomEff, hb, hq, hv, haddr, hc, ho, hf, Chk.ok_bind, go_released hrel, hr, State.fresh, Chk.pure_eq, AtomForm.reserved]
  split
  · next hd =>
    obtain ⟨d, hd⟩ := Option.isSome_iff_exists.mp hd
    have hget : F.d.getD (.vec 0) = d := by rw [hd, Option.getD_some]
    rw [hget, hroom d hd, Chk.ok_bind]
  · rfl

end Sys2Proof.Machine

namespace Sys2Proof.Proofs
open Sys2Proof.Machine

/-- Settles O9: a load that nothing holds up takes a number, reserves its destination and starts its access. -/
theorem loadsIssue : Obligations.LoadsIssue := by
  intro i F s e vs hF hr hl
  refine ⟨(F.reserved (s.begun e) e).1.addAcc { F.load (s.begun e) e vs with deliver := (F.reserved (s.begun e) e).2 },
    (F.reserved (s.begun e) e).2, (exec_of_loadForm hF s).trans (runInstr_next hr (loadEff_ok hl)), ?_, ?_⟩
  · rw [F.reserved_eq]; rfl
  · rw [F.reserved_eq]; rfl

/-- Settles O10: a store that nothing holds up makes its release, takes a number and starts its access. -/
theorem storesIssue : Obligations.StoresIssue := by
  intro i F s e vs hF hr hl hrel r
  exact (exec_of_storeForm hF s).trans (runInstr_next hr (storeEff_ok hl hrel))

/-- Settles O11: an atomic that nothing holds up makes its release, reserves its destination, if any, and starts its access. -/
theorem atomicsIssue : Obligations.AtomicsIssue := by
  intro i F s e vs hF hr ha r
  refine ⟨_, (F.reserved r (F.env e)).2, (exec_of_atomForm hF s).trans (runInstr_next hr (atomEff_ok ha)), ?_,
    F.reserved_none r (F.env e), ?_⟩
  · rw [F.reserved_eq]; rfl
  · rw [F.reserved_eq]; rfl

end Sys2Proof.Proofs

/-!
SUPPORT. The issue of an engine operation: its checks, and what it starts when nothing holds it up.
-/

namespace Sys2Proof.Machine

variable {s : State} {e : Env} {vs : List (Nat × (Nat → LV))} {F : EngForm}

theorem refuseIf_false (n : Nat) : refuseIf false n = .ok () := rfl

theorem needSpad_ok (h : e.t.scrBytes ≠ 0) : e.needSpad = .ok () := by
  simp only [Env.needSpad, h, decide_false, refuseIf_false]

/-- The entry checks of the operation's size and alignment pass. -/
theorem EngForm.reads.checks (h : F.reads s e vs) :
    (decide (2 ^ 30 < (F.eng e vs).rows * (F.eng e vs).len) || decide (65536 < (F.eng e vs).rows)) = false ∧
      ((F.block e vs).getD F.n 0 % 16 != 0) = false ∧
      ((F.eng e vs).kind.transform && ((F.eng e vs).dst % xformAlign (F.eng e vs).kind F.m.dsp != 0 ||
        (F.eng e vs).len % xformAlign (F.eng e vs).kind F.m.dsp != 0)) = false := by
  obtain ⟨-, -, -, ⟨h1, h2⟩, hbar, hspan, -⟩ := h
  refine ⟨?_, ?_, ?_⟩
  · rw [Bool.or_eq_false_iff, decide_eq_false_iff_not, decide_eq_false_iff_not]
    exact ⟨by omega, by omega⟩
  · rw [hbar]; rfl
  · cases ht : (F.eng e vs).kind.transform with
    | false => rfl
    | true =>
      obtain ⟨hd, hl⟩ := hspan ht
      rw [hd, hl]; rfl

/-- The issue of an operation whose values `vs` have been read: its entry checks, its place, its waits, and its start. -/
def EngForm.issue (F : EngForm) (s : State) (e : Env) (vs : List (Nat × (Nat → LV))) : Chk Eff := do
  e.needSpad
  refuseIf (decide (2 ^ 30 < (F.eng e vs).rows * (F.eng e vs).len) || decide (65536 < (F.eng e vs).rows)) 0
  trapIf ((F.block e vs).getD F.n 0 % 16 != 0) 0x13 0
  trapIf ((F.eng e vs).kind.transform && ((F.eng e vs).dst % xformAlign (F.eng e vs).kind F.m.dsp != 0 ||
    (F.eng e vs).len % xformAlign (F.eng e vs).kind F.m.dsp != 0)) 0x13 0
  if (F.eng e vs).rows * (F.eng e vs).len = 0 then
    poisonCheck e.exec (F.used e vs)
    pure (Eff.on s)
  else
    let g ← engPlace e (F.eng e vs)
    poisonCheck e.exec (F.used e vs)
    s.afterAcquires e
    s.afterLogged e
    waitAccs (((if g.ssp then [] else [g.srcSpan]) ++ (if g.dsp then [] else [g.dstSpan])).flatMap fun x =>
      s.qsStores e.gid e.sl .g x.1.toNat (spanLen x))
    waitIf (!g.kind.transform && decide (64 ≤ s.copiesOn e.g.core)) .engines
    lockWaits (s.core e.g.core) (s.engRanges g)
    pure (Eff.on (({ s with nextId := s.nextId + 1, engs := s.engs ++ [{ g with id := s.nextId }] } : State).addLocks e.g.core
      s.nextId (s.engRanges g)))

theorem engEff_issue (hb : e.bounds (F.indices.map SrcOp.use) = .ok ())
    (hv : s.peek e (blockSrcs F.a F.n F.m.bar ++ F.indices) (.vec 0) 0 = .ok vs) :
    engEff F.n F.kind F.a F.b F.m e s = F.issue s e vs := by
  unfold EngForm.indices at hb hv
  simp only [engEff, hb, hv, Chk.ok_bind]
  rfl

/-- An operation of no bytes does nothing. -/
theorem engEff_empty (h : F.reads s e vs) (hz : (F.eng e vs).rows * (F.eng e vs).len = 0) :
    engEff F.n F.kind F.a F.b F.m e s = .ok (Eff.on s) := by
  obtain ⟨hsize, hbar, hspan⟩ := h.checks
  rw [engEff_issue h.bounds h.values, EngForm.issue, needSpad_ok h.alloc, hsize, hbar, hspan]
  simp only [Chk.ok_bind, refuseIf_false, trapIf_false, hz, if_true, h.clean, Chk.pure_eq]

/-- An operation that may be placed and that nothing holds up is started, with its ranges registered. -/
theorem engEff_starts {g : Eng} (h : F.reads s e vs) (hz : (F.eng e vs).rows * (F.eng e vs).len ≠ 0)
    (hp : engPlace e (F.eng e vs) = .ok g) (hf : g.free s e) :
    engEff F.n F.kind F.a F.b F.m e s =
      .ok (Eff.on (({ s with nextId := s.nextId + 1, engs := s.engs ++ [{ g with id := s.nextId }] } : State).addLocks e.g.core
        s.nextId (s.engRanges g))) := by
  obtain ⟨hsize, hbar, hspan⟩ := h.checks
  have hq : waitAccs (((if g.ssp then [] else [g.srcSpan]) ++ (if g.dsp then [] else [g.dstSpan])).flatMap fun x =>
      s.qsStores e.gid e.sl .g x.1.toNat (spanLen x)) = .ok () := by
    rw [List.flatMap_eq_nil_iff.mpr hf.stores]; rfl
  have hn : (!g.kind.transform && decide (64 ≤ s.copiesOn e.g.core)) = false := by
    cases ht : g.kind.transform with
    | true => rfl
    | false =>
      have := hf.copies ht
      simp only [Bool.not_false, Bool.true_and, decide_eq_false_iff_not]
      omega
  rw [engEff_issue h.bounds h.values, EngForm.issue, needSpad_ok h.alloc, hsize, hbar, hspan]
  simp only [Chk.ok_bind, refuseIf_false, trapIf_false, hz, if_false, hp, h.clean, hf.acquires, hf.logged, hq, hn, waitIf_false,
    hf.locks, Chk.pure_eq]

theorem starts_of_exec {i : Instr} (hx : ∀ s, exec i s = runInstr i F.h (engEff F.n F.kind F.a F.b F.m) s) : EngForm.Starts i F := by
  intro s e vs hr h u
  rw [hx s]
  exact ⟨fun hz => runInstr_next hr (engEff_empty h hz), fun g hz hp hf => runInstr_next hr (engEff_starts h hz hp hf)⟩

end Sys2Proof.Machine

namespace Sys2Proof.Proofs
open Sys2Proof.Machine

/-- Settles O15: the six instructions issue an operation by one effect. -/
theorem enginesStart : Obligations.EnginesStart := by
  intro h a b m
  exact ⟨starts_of_exec fun _ => rfl, starts_of_exec fun _ => rfl, starts_of_exec fun _ => rfl, starts_of_exec fun _ => rfl,
    starts_of_exec fun _ => rfl, starts_of_exec fun _ => rfl⟩

end Sys2Proof.Proofs

/-!
SUPPORT. Small states in which one instruction issues, for the statements that fail: one resident group of 64 lanes on core 0, in context 0 of
the house, whose registers are all zero.
-/

namespace Sys2Proof.Machine

/-- No guard and no hints. -/
def plainHdr : Hdr := { gp := 7, gn := false, sw := false, yld := false, ru := 0 }

/-- A 32-bit access with no order and no offset. -/
def plainMM : MM := { ty := .b32, scope := .grp, ord := .rlx, iscale := 0, hint := 0, aop := 0, ofs := 0 }

/-- The group's slice `sl` issues; its team has a scratchpad of 4,096 bytes. -/
def issuing (sl : Slice) : State :=
  let s := State.reset.withFetchWord 96 0
  { s with
    picked := [], cur := some { gid := 2, sl := sl, slot := 0 },
    teams := s.teams.map fun (t : Team) => { t with scrBytes := 4096, kern := { t.kern with cmax := 16, cmin := 4 } } }

/-- A check answers a value with `p`. -/
def Chk.gives {α : Type} (x : Chk α) (p : α → Bool) : Bool :=
  match x with
  | .ok v => p v
  | .error _ => false

theorem Chk.gives_iff {α : Type} {x : Chk α} {p : α → Bool} : x.gives p = true ↔ ∃ v, x = .ok v ∧ p v = true := by
  cases x <;> simp [Chk.gives]

/-- A check with no value passes. -/
def Chk.passes (x : Chk Unit) : Bool := x.gives fun _ => true

theorem Chk.passes_iff {x : Chk Unit} : x.passes = true ↔ x = .ok () := by
  cases x <;> simp [Chk.passes, Chk.gives]

/-- Instruction `i` runs in `s`, in an environment of which `p` holds. -/
def State.runsWith (s : State) (i : Instr) (h : Hdr) (p : Env → Bool) : Bool :=
  match s.cur.bind fun w => s.env w h with
  | some e => (e.check i).passes && e.exec != 0 && p e
  | none => false

theorem State.runs_of_runsWith {s : State} {i : Instr} {h : Hdr} {p : Env → Bool} (hr : s.runsWith i h p = true) :
    ∃ e, s.runs i h e ∧ p e = true := by
  unfold State.runsWith at hr
  split at hr
  case h_1 e he =>
    simp only [Bool.and_eq_true, bne_iff_ne] at hr
    obtain ⟨⟨hc, hx⟩, hp⟩ := hr
    exact ⟨e, ⟨he, Chk.passes_iff.mp hc, hx⟩, hp⟩
  case h_2 => cases hr

/-- The instructions that the group's slice has issued. -/
def State.issuedIn (s : State) (gid : Nat) (sl : Slice) : Nat := ((s.group? gid).map fun g => (g.slice sl).issued).getD 0

/-- The same of the state that an instruction leaves. -/
def issuedAfter (i : Instr) (s : State) (gid : Nat) (sl : Slice) : Nat :=
  match exec i s with
  | .next t => t.issuedIn gid sl
  | _ => 0

theorem issuedAfter_of_exec {i : Instr} {s t : State} {gid : Nat} {sl : Slice} (h : exec i s = .next t) :
    issuedAfter i s gid sl = t.issuedIn gid sl := by
  rw [issuedAfter, h]

/-- A split stack of no more than eight entries keeps nothing in the spill area. -/
theorem refillBad_of_le {s : State} {gid n : Nat} {sl : Slice} (hn : n ≤ 8) : s.refillBad gid sl n = false := by
  unfold State.refillBad
  split
  · rfl
  · simp [Nat.sub_eq_zero_of_le hn]

/-- An instruction that finds no more than eight entries ends in the state of its effect, its fragment moved on. -/
theorem ended_of_le {s b : State} {e : Env} {h : Hdr} {moved : Bool} (hn : e.x.stackUse ≤ 8) :
    s.ended e h moved b = s.updSlice e.gid e.sl fun x => x.finish e.f h moved := by
  simp only [State.ended, refillBad_of_le hn, Bool.false_eq_true, if_false]

/-! ## A load from the scratchpad behind a transform -/

/-- A ZERO of the first word of the scratchpad that Slice A has started and that has no part done yet. -/
def zeroing : Eng :=
  { id := 20, gid := 2, team := 1, core := 0, ctx := 0, pc := 0xC0, issuedAt := 1, kind := .zero, ssp := false, dsp := true, src := 0, dst := 0,
    rows := 1, len := 4, spitch := 0, dpitch := 0, sprot := false, dprot := false, spwin := false, dpwin := false, sofs := 0, dofs := 0, bar := 0,
    started := true, done := [], parked := [] }

def behindZero : State := { issuing .a with engs := [zeroing] }

/-- LDSP v4, [v6]. -/
def loadWord : Instr := .ldsp plainHdr (.vec 4) (.vec 6) (.imm 0) plainMM

/-- The state that the obligation names as the outcome of the load. -/
def State.afterLoadWord (s : State) (e : Env) (vs : List (Nat × (Nat → LV))) : State :=
  (((s.begun e).consume e [indexSrc (.imm 0)]).writeLoaded e (.vec 4) (Encoding.accRegs plainMM.ty plainMM.aop) fun l =>
    loadRegs plainMM.ty (nvecCount plainMM.aop) ((s.core e.g.core).spadRead
      (e.spadAt (spadOfs plainMM (valAt (lvVals vs) 0 l) (valAt (lvVals vs) 1 l) l)) (mmSize plainMM))).ended e plainHdr false s

/-- Every condition of the load holds in `behindZero`, and yet it does not issue: it waits for the transform. -/
theorem loadWord_waits : behindZero.runsWith loadWord plainHdr (fun e =>
    let s := behindZero
    (e.bounds (dataUse (.vec 4) plainMM :: spadUses (.vec 6) (.imm 0))).passes && e.t.scrBytes != 0 &&
    ((s.begun e).afterAcquires e).passes &&
    Chk.gives ((s.begun e).peek e (spadSrcs (.vec 6) (.imm 0)) (.vec 4) (Encoding.accRegs plainMM.ty plainMM.aop)) fun vs =>
      ((s.begun e).spadChecks e (fun l => spadOfs plainMM (valAt (lvVals vs) 0 l) (valAt (lvVals vs) 1 l) l) (mmSize plainMM) false).passes &&
      (poisonCheck e.exec vs).passes && issuedAfter loadWord s 2 .a != (s.afterLoadWord e vs).issuedIn 2 .a) = true := by
  decide +kernel

/-! ## A texel load behind a store that waits for its data -/

/-- Surface 0: 64 by 64 pixels of 4 bytes at IA 0. -/
def pixels : List Byte := leBytes 8 1 ++ leBytes 4 0x302 ++ leBytes 4 0x3F003F ++ leBytes 4 256 ++ List.replicate 44 0

/-- A 32-bit store of the group's Slice C to IA 0 in lane 0, whose data has not come from qs. -/
def unfilledStore : Acc :=
  { id := 20, gid := 2, sl := .c, pc := 0xC0, issuedAt := 1, kind := .store, path := .g, ty := .b32, nvec := 1, scope := .grp, ord := .rlx,
    nol1 := false, lanes := [{ lane := 0, va := 0, ia := 0, pwin := false, prot := false, exempt := false, data := [0, 0, 0, 0], st := .todo }],
    logged := false, needQs := some 1, deliver := .none, taps := [] }

/-- Window 0 reaches the surface, the first 2 MiB of home 0 are translated and stamped with the house, and the surface table is at IA 0x80000. -/
def behindStore : State :=
  let s := ((issuing .c).updCtx 0 fun c => { c with vrg := [0xCF, 0, 0, 0] ++ List.replicate 60 0 }).updHome 0 fun x =>
    { x with tlb := [{ base := 0, bits := 21, leaf := 3, at_ := 0 }] }
  ({ s with descs := [(0x80000, pixels)], stamps := (List.range 32).map fun i => (i, 0), accs := [unfilledStore] } : State).setReg 0 0x10008 8 0x80000

def texelMod : MSmp := { ty := .b32, scope := .grp, ssi := 0, nch := 0 }

/-- SLD v4, [v6], v8. -/
def loadTexel : Instr := .sld plainHdr (.vec 4) (.vec 6) (.vec 8) texelMod

/-- What the lanes of the load fetch. -/
def State.texels (s : State) (e : Env) (vs : List (Nat × (Nat → LV))) : List (SampLane × List LaneAcc × Nat) :=
  (lanesOf e.exec).map fun l => (s.begun e).sampLane e.c false .refused (BitVec.ofNat 32 (valAt (lvVals vs) 1 l))
    ((s.begun e).owner e.c.owner).frameno (BitVec.ofNat 32 (valAt (lvVals vs) 0 l)) (BitVec.ofNat 32 (valAt (lvVals vs) 0 l / 2 ^ 32)) l

/-- The registers of a lane's result. -/
def texelRegs (ls : List (SampLane × List LaneAcc × Nat)) : Nat :=
  ls.foldl (fun n x => max n (sampRegs false texelMod.ty (2 ^ texelMod.nch.toNat) x.1)) 0

/-- The access that the obligation says the load starts. -/
def State.texelAcc (s : State) (e : Env) (ls : List (SampLane × List LaneAcc × Nat)) : Acc :=
  { e.newAcc (s.begun e).nextId (.sample false) .s
      { ty := texelMod.ty, scope := texelMod.scope, ord := .rlx, iscale := 0, hint := 0, aop := 0, ofs := 0 } (2 ^ texelMod.nch.toNat)
      (ls.flatMap fun x => x.2.1) with taps := ls.map (·.1) }

/-- The accesses after an instruction. -/
def accsAfter (i : Instr) (s : State) : Nat :=
  match exec i s with
  | .next t => t.accs.length
  | _ => 0

theorem accsAfter_of_exec {i : Instr} {s t : State} (h : exec i s = .next t) : accsAfter i s = t.accs.length := by
  rw [accsAfter, h]

/-- Every condition of the load holds in `behindStore`, and yet it does not issue: it waits for the store. -/
theorem loadTexel_waits : behindStore.runsWith loadTexel plainHdr (fun e =>
    let s := behindStore
    decide (e.x.stackUse ≤ 8) && accsAfter loadTexel s == 1 && (s.begun e).accs.length == 1 && ((s.begun e).afterAcquires e).passes &&
    Chk.gives ((s.begun e).peek e [baseSrc (.vec 6), { code := 2, o := .vec 8 }] (.vec 0) 0) fun vs =>
      let ls := s.texels e vs
      (e.bounds [{ code := 0, o := .vec 4, n := texelRegs ls, even := false }, { code := 1, o := .vec 6, n := 2, even := true },
        { code := 2, o := .vec 8, n := 1, even := false }]).passes &&
      ((s.begun e).surfChecks e fun l => BitVec.ofNat 32 (valAt (lvVals vs) 1 l)).passes &&
      ((s.begun e).texelLocks e (ls.flatMap fun x => x.2.1)).passes && (poisonCheck e.exec vs).passes &&
      (loadRoom e (.vec 4) (texelRegs ls) .s).passes && ((s.begun e).fatalAtIssue (s.texelAcc e ls)).passes) = true := by
  decide +kernel

/-! ## A releasing fence behind a load -/

/-- A 32-bit load of the group's Slice A from IA 0 in lane 0 that has not been performed. -/
def openLoad : Acc :=
  { unfilledStore with sl := .a, kind := .load, needQs := none }

def behindLoad : State := { issuing .a with accs := [openLoad] }

/-- FENCE.REL. -/
def fenceRel : Instr := .fence plainHdr { plainMM with ord := .rel }

/-- Every condition of the fence holds in `behindLoad`, and yet it does not issue: it waits for the load. -/
theorem fenceRel_waits : behindLoad.runsWith fenceRel plainHdr (fun e =>
    let s := behindLoad
    ((s.begun e).afterLogged e).passes && ((s.begun e).afterQs e).passes && ((s.begun e).afterWrites e).passes &&
    decide (((s.begun e).releaseFor e .grp).2 = []) &&
    issuedAfter fenceRel s 2 .a != ((((s.begun e).released e .rel .grp).ended e plainHdr false s).issuedIn 2 .a)) = true := by
  decide +kernel

end Sys2Proof.Machine

namespace Sys2Proof.Proofs
open Sys2Proof.Machine

/-- Refutes O13: a FENCE with REL alone waits for the earlier loads of its slice as one with ACQ does (R74), and the statement asks that they
are over only of a fence with ACQ. -/
theorem not_prefetchAndFences : ¬ Obligations.PrefetchAndFences := by
  intro hall
  obtain ⟨e, hr, hp⟩ := State.runs_of_runsWith fenceRel_waits
  simp only [Bool.and_eq_true, bne_iff_ne, decide_eq_true_eq, Chk.passes_iff] at hp
  obtain ⟨⟨⟨⟨hlog, hqs⟩, hwr⟩, hack⟩, hne⟩ := hp
  have hrel : (behindLoad.begun e).releases e .grp := ⟨(fun h => by cases h), hack⟩
  exact hne (issuedAfter_of_exec ((hall behindLoad plainHdr e).2.1 { plainMM with ord := .rel } hr hlog hqs (fun h => by cases h)
    fun _ => ⟨hwr, hrel⟩))

/-- Refutes O14: an SLD waits for an earlier store of its slice that names a byte of a texel and still waits for its data from qs (R69), of
which the statement says nothing. -/
theorem not_samplersIssue : ¬ Obligations.SamplersIssue := by
  intro hall
  obtain ⟨e, hr, hp⟩ := State.runs_of_runsWith loadTexel_waits
  simp only [Bool.and_eq_true, beq_iff_eq, decide_eq_true_eq, Chk.passes_iff, Chk.gives_iff] at hp
  obtain ⟨⟨⟨⟨hstack, hone⟩, hlen⟩, hacq⟩, vs, hv, ⟨⟨⟨⟨hb, hsurf⟩, hlock⟩, hpois⟩, hroom⟩, hfatal⟩ := hp
  obtain ⟨t, del, ht, haccs, -⟩ := hall false behindStore plainHdr (.vec 4) (.vec 6) (.vec 8) texelMod e vs .refused (behindStore.begun e) hr hv rfl
    hb (by intro q hq; cases hq) hsurf hlock hpois hacq hroom hfatal
  change exec loadTexel behindStore = _ at ht
  have htwo : accsAfter loadTexel behindStore = 2 := by
    rw [accsAfter_of_exec ht, ended_of_le hstack, State.updSlice_accs, haccs, List.length_append, hlen, List.length_singleton]
  omega

/-- Refutes O12: an LDSP of Slice A waits for an earlier transform of its slice that has not yet performed its part in the bank of its word
(R58), of which the statement says nothing. -/
theorem not_scratchpad : ¬ Obligations.Scratchpad := by
  intro hall
  obtain ⟨e, hr, hp⟩ := State.runs_of_runsWith loadWord_waits
  simp only [Bool.and_eq_true, bne_iff_ne, Chk.passes_iff, Chk.gives_iff] at hp
  obtain ⟨⟨⟨hb, hspad⟩, hacq⟩, vs, hv, ⟨hc, hpois⟩, hne⟩ := hp
  exact hne (issuedAfter_of_exec ((hall behindZero plainHdr (.vec 4) (.vec 6) (.imm 0) plainMM e vs).1 hr hb hv hspad hc hpois hacq))

end Sys2Proof.Proofs

/-!
SUPPORT. Work lists, procedural ranges, collective steps and power levels.
-/

namespace Sys2Proof.Machine

variable {s u u' : State} {e : Env} {d a b : Opnd} {vs : List (Nat × (Nat → LV))} {va key : Nat} {w : Window} {l : WorkList}

/-! ## Work lists -/

/-- The state of a work-list instruction is at hand once its checks have passed, with `withList` giving the header. -/
theorem wlpushEff_ok {x : Chk Eff} (hb : e.bounds [{ code := 2, o := b, n := 1, even := false }] = .ok ())
    (hv : s.peek e [baseSrc a, { code := 2, o := b }] (.vec 0) 0 = .ok vs) (ha : s.wlAddr e vs = .ok (va, w))
    (hp : poisonCheck e.exec vs = .ok ()) (hq : s.afterAcquires e = .ok ()) (hl : s.afterLogged e = .ok ()) (hw : s.afterWrites e = .ok ())
    (hr : s.releases e .dev) (hlist : ∀ k, (s.releaseFor e .dev).1.withList e va w k = k key l u)
    (hx : (if 2 ^ l.log < l.count + (lanesOf e.exec).length then
        .ok (Eff.on ((u.consume e [baseSrc a, { code := 2, o := b }]).statusBits e d 0))
      else u.withItems e w l l.tail.toNat (lanesOf e.exec) true fun s =>
        .ok (Eff.on ((((s.consume e [baseSrc a, { code := 2, o := b }]).putItems e w l
            ((lanesOf e.exec).map fun x => (x, valAt (lvVals vs) 1 x))).putList (w.iaOf va) key
              { l with tail := l.tail + BitVec.ofNat 32 (lanesOf e.exec).length }).statusBits e d e.exec))) = x) :
    wlpushEff d a b e s = x := by
  simp only [wlpushEff, hb, hv, ha, hp, hq, hl, hw, Chk.ok_bind, withRelease_ok hr, hlist, Chk.pure_eq, ← hx]

/-- The outcome of a pop that hands items to the lanes `ls`. -/
def State.popped (s : State) (e : Env) (d b : Opnd) (va key : Nat) (w : Window) (l : WorkList) (ls : List Nat) : State :=
  let n := min (lanesOf e.exec).length l.count
  let m := maskOf fun x => ls.contains x
  let r := s.getItems e w l ls
  let p := r.2.putList (w.iaOf va) key { l with head := l.head + BitVec.ofNat 32 n, busy := l.busy + BitVec.ofNat 32 n }
  let p := if n = 0 then p else p.updSlice e.gid e.sl fun x =>
    x.writeRegs { e with exec := m } d [fun l => ((r.1.find? fun x => x.1 == l).map (·.2)).getD Val.zero]
  (p.statusBits e b m).acquire e.g.core .dev

theorem wlpopEff_ok (hb : e.bounds [{ code := 0, o := d, n := 1, even := false }] = .ok ())
    (hv : s.peek e [baseSrc a] (.vec 0) 0 = .ok vs) (ha : s.wlAddr e vs = .ok (va, w))
    (hp : poisonCheck e.exec vs = .ok ()) (hq : s.afterAcquires e = .ok ()) (hl : s.afterLogged e = .ok ())
    (hlist : ∀ k, s.withList e va w k = k key l u)
    (hitems : ∀ k, u.withItems e w l l.head.toNat ((lanesOf e.exec).take (min (lanesOf e.exec).length l.count)) false k = k u') :
    wlpopEff d a b e s =
      .ok (Eff.on (u'.popped e d b va key w l ((lanesOf e.exec).take (min (lanesOf e.exec).length l.count)))) := by
  simp only [wlpopEff, hb, hv, ha, hp, hq, hl, Chk.ok_bind, hlist, hitems, Chk.pure_eq]
  rfl

theorem wlquietEff_ok (hv : s.peek e [baseSrc a, { code := 2, o := b }] (.vec 0) 0 = .ok vs) (ha : s.wlAddr e vs = .ok (va, w))
    (hp : poisonCheck e.exec vs = .ok ()) (hq : s.afterAcquires e = .ok ()) (hl : s.afterLogged e = .ok ()) (hw : s.afterWrites e = .ok ())
    (hr : s.releases e .dev) (hlist : ∀ k, (s.releaseFor e .dev).1.withList e va w k = k key l u) :
    let f := (uniformVals e vs).getD 1 0
    let l' := { l with busy := BitVec.ofNat 32 (l.busy.toNat - min f l.busy.toNat) }
    wlquietEff d a b e s =
      .ok (Eff.on (((u.putList (w.iaOf va) key l').status e d
        (boolNat (decide (l'.head = l'.tail) && decide (l'.busy = 0)))).acquire e.g.core .dev)) := by
  simp only [wlquietEff, hv, ha, hp, hq, hl, hw, Chk.ok_bind, withRelease_ok hr, hlist, Chk.pure_eq]

/-! ## Procedural ranges -/

theorem filldoneEff_none (h : s.filling? e.t = none ∨ ∃ die entry blk, s.filling? e.t = some (die, entry, blk) ∧ s.merge? die entry blk = none) :
    filldoneEff d e s = .ok (Eff.on (s.status e d 0)) := by
  rcases h with h | ⟨die, entry, blk, h, hm⟩
  · simp only [filldoneEff, h, Chk.pure_eq]
  · simp only [filldoneEff, h, hm, Chk.pure_eq]

theorem filldoneEff_ok {die entry blk : Nat} {m : Merge} (hf : s.filling? e.t = some (die, entry, blk)) (hm : s.merge? die entry blk = some m)
    (haccs : s.blockAccs e.gid (m.prt.base + blk * m.prt.blockSize) m.prt.blockSize = [])
    (hengs : s.blockEngs e.gid (m.prt.base + blk * m.prt.blockSize) m.prt.blockSize = [])
    (hl : s.afterLogged e = .ok ()) (hw : s.afterWrites e = .ok ()) (hr : s.releases e .dev) :
    filldoneEff d e s =
      .ok (Eff.on ((((s.releaseFor e .dev).1.setFillState m.prt blk 2).leaveFilling die m).status e d 1)) := by
  simp only [filldoneEff, hf, hm, haccs, hengs, hl, hw, waitAccs_nil, List.isEmpty_nil, Bool.not_true, waitIf_false, Chk.ok_bind,
    withRelease_ok hr, Chk.pure_eq]

/-- A block FILLED or POISONED that nothing pins is emptied. -/
theorem evictBlock_empties {s : State} {die b : Nat} {p : Prt} (hst : 1 < s.fillState die p b) :
    s.evictBlock die p b = if s.pinned p b then (1, s) else
      (0, ((if s.fillState die p b = 3 then s.failRecord p b 0 else s).setFillState p b 0).zeroBlock p b) := by
  unfold State.evictBlock
  split
  · omega
  · omega
  · rfl

/-! ## Collective steps -/

/-- The step counter of a group counts a step. -/
def State.stepped (s : State) (e : Env) (n : Nat) : State := s.updGroup e.gid fun g => { g with step := max g.step n }

/-- A step counted, its bytes landed and its lock gone. -/
def State.landed (s : State) (e : Env) (n off len : Nat) : State :=
  ((s.stepped e n).landBytes e.t.id e.g.core off len).updCore e.g.core fun k =>
    { k with locks := k.locks.filter fun l => l.eng != stepKey e.gid e.sl e.slot }

/-- The sources of a step whose block stands in scalar registers. -/
def stepSrcs (a b : Opnd) (bar : BitVec 6) : List SrcOp :=
  [{ code := 1, o := a }, { code := 2, o := b, ty := .b64, pair := true }, { code := 2, o := shiftOpnd b 2 }, { code := 2, o := .sca bar }]

variable {bar : BitVec 6}

theorem cstepEff_plain (hb : b.kind ≠ 1) (hv : s.peek e [{ code := 1, o := a }] (.vec 0) 0 = .ok vs) (hp : poisonCheck e.exec vs = .ok ())
    (hl : s.afterLogged e = .ok ()) (hw : s.afterWrites e = .ok ()) (hr : s.releases e .sys) :
    cstepEff a b bar e s = .ok (Eff.on ((s.releaseFor e .sys).1.stepped e ((uniformVals e vs).getD 0 0))) := by
  simp only [cstepEff, hb, decide_false, Bool.false_eq_true, if_false, Bool.not_false, if_true, hv, hp, hl, hw, Chk.ok_bind, withRelease_ok hr,
    Chk.pure_eq]
  rfl

/-- Writes that are all over are not waited for. -/
theorem openWrites_eq_nil {l : List Acc} (h : ∀ a ∈ l, a.kind.writes = true → a.isOpen = false) :
    (l.filter fun a => a.kind.writes && a.isOpen) = [] := by
  rw [List.filter_eq_nil_iff]
  intro a ha
  cases hk : a.kind.writes with
  | false => simp
  | true => simp [h a ha hk]

theorem cstepEff_empty (hb : b.kind = 1) (hv : s.peek e (stepSrcs a b bar) (.vec 0) 0 = .ok vs) (hs : e.t.scrBytes ≠ 0)
    (hal : (uniformVals e vs).getD 3 0 % 16 = 0) (hlen : (uniformVals e vs).getD 2 0 = 0) (hp : poisonCheck e.exec vs = .ok ())
    (hl : s.afterLogged e = .ok ()) (hw : ∀ a ∈ s.sliceAccs e.gid e.sl, a.kind.writes = true → a.isOpen = false) (hr : s.releases e .sys) :
    cstepEff a b bar e s =
      .ok (Eff.on ((s.releaseFor e .sys).1.landed e ((uniformVals e vs).getD 0 0) ((uniformVals e vs).getD 3 0) 0)) := by
  unfold stepSrcs at hv
  simp only [cstepEff, hb, decide_true, if_true, Bool.not_true, Bool.false_eq_true, if_false, hv, hs, hal, hlen, needSpad_ok, hp, hl, Chk.ok_bind,
    bne_self_eq_false, trapIf_false, ne_eq, not_true_eq_false, false_and, true_or, openWrites_eq_nil hw, List.isEmpty_nil, withRelease_ok hr,
    Chk.pure_eq, not_false_eq_true]
  rfl

theorem cstepEff_span {x : Side} {off len : Nat} (hb : b.kind = 1) (hv : s.peek e (stepSrcs a b bar) (.vec 0) 0 = .ok vs)
    (hs : e.t.scrBytes ≠ 0) (hoff : (uniformVals e vs).getD 3 0 = off) (hlen : (uniformVals e vs).getD 2 0 = len) (hal : off % 16 = 0)
    (hne : len ≠ 0) (hside : e.c.side va (va, va + len) (fun w => !w.l) = .ok x) (hva : (uniformVals e vs).getD 1 0 = va)
    (hp : poisonCheck e.exec vs = .ok ()) (hl : s.afterLogged e = .ok ())
    (hkey : ∀ l ∈ (s.core e.g.core).locks, l.eng ≠ stepKey e.gid e.sl e.slot)
    (hlock : lockWaits (s.core e.g.core) [(false, lockSpans none 0 x.start len)] = .ok ())
    (hw : ∀ a ∈ (s.addLocks e.g.core (stepKey e.gid e.sl e.slot) [(false, lockSpans none 0 x.start len)]).sliceAccs e.gid e.sl,
      a.kind.writes = true → a.isOpen = false)
    (hr : (s.addLocks e.g.core (stepKey e.gid e.sl e.slot) [(false, lockSpans none 0 x.start len)]).releases e .sys) :
    cstepEff a b bar e s =
      .ok (Eff.on (((s.addLocks e.g.core (stepKey e.gid e.sl e.slot) [(false, lockSpans none 0 x.start len)]).releaseFor e .sys).1.landed e
        ((uniformVals e vs).getD 0 0) off len)) := by
  unfold stepSrcs at hv
  have hheld : ((s.core e.g.core).locks.any fun l => l.eng == stepKey e.gid e.sl e.slot) = false := by
    simp only [List.any_eq_false, beq_iff_eq]
    exact hkey
  simp only [cstepEff, hb, decide_true, if_true, Bool.not_true, Bool.false_eq_true, if_false, hv, hs, hal, hlen, hoff, hva, needSpad_ok, hp, hl,
    Chk.ok_bind, bne_self_eq_false, trapIf_false, hne, hside, ne_eq, not_false_eq_true, hheld, true_and, hlock, or_self,
    openWrites_eq_nil hw, List.isEmpty_nil, withRelease_ok hr, Chk.pure_eq, Bool.not_false]
  rfl

/-! ## Power levels -/

theorem gplEff_ok {wait : Bool} (hb : e.bounds [dstUse d false] = .ok ()) (hw : wait = true → e.c.plstat.getLsbD 2 = false) :
    gplEff d wait e s = .ok (Eff.on (s.writeDst e d false fun _ => (s.cluster (cluOf e.g.core)).granted)) := by
  have hwait : (wait && e.c.plstat.getLsbD 2) = false := by
    cases wait with
    | false => rfl
    | true => rw [hw rfl]; rfl
  simp only [gplEff, hb, hwait, Chk.ok_bind, waitIf_false, Chk.pure_eq]

end Sys2Proof.Machine

namespace Sys2Proof.Proofs
open Sys2Proof.Machine

/-- Settles O17: the header of the list and its items are at hand, so each of the three goes through its checks to its one effect. -/
theorem workLists : Obligations.WorkLists := by
  intro s h e d a b vs va w key l u
  refine ⟨?_, ?_, ?_⟩
  · intro hr hb hv ha hp hq hl hw hrel hlist n
    refine ⟨fun hfull => ?_, fun u' hfits hitems => ?_⟩
    · exact runInstr_next hr (wlpushEff_ok (d := d) hb hv ha hp hq hl hw hrel hlist (if_pos hfull))
    · exact runInstr_next hr (wlpushEff_ok hb hv ha hp hq hl hw hrel hlist ((if_neg (Nat.not_lt.mpr hfits)).trans (hitems _)))
  · intro hr hb hv ha hp hq hl hlist n ls m u' hitems r p p'
    exact runInstr_next hr (wlpopEff_ok hb hv ha hp hq hl hlist hitems)
  · intro hr hv ha hp hq hl hw hrel hlist f l'
    exact runInstr_next hr (wlquietEff_ok hv ha hp hq hl hw hrel hlist)

/-- Settles O18: each instruction by what its block is at issue, and the eviction of a block by its fill state. -/
theorem fillsAndEvictions : Obligations.FillsAndEvictions := by
  refine ⟨?_, ?_⟩
  · intro s h e d
    refine ⟨fun hr hn => ?_, ?_, fun a code hr hc hf => ?_, fun a code die entry blk hr hc hf => ?_, ?_, fun a die p b hr ha => ?_⟩
    · exact runInstr_next (body := filldoneEff d) hr (filldoneEff_none hn)
    · intro die entry blk m hr hf hm p lo haccs hengs hl hw hrel
      exact runInstr_next (body := filldoneEff d) hr (filldoneEff_ok hf hm haccs hengs hl hw hrel)
    · exact runInstr_next (body := fillfailEff d a) hr (by simp only [fillfailEff, hc, hf, Chk.ok_bind, Chk.pure_eq]; rfl)
    · exact runInstr_next (body := fillfailEff d a) hr (by simp only [fillfailEff, hc, hf, Chk.ok_bind, Chk.pure_eq])
    · intro a die p b hr ha hl hw hrel r
      exact runInstr_next (body := previctEff d a) hr
        (by simp only [previctEff, ha, hl, hw, withRelease_ok hrel, Chk.ok_bind, Chk.pure_eq]; rfl)
    · exact runInstr_next (body := fillqEff d a) hr (by simp only [fillqEff, ha, Chk.ok_bind, Chk.pure_eq]; rfl)
  · intro s die p b
    refine ⟨fun h0 => ?_, fun h1 => ?_, fun hst hp => ?_, fun hst hp => ?_⟩
    · simp only [State.evictBlock, h0]
    · simp only [State.evictBlock, h1]
    · rw [evictBlock_empties hst, hp, if_pos rfl]
    · rw [evictBlock_empties hst, hp, if_neg Bool.false_ne_true]

/-- Settles O19: CSTEP by whether its block stands in scalar registers and holds bytes, the others by their one effect. -/
theorem collectivesAndPower : Obligations.CollectivesAndPower := by
  refine ⟨?_, ?_⟩
  · intro s h e a vs
    refine ⟨fun b bar hb hr hv hp hl hw hrel => ?_, fun b bar hb hr hv hs hal hlen hp hl hw hrel => ?_, ?_, fun n code hr hc => ?_,
      fun n code hr hc => ?_⟩
    · exact runInstr_next (body := cstepEff a b bar) hr (cstepEff_plain hb hv hp hl hw hrel)
    · exact runInstr_next (body := cstepEff a b bar) hr (cstepEff_empty hb hv hs hal hlen hp hl hw hrel)
    · intro b bar x hb hr hv u va len off key rs s1 hs hal hne hside hp hl hkey hlock hw hrel
      exact runInstr_next (body := cstepEff a b bar) hr (cstepEff_span hb hv hs rfl rfl hal hne hside rfl hp hl hkey hlock hw hrel)
    · exact runInstr_next (body := cabortEff (.sca n)) hr (by simp only [cabortEff, hc, Chk.ok_bind, Chk.pure_eq]; rfl)
    · exact runInstr_next (body := cabortEff (.imm n)) hr (by simp only [cabortEff, hc, Chk.ok_bind, Chk.pure_eq]; rfl)
  · intro s h e d
    refine ⟨?_, fun wait hr hb hw => ?_⟩
    · intro a req hr hb hv r
      exact runInstr_next (body := splEff d a) hr (by simp only [splEff, hb, hv, Chk.ok_bind, Chk.pure_eq]; rfl)
    · exact runInstr_next (body := gplEff d wait) hr (gplEff_ok hb hw)

end Sys2Proof.Proofs

/-!
SUPPORT. Matrix instructions, the pass table and the present queues.
-/

namespace Sys2Proof.Machine

variable {s : State} {e : Env} {d a b : Opnd}

/-! ## Questions and frames -/

theorem passqEff_known {i : Nat} {p : Pass} (hc : s.countVal e a anyCount = .ok i) (hp : s.pass? i = some p)
    (ho : p.grantor = e.c.owner ∨ p.grantee = e.c.owner ∨ e.c.owner = 0) :
    passqEff d a e s =
      .ok (Eff.on (s.updSlice e.gid e.sl fun x => x.writeRegs e d (p.words.map fun w => fun _ => Val.of (BitVec.ofNat 32 w)))) := by
  simp only [passqEff, hc, hp, Chk.ok_bind, if_pos ho, Chk.pure_eq]

/-- An entry that is not valid, or that the asking owner has no part in, reads as zeros. -/
theorem passqEff_zero {i : Nat} (hc : s.countVal e a anyCount = .ok i)
    (hp : ∀ p, s.pass? i = some p → p.grantor ≠ e.c.owner ∧ p.grantee ≠ e.c.owner ∧ e.c.owner ≠ 0) :
    passqEff d a e s =
      .ok (Eff.on (s.updSlice e.gid e.sl fun x =>
        x.writeRegs e d ((List.replicate 8 0).map fun w => fun _ => Val.of (BitVec.ofNat 32 w)))) := by
  cases hi : s.pass? i with
  | none => simp only [passqEff, hc, hi, Chk.ok_bind, Chk.pure_eq]
  | some p =>
    obtain ⟨h1, h2, h3⟩ := hp p hi
    have ho : ¬(p.grantor = e.c.owner ∨ p.grantee = e.c.owner ∨ e.c.owner = 0) := not_or.mpr ⟨h1, not_or.mpr ⟨h2, h3⟩⟩
    simp only [passqEff, hc, hi, Chk.ok_bind, if_neg ho, Chk.pure_eq]

/-- What PRESENT does once its checks have passed and its release is made. -/
def State.presents (r : State) (e : Env) (d : Opnd) (h : W32) (t : W64) : Chk Eff :=
  match r.ownSurface e h with
  | none => .ok (Eff.on (r.status e d 2))
  | some _ =>
    if r.presentMode e.c.owner ≠ 1 ∧ r.presentDepth e.c.owner ≤ (r.owner e.c.owner).queue.length then r.parkAt e .present
    else .ok (Eff.on ((r.present e.c.owner h t).status e d 0))

theorem presentEff_eq {vs : List (Nat × (Nat → LV))}
    (hv : s.peek e [{ code := 1, o := a }, { code := 2, o := b, ty := .b64, pair := true }] (.vec 0) 0 = .ok vs)
    (hp : poisonCheck e.exec vs = .ok ()) (hq : s.afterAcquires e = .ok ()) (hl : s.afterLogged e = .ok ()) (hw : s.afterWrites e = .ok ())
    (hr : s.releases e .dev) :
    presentEff d a b e s = (s.releaseFor e .dev).1.presents e d (BitVec.ofNat 32 ((uniformVals e vs).getD 0 0))
      (BitVec.ofNat 64 ((uniformVals e vs).getD 1 0)) := by
  simp only [presentEff, hv, hp, hq, hl, hw, Chk.ok_bind, withRelease_ok hr, Chk.pure_eq]
  rfl

variable {r : State} {h : W32} {t : W64}

theorem presents_none (hs : r.ownSurface e h = none) : r.presents e d h t = .ok (Eff.on (r.status e d 2)) := by
  simp only [State.presents, hs]

theorem presents_full (hs : r.ownSurface e h ≠ none) (hm : r.presentMode e.c.owner ≠ 1)
    (hq : r.presentDepth e.c.owner ≤ (r.owner e.c.owner).queue.length) : r.presents e d h t = r.parkAt e .present := by
  obtain ⟨f, hf⟩ := Option.ne_none_iff_exists'.mp hs
  simp only [State.presents, hf, if_pos (And.intro hm hq)]

theorem presents_room (hs : r.ownSurface e h ≠ none)
    (hq : r.presentMode e.c.owner = 1 ∨ (r.owner e.c.owner).queue.length < r.presentDepth e.c.owner) :
    r.presents e d h t = .ok (Eff.on ((r.present e.c.owner h t).status e d 0)) := by
  obtain ⟨f, hf⟩ := Option.ne_none_iff_exists'.mp hs
  have hno : ¬(r.presentMode e.c.owner ≠ 1 ∧ r.presentDepth e.c.owner ≤ (r.owner e.c.owner).queue.length) := by
    rintro ⟨hm, hd⟩
    rcases hq with hq | hq
    · exact hm hq
    · exact absurd hd (Nat.not_le.mpr hq)
  simp only [State.presents, hf, if_neg hno]

/-! ## The pass table -/

/-- No entry of the table has an index. -/
theorem pass?_eq_none_iff {i : Nat} : s.pass? i = none ↔ ∀ p ∈ s.passes, p.idx ≠ i := by
  simp [State.pass?]

theorem mem_freePasses {i : Nat} : i ∈ s.freePasses ↔ i < 1024 ∧ s.pass? i = none := by
  simp [State.freePasses, pass?_eq_none_iff]

/-- A table with fewer than 1,024 entries has a free one: its indices cannot cover them all. -/
theorem freePasses_ne_nil (h : s.passes.length < 1024) : s.freePasses ≠ [] := by
  intro hnil
  have hsub : List.range 1024 ⊆ s.passes.map (·.idx) := by
    intro i hi
    by_contra hni
    have hfree : i ∈ s.freePasses := by
      rw [mem_freePasses, pass?_eq_none_iff]
      refine ⟨List.mem_range.mp hi, fun p hp hpi => hni ?_⟩
      exact List.mem_map.mpr ⟨p, hp, hpi⟩
    rw [hnil] at hfree
    exact List.not_mem_nil hfree
  have hle := (List.nodup_range.subperm hsub).length_le
  rw [List.length_range, List.length_map] at hle
  omega

/-- The entry that a grant takes. -/
def State.grantSlot (s : State) : Nat := s.freePasses.getD (s.freeW.1.toNat % s.freePasses.length) 0

theorem grantSlot_mem (h : s.passes.length < 1024) : s.grantSlot ∈ s.freePasses := by
  have hlen : s.freeW.1.toNat % s.freePasses.length < s.freePasses.length :=
    Nat.mod_lt _ (List.length_pos_iff.mpr (freePasses_ne_nil h))
  rw [State.grantSlot, List.getD_eq_getElem _ _ hlen]
  exact List.getElem_mem hlen

variable {o : Id12} {hd w1 w2 w3 start : Nat} {x : Named}

/-- The block of a grant has no right, an empty rectangle or a nonzero zero field. -/
def badGrant (w1 w2 w3 : Nat) : Prop :=
  (bitN w1 12 = false ∧ bitN w1 13 = false) ∨ bits w3 0 16 ≤ bits w2 0 16 ∨ bits w3 16 16 ≤ bits w2 16 16 ∨ bits w1 14 18 ≠ 0

/-- A field of two bits is zero when both are clear. -/
theorem bits_two_eq_zero {w i : Nat} : bits w i 2 = 0 ↔ bitN w i = false ∧ bitN w (i + 1) = false := by
  simp only [bits, bitN, pow_succ, pow_zero, beq_eq_false_iff_ne]
  have := Nat.div_div_eq_div_mul w (2 ^ i) 2
  omega

theorem grantRefusal_bad (hb : badGrant w1 w2 w3) : s.grantRefusal o hd w1 w2 w3 = some 5 := by
  rw [badGrant, ← bits_two_eq_zero] at hb
  simp only [State.grantRefusal, if_pos hb]

theorem grantRefusal_unnamed (hb : ¬badGrant w1 w2 w3) (hn : s.named (BitVec.ofNat 32 hd) = none) :
    s.grantRefusal o hd w1 w2 w3 = some 4 := by
  rw [badGrant, ← bits_two_eq_zero] at hb
  simp only [State.grantRefusal, if_neg hb, hn]

theorem grantRefusal_named (hb : ¬badGrant w1 w2 w3) (hn : s.named (BitVec.ofNat 32 hd) = some x) : s.grantRefusal o hd w1 w2 w3 =
    if !x.grantable o then some 2 else if x.isProt then some 3 else if 1024 ≤ s.passes.length then some 1 else none := by
  rw [badGrant, ← bits_two_eq_zero] at hb
  simp only [State.grantRefusal, if_neg hb, hn]

theorem grant_refused {r : Nat} (h : s.grantRefusal o hd w1 w2 w3 = some r) : s.grant o hd w1 w2 w3 start = (2 ^ 31 + r * 2 ^ 28, s) := by
  simp only [State.grant, h]

theorem grant_enters (h : s.grantRefusal o hd w1 w2 w3 = none) : s.grant o hd w1 w2 w3 start =
    (s.grantSlot, { s with
      free := s.free + 1,
      passes :=
        { idx := s.grantSlot, sample := bitN w1 12, capture := bitN w1 13, grantee := BitVec.ofNat 12 w1, grantor := o,
          handle := BitVec.ofNat 32 hd, x0 := bits w2 0 16, y0 := bits w2 16 16, x1 := bits w3 0 16, y1 := bits w3 16 16,
          startf := BitVec.ofNat 32 (max start ((s.owner (BitVec.ofNat 12 w1)).frameno.toNat + 1)), endf := 0xFFFFFFFF } :: s.passes }) := by
  simp only [State.grant, h]
  rfl

theorem grantable_iff : x.grantable o = true ↔ (match x with | .surface f => f.owner = o | .view _ => o = 0) := by
  cases x <;> simp [Named.grantable]

theorem isProt_iff : x.isProt = true ↔ ∃ f, x = .surface f ∧ f.prot = true := by
  cases x <;> simp [Named.isProt]

/-! ## Revoking a pass -/

variable {i : Nat} {p : Pass}

theorem revoke_none (h : s.pass? i = none) : s.revoke o i = (1, s) := by
  simp only [State.revoke, h]

theorem revoke_other (h : s.pass? i = some p) (ho : p.grantor ≠ o) : s.revoke o i = (2, s) := by
  simp only [State.revoke, h, if_pos ho]

theorem revoke_own (h : s.pass? i = some p) (ho : p.grantor = o) :
    let endf := min p.endf.toNat ((s.owner p.grantee).frameno.toNat + 1)
    s.revoke o i =
      if endf ≤ p.startf.toNat then (0, { s with passes := s.passes.filter fun q => q.idx != i })
      else (0, { s with passes := updWhere s.passes (fun q => q.idx == i) fun (q : Pass) => { q with endf := BitVec.ofNat 32 endf } }) := by
  simp only [State.revoke, h, ho, ne_eq, not_true_eq_false, if_false]

end Sys2Proof.Machine

namespace Sys2Proof.Proofs
open Sys2Proof.Machine

/-- Settles O20: none of the five waits, and each has one effect once its sources are without poison. -/
theorem matrixResults : Obligations.MatrixResults := by
  intro s h d a b e
  refine ⟨fun m hr hb hp => ?_, ?_, fun n k hr hb hp => ?_, ?_, ?_⟩
  · exact runInstr_next (body := mmaEff d a b m) hr (by simp only [mmaEff, hb, hp, Chk.ok_bind, Chk.pure_eq]; rfl)
  · intro m hr hb hp row hd
    exact runInstr_next (body := mmdEff d a b m) hr (by simp only [mmdEff, hb, hp, row, hd, Chk.ok_bind, Chk.pure_eq]; rfl)
  · exact runInstr_next (body := hadEff d a n k) hr (by simp only [hadEff, hb, hp, Chk.ok_bind, Chk.pure_eq]; rfl)
  · intro hr hb bx hp
    exact runInstr_next (body := qntEff d a b) hr (by simp only [qntEff, hb, bx, hp, Chk.ok_bind, Chk.pure_eq]; rfl)
  · intro hr vs hp
    exact runInstr_next (body := cbldEff a) hr (by simp only [cbldEff, vs, hp, Chk.ok_bind, Chk.pure_eq]; rfl)

/-- Settles O21: each by its one effect, PRESENT by what the release leaves of the queue. -/
theorem consentOperations : Obligations.ConsentOperations := by
  intro s h e d
  refine ⟨?_, ?_, fun a i p hr hc hp ho => ?_, fun a i hr hc hp => ?_, fun a b vs hr hb hv => ?_, ?_⟩
  · intro a v hr hv r
    exact runInstr_next (body := grantEff d a) hr (by simp only [grantEff, hv, Chk.ok_bind, Chk.pure_eq]; rfl)
  · intro a i hr hc r
    exact runInstr_next (body := revokeEff d a) hr (by simp only [revokeEff, hc, Chk.ok_bind, Chk.pure_eq]; rfl)
  · exact runInstr_next (body := passqEff d a) hr (passqEff_known hc hp ho)
  · exact runInstr_next (body := passqEff d a) hr (passqEff_zero hc hp)
  · exact runInstr_next (body := ownqEff d a b) hr (by simp only [ownqEff, hb, hv, Chk.ok_bind, Chk.pure_eq]; rfl)
  · intro a b vs hr hv hp hq hl hw hrel r hd
    have heff := presentEff_eq (d := d) hv hp hq hl hw hrel
    refine ⟨fun hs => ?_, fun hs hm hf => ?_, fun hs hf => ?_⟩
    · exact runInstr_next (body := presentEff d a b) hr (heff.trans (presents_none hs))
    · exact runInstr_next (body := presentEff d a b) hr (heff.trans (presents_full hs hm hf))
    · exact runInstr_next (body := presentEff d a b) hr (heff.trans (presents_room hs hf))

/-- Settles O22: GRANT by the order of its refusals, and a table that is not full has an entry for it; REVOKE by whose entry it is. -/
theorem grantChecks : Obligations.GrantChecks := by
  refine ⟨?_, ?_⟩
  · intro s o hd w1 w2 w3 start refused bad
    refine ⟨fun hb => grant_refused (grantRefusal_bad hb), fun hb => ⟨fun hn => ?_, ?_⟩⟩
    · exact grant_refused (grantRefusal_unnamed hb hn)
    · intro x hx may prot
      have hgood : s.grantRefusal o hd w1 w2 w3 =
          if !x.grantable o then some 2 else if x.isProt then some 3 else if 1024 ≤ s.passes.length then some 1 else none :=
        grantRefusal_named hb hx
      have hmay : x.grantable o = true ↔ may := grantable_iff
      have hprot : x.isProt = true ↔ prot := isProt_iff
      refine ⟨fun hm => ?_, fun hm hp => ?_, fun hm hp hl => ?_, fun hm hp hl => ?_⟩
      · refine grant_refused (hgood.trans ?_)
        rw [Bool.eq_false_iff.mpr (fun h => hm (hmay.mp h))]
        rfl
      · refine grant_refused (hgood.trans ?_)
        rw [hmay.mpr hm, hprot.mpr hp]
        rfl
      · refine grant_refused (hgood.trans ?_)
        rw [hmay.mpr hm, Bool.eq_false_iff.mpr (fun h => hp (hprot.mp h)), if_pos hl]
        rfl
      · have hnone : s.grantRefusal o hd w1 w2 w3 = none := by
          rw [hgood, hmay.mpr hm, Bool.eq_false_iff.mpr (fun h => hp (hprot.mp h)), if_neg (Nat.not_le.mpr hl)]
          rfl
        intro r grantee
        have hr : r = _ := grant_enters hnone
        obtain ⟨hlt, hfree⟩ := mem_freePasses.mp (grantSlot_mem hl)
        rw [hr]
        dsimp only
        refine ⟨hlt, hfree, rfl, _, rfl, ?_⟩
        simp only [grantee, and_self]
  · intro s o i
    refine ⟨revoke_none, fun p hp ho => revoke_other hp ho, fun p hp ho => ?_⟩
    intro endf
    refine ⟨fun hlt => ?_, fun hle => ?_⟩
    · rw [revoke_own hp ho, if_neg (Nat.not_le.mpr hlt)]
      simp only [updWhere, beq_iff_eq]
      rfl
    · rw [revoke_own hp ho, if_pos hle]
      simp only [ne_eq, decide_not, bne]
      rfl

end Sys2Proof.Proofs

/-!
SUPPORT. Mesh and tile instructions, the system instructions, preemption, saved images and invalidation.
-/

namespace Sys2Proof.Machine

variable {s r : State} {e : Env} {d a b : Opnd}

/-! ## Mesh and tile -/

theorem laneTrap_ok {l : List Nat} {bad : Nat → Bool} {c : Nat} {info : Nat → Nat} (h : ∀ x ∈ l, bad x = false) :
    laneTrap l bad c info = .ok () := by
  have hnone : firstLane l bad = none := List.find?_eq_none.mpr fun x hx => by simp [h x hx]
  simp only [laneTrap, hnone]

theorem needTile_ok {x : Nat × Nat} (h : s.tileMem e.t = some x) : s.needTile e = .ok x := by
  simp only [State.needTile, h]

/-- The lanes' offsets are aligned for a tile access. -/
theorem tileAligned_ok {vs : List (Nat × (Nat → LV))} {n : Nat} (h : ∀ l ∈ lanesOf e.exec, valAt (lvVals vs) 0 l % n = 0) :
    laneTrap (lanesOf e.exec) (fun l => valAt (lvVals vs) 0 l % n != 0) 0x13 id = .ok () :=
  laneTrap_ok fun l hl => by simp [h l hl]

/-! ## System -/

theorem launchKick_eq {c : Ctx} {n : Nat} :
    let ok := (r.ctx n).valid && ((r.ctx n).owner == c.owner || c.owner == 0)
    r.launchKick c n = (boolNat ok, if ok then { r with due := r.due ++ [.kick (.own n)] } else r) := by
  intro ok
  have hnot : (!(r.ctx n).valid || ((r.ctx n).owner != c.owner && c.owner != 0)) = !ok := by
    simp only [ok, Bool.not_and, Bool.not_or, bne]
  rw [State.launchKick, hnot]
  cases ok <;> rfl

theorem setsEff_ok {vs : List (Nat × (Nat → LV))} {idx : BitVec 9} {w64 : Bool}
    (hv : s.peek e [{ code := 1, o := a, ty := if w64 then .b64 else .b32, pair := w64 }] (.vec 0) 0 = .ok vs)
    (hr : e.c.sysRefused idx.toNat (valAt (lvVals vs) 0 (lowLane e.exec)) = false) (hp : poisonCheck e.exec vs = .ok ()) :
    setsEff a idx w64 e s = .ok (Eff.on (s.sysWrite e idx.toNat (valAt (lvVals vs) 0 (lowLane e.exec)))) := by
  simp only [setsEff, hv, hr, hp, refuseIf_false, Chk.ok_bind, Chk.pure_eq]

theorem tretEff_ok (hh : e.f.handler = true) (hp : pcAligned e.x.trap.resume = true) :
    tretEff e s = .ok { s := s.trapReturn e.gid e.sl e.slot, moved := true } := by
  simp only [tretEff, hh, hp, Bool.not_true, refuseIf_false, trapIf_false, Chk.ok_bind, Chk.pure_eq]

/-! ## PREEMPT -/

theorem preemptEff_ok {vs : List (Nat × (Nat → LV))} (hv : s.peek e [{ code := 1, o := a }, { code := 2, o := b }] (.vec 0) 0 = .ok vs)
    (hp : poisonCheck e.exec vs = .ok ()) (hw : ∀ k, e.f.wait ≠ .holding k) :
    let r := s.preempt e.c.num ((uniformVals e vs).getD 0 0 % 4096) ((uniformVals e vs).getD 1 0)
    preemptEff d a b e s =
      if r.2.passesOn r.1 then r.2.parkAt e (.holding r.1.length) else .ok (Eff.on (r.2.status e d r.1.length)) := by
  simp only [preemptEff, hv, hp, Chk.ok_bind, Chk.pure_eq]

/-! ## CSAVE -/

theorem onceReached_none {write : Bool} {fail go : State → Chk Eff} : s.onceReached e write Reached.none fail go = go s := rfl

/-- What CSAVE does with the team that its block names, for an image that starts at `va`. -/
def State.savesImage (s : State) (e : Env) (d a : Opnd) (v : List Nat) (va : Nat) (t : Team) : Chk Eff :=
  let tell := fun (n : Nat) (s : State) => (pure (Eff.on (s.status e d n)) : Chk Eff)
  if e.f.wait = .saveLost then tell 4 s else
  if (s.save t.ctx).exhausted then tell 3 s
  else if v.getD 5 0 < t.imageLen then tell 2 s
  else if !e.c.spanOk va t.imageLen (·.wr) then tell 4 s else
  let seq := (s.save t.ctx).take.c
  let sent : Bool := match e.f.wait with
    | .saving q _ => q == seq
    | _ => false
  if sent then pure (Eff.on (s.saved e d a t)) else
  let old := s.unacked
  let (r, s) := s.putPieces e va (s.image t seq (decide (t.life = .fatal))) (e.c.pieces va t.imageLen)
  s.onceReached e true r (tell 4) fun s =>
    let ms := s.unacked.filter fun m => !old.contains m
    if ms.isEmpty then pure (Eff.on (s.saved e d a t)) else s.parkAt e (.saving seq ms)

theorem csaveEff_none {v : List Nat} (hv : s.blockVals e a 6 = .ok v) (ht : s.savable (v.getD 2 0) (v.getD 3 0) (v.getD 4 0) = none) :
    csaveEff d a e s = .ok (Eff.on (s.status e d 1)) := by
  rw [csaveEff, hv, Chk.ok_bind]
  rw [ht]
  rfl

theorem csaveEff_some {v : List Nat} {t : Team} (hv : s.blockVals e a 6 = .ok v)
    (ht : s.savable (v.getD 2 0) (v.getD 3 0) (v.getD 4 0) = some t) :
    csaveEff d a e s = s.savesImage e d a v (v.getD 0 0 + v.getD 1 0 * 2 ^ 32) t := by
  rw [csaveEff, hv, Chk.ok_bind]
  rw [ht]
  rfl

section
variable {v : List Nat} {va : Nat} {t : Team}

theorem savesImage_lost (hw : e.f.wait = .saveLost) : s.savesImage e d a v va t = .ok (Eff.on (s.status e d 4)) := by
  simp only [State.savesImage, hw, if_true, Chk.pure_eq]

theorem savesImage_exhausted (hw : e.f.wait ≠ .saveLost) (hk : (s.save t.ctx).exhausted = true) :
    s.savesImage e d a v va t = .ok (Eff.on (s.status e d 3)) := by
  simp only [State.savesImage, if_neg hw, hk, if_true, Chk.pure_eq]

theorem savesImage_short (hw : e.f.wait ≠ .saveLost) (hk : (s.save t.ctx).exhausted = false) (hl : v.getD 5 0 < t.imageLen) :
    s.savesImage e d a v va t = .ok (Eff.on (s.status e d 2)) := by
  simp only [State.savesImage, if_neg hw, hk, Bool.false_eq_true, if_false, if_pos hl, Chk.pure_eq]

/-- An image whose messages have been sent before is done. -/
theorem savesImage_sent {l : List (Nat × W32)} (hk : (s.save t.ctx).exhausted = false) (hl : t.imageLen ≤ v.getD 5 0)
    (hs : e.c.spanOk va t.imageLen (·.wr) = true) (hw : e.f.wait = .saving (s.save t.ctx).take.c l) :
    s.savesImage e d a v va t = .ok (Eff.on (s.saved e d a t)) := by
  simp only [State.savesImage, hw, reduceCtorEq, hk, Bool.false_eq_true, if_false, if_neg (Nat.not_lt.mpr hl), hs, Bool.not_true,
    beq_self_eq_true, if_true, Chk.pure_eq]

/-- An image all of whose pieces are performed is done once no message of it waits for its acknowledgement. -/
theorem savesImage_written {u : State} (hw : e.f.wait ≠ .saveLost) (hk : (s.save t.ctx).exhausted = false) (hl : t.imageLen ≤ v.getD 5 0)
    (hs : e.c.spanOk va t.imageLen (·.wr) = true) (hq : ∀ q l, e.f.wait ≠ .saving q l)
    (hu : s.putPieces e va (s.image t (s.save t.ctx).take.c (decide (t.life = .fatal))) (e.c.pieces va t.imageLen) = (Reached.none, u)) :
    let sent := u.unacked.filter fun m => !s.unacked.contains m
    s.savesImage e d a v va t =
      if sent.isEmpty then .ok (Eff.on (u.saved e d a t)) else u.parkAt e (.saving (s.save t.ctx).take.c sent) := by
  intro sent
  simp only [State.savesImage, if_neg hw, hk, Bool.false_eq_true, if_false, if_neg (Nat.not_lt.mpr hl), hs, Bool.not_true, hu,
    onceReached_none]
  rfl

end

/-! ## CREST -/

section
variable {v : List Nat} {va n : Nat}

theorem crestEff_malformed (hv : s.blockVals e a 3 = .ok v) (hl : s.afterLogged e = .ok ()) (hw : s.afterWrites e = .ok ())
    (hva : v.getD 0 0 + v.getD 1 0 * 2 ^ 32 = va) (hn : v.getD 2 0 = n) (hb : n < 80 ∨ e.c.spanOk va n (·.rd) = false) :
    crestEff d a e s = .ok (Eff.on (s.status e d 4)) := by
  have hbad : n < 80 ∨ (!e.c.spanOk va n (·.rd)) = true := hb.imp_right fun h => by rw [h]; rfl
  rw [crestEff, hv, Chk.ok_bind, hva, hn]
  rw [hl, Chk.ok_bind, hw, Chk.ok_bind, if_pos hbad]
  rfl

/-- A CREST whose bytes have all come goes on to the checks of the image. -/
theorem crestEff_read {bs : List Byte} {u w : State} {x : Bool × State} (hv : s.blockVals e a 3 = .ok v) (hl : s.afterLogged e = .ok ())
    (hw : s.afterWrites e = .ok ()) (hva : v.getD 0 0 + v.getD 1 0 * 2 ^ 32 = va) (hlen : v.getD 2 0 = n) (hn : 80 ≤ n)
    (hs : e.c.spanOk va n (·.rd) = true)
    (hask : ((e.c.pieces va n).foldl (fun (s : State) p => s.expel e.g.core (p.ia / 64)) s).askPieces e (e.c.pieces va n) = x)
    (hx : x.1 = true) (hu : x.2.getPieces e (e.c.pieces va n) = (Reached.none, bs, u))
    (hreads : { u with reads := u.reads.filter fun y => y.reader != stepKey e.gid e.sl e.slot } = w) :
    crestEff d a e s = .ok (Eff.on ((w.crest bs).2.status e d (w.crest bs).1)) := by
  have hgood : ¬(n < 80 ∨ (!e.c.spanOk va n (·.rd)) = true) := by
    rw [hs]
    exact not_or.mpr ⟨Nat.not_lt.mpr hn, Bool.false_ne_true⟩
  have hnone : Reached.none.wait.isSome = false := rfl
  obtain ⟨all, t⟩ := x
  rw [crestEff, hv, Chk.ok_bind, hva, hlen]
  rw [hl, Chk.ok_bind, hw, Chk.ok_bind, if_neg hgood]
  simp only [hask, show all = true from hx, hu, Bool.not_true, Bool.false_eq_true, if_false, hnone, onceReached_none, hreads,
    Chk.pure_eq]

end

/-! ## IAINV -/

theorem iainvGo_ok {ia : Nat} {range : Nat × Nat} (hl : s.afterLogged e = .ok ()) (hw : s.afterWrites e = .ok ()) (hr : s.releases e .dev) :
    let r := (s.releaseFor e .dev).1
    iainvGo ia range e s = .ok (Eff.on (if range.1 < range.2 then r.invalidate (homeOf (ia % 2 ^ 52)) range.1 range.2 else r)) := by
  simp only [iainvGo, hl, hw, Chk.ok_bind, withRelease_ok hr, Chk.pure_eq]

end Sys2Proof.Machine

namespace Sys2Proof.Proofs
open Sys2Proof.Machine

/-- Settles O23: the mesh instructions wait for nothing, and the tile instructions need their alignment and the accesses before them. -/
theorem meshAndTile : Obligations.MeshAndTile := by
  intro s h e a
  refine ⟨fun b cnt word vs hr hb hv => ?_, fun b vs hr hb hv => ?_, fun b vs hr hv => ?_, fun d ty n vs base size hr hb hv ht hal hp hq => ?_,
    fun d ty n vs base size hr hb hv ht hal hp hq hl => ?_⟩
  · exact runInstr_next (body := emitvEff a b cnt word) hr (by simp only [emitvEff, emitCount, hb, hv, Chk.ok_bind, Chk.pure_eq]; rfl)
  · exact runInstr_next (body := emitpEff a b) hr (by simp only [emitpEff, hb, hv, Chk.ok_bind, Chk.pure_eq]; rfl)
  · exact runInstr_next (body := meshendEff a b) hr (by simp only [meshendEff, hv, Chk.ok_bind, Chk.pure_eq]; rfl)
  · exact runInstr_next (body := tldEff d a ty n) hr
      (by simp only [tldEff, hb, hv, needTile_ok ht, tileAligned_ok hal, hp, hq, Chk.ok_bind, Chk.pure_eq]; rfl)
  · exact runInstr_next (body := tstoEff d a ty n) hr
      (by simp only [tstoEff, hb, hv, needTile_ok ht, tileAligned_ok hal, hp, hq, hl, Chk.ok_bind, Chk.pure_eq]; rfl)

/-- Settles O24: LAUNCH by whether the context is one that its issuer may kick, the others by their one effect. -/
theorem systemOperations : Obligations.SystemOperations := by
  intro s h e
  refine ⟨?_, fun d idx w64 hr hb => ?_, fun a idx w64 vs hr hv hs hp => ?_, fun hr hh hp => ?_⟩
  · intro d a v hr hc hl hw hrel r n ok
    refine runInstr_next (body := launchEff d a) hr ?_
    simp only [launchEff, hc, hl, hw, Chk.ok_bind, withRelease_ok hrel, launchKick_eq, Chk.pure_eq]
    rfl
  · exact runInstr_next (body := getsEff d idx w64) hr (by simp only [getsEff, hb, Chk.ok_bind, Chk.pure_eq]; rfl)
  · exact runInstr_next (body := setsEff a idx w64) hr (setsEff_ok hv hs hp)
  · exact runInstr_next (body := tretEff) hr (tretEff_ok hh hp)

/-- Settles O25: PREEMPT by whether tile passes are left on the cores, CSAVE by its checks and its messages, CREST by its pieces. -/
theorem preemptionOperations : Obligations.PreemptionOperations := by
  intro s h e d a
  refine ⟨?_, ?_, ?_, ?_⟩
  · intro b vs hr hv hp hw r
    have heff := preemptEff_ok (d := d) hv hp hw
    refine ⟨fun hon => ?_, fun hon => ?_⟩
    · exact runInstr_next (body := preemptEff d a b) hr (heff.trans (if_neg (Bool.eq_false_iff.mp hon)))
    · exact runInstr_next (body := preemptEff d a b) hr (heff.trans (if_pos hon))
  · intro v hr hc r
    exact runInstr_next (body := preemptRelEff d a) hr (by simp only [preemptRelEff, hc, Chk.ok_bind, Chk.pure_eq]; rfl)
  · intro v hr hv va
    refine ⟨fun ht => runInstr_next (body := csaveEff d a) hr (csaveEff_none hv ht), fun t ht => ?_⟩
    have heff := csaveEff_some (d := d) hv ht
    intro k
    refine ⟨fun hw => ?_, fun hw hk => ?_, fun hw hk hl => ?_, ?_, fun l hk hl hs hw => ?_⟩
    · exact runInstr_next (body := csaveEff d a) hr (heff.trans (savesImage_lost hw))
    · exact runInstr_next (body := csaveEff d a) hr (heff.trans (savesImage_exhausted hw hk))
    · exact runInstr_next (body := csaveEff d a) hr (heff.trans (savesImage_short hw hk hl))
    · intro hw hk hl hs hq u hu sent
      have hwritten := heff.trans (savesImage_written hw hk hl hs hq hu)
      refine ⟨fun hn => ?_, fun hn => ?_⟩
      · exact runInstr_next (body := csaveEff d a) hr (hwritten.trans (if_pos (List.isEmpty_iff.mpr hn)))
      · exact runInstr_next (body := csaveEff d a) hr (hwritten.trans (if_neg (mt List.isEmpty_iff.mp hn)))
    · exact runInstr_next (body := csaveEff d a) hr (heff.trans (savesImage_sent hk hl hs hw))
  · intro v hr hv hl hw va ps x
    refine ⟨fun hb => ?_, fun hn hs hx bs u hu => ?_⟩
    · exact runInstr_next (body := crestEff d a) hr (crestEff_malformed hv hl hw rfl rfl hb)
    · intro w
      have hask : (ps.foldl (fun (s : State) p => s.expel e.g.core (p.ia / 64)) (s.begun e)).askPieces e ps = x := rfl
      have hreads : { u with reads := u.reads.filter fun y => y.reader != stepKey e.gid e.sl e.slot } = w := rfl
      clear_value w x
      exact runInstr_next (body := crestEff d a) hr (crestEff_read hv hl hw rfl rfl hn hs hask hx hu hreads)

/-- Settles O27: both make their release and invalidate; the range of IAINV.ALL is the whole home. -/
theorem invalidation : Obligations.Invalidation := by
  intro s h e a hl hw hrel r
  refine ⟨fun b vs hr hv => ?_, fun vs hr hv => ?_⟩
  · intro ia lo hi
    refine runInstr_next (body := iainvEff a b) hr ?_
    simp only [iainvEff, hv, Chk.ok_bind, iainvGo_ok hl hw hrel, Nat.mod_mod]
    rfl
  · refine runInstr_next (body := iainvAllEff a) hr ?_
    simp only [iainvAllEff, State.iaPair, hv, Chk.ok_bind, Chk.pure_eq, iainvGo_ok hl hw hrel, Nat.mod_mod]
    rw [if_pos (Nat.two_pow_pos 48)]
    rfl

end Sys2Proof.Proofs

/-!
SUPPORT. The checks of CREST, one after another.
-/

namespace Sys2Proof.Machine

variable {s : State} {bs : List Byte} {hd ct : List Byte} {n ctx seq : Nat}

/-- The image's team as the last checks take it: none was detached, or its body is not the team's, or it is placed again. -/
def State.crestTeam (s : State) (hd ct : List Byte) (ctx seq : Nat) : Option Team → Nat × State
  | none => (3, s)
  | some t =>
    if bitN (fieldAt hd 12 4) 0 ≠ (s.ctx ctx).prot ∨ !bodyOk t (BitVec.ofNat 32 seq) ((s.ctx ctx).bodyOf hd ct) then (3, s) else
    (0, ((s.setSave ((s.save ctx).mark seq)).updTeam t.id fun _ =>
      { t.fromBody ((s.ctx ctx).bodyOf hd ct) with life := .placing }).waitsAgain s t.launch)

/-- CREST on the fields of an image. -/
theorem crest_eq (hhd : bs.take 64 = hd) (hn : fieldAt hd 24 8 = n) (hct : (bs.drop 64).take n = ct)
    (hctx : bits (fieldAt hd 8 4) 0 12 = ctx) (hseq : fieldAt hd 4 4 = seq) :
    s.crest bs =
      if !imageHeaderOk hd ∨ bs.length < 80 + n then (4, s)
      else if !(s.ctx ctx).valid ∨ (s.ctx ctx).owner.toNat ≠ bits (fieldAt hd 8 4) 12 12 then (3, s)
      else if bitN (fieldAt hd 12 4) 0 ∧ !tagGood (s.ctx ctx).owner ctx hd ct ((bs.drop (64 + n)).take 16) then (2, s.ctxImage ctx 2)
      else if !(s.save ctx).current seq then (1, s.ctxImage ctx 1)
      else s.crestTeam hd ct ctx seq (if bitN (fieldAt hd 12 4) 1 then none else s.detached ctx hd) := by
  subst hseq hctx hct hn hhd
  unfold State.crest
  dsimp only
  generalize (if bitN (fieldAt (bs.take 64) 12 4) 1 then none else s.detached (bits (fieldAt (bs.take 64) 8 4) 0 12) (bs.take 64)) = found
  cases found <;> rfl

variable {t : Team} (hhd : bs.take 64 = hd) (hn : fieldAt hd 24 8 = n) (hct : (bs.drop 64).take n = ct)
  (hctx : bits (fieldAt hd 8 4) 0 12 = ctx) (hseq : fieldAt hd 4 4 = seq)
include hhd hn

theorem crest_malformed (h : imageHeaderOk hd = false ∨ bs.length < 80 + n) : s.crest bs = (4, s) := by
  rw [crest_eq hhd hn rfl rfl rfl]
  exact if_pos (h.imp_left fun h => by rw [h]; rfl)

variable (hok : imageHeaderOk hd = true) (hlen : 80 + n ≤ bs.length)
include hct hctx hseq hok hlen

/-- An image that is not malformed goes on to the checks of its owner, its tag, its number and its team. -/
theorem crest_formed :
    s.crest bs =
      if !(s.ctx ctx).valid ∨ (s.ctx ctx).owner.toNat ≠ bits (fieldAt hd 8 4) 12 12 then (3, s)
      else if bitN (fieldAt hd 12 4) 0 ∧ !tagGood (s.ctx ctx).owner ctx hd ct ((bs.drop (64 + n)).take 16) then (2, s.ctxImage ctx 2)
      else if !(s.save ctx).current seq then (1, s.ctxImage ctx 1)
      else s.crestTeam hd ct ctx seq (if bitN (fieldAt hd 12 4) 1 then none else s.detached ctx hd) := by
  have hno : ¬((!imageHeaderOk hd) = true ∨ bs.length < 80 + n) := by
    rw [hok]
    exact not_or.mpr ⟨Bool.false_ne_true, Nat.not_lt.mpr hlen⟩
  rw [crest_eq hhd hn hct hctx hseq, if_neg hno]

theorem crest_owner (h : (s.ctx ctx).valid = false ∨ (s.ctx ctx).owner.toNat ≠ bits (fieldAt hd 8 4) 12 12) : s.crest bs = (3, s) := by
  rw [crest_formed hhd hn hct hctx hseq hok hlen]
  exact if_pos (h.imp_left fun h => by rw [h]; rfl)

variable (hv : (s.ctx ctx).valid = true) (ho : (s.ctx ctx).owner.toNat = bits (fieldAt hd 8 4) 12 12)
include hv ho

theorem crest_owned :
    s.crest bs =
      if bitN (fieldAt hd 12 4) 0 ∧ !tagGood (s.ctx ctx).owner ctx hd ct ((bs.drop (64 + n)).take 16) then (2, s.ctxImage ctx 2)
      else if !(s.save ctx).current seq then (1, s.ctxImage ctx 1)
      else s.crestTeam hd ct ctx seq (if bitN (fieldAt hd 12 4) 1 then none else s.detached ctx hd) := by
  have hno : ¬((!(s.ctx ctx).valid) = true ∨ (s.ctx ctx).owner.toNat ≠ bits (fieldAt hd 8 4) 12 12) := by
    rw [hv]
    exact not_or.mpr ⟨Bool.false_ne_true, not_not.mpr ho⟩
  rw [crest_formed hhd hn hct hctx hseq hok hlen, if_neg hno]

theorem crest_badTag (h : ¬(bitN (fieldAt hd 12 4) 0 = true → tagGood (s.ctx ctx).owner ctx hd ct ((bs.drop (64 + n)).take 16) = true)) :
    s.crest bs = (2, s.ctxImage ctx 2) := by
  obtain ⟨hp, ht⟩ := Classical.not_imp.mp h
  rw [crest_owned hhd hn hct hctx hseq hok hlen hv ho]
  exact if_pos ⟨hp, by rw [Bool.not_eq_true] at ht; rw [ht]; rfl⟩

variable (hgood : bitN (fieldAt hd 12 4) 0 = true → tagGood (s.ctx ctx).owner ctx hd ct ((bs.drop (64 + n)).take 16) = true)
include hgood

theorem crest_tagged :
    s.crest bs =
      if !(s.save ctx).current seq then (1, s.ctxImage ctx 1)
      else s.crestTeam hd ct ctx seq (if bitN (fieldAt hd 12 4) 1 then none else s.detached ctx hd) := by
  have hno : ¬(bitN (fieldAt hd 12 4) 0 = true ∧ (!tagGood (s.ctx ctx).owner ctx hd ct ((bs.drop (64 + n)).take 16)) = true) := by
    rintro ⟨hp, ht⟩
    rw [hgood hp] at ht
    exact Bool.false_ne_true ht
  rw [crest_owned hhd hn hct hctx hseq hok hlen hv ho, if_neg hno]

theorem crest_outdated (h : (s.save ctx).current seq = false) : s.crest bs = (1, s.ctxImage ctx 1) := by
  rw [crest_tagged hhd hn hct hctx hseq hok hlen hv ho hgood, h]
  rfl

theorem crest_current (h : (s.save ctx).current seq = true) :
    s.crest bs = s.crestTeam hd ct ctx seq (if bitN (fieldAt hd 12 4) 1 then none else s.detached ctx hd) := by
  rw [crest_tagged hhd hn hct hctx hseq hok hlen hv ho hgood, h]
  rfl

theorem crest_noTeam (h : (s.save ctx).current seq = true) (hd' : bitN (fieldAt hd 12 4) 1 = true ∨ s.detached ctx hd = none) :
    s.crest bs = (3, s) := by
  rw [crest_current hhd hn hct hctx hseq hok hlen hv ho hgood h]
  rcases hd' with hd' | hd'
  · rw [if_pos hd']
    rfl
  · rw [hd', ite_self]
    rfl

theorem crest_team (h : (s.save ctx).current seq = true) (hf : bitN (fieldAt hd 12 4) 1 = false) (ht : s.detached ctx hd = some t) :
    s.crest bs = s.crestTeam hd ct ctx seq (some t) := by
  rw [crest_current hhd hn hct hctx hseq hok hlen hv ho hgood h, hf, ht]
  rfl

end Sys2Proof.Machine

namespace Sys2Proof.Proofs
open Sys2Proof.Machine

/-- Settles O26: the checks of CREST in their order, each by the lemma of the check that fails. -/
theorem restoreChecks : Obligations.RestoreChecks := by
  intro s bs hd n ctx c seq ct good
  refine ⟨crest_malformed rfl rfl, fun hok hlen => ⟨crest_owner rfl rfl rfl rfl rfl hok hlen, fun hv ho => ⟨?_, ?_, ?_, ?_⟩⟩⟩
  · exact crest_badTag rfl rfl rfl rfl rfl hok hlen hv ho
  · exact fun hg => crest_outdated rfl rfl rfl rfl rfl hok hlen hv ho hg
  · exact fun hg => crest_noTeam rfl rfl rfl rfl rfl hok hlen hv ho hg
  · intro hg hcur hf t ht body
    have hteam := crest_team rfl rfl rfl rfl rfl hok hlen hv ho hg hcur hf ht
    refine ⟨fun hb => ?_, fun hp hb => ?_⟩
    · exact hteam.trans (if_pos (hb.imp_right fun h => by rw [h]; rfl))
    · refine hteam.trans (if_neg (not_or.mpr ⟨not_not.mpr hp, ?_⟩))
      rw [hb]
      exact Bool.false_ne_true

end Sys2Proof.Proofs

/-!
SUPPORT. What an update of a group or of a slice leaves as it was.
-/

namespace Sys2Proof.Machine

/-! ## Groups of a state -/

variable {s : State} {e : Env}

theorem find?_updWhere_gid {l : List Group} {f : Group → Group} (hf : ∀ g, (f g).gid = g.gid) (gid k : Nat) :
    (updWhere l (fun g => g.gid == gid) f).find? (fun g => g.gid == k) =
      (l.find? fun g => g.gid == k).map fun g => if k = gid then f g else g := by
  have hgid : ∀ g : Group, (if (g.gid == gid) = true then f g else g).gid = g.gid := by
    intro g
    split
    · exact hf g
    · rfl
  rw [updWhere, List.find?_map]
  simp only [Function.comp_def, hgid]
  cases hfind : l.find? fun g => g.gid == k with
  | none => rfl
  | some g =>
    have hk : g.gid = k := by simpa using List.find?_some hfind
    simp only [Option.map_some, hk, beq_iff_eq]

theorem any_updWhere_gid {l : List Group} {f : Group → Group} (hf : ∀ g, (f g).gid = g.gid) (gid k : Nat) :
    ((updWhere l (fun g => g.gid == gid) f).any fun g => g.gid == k) = l.any fun g => g.gid == k := by
  rw [updWhere, List.any_map]
  congr 1
  funext g
  simp only [Function.comp_apply]
  split
  · rw [hf g]
  · rfl

/-- The team of a group after one of its groups has changed. -/
theorem teamOf?_updGroup {f : Group → Group} (hf : ∀ g, (f g).gid = g.gid) (gid k : Nat) :
    (s.updGroup gid f).teamOf? k =
      (s.teamOf? k).map fun t => { t with groups := updWhere t.groups (fun g => g.gid == gid) f } := by
  simp only [State.teamOf?, State.updGroup, List.find?_map, Function.comp_def, any_updWhere_gid hf]

theorem group?_updGroup {f : Group → Group} (hf : ∀ g, (f g).gid = g.gid) (gid k : Nat) :
    (s.updGroup gid f).group? k = (s.group? k).map fun g => if k = gid then f g else g := by
  rw [State.group?, teamOf?_updGroup hf, State.group?]
  cases s.teamOf? k with
  | none => rfl
  | some t => exact find?_updWhere_gid hf gid k

/-- Two changes of one group are one. -/
theorem updGroup_updGroup {f f' : Group → Group} (hf : ∀ g, (f g).gid = g.gid) (gid : Nat) :
    (s.updGroup gid f).updGroup gid f' = s.updGroup gid fun g => f' (f g) := by
  simp only [State.updGroup, List.map_map, updWhere]
  congr 1
  apply List.map_congr_left
  intro t _
  simp only [Function.comp_apply, List.map_map]
  congr 1
  apply List.map_congr_left
  intro g _
  simp only [Function.comp_apply]
  by_cases hg : (g.gid == gid) = true
  · simp only [if_pos hg, hf g]
  · simp only [if_neg hg]

/-- The issuing fragment's group and team are those that its environment names. -/
theorem State.issues_group {h : Hdr} (hs : s.issues h e) :
    s.teamOf? e.gid = some e.t ∧ e.t.group? e.gid = some e.g ∧ e.c = s.ctx e.t.ctx := by
  obtain ⟨w, -, hw⟩ := Option.bind_eq_some_iff.mp hs
  obtain ⟨⟨t, g, f⟩, hx, rfl⟩ := Option.map_eq_some_iff.mp hw
  unfold State.issuer at hx
  split at hx
  · cases hx
  case h_2 t' ht =>
    split at hx
    · cases hx
    case h_2 g' hg =>
      split at hx
      · cases hx
      case h_2 f' hf =>
        split at hx
        · cases hx
          exact ⟨ht, hg, rfl⟩
        · cases hx

/-- A split stack whose spilled entries can all be read comes down without a trap. -/
theorem refillBad_eq_false {t : Team} {g : Group} {gid n : Nat} {sl : Slice} (ht : s.teamOf? gid = some t) (hg : t.group? gid = some g)
    (h : ∀ k, 8 < k → k ≤ n → s.spillOk (s.ctx t.ctx) (stackPlace g k) = true) : s.refillBad gid sl n = false := by
  simp only [State.refillBad, ht, hg, Option.any_some, List.any_eq_false, List.mem_range, Bool.not_eq_true, Bool.not_eq_false']
  intro i hi
  exact h (n - i) (by omega) (by omega)

/-! ## Slices of a group -/

variable {g : Group} {sl : Slice}

@[simp] theorem Group.slice_updSlice (g : Group) (sl : Slice) (f : SliceSt → SliceSt) : (g.updSlice sl f).slice sl = f (g.slice sl) := by
  cases sl <;> rfl

theorem Group.slice_updSlice_other {sl' : Slice} (f : SliceSt → SliceSt) (h : sl' ≠ sl) : (g.updSlice sl f).slice sl' = g.slice sl' := by
  cases sl <;> cases sl' <;> first | rfl | exact absurd rfl h

/-- `g'` differs from `g` in slice `sl`, its queues and LODCNT only. -/
def Group.frame (sl : Slice) (g g' : Group) : Prop :=
  g' = { g with a := g'.a, c := g'.c, queues := g'.queues, lodcnt := g'.lodcnt } ∧ ∀ sl', sl' ≠ sl → g'.slice sl' = g.slice sl'

theorem Group.frame.trans {g₁ g₂ g₃ : Group} (h : Group.frame sl g₁ g₂) (h' : Group.frame sl g₂ g₃) : Group.frame sl g₁ g₃ := by
  obtain ⟨h₁, h₂⟩ := h
  obtain ⟨h₁', h₂'⟩ := h'
  refine ⟨?_, fun sl' hne => (h₂' sl' hne).trans (h₂ sl' hne)⟩
  rw [h₁', h₁]

theorem Group.frame_updSlice (g : Group) (sl : Slice) (f : SliceSt → SliceSt) : Group.frame sl g (g.updSlice sl f) := by
  refine ⟨?_, fun sl' h => g.slice_updSlice_other f h⟩
  cases sl <;> rfl

/-- A change of the queues and of LODCNT alone. -/
def Group.queued (g g' : Group) : Prop := g' = { g with queues := g'.queues, lodcnt := g'.lodcnt }

theorem Group.queued.trans {g₁ g₂ g₃ : Group} (h : Group.queued g₁ g₂) (h' : Group.queued g₂ g₃) : Group.queued g₁ g₃ := by
  unfold Group.queued at *
  rw [h', h]

theorem Group.queued.slice {g' : Group} (h : Group.queued g g') (sl : Slice) : g'.slice sl = g.slice sl := by
  rw [h]
  cases sl <;> rfl

theorem Group.queued.frame {g' : Group} (h : Group.queued g g') (sl : Slice) : Group.frame sl g g' := by
  refine ⟨?_, fun sl' _ => h.slice sl'⟩
  rw [h]

theorem Group.queued_push (g : Group) (q : Nat) (m r : Lanes) (vals : List Val) (tag : BitVec 4) (acc : Option Nat) :
    Group.queued g (g.push q m r vals tag acc) := rfl

theorem Group.queued_popAll (g : Group) (sl : Slice) (m : Lanes) (xs : List SrcOp) : Group.queued g (g.popAll sl m xs) := by
  induction xs generalizing g with
  | nil => rfl
  | cons x xs ih =>
    unfold Group.popAll
    split
    · exact ih g
    case h_2 q hq =>
      refine Group.queued.trans ?_ (ih _)
      split <;> rfl

/-- Sources that pop no queue leave the group as it was. -/
theorem Group.popAll_of_none {m : Lanes} {xs : List SrcOp} (h : ∀ x ∈ xs, x.queue? = none) : g.popAll sl m xs = g := by
  induction xs with
  | nil => rfl
  | cons x xs ih =>
    simp only [Group.popAll, h x (List.mem_cons_self ..)]
    exact ih fun y hy => h y (List.mem_cons_of_mem _ hy)

/-! ## The place of a fragment in its slice -/

/-- `y` differs from `x` in where its fragments stand, its halt and its counter of issues only. -/
def SliceSt.placed (x y : SliceSt) : Prop :=
  y = { x with frags := y.frags, stack := y.stack, joins := y.joins, served := y.served, halt := y.halt, issued := y.issued }

theorem SliceSt.placed.trans {x y z : SliceSt} (h : x.placed y) (h' : y.placed z) : x.placed z := by
  unfold SliceSt.placed at *
  rw [h', h]

variable {x : SliceSt}

theorem SliceSt.placed_counted (x : SliceSt) (slot : Nat) : x.placed (x.counted slot) := rfl

theorem SliceSt.placed_place (x : SliceSt) (f : Frag) : x.placed (x.place f) := by
  unfold SliceSt.place
  split <;> rfl

theorem SliceSt.placed_park (x : SliceSt) (f : Frag) : x.placed (x.park f) := by
  unfold SliceSt.park
  split <;> rfl

theorem SliceSt.placed_fuse (x : SliceSt) (j : Join) : x.placed (x.fuse j) := by
  unfold SliceSt.fuse
  dsimp only
  split
  · rfl
  · exact SliceSt.placed.trans (y := { x with joins := x.joins.filter fun k => k.id != j.id }) rfl (SliceSt.placed_place _ _)

theorem SliceSt.placed_settleOne {y : SliceSt} (h : x.settleOne = some y) : x.placed y := by
  unfold SliceSt.settleOne at h
  split at h
  · cases h
    exact x.placed_park _
  · split at h
    · cases h
      exact x.placed_fuse _
    · split at h
      · cases h
        rfl
      · cases h

theorem SliceSt.placed_settleFor (n : Nat) (x : SliceSt) : x.placed (SliceSt.settleFor n x) := by
  induction n generalizing x with
  | zero => rfl
  | succ n ih =>
    unfold SliceSt.settleFor
    split
    case h_1 y hy => exact (SliceSt.placed_settleOne hy).trans (ih y)
    · rfl

theorem SliceSt.placed_switch (x : SliceSt) : x.placed x.switch := by
  unfold SliceSt.switch
  dsimp only
  split <;> rfl

theorem SliceSt.placed_finish (x : SliceSt) (f : Frag) (h : Hdr) (moved : Bool) : x.placed (x.finish f h moved) := by
  have hgo : x.placed (if moved then x else x.goTo f.slot (f.pc + 12)) := by split <;> rfl
  generalize hy : (if moved then x else x.goTo f.slot (f.pc + 12)) = y at hgo
  have hmark : y.placed (if h.sw then y.marked f.mask else y) := by split <;> rfl
  generalize hz : (if h.sw then y.marked f.mask else y) = z at hmark
  have hend : z.settle.placed (if (h.yld && !f.handler) = true then z.settle.switch else z.settle) := by
    split
    · exact z.settle.placed_switch
    · rfl
  unfold SliceSt.finish
  dsimp only
  rw [hy, hz]
  exact hgo.trans (hmark.trans ((SliceSt.placed_settleFor _ z).trans hend))

/-! ## Registers -/

theorem getD_updAt_self {α : Type} (d : α) (f : α → α) (l : List α) {n : Nat} (h : n < l.length) : (updAt l n f).getD n d = f (l.getD n d) := by
  induction l generalizing n with
  | nil => cases h
  | cons a l ih =>
    cases n with
    | zero => rfl
    | succ n => exact ih (Nat.lt_of_succ_lt_succ h)

@[simp] theorem length_updAt {α : Type} (f : α → α) (l : List α) (n : Nat) : (updAt l n f).length = l.length := by
  induction l generalizing n with
  | nil => rfl
  | cons a l ih =>
    cases n with
    | zero => rfl
    | succ n => simp [updAt, ih]

/-- `y` differs from `x` in its registers only. -/
def SliceSt.regsOnly (x y : SliceSt) : Prop := y = { x with scal := y.scal, preds := y.preds, vregs := y.vregs }

/-- A result of one or two vector registers. -/
theorem writeRegs_vector {d : Opnd} (hd : (∃ v, d = .vec v) ∨ ∃ b ix, d = .ind b ix) (pair : Bool) (f : Nat → Nat) :
    x.writeRegs e d (splitVal pair f) =
      if pair then (x.setVreg (e.regNum d) e.exec fun l => Val.of (BitVec.ofNat 32 (f l))).setVreg (e.regNum d + 1) e.exec
        fun l => Val.of (BitVec.ofNat 32 (f l / 2 ^ 32))
      else x.setVreg (e.regNum d) e.exec fun l => Val.of (BitVec.ofNat 32 (f l)) := by
  rcases hd with ⟨v, rfl⟩ | ⟨b, ix, rfl⟩ <;> cases pair <;> rfl

theorem writeRegs_scalar {n : BitVec 6} (pair : Bool) (f : Nat → Nat) :
    x.writeRegs e (.sca n) (splitVal pair f) =
      if pair then (x.setSreg n.toNat (Val.of (BitVec.ofNat 32 (f (lowLane e.exec))))).setSreg (n.toNat + 1)
        (Val.of (BitVec.ofNat 32 (f (lowLane e.exec) / 2 ^ 32)))
      else x.setSreg n.toNat (Val.of (BitVec.ofNat 32 (f (lowLane e.exec)))) := by
  cases pair <;> rfl

theorem writeRegs_pred {p : BitVec 3} (pair : Bool) (f : Nat → Nat) :
    x.writeRegs e (.pred p) (splitVal pair f) = x.setPred p e.exec (maskOf fun l => (BitVec.ofNat 32 (f l)).getLsbD 0) := by
  cases pair <;> rfl

/-- A destination that is no register is not written. -/
theorem writeRegs_other {d : Opnd} {vals : List (Nat → Val)} (hv : ∀ v, d ≠ .vec v) (hi : ∀ b ix, d ≠ .ind b ix) (hs : ∀ n, d ≠ .sca n)
    (hp : ∀ p, d ≠ .pred p) : x.writeRegs e d vals = x := by
  cases d with
  | vec v => exact absurd rfl (hv v)
  | ind b ix => exact absurd rfl (hi b ix)
  | sca n => exact absurd rfl (hs n)
  | pred p => exact absurd rfl (hp p)
  | _ => rfl

theorem regsOnly_setPred (x : SliceSt) (p : BitVec 3) (m v : Lanes) : x.regsOnly (x.setPred p m v) := by
  unfold SliceSt.setPred
  split <;> rfl

theorem regsOnly_writeRegs (x : SliceSt) (e : Env) (d : Opnd) (pair : Bool) (f : Nat → Nat) :
    x.regsOnly (x.writeRegs e d (splitVal pair f)) := by
  cases d with
  | vec v => cases pair <;> rfl
  | ind b ix => cases pair <;> rfl
  | sca n => cases pair <;> rfl
  | pred p =>
    rw [writeRegs_pred]
    exact regsOnly_setPred ..
  | _ => rfl

variable {n k l : Nat} {m : Lanes} {v : Nat → Val}

theorem vreg_setVreg_other (h : k ≠ n) : (x.setVreg n m v).vreg k l = x.vreg k l := by
  simp only [SliceSt.vreg, SliceSt.setVreg, getD_updAt_other [] _ x.vregs h]

theorem vreg_setVreg_self (hn : n < x.vregs.length) (hl : l < (x.vregs.getD n []).length) :
    (x.setVreg n m v).vreg n l = if m.getLsbD l then v l else x.vreg n l := by
  simp only [SliceSt.vreg, SliceSt.setVreg, getD_updAt_self [] _ x.vregs hn]
  rw [List.getD_eq_getElem _ _ (by simpa using hl), List.getElem_mapIdx, List.getD_eq_getElem _ _ hl]

theorem sreg_setSreg_other {w : Val} (h : k ≠ n) : (x.setSreg n w).sreg k = x.sreg k := by
  simp only [SliceSt.sreg, SliceSt.setSreg, getD_updAt_other Val.zero _ x.scal h]

theorem sreg_setSreg_self {w : Val} (hn : n < x.scal.length) : (x.setSreg n w).sreg n = w := by
  simp only [SliceSt.sreg, SliceSt.setSreg, getD_updAt_self Val.zero _ x.scal hn]

theorem pred_setPred_other {p q : BitVec 3} {w : Lanes} (h : q ≠ p ∨ q = 7) : (x.setPred p m w).pred q = x.pred q := by
  unfold SliceSt.setPred
  split
  · rfl
  · unfold SliceSt.pred
    split
    · rfl
    case isFalse hq =>
      have hne : q.toNat ≠ p.toNat := fun h' => (h.resolve_right hq) (BitVec.eq_of_toNat_eq h')
      exact getD_updAt_other 0 _ x.preds hne

theorem pred_setPred_self {p : BitVec 3} {w : Lanes} (hp : p ≠ 7) (hl : p.toNat < x.preds.length) :
    (x.setPred p m w).pred p = (x.pred p &&& ~~~m) ||| (w &&& m) := by
  simp only [SliceSt.setPred, SliceSt.pred, if_neg hp, getD_updAt_self 0 _ x.preds hl]

theorem foldl_maskBits (f : Nat → Bool) (n : Nat) :
    (List.range n).foldl (fun a l => if f l then a + 2 ^ l else a) 0 = ∑ i ∈ Finset.range n, if f i then 2 ^ i else 0 := by
  induction n with
  | zero => rfl
  | succ n ih =>
    rw [List.range_succ, List.foldl_append, List.foldl_cons, List.foldl_nil, ih, Finset.sum_range_succ]
    cases f n <;> simp

theorem getLsbD_maskOf {f : Nat → Bool} (hl : l < 64) : (maskOf f).getLsbD l = f l := by
  rw [maskOf, BitVec.getLsbD_ofNat, foldl_maskBits, (sum_two_pow_bits f 64).2 l]
  simp [hl]

/-! ## What a write of a result leaves and puts -/

section
variable {d : Opnd} {pair : Bool} {f : Nat → Nat}

/-- The vector registers that a destination does not name stay. -/
theorem vreg_writeRegs_other
    (h : ((∀ v, d ≠ .vec v) ∧ ∀ b ix, d ≠ .ind b ix) ∨ n < e.regNum d ∨ e.regNum d + (if pair then 2 else 1) ≤ n) :
    (x.writeRegs e d (splitVal pair f)).vreg n l = x.vreg n l := by
  by_cases hd : (∃ v, d = .vec v) ∨ ∃ b ix, d = .ind b ix
  · have hn : n < e.regNum d ∨ e.regNum d + (if pair then 2 else 1) ≤ n := by
      rcases h with ⟨hv, hi⟩ | h
      · rcases hd with ⟨v, hd⟩ | ⟨b, ix, hd⟩
        · exact absurd hd (hv v)
        · exact absurd hd (hi b ix)
      · exact h
    rw [writeRegs_vector hd]
    cases pair with
    | false =>
      simp only [Bool.false_eq_true, if_false] at hn ⊢
      exact vreg_setVreg_other (by omega)
    | true =>
      simp only [if_true] at hn ⊢
      rw [vreg_setVreg_other (by omega), vreg_setVreg_other (by omega)]
  · cases d with
    | vec v => exact absurd (.inl ⟨v, rfl⟩) hd
    | ind b ix => exact absurd (.inr ⟨b, ix, rfl⟩) hd
    | sca n => cases pair <;> rfl
    | pred p =>
      rw [writeRegs_pred]
      unfold SliceSt.setPred
      split <;> rfl
    | _ => rfl

theorem sreg_writeRegs_other (h : (∀ v, d ≠ .sca v) ∨ n < e.regNum d ∨ e.regNum d + (if pair then 2 else 1) ≤ n) :
    (x.writeRegs e d (splitVal pair f)).sreg n = x.sreg n := by
  cases d with
  | sca v =>
    have hn : n < v.toNat ∨ v.toNat + (if pair then 2 else 1) ≤ n := h.resolve_left fun h => h v rfl
    rw [writeRegs_scalar]
    cases pair with
    | false =>
      simp only [Bool.false_eq_true, if_false] at hn ⊢
      exact sreg_setSreg_other (by omega)
    | true =>
      simp only [if_true] at hn ⊢
      rw [sreg_setSreg_other (by omega), sreg_setSreg_other (by omega)]
  | vec v => cases pair <;> rfl
  | ind b ix => cases pair <;> rfl
  | pred p =>
    rw [writeRegs_pred]
    unfold SliceSt.setPred
    split <;> rfl
  | _ => rfl

theorem pred_writeRegs_other {p : BitVec 3} (h : d ≠ .pred p ∨ p = 7) : (x.writeRegs e d (splitVal pair f)).pred p = x.pred p := by
  cases d with
  | pred q =>
    rw [writeRegs_pred]
    exact pred_setPred_other (h.imp_left fun h h' => h (by rw [h']))
  | vec v => cases pair <;> rfl
  | ind b ix => cases pair <;> rfl
  | sca n => cases pair <;> rfl
  | _ => rfl

/-- Register `j` of a vector result, in a lane that executes and in one that does not. -/
theorem vreg_writeRegs_self {j : Nat} (hd : (∃ v, d = .vec v) ∨ ∃ b ix, d = .ind b ix) (hj : j < if pair then 2 else 1)
    (hn : e.regNum d + j < x.vregs.length) (hl : l < (x.vregs.getD (e.regNum d + j) []).length) :
    (x.writeRegs e d (splitVal pair f)).vreg (e.regNum d + j) l =
      if e.exec.getLsbD l then Val.of (BitVec.ofNat 32 (f l / 2 ^ (32 * j))) else x.vreg (e.regNum d + j) l := by
  rw [writeRegs_vector hd]
  have hone : j ≠ 0 → j = 1 := by split at hj <;> omega
  cases pair with
  | false =>
    obtain rfl : j = 0 := by simpa using hj
    simp only [Bool.false_eq_true, if_false, Nat.add_zero] at hn hl ⊢
    rw [vreg_setVreg_self hn hl, Nat.mul_zero, pow_zero, Nat.div_one]
  | true =>
    simp only [if_true]
    rcases Nat.eq_zero_or_pos j with rfl | hpos
    · simp only [Nat.add_zero] at hn hl ⊢
      rw [vreg_setVreg_other (by omega), vreg_setVreg_self hn hl, Nat.mul_zero, pow_zero, Nat.div_one]
    · obtain rfl := hone (by omega)
      have hother : (x.setVreg (e.regNum d) e.exec fun l => Val.of (BitVec.ofNat 32 (f l))).vregs.getD (e.regNum d + 1) [] =
          x.vregs.getD (e.regNum d + 1) [] := getD_updAt_other [] _ x.vregs (by omega)
      rw [vreg_setVreg_self (by simpa [SliceSt.setVreg] using hn) (by rw [hother]; exact hl), vreg_setVreg_other (by omega), Nat.mul_one]

theorem sreg_writeRegs_self {v : BitVec 6} {j : Nat} (hj : j < if pair then 2 else 1) (hn : v.toNat + j < x.scal.length) :
    (x.writeRegs e (.sca v) (splitVal pair f)).sreg (v.toNat + j) = Val.of (BitVec.ofNat 32 (f (lowLane e.exec) / 2 ^ (32 * j))) := by
  rw [writeRegs_scalar]
  have hone : j ≠ 0 → j = 1 := by split at hj <;> omega
  cases pair with
  | false =>
    obtain rfl : j = 0 := by simpa using hj
    simp only [Bool.false_eq_true, if_false, Nat.add_zero] at hn ⊢
    rw [sreg_setSreg_self hn, Nat.mul_zero, pow_zero, Nat.div_one]
  | true =>
    simp only [if_true]
    rcases Nat.eq_zero_or_pos j with rfl | hpos
    · simp only [Nat.add_zero] at hn ⊢
      rw [sreg_setSreg_other (by omega), sreg_setSreg_self hn, Nat.mul_zero, pow_zero, Nat.div_one]
    · obtain rfl := hone (by omega)
      rw [sreg_setSreg_self (by simpa [SliceSt.setSreg] using hn), Nat.mul_one]

theorem pred_writeRegs_self {p : BitVec 3} (hp : p ≠ 7) (hlen : p.toNat < x.preds.length) (hl : l < 64) :
    ((x.writeRegs e (.pred p) (splitVal pair f)).pred p).getLsbD l = if e.exec.getLsbD l then (f l).testBit 0 else (x.pred p).getLsbD l := by
  have hbit : (BitVec.ofNat 32 (f l)).getLsbD 0 = (f l).testBit 0 := by
    rw [BitVec.getLsbD_ofNat, decide_eq_true (by omega : 0 < 32), Bool.true_and]
  rw [writeRegs_pred, pred_setPred_self hp hlen]
  simp only [BitVec.getLsbD_or, BitVec.getLsbD_and, BitVec.getLsbD_not, getLsbD_maskOf hl, hbit, hl, decide_true, Bool.true_and]
  cases e.exec.getLsbD l <;> simp

end

end Sys2Proof.Machine

/-!
SUPPORT. An instruction with one value per lane: its one change of its group, and what that leaves of the issuing slice.
-/

namespace Sys2Proof.Machine

variable {s : State} {e : Env} {g : Group} {x y : SliceSt}

/-! ## The change of the group -/

/-- A read of %time latches %timeh. -/
def SliceSt.latch (x : SliceSt) (srcs : List SrcOp) (time : W64) : SliceSt :=
  if srcs.any fun x => decide (x.o = .spc 8) then { x with timeh := (time >>> 32).setWidth 32 } else x

/-- The issue is counted and the sources are read. -/
def Env.reading (e : Env) (srcs : List SrcOp) (time : W64) (g : Group) : Group :=
  (((g.updSlice e.sl fun x => x.counted e.slot).popAll e.sl e.exec srcs).updSlice e.sl fun x => x.latch srcs time)

theorem Group.updSlice_id (g : Group) (sl : Slice) : (g.updSlice sl fun x => x) = g := by
  cases sl <;> rfl

theorem Group.frame.gid {sl : Slice} {g' : Group} (h : Group.frame sl g g') : g'.gid = g.gid := by rw [h.1]

theorem Group.frame.stackPlace {sl : Slice} {g' : Group} (h : Group.frame sl g g') (k : Nat) :
    Machine.stackPlace g' k = Machine.stackPlace g k := by
  have hcore : g'.core = g.core := by rw [h.1]
  have hslot : g'.slot = g.slot := by rw [h.1]
  simp only [Machine.stackPlace, hcore, hslot]

theorem frame_reading (e : Env) (srcs : List SrcOp) (time : W64) (g : Group) : Group.frame e.sl g (e.reading srcs time g) :=
  (g.frame_updSlice e.sl _).trans (((Group.queued_popAll _ e.sl e.exec srcs).frame e.sl).trans (Group.frame_updSlice _ e.sl _))

theorem slice_reading (e : Env) (srcs : List SrcOp) (time : W64) (g : Group) :
    (e.reading srcs time g).slice e.sl = ((g.slice e.sl).counted e.slot).latch srcs time := by
  rw [Env.reading, Group.slice_updSlice, (Group.queued_popAll _ e.sl e.exec srcs).slice e.sl, Group.slice_updSlice]

/-- Sources that pop no queue leave the queues. -/
theorem queues_reading (e : Env) (srcs : List SrcOp) (time : W64) (g : Group) (h : ∀ x ∈ srcs, x.queue? = none) :
    (e.reading srcs time g).queues = g.queues ∧ (e.reading srcs time g).lodcnt = g.lodcnt := by
  rw [Env.reading, Group.popAll_of_none h]
  cases e.sl <;> exact ⟨rfl, rfl⟩

theorem begun_consume (s : State) (e : Env) (srcs : List SrcOp) :
    (s.begun e).consume e srcs = s.idle.updGroup e.gid (e.reading srcs s.time) := by
  have hcount : ∀ g : Group, (g.updSlice e.sl fun x => x.counted e.slot).gid = g.gid := fun g => (g.frame_updSlice e.sl _).gid
  have hpop : ∀ g : Group, ((g.updSlice e.sl fun x => x.counted e.slot).popAll e.sl e.exec srcs).gid = g.gid := fun g =>
    ((g.frame_updSlice e.sl _).trans ((Group.queued_popAll _ e.sl e.exec srcs).frame e.sl)).gid
  unfold State.consume State.begun State.updSlice
  dsimp only
  rw [updGroup_updGroup hcount]
  split
  case isTrue hb =>
    rw [updGroup_updGroup hpop]
    congr 1
    funext g
    simp only [Env.reading, SliceSt.latch, hb, if_true]
    rfl
  case isFalse hb =>
    congr 1
    funext g
    simp only [Env.reading, SliceSt.latch, hb, Bool.false_eq_true, if_false, Group.updSlice_id]

/-- The state `s` with no instruction in progress, its next number `n` and its group `gid` changed by `f`. -/
def State.withGroup (s : State) (n gid : Nat) (f : Group → Group) : State :=
  ({ s with cur := none, nextId := n } : State).updGroup gid f

theorem idle_updGroup (s : State) (gid : Nat) (f : Group → Group) : s.idle.updGroup gid f = s.withGroup s.nextId gid f := rfl

/-- A result written at once: what it does to the group. -/
def Env.writing (e : Env) (d : Opnd) (pair : Bool) (f : Nat → Nat) (g : Group) : Group :=
  match d with
  | .que q => g.push q.toNat e.exec e.exec (laneList g.width fun l => Val.of (BitVec.ofNat 32 (f l))) 0 none
  | d => g.updSlice e.sl fun x => x.writeRegs e d (splitVal pair f)

theorem frame_writing (e : Env) (d : Opnd) (pair : Bool) (f : Nat → Nat) (g : Group) : Group.frame e.sl g (e.writing d pair f g) := by
  unfold Env.writing
  split
  · exact (Group.queued_push g _ _ _ _ _ _).frame e.sl
  · exact g.frame_updSlice e.sl _

theorem slice_writing (e : Env) (d : Opnd) (pair : Bool) (f : Nat → Nat) (g : Group) :
    (e.writing d pair f g).slice e.sl = (g.slice e.sl).writeRegs e d (splitVal pair f) := by
  cases d with
  | que q => exact (Group.queued_push g _ _ _ _ _ _).slice e.sl
  | _ => exact Group.slice_updSlice ..

theorem queues_writing {d : Opnd} (hd : ∀ q, d ≠ .que q) (e : Env) (pair : Bool) (f : Nat → Nat) (g : Group) :
    (e.writing d pair f g).queues = g.queues ∧ (e.writing d pair f g).lodcnt = g.lodcnt := by
  unfold Env.writing
  split
  case h_1 q => exact absurd rfl (hd q)
  · cases e.sl <;> exact ⟨rfl, rfl⟩

theorem updGroup_writeDst (s : State) (e : Env) (d : Opnd) (pair : Bool) (f : Nat → Nat) :
    s.writeDst e d pair f = s.updGroup e.gid (e.writing d pair f) := by
  cases d <;> rfl

/-- A result written later: what its start does to the group. -/
def Env.starting (e : Env) (id : Nat) (d : Opnd) (vals : List (Nat → Val)) (g : Group) : Group :=
  match d with
  | .que q => g.push q.toNat e.exec e.exec (laneList g.width fun l => ((vals.map fun v => v l).headD Val.zero)) 0 none
  | d => g.updSlice e.sl fun x =>
    { x with outs := x.outs ++ [{ id := id, dst := e.dst d, regs := vals.map (laneList e.g.width), pend := e.dstLanes d,
                                  ready := e.dstLanes d, acc := none, path := none, mat := false }] }

theorem frame_starting (e : Env) (id : Nat) (d : Opnd) (vals : List (Nat → Val)) (g : Group) :
    Group.frame e.sl g (e.starting id d vals g) := by
  unfold Env.starting
  split
  · exact (Group.queued_push g _ _ _ _ _ _).frame e.sl
  · exact g.frame_updSlice e.sl _

theorem queues_starting {d : Opnd} (hd : ∀ q, d ≠ .que q) (e : Env) (id : Nat) (vals : List (Nat → Val)) (g : Group) :
    (e.starting id d vals g).queues = g.queues ∧ (e.starting id d vals g).lodcnt = g.lodcnt := by
  unfold Env.starting
  split
  case h_1 q => exact absurd rfl (hd q)
  · cases e.sl <;> exact ⟨rfl, rfl⟩

/-- The slice once a result that is written later has started. -/
def SliceSt.started (x : SliceSt) (e : Env) (id : Nat) (d : Opnd) (vals : List (Nat → Val)) : SliceSt :=
  match d with
  | .que _ => x
  | d => { x with outs := x.outs ++ [{ id := id, dst := e.dst d, regs := vals.map (laneList e.g.width), pend := e.dstLanes d,
                                       ready := e.dstLanes d, acc := none, path := none, mat := false }] }

theorem slice_starting (e : Env) (id : Nat) (d : Opnd) (vals : List (Nat → Val)) (g : Group) :
    (e.starting id d vals g).slice e.sl = (g.slice e.sl).started e id d vals := by
  cases d with
  | que q => exact (Group.queued_push g _ _ _ _ _ _).slice e.sl
  | _ => exact Group.slice_updSlice ..

/-! ## The end of the instruction -/

/-- The group once its fragment goes on. -/
def Env.finishing (e : Env) (h : Hdr) (g : Group) : Group := g.updSlice e.sl fun x => x.finish e.f h false

variable {s' : State}

theorem walk_congr {h : Nat} (hroot : s.root h = s'.root h) (hent : ∀ k, s.tableEntry k = s'.tableEntry k) (ia : Nat) :
    s.walk h ia = s'.walk h ia := by
  unfold State.walk
  simp only [hroot, hent]

theorem walkKeyed_congr {h ia : Nat} (hwalk : s.walk h ia = s'.walk h ia) (hkey : ∀ k, s.keyOk k = s'.keyOk k) :
    s.walkKeyed h ia = s'.walkKeyed h ia := by
  unfold State.walkKeyed
  rw [hwalk]
  cases s'.walk h ia with
  | hit base b leaf at_ => simp only [hkey]
  | _ => rfl

theorem lookup_congr {ia : Nat} (htlb : s.tlb? ia = s'.tlb? ia) (hwalk : s.walkKeyed (homeOf ia) ia = s'.walkKeyed (homeOf ia) ia) :
    s.lookup ia = s'.lookup ia := by
  rw [State.lookup, State.lookup, htlb, hwalk]

theorem phys_congr {ia : Nat} (hlookup : s.lookup ia = s'.lookup ia) : s.phys ia = s'.phys ia := by
  rw [State.phys, State.phys, State.physLeaf, State.physLeaf, hlookup]

theorem spillOk_congr (h : ∀ ia, s.phys ia = s'.phys ia) (c : Ctx) (k : Nat) : s.spillOk c k = s'.spillOk c k := by
  simp only [State.spillOk, h]

theorem root_withGroup (s : State) (n gid : Nat) (f : Group → Group) (h : Nat) : (s.withGroup n gid f).root h = s.root h := by
  unfold State.root
  split <;> rfl

theorem tableEntry_withGroup (s : State) (n gid : Nat) (f : Group → Group) (key : Nat) :
    (s.withGroup n gid f).tableEntry key = s.tableEntry key := rfl

theorem keyOk_withGroup (s : State) (n gid : Nat) (f : Group → Group) (leaf : Nat) :
    (s.withGroup n gid f).keyOk leaf = s.keyOk leaf := rfl

theorem phys_withGroup (s : State) (n gid : Nat) (f : Group → Group) (ia : Nat) : (s.withGroup n gid f).phys ia = s.phys ia :=
  phys_congr (lookup_congr rfl (walkKeyed_congr
    (walk_congr (root_withGroup s n gid f _) (tableEntry_withGroup s n gid f) ia) (keyOk_withGroup s n gid f)))

theorem spillOk_withGroup (s : State) (n gid : Nat) (f : Group → Group) (c : Ctx) (k : Nat) :
    (s.withGroup n gid f).spillOk c k = s.spillOk c k := spillOk_congr (phys_withGroup s n gid f) c k

theorem ctx_withGroup (s : State) (n gid : Nat) (f : Group → Group) (c : Nat) : (s.withGroup n gid f).ctx c = s.ctx c := rfl

theorem ended_withGroup {h : Hdr} {n : Nat} {f : Group → Group} (hs : s.issues h e) (hf : ∀ g, Group.frame e.sl g (f g))
    (hspill : ∀ k, 8 < k → k ≤ e.x.stackUse → s.spillOk e.c (stackPlace e.g k) = true) :
    (s.withGroup n e.gid f).ended e h false s = s.withGroup n e.gid fun g => e.finishing h (f g) := by
  obtain ⟨ht, hg, hc⟩ := State.issues_group hs
  have hgid : ∀ g, (f g).gid = g.gid := fun g => (hf g).gid
  have hfin : ∀ g, Group.frame e.sl g (e.finishing h (f g)) := fun g => (hf g).trans (Group.frame_updSlice _ e.sl _)
  have hupd : (s.withGroup n e.gid f).updSlice e.gid e.sl (fun x => x.finish e.f h false) = s.withGroup n e.gid fun g => e.finishing h (f g) :=
    updGroup_updGroup hgid e.gid
  have hbad : (s.withGroup n e.gid fun g => e.finishing h (f g)).refillBad e.gid e.sl e.x.stackUse = false := by
    have hteam := teamOf?_updGroup (s := { s with cur := none, nextId := n }) (fun g => (hfin g).gid) e.gid e.gid
    have hold : ({ s with cur := none, nextId := n } : State).teamOf? e.gid = some e.t := ht
    rw [hold, Option.map_some] at hteam
    refine refillBad_eq_false hteam (g := e.finishing h (f e.g)) ?_ fun k hk hle => ?_
    · rw [Team.group?] at hg ⊢
      rw [find?_updWhere_gid fun g => (hfin g).gid, hg, Option.map_some, if_pos rfl]
    · rw [spillOk_withGroup, ctx_withGroup, (hfin e.g).stackPlace, ← hc]
      exact hspill k hk hle
  simp only [State.ended, hupd, hbad, Bool.false_eq_true, if_false]

theorem group?_withGroup {n gid : Nat} {f : Group → Group} (hf : ∀ g, (f g).gid = g.gid) (hg : s.group? gid = some g) :
    (s.withGroup n gid f).group? gid = some (f g) := by
  have hold : ({ s with cur := none, nextId := n } : State).group? gid = some g := hg
  rw [State.withGroup, group?_updGroup hf, hold, Option.map_some, if_pos rfl]

theorem group?_withGroup_other {n gid k : Nat} {f : Group → Group} (hf : ∀ g, (f g).gid = g.gid) (hk : k ≠ gid) :
    (s.withGroup n gid f).group? k = s.group? k := by
  have hold : ({ s with cur := none, nextId := n } : State).group? k = s.group? k := rfl
  rw [State.withGroup, group?_updGroup hf, hold]
  simp only [if_neg hk, Option.map_id']

/-- The whole change of the group, for a result written at once and for one written later. -/
def Form.change (F : Form) (s : State) (e : Env) (vs : List (Nat → Nat)) (late : Bool) (g : Group) : Group :=
  e.finishing F.h (if late then e.starting s.nextId F.d (splitVal F.pair (F.result vs)) (e.reading F.srcs s.time g)
    else e.writing F.d F.pair (F.result vs) (e.reading F.srcs s.time g))

/-- The next number after it: a late result in registers takes one. -/
def Form.nextId (F : Form) (s : State) (late : Bool) : Nat := if late && !isQueue F.d then s.nextId + 1 else s.nextId

theorem Form.frame_change (F : Form) (s : State) (e : Env) (vs : List (Nat → Nat)) (late : Bool) (g : Group) :
    Group.frame e.sl g (F.change s e vs late g) := by
  unfold Form.change Env.finishing
  refine Group.frame.trans ?_ (Group.frame_updSlice _ e.sl _)
  split
  · exact (frame_reading e F.srcs s.time g).trans (frame_starting ..)
  · exact (frame_reading e F.srcs s.time g).trans (frame_writing ..)

theorem Form.after_eq (F : Form) {vs : List (Nat → Nat)} (hs : s.issues F.h e)
    (hspill : ∀ k, 8 < k → k ≤ e.x.stackUse → s.spillOk e.c (stackPlace e.g k) = true) :
    F.after s e vs = s.withGroup (F.nextId s false) e.gid (F.change s e vs false) := by
  have hframe : ∀ g, Group.frame e.sl g (e.writing F.d F.pair (F.result vs) (e.reading F.srcs s.time g)) := fun g =>
    (frame_reading e F.srcs s.time g).trans (frame_writing ..)
  rw [Form.after, begun_consume, updGroup_writeDst, updGroup_updGroup fun g => (frame_reading e F.srcs s.time g).gid, idle_updGroup,
    ended_withGroup hs hframe hspill]
  rfl

theorem Form.afterLate_eq (F : Form) {vs : List (Nat → Nat)} (hs : s.issues F.h e)
    (hspill : ∀ k, 8 < k → k ≤ e.x.stackUse → s.spillOk e.c (stackPlace e.g k) = true) :
    F.afterLate s e vs = s.withGroup (F.nextId s true) e.gid (F.change s e vs true) := by
  have hframe : ∀ g, Group.frame e.sl g (e.starting s.nextId F.d (splitVal F.pair (F.result vs)) (e.reading F.srcs s.time g)) := fun g =>
    (frame_reading e F.srcs s.time g).trans (frame_starting ..)
  have hlate : (s.idle.updGroup e.gid (e.reading F.srcs s.time)).lateDst e F.d false (splitVal F.pair (F.result vs)) =
      s.withGroup (F.nextId s true) e.gid fun g =>
        e.starting s.nextId F.d (splitVal F.pair (F.result vs)) (e.reading F.srcs s.time g) := by
    unfold State.lateDst Form.nextId
    split
    case h_1 q hd =>
      rw [hd]
      exact updGroup_updGroup (fun g => (frame_reading e F.srcs s.time g).gid) e.gid
    case h_2 hd =>
      have hq : isQueue F.d = false := by
        unfold isQueue
        split
        case h_1 q hq => exact absurd hq (hd q)
        · rfl
      have hst : ∀ g : Group, e.starting s.nextId F.d (splitVal F.pair (F.result vs)) g =
          g.updSlice e.sl fun x => x.started e s.nextId F.d (splitVal F.pair (F.result vs)) := by
        intro g
        unfold Env.starting SliceSt.started
        split
        case h_1 q hq => exact absurd hq (hd q)
        · rfl
      have hx : ∀ x : SliceSt, x.started e s.nextId F.d (splitVal F.pair (F.result vs)) =
          { x with outs := x.outs ++ [({ id := s.nextId, dst := e.dst F.d, regs := (splitVal F.pair (F.result vs)).map (laneList e.g.width),
                                         pend := e.dstLanes F.d, ready := e.dstLanes F.d, acc := none, path := none, mat := false } : Out)] } := by
        intro x
        unfold SliceSt.started
        split
        case h_1 q hq => exact absurd hq (hd q)
        · rfl
      simp only [hq, hst, hx]
      exact updGroup_updGroup (s := { s with cur := none, nextId := s.nextId + 1 }) (fun g => (frame_reading e F.srcs s.time g).gid) e.gid
  rw [Form.afterLate, begun_consume, hlate, ended_withGroup hs hframe hspill]
  rfl

end Sys2Proof.Machine

/-!
SUPPORT. The slice of an instruction with one value per lane, after it.
-/

namespace Sys2Proof.Machine

variable {s : State} {e : Env} {g : Group} {x y : SliceSt}

/-- `y` has the registers, results and trap registers of `x`. -/
def SliceSt.sameRegs (x y : SliceSt) : Prop :=
  y.scal = x.scal ∧ y.preds = x.preds ∧ y.vregs = x.vregs ∧ y.ixs = x.ixs ∧ y.counts = x.counts ∧ y.outs = x.outs ∧
    y.trap = x.trap ∧ y.exited = x.exited

theorem SliceSt.placed.sameRegs (h : x.placed y) : x.sameRegs y ∧ y.timeh = x.timeh := by
  rw [h]
  exact ⟨⟨rfl, rfl, rfl, rfl, rfl, rfl, rfl, rfl⟩, rfl⟩

theorem SliceSt.sameRegs.trans {z : SliceSt} (h : x.sameRegs y) (h' : y.sameRegs z) : x.sameRegs z := by
  obtain ⟨h1, h2, h3, h4, h5, h6, h7, h8⟩ := h
  obtain ⟨h1', h2', h3', h4', h5', h6', h7', h8'⟩ := h'
  exact ⟨h1'.trans h1, h2'.trans h2, h3'.trans h3, h4'.trans h4, h5'.trans h5, h6'.trans h6, h7'.trans h7, h8'.trans h8⟩

theorem SliceSt.sameRegs_latch (x : SliceSt) (srcs : List SrcOp) (time : W64) : x.sameRegs (x.latch srcs time) := by
  unfold SliceSt.latch
  split <;> exact ⟨rfl, rfl, rfl, rfl, rfl, rfl, rfl, rfl⟩

theorem SliceSt.timeh_latch {srcs : List SrcOp} (h : ∀ z ∈ srcs, z.o ≠ .spc 8) (x : SliceSt) (time : W64) :
    (x.latch srcs time).timeh = x.timeh := by
  have hno : (srcs.any fun z => decide (z.o = .spc 8)) = false := by
    simp only [List.any_eq_false, decide_eq_true_eq]
    exact h
  simp only [SliceSt.latch, hno, Bool.false_eq_true, if_false]

/-- The slice before its result is written or started: the issue is counted and a read of %time latched. -/
def Form.readSlice (F : Form) (s : State) (e : Env) (x : SliceSt) : SliceSt := (x.counted e.slot).latch F.srcs s.time

theorem Form.sameRegs_readSlice (F : Form) (s : State) (e : Env) (x : SliceSt) : x.sameRegs (F.readSlice s e x) :=
  (x.placed_counted e.slot).sameRegs.1.trans (SliceSt.sameRegs_latch _ F.srcs s.time)

theorem Form.timeh_readSlice {F : Form} (h : ∀ z ∈ F.srcs, z.o ≠ .spc 8) (s : State) (e : Env) (x : SliceSt) :
    (F.readSlice s e x).timeh = x.timeh := SliceSt.timeh_latch h _ s.time

/-- The slice with its result. -/
def Form.resultSlice (F : Form) (s : State) (e : Env) (vs : List (Nat → Nat)) (late : Bool) (x : SliceSt) : SliceSt :=
  if late then (F.readSlice s e x).started e s.nextId F.d (splitVal F.pair (F.result vs))
  else (F.readSlice s e x).writeRegs e F.d (splitVal F.pair (F.result vs))

theorem Form.slice_change (F : Form) (s : State) (e : Env) (vs : List (Nat → Nat)) (late : Bool) (g : Group) :
    (F.resultSlice s e vs late (g.slice e.sl)).placed ((F.change s e vs late g).slice e.sl) := by
  have hresult : (if late then e.starting s.nextId F.d (splitVal F.pair (F.result vs)) (e.reading F.srcs s.time g)
      else e.writing F.d F.pair (F.result vs) (e.reading F.srcs s.time g)).slice e.sl =
      F.resultSlice s e vs late (g.slice e.sl) := by
    unfold Form.resultSlice Form.readSlice
    cases late with
    | true => simp only [if_true, slice_starting, slice_reading]
    | false => simp only [Bool.false_eq_true, if_false, slice_writing, slice_reading]
  rw [Form.change, Env.finishing, Group.slice_updSlice, hresult]
  exact SliceSt.placed_finish ..

/-- The queues stay unless the destination or a source is one. -/
theorem Form.queues_change {F : Form} (hd : ∀ q, F.d ≠ .que q) (hsrcs : ∀ z ∈ F.srcs, z.queue? = none) (s : State) (e : Env)
    (vs : List (Nat → Nat)) (late : Bool) (g : Group) :
    (F.change s e vs late g).queues = g.queues ∧ (F.change s e vs late g).lodcnt = g.lodcnt := by
  obtain ⟨hq, hl⟩ := queues_reading e F.srcs s.time g hsrcs
  have hfin : ∀ g : Group, (e.finishing F.h g).queues = g.queues ∧ (e.finishing F.h g).lodcnt = g.lodcnt := by
    intro g
    unfold Env.finishing
    cases e.sl <;> exact ⟨rfl, rfl⟩
  rw [Form.change, (hfin _).1, (hfin _).2]
  cases late with
  | true =>
    obtain ⟨hq', hl'⟩ := queues_starting hd e s.nextId (splitVal F.pair (F.result vs)) (e.reading F.srcs s.time g)
    exact ⟨hq'.trans hq, hl'.trans hl⟩
  | false =>
    obtain ⟨hq', hl'⟩ := queues_writing hd e F.pair (F.result vs) (e.reading F.srcs s.time g)
    exact ⟨hq'.trans hq, hl'.trans hl⟩

/-! ## A result that is written later -/

theorem SliceSt.started_queue {d : Opnd} (hd : ∃ q, d = .que q) (x : SliceSt) (e : Env) (id : Nat) (vals : List (Nat → Val)) :
    x.started e id d vals = x := by
  obtain ⟨q, rfl⟩ := hd
  rfl

theorem SliceSt.started_regs {d : Opnd} (hd : ∀ q, d ≠ .que q) (x : SliceSt) (e : Env) (id : Nat) (vals : List (Nat → Val)) :
    x.started e id d vals =
      { x with outs := x.outs ++ [{ id := id, dst := e.dst d, regs := vals.map (laneList e.g.width), pend := e.dstLanes d,
                                    ready := e.dstLanes d, acc := none, path := none, mat := false }] } := by
  cases d with
  | que q => exact absurd rfl (hd q)
  | _ => rfl

/-- The start of a late result writes no register. -/
theorem SliceSt.started_only (x : SliceSt) (e : Env) (id : Nat) (d : Opnd) (vals : List (Nat → Val)) :
    x.started e id d vals = { x with outs := (x.started e id d vals).outs } := by
  cases d <;> rfl

theorem SliceSt.writeRegs_queue {d : Opnd} (hd : ∃ q, d = .que q) (x : SliceSt) (e : Env) (vals : List (Nat → Val)) :
    x.writeRegs e d vals = x := by
  obtain ⟨q, rfl⟩ := hd
  rfl

/-! ## The slice after the instruction -/

variable {F : Form} {vs : List (Nat → Nat)} {late : Bool}

/-- What neither a result nor its start touches. -/
theorem Form.resultSlice_keeps (F : Form) (s : State) (e : Env) (vs : List (Nat → Nat)) (late : Bool) (x : SliceSt) :
    (F.resultSlice s e vs late x).counts = x.counts ∧ (F.resultSlice s e vs late x).trap = x.trap ∧
      (F.resultSlice s e vs late x).exited = x.exited ∧ (F.resultSlice s e vs late x).ixs = x.ixs ∧
      (F.resultSlice s e vs late x).timeh = (F.readSlice s e x).timeh := by
  obtain ⟨-, -, -, hix, hcounts, -, htrap, hexited⟩ := F.sameRegs_readSlice s e x
  unfold Form.resultSlice
  cases late with
  | true =>
    simp only [if_true]
    rw [SliceSt.started_only]
    exact ⟨hcounts, htrap, hexited, hix, rfl⟩
  | false =>
    simp only [Bool.false_eq_true, if_false]
    rw [regsOnly_writeRegs]
    exact ⟨hcounts, htrap, hexited, hix, rfl⟩

/-- A result written at once starts none, and one that goes to a queue stands in no slice. -/
theorem Form.resultSlice_outs (h : late = false ∨ ∃ q, F.d = .que q) (x : SliceSt) :
    (F.resultSlice s e vs late x).outs = x.outs := by
  obtain ⟨-, -, -, -, -, houts, -, -⟩ := F.sameRegs_readSlice s e x
  unfold Form.resultSlice
  cases late with
  | true =>
    rw [if_pos rfl, SliceSt.started_queue (h.resolve_left (by decide))]
    exact houts
  | false =>
    simp only [Bool.false_eq_true, if_false]
    rw [regsOnly_writeRegs]
    exact houts

theorem Form.resultSlice_late_outs (hd : ∀ q, F.d ≠ .que q) (x : SliceSt) :
    ∃ o, (F.resultSlice s e vs true x).outs = x.outs ++ [o] ∧ o.dst = e.dst F.d ∧ o.pend = e.dstLanes F.d ∧
      o.regs = (splitVal F.pair (F.result vs)).map (laneList e.g.width) := by
  obtain ⟨-, -, -, -, -, houts, -, -⟩ := F.sameRegs_readSlice s e x
  rw [Form.resultSlice, if_pos rfl, SliceSt.started_regs hd, houts]
  exact ⟨_, rfl, rfl, rfl, rfl⟩

theorem Form.resultSlice_late_regs (F : Form) (s : State) (e : Env) (vs : List (Nat → Nat)) (x : SliceSt) :
    (F.resultSlice s e vs true x).scal = x.scal ∧ (F.resultSlice s e vs true x).preds = x.preds ∧
      (F.resultSlice s e vs true x).vregs = x.vregs := by
  obtain ⟨hscal, hpreds, hvregs, -⟩ := F.sameRegs_readSlice s e x
  rw [Form.resultSlice, if_pos rfl, SliceSt.started_only]
  exact ⟨hscal, hpreds, hvregs⟩

theorem Form.resultSlice_now (F : Form) (s : State) (e : Env) (vs : List (Nat → Nat)) (x : SliceSt) :
    F.resultSlice s e vs false x = (F.readSlice s e x).writeRegs e F.d (splitVal F.pair (F.result vs)) := rfl

variable {n l : Nat}

theorem vreg_of_vregs (h : y.vregs = x.vregs) (n l : Nat) : y.vreg n l = x.vreg n l := by
  rw [SliceSt.vreg, SliceSt.vreg, h]

theorem sreg_of_scal (h : y.scal = x.scal) (n : Nat) : y.sreg n = x.sreg n := by
  rw [SliceSt.sreg, SliceSt.sreg, h]

theorem pred_of_preds (h : y.preds = x.preds) (p : BitVec 3) : y.pred p = x.pred p := by
  rw [SliceSt.pred, SliceSt.pred, h]

theorem Form.vreg_readSlice (F : Form) (s : State) (e : Env) (x : SliceSt) (n l : Nat) : (F.readSlice s e x).vreg n l = x.vreg n l :=
  vreg_of_vregs (F.sameRegs_readSlice s e x).2.2.1 n l

theorem Form.sreg_readSlice (F : Form) (s : State) (e : Env) (x : SliceSt) (n : Nat) : (F.readSlice s e x).sreg n = x.sreg n :=
  sreg_of_scal (F.sameRegs_readSlice s e x).1 n

theorem Form.pred_readSlice (F : Form) (s : State) (e : Env) (x : SliceSt) (p : BitVec 3) : (F.readSlice s e x).pred p = x.pred p :=
  pred_of_preds (F.sameRegs_readSlice s e x).2.1 p

theorem Form.vreg_resultSlice_other (h : late = true ∨ ((∀ v, F.d ≠ .vec v) ∧ ∀ b ix, F.d ≠ .ind b ix) ∨ n < e.regNum F.d ∨
    e.regNum F.d + (if F.pair then 2 else 1) ≤ n) (x : SliceSt) : (F.resultSlice s e vs late x).vreg n l = x.vreg n l := by
  cases late with
  | true => exact vreg_of_vregs (F.resultSlice_late_regs s e vs x).2.2 n l
  | false =>
    rw [F.resultSlice_now, vreg_writeRegs_other (h.resolve_left Bool.false_ne_true), F.vreg_readSlice]

theorem Form.sreg_resultSlice_other (h : late = true ∨ (∀ v, F.d ≠ .sca v) ∨ n < e.regNum F.d ∨
    e.regNum F.d + (if F.pair then 2 else 1) ≤ n) (x : SliceSt) : (F.resultSlice s e vs late x).sreg n = x.sreg n := by
  cases late with
  | true => exact sreg_of_scal (F.resultSlice_late_regs s e vs x).1 n
  | false =>
    rw [F.resultSlice_now, sreg_writeRegs_other (h.resolve_left Bool.false_ne_true), F.sreg_readSlice]

theorem Form.pred_resultSlice_other {p : BitVec 3} (h : late = true ∨ F.d ≠ .pred p ∨ p = 7) (x : SliceSt) :
    (F.resultSlice s e vs late x).pred p = x.pred p := by
  cases late with
  | true => exact pred_of_preds (F.resultSlice_late_regs s e vs x).2.1 p
  | false =>
    rw [F.resultSlice_now, pred_writeRegs_other (h.resolve_left Bool.false_ne_true), F.pred_readSlice]

theorem Form.vreg_resultSlice_self {j : Nat} (hd : (∃ v, F.d = .vec v) ∨ ∃ b ix, F.d = .ind b ix) (hj : j < if F.pair then 2 else 1)
    (hn : e.regNum F.d + j < x.vregs.length) (hl : l < (x.vregs.getD (e.regNum F.d + j) []).length) :
    (F.resultSlice s e vs false x).vreg (e.regNum F.d + j) l =
      if e.exec.getLsbD l then Val.of (BitVec.ofNat 32 (F.result vs l / 2 ^ (32 * j))) else x.vreg (e.regNum F.d + j) l := by
  obtain ⟨-, -, hvregs, -⟩ := F.sameRegs_readSlice s e x
  rw [F.resultSlice_now, vreg_writeRegs_self hd hj (by rw [hvregs]; exact hn) (by rw [hvregs]; exact hl), F.vreg_readSlice]

theorem Form.sreg_resultSlice_self {v : BitVec 6} {j : Nat} (hd : F.d = .sca v) (hj : j < if F.pair then 2 else 1)
    (hn : e.regNum F.d + j < x.scal.length) :
    (F.resultSlice s e vs false x).sreg (e.regNum F.d + j) =
      Val.of (BitVec.ofNat 32 (F.result vs (lowLane e.exec) / 2 ^ (32 * j))) := by
  obtain ⟨hscal, -⟩ := F.sameRegs_readSlice s e x
  rw [hd] at hn ⊢
  rw [F.resultSlice_now, hd]
  exact sreg_writeRegs_self hj (by rw [hscal]; exact hn)

theorem Form.pred_resultSlice_self {p : BitVec 3} (hd : F.d = .pred p) (hp : p ≠ 7) (hlen : p.toNat < x.preds.length) (hl : l < 64) :
    ((F.resultSlice s e vs false x).pred p).getLsbD l = if e.exec.getLsbD l then (F.result vs l).testBit 0 else (x.pred p).getLsbD l := by
  obtain ⟨-, hpreds, -⟩ := F.sameRegs_readSlice s e x
  rw [F.resultSlice_now, hd, pred_writeRegs_self hp (by rw [hpreds]; exact hlen) hl, F.pred_readSlice]

/-- An instruction with one value per lane changes its group alone, by `Form.change`. -/
theorem exec_form_withGroup {i : Instr}
    (hF : if late then lateForm i = some F else intForm i = some F ∨ fltForm i = some F ∨ cvtForm i = some F)
    (hr : s.runs i F.h e) (hv : F.reads s e vs)
    (hspill : ∀ k, 8 < k → k ≤ e.x.stackUse → s.spillOk e.c (stackPlace e.g k) = true) :
    exec i s = .next (s.withGroup (F.nextId s late) e.gid (F.change s e vs late)) := by
  cases late with
  | true =>
    rw [exec_form_afterLate (exec_of_lateForm hF s) hr hv, F.afterLate_eq hr.issues hspill]
  | false =>
    have hx : exec i s = runInstr i F.h (aluEff F.d F.pair F.srcs F.val) s := by
      rcases hF with hF | hF | hF
      · exact exec_of_intForm hF s
      · exact exec_of_fltForm hF s
      · exact exec_of_cvtForm hF s
    rw [exec_form_after hx hr hv, F.after_eq hr.issues hspill]

end Sys2Proof.Machine

namespace Sys2Proof.Proofs
open Sys2Proof.Machine

/-- Settles O53: the instruction changes its group alone, by the change of one slice and of the queues. -/
theorem registerFrame : Obligations.RegisterFrame := by
  intro i F s e vs g late hF hr hv hg hspill
  have hframe := F.frame_change s e vs late
  have hgid : ∀ g, (F.change s e vs late g).gid = g.gid := fun g => (hframe g).gid
  obtain ⟨hother, hslices⟩ := hframe g
  refine ⟨s.withGroup (F.nextId s late) e.gid (F.change s e vs late), F.change s e vs late g, exec_form_withGroup hF hr hv hspill, rfl,
    ?_, group?_withGroup hgid hg, fun k hk => group?_withGroup_other hgid hk, hother, hslices,
    fun hd hsrcs => Form.queues_change hd hsrcs s e vs late g, ?_⟩
  · rintro rfl
    rfl
  · obtain ⟨⟨hscal, hpreds, hvregs, hix, hcounts, houts, htrap, hexited⟩, htimeh⟩ := (F.slice_change s e vs late g).sameRegs
    obtain ⟨kcounts, ktrap, kexited, kix, ktimeh⟩ := F.resultSlice_keeps s e vs late (g.slice e.sl)
    refine ⟨hcounts.trans kcounts, fun h => houts.trans (Form.resultSlice_outs h _), ?_, htrap.trans ktrap, hexited.trans kexited,
      hix.trans kix, fun h => htimeh.trans (ktimeh.trans (Form.timeh_readSlice h s e _)),
      fun n l h => (vreg_of_vregs hvregs n l).trans (Form.vreg_resultSlice_other h _),
      fun n h => (sreg_of_scal hscal n).trans (Form.sreg_resultSlice_other h _),
      fun p h => (pred_of_preds hpreds p).trans (Form.pred_resultSlice_other h _), ?_⟩
    · rintro rfl hd
      rw [houts]
      exact Form.resultSlice_late_outs hd _
    · rintro rfl
      refine ⟨fun j l hd hj hn hl => ?_, fun v j hd hj hn => ?_, fun p l hd hp hlen hl => ?_⟩
      · rw [vreg_of_vregs hvregs, Form.vreg_resultSlice_self hd hj hn hl]
      · rw [sreg_of_scal hscal, Form.sreg_resultSlice_self hd hj hn]
      · rw [pred_of_preds hpreds, Form.pred_resultSlice_self hd hp hlen hl]

end Sys2Proof.Proofs

/-!
SUPPORT. A request in flight: what a step of it does in each state of the request.
-/

namespace Sys2Proof.Machine

variable {s : State} {id i : Nat} {a : Acc} {l : LaneAcc} {r : Req}

section
variable (ha : s.acc? id = some a) (hl : a.lanes[i]? = some l) (hr : s.accReq a l = some r) (hk : ¬(a.kind = .store ∧ a.path = .t))
include ha hl hr hk

/-- A request that must follow an earlier one of its access waits with it. -/
theorem homeAccess_leader {st : LaneSt} (hst : l.st = .todo) (hlead : a.leader i = some st) :
    s.homeAccess id i = (s.setLane id i st).logMisses id := by
  simp only [State.homeAccess, ha, hl, hr, Option.bind_some, Bool.and_eq_true, beq_iff_eq, hk, if_false, hst, if_true, hlead]

theorem homeAccess_todo (hst : l.st = .todo) (hlead : a.leader i = none) (hmay : s.mayPerform a i = true) :
    s.homeAccess id i =
      if (a.logged && s.refillFails a.gid a.sl id) = true then (s.dropWork id).fatalTrap a.gid a.sl 0x1E 0 a.pc none 0
      else if ((s.performLane r a l).1 = .blocked .held ∧ (s.tlb? (s.walkIa a l)).isNone &&
        !(s.home (homeOf (s.walkIa a l))).walkRoom (s.walkIa a l)) then s.setLane id i .queued
      else if walked s (s.performLane r a l).2 (s.performLane r a l).1 (s.walkIa a l) = true then s.startWalk id i (s.walkIa a l)
      else (s.performAt a i l r).logMisses id := by
  simp only [State.homeAccess, ha, hl, hr, Option.bind_some, Bool.and_eq_true, beq_iff_eq, hk, if_false, hst, if_true, hlead, hmay,
    Bool.not_true, Bool.false_eq_true]

theorem homeAccess_walking (hst : l.st = .walking) (hmay : s.mayPerform a i = true) :
    s.homeAccess id i = ((s.endWalk id (s.walkIa a l)).performAt a i l r).logMisses id := by
  have hne : ¬ LaneSt.walking = .todo := nofun
  simp only [State.homeAccess, ha, hl, hr, Option.bind_some, Bool.and_eq_true, beq_iff_eq, hk, if_false, hst, hne, hmay,
    Bool.not_true, Bool.false_eq_true]

end

theorem walkSlotFree_room (ha : s.acc? id = some a) (hl : a.lanes[i]? = some l)
    (hq : a.lanes.findIdx? (fun l => l.st == .queued) = some i) (hroom : (s.home (homeOf (s.walkIa a l))).walkRoom (s.walkIa a l) = true) :
    s.walkSlotFree id = s.startWalk id i (s.walkIa a l) := by
  simp only [State.walkSlotFree, ha, hq, hl, Option.map_some, Option.getD_some, hroom, if_true]

theorem reissue_parked {page b : Nat} {held : Bool} (ha : s.acc? id = some a) (hl : a.lanes[i]? = some l) (hst : l.st = .parked page b held)
    (hb : s.batchHeld id = false) : s.reissue id i = s.setLane id i .todo := by
  simp only [State.reissue, hb, ha, hl, Option.map_some, hst, Bool.false_eq_true, if_false]

theorem fillRetry_returned (ha : s.acc? id = some a) (hl : a.lanes[i]? = some l) (hst : l.st = .returned) :
    s.fillRetry id i = s.setLane id i .todo := by
  simp only [State.fillRetry, ha, Option.bind_some, hl, Option.map_some, hst]

/-- No request is parked on a page that its peer reports resolved, but those whose batch is held. -/
theorem peerResolved_parked {slot ia : Nat} (ha : a ∈ (s.peerResolved slot ia).accs) (hb : s.batchHeld a.id = false) (hl : l ∈ a.lanes)
    {page b : Nat} {held : Bool} (hb0 : b ≠ 0) (hst : l.st = .parked page b held) :
    ¬(homeOf page = slot ∧ ia / 2 ^ b * 2 ^ b = page) := by
  rintro ⟨hslot, hpage⟩
  obtain ⟨a₀, -, rfl⟩ := List.mem_map.mp ha
  obtain ⟨l₀, -, rfl⟩ := List.mem_map.mp hl
  replace hb : s.batchHeld a₀.id = false := hb
  split at hst
  · cases hst
  case isFalse hno =>
    simp only [hst] at hno
    simp [hb0, hslot, hpage, hb] at hno

end Sys2Proof.Machine

namespace Sys2Proof.Proofs
open Sys2Proof.Machine

/-- Settles O28: a case of the request's state for each clause; what an answer puts back, it puts back in every list of requests. -/
theorem requestsProceed : Obligations.RequestsProceed := by
  refine ⟨fun s id i a l r ha hl => ?_, fun s slot => ⟨fun tag => ⟨_, rfl, rfl, ?_⟩, fun ia => ⟨_, rfl, rfl, ?_⟩⟩⟩
  · refine ⟨fun hr hk hst => ⟨fun st hlead => congrArg _ (homeAccess_leader ha hl hr hk hst hlead), fun hlead hmay => ?_⟩,
      fun hr hmay hk hst => congrArg _ (homeAccess_walking ha hl hr hk hst hmay),
      fun hq hroom => congrArg _ (walkSlotFree_room ha hl hq hroom), fun page b held hst hb => congrArg _ (reissue_parked ha hl hst hb),
      fun hst => congrArg _ (fillRetry_returned ha hl hst)⟩
    have htodo := homeAccess_todo ha hl hr hk hst hlead hmay
    have hexec : exec (.homeAccess id i) s = .next (s.homeAccess id i) := rfl
    rw [hexec, htodo]
    intro x
    refine ⟨fun hlog hfail => ?_, fun hlog => ?_⟩
    · rw [hlog, hfail, Bool.and_self, if_pos rfl]
    · have hkeep : ¬ (a.logged && s.refillFails a.gid a.sl id) = true := by
        rw [Bool.and_eq_true]
        exact fun h => Bool.false_ne_true ((hlog h.1).symm.trans h.2)
      rw [if_neg hkeep]
      refine ⟨fun hheld hfull => ?_, fun hgo => ?_⟩
      · rw [if_pos ⟨hheld, hfull⟩]
      · have hno : ¬ (x.1 = .blocked .held ∧ (s.tlb? (s.walkIa a l)).isNone && !(s.home (homeOf (s.walkIa a l))).walkRoom (s.walkIa a l)) :=
          fun ⟨hheld, hfull⟩ => hgo.elim (fun h => h hheld) fun h => Bool.false_ne_true (h.symm.trans hfull)
        rw [if_neg hno]
        exact ⟨fun hw => by rw [if_neg (by rw [hw]; decide)], fun hw => by rw [if_pos hw]⟩
  · simp only [State.restart, beq_iff_eq]
  · intro a ha hb l hl page b held hb0 hst
    exact peerResolved_parked ha hb hl hb0 hst

end Sys2Proof.Proofs

/-!
SUPPORT. The return of loaded data, of late results and of store data, once each may happen.
-/

namespace Sys2Proof.Machine

variable {s : State} {id : Nat} {a : Acc} {lanes : Lanes}

/-- The lanes among `lanes` that an access has values for. -/
def Acc.returning (a : Acc) (lanes : Lanes) : Lanes := maskOf fun l => lanes.getLsbD l && (a.laneVals l).isSome

section
variable (ha : s.acc? id = some a) (hreads : a.kind.reads = true) (hacq : acquires a.ord = true → a.isOpen = false)
  (hrun : s.runsGid a.gid = true) (hedge : s.edgeWaits a = false) (hm : a.returning lanes ≠ 0)
include ha hreads hacq hrun hedge hm

theorem dataReturn_queue {q n : Nat} (hd : a.deliver = .queue q n) :
    s.dataReturn id lanes = ((s.updGroup a.gid fun g => (List.range n).foldl (fun g i => (g.updQueue (q + i) fun x =>
      x.fill id (a.returning lanes) fun l => ((a.laneVals l).getD []).getD i Val.zero).prune (q + i)) g).updAcc id fun b =>
        { b with lanes := b.lanes.filter fun r => !(a.returning lanes).getLsbD r.lane,
                 taps := b.taps.filter fun x => !(a.returning lanes).getLsbD x.lane }).endAcc id := by
  have hacq' : (acquires a.ord && a.isOpen) = false := Bool.and_eq_false_imp.mpr hacq
  unfold Acc.returning at hm ⊢
  simp only [State.dataReturn, ha, hreads, hacq', hrun, hedge, Bool.not_true, Bool.or_false, Bool.false_eq_true, if_false, hm, hd]

theorem dataReturn_out {o : Nat} (hd : a.deliver = .out o) :
    s.dataReturn id lanes = ((s.updSlice a.gid a.sl fun x => ((x.outs.find? fun y => y.id == o).map fun out =>
      x.writeOut out (a.returning lanes) fun l => (a.laneVals l).getD []).getD x).updAcc id fun b =>
        { b with lanes := b.lanes.filter fun r => !(a.returning lanes).getLsbD r.lane,
                 taps := b.taps.filter fun x => !(a.returning lanes).getLsbD x.lane }).endAcc id := by
  have hacq' : (acquires a.ord && a.isOpen) = false := Bool.and_eq_false_imp.mpr hacq
  unfold Acc.returning at hm ⊢
  simp only [State.dataReturn, ha, hreads, hacq', hrun, hedge, Bool.not_true, Bool.or_false, Bool.false_eq_true, if_false, hm, hd]
  congr 3
  funext x
  cases x.outs.find? fun y => y.id == o <;> rfl

end

/-- A result that goes to a register waits for no earlier access. -/
theorem edgeWaits_out {o : Nat} (hd : a.deliver = .out o) : s.edgeWaits a = false := by
  simp only [State.edgeWaits, hd]

/-- The value of a lane's entry of qs. -/
def Group.qsVal (g : Group) (l : Nat) : Val := (g.laneVal 4 l 0).getD Val.zero

/-- A request of a store once its data has been taken from qs. -/
def Group.storeLane (g : Group) (m : Lanes) (size : Nat) (l : LaneAcc) : LaneAcc :=
  let l := { l with data := leBytes size (g.qsVal l.lane).bits.toNat }
  match (g.qsVal l.lane).poison with
  | some p => if (lanesOf m).find? (fun l => (g.qsVal l).poison.isSome) = some l.lane then
      { l with st := .fatal p.cause (BitVec.ofNat 32 (poisonInfo p l.lane 0)) } else l
  | none => l

theorem qsData_takes {m : Lanes} {g : Group} (ha : s.acc? id = some a) (hm : a.needQs = some m) (hg : s.group? a.gid = some g)
    (hrun : s.runsGid a.gid = true) (hfirst : ∀ b ∈ s.accs, b.gid = a.gid → b.needQs ≠ none → id ≤ b.id)
    (hvals : ∀ l ∈ lanesOf m, g.laneVal 4 l 0 ≠ none) :
    s.qsData id = (s.updGroup a.gid fun g => g.pop 4 m).updAcc id fun a =>
      { a with needQs := none, lanes := a.lanes.map (g.storeLane m a.size) } := by
  have hearlier : (s.accs.any fun b => b.gid == a.gid && b.needQs.isSome && decide (b.id < id)) = false := by
    simp only [List.any_eq_false, Bool.and_eq_true, beq_iff_eq, decide_eq_true_eq, not_and, Nat.not_lt]
    rintro b hb ⟨hgid, hneed⟩
    exact hfirst b hb hgid (Option.isSome_iff_ne_none.mp hneed)
  have hall : ((lanesOf m).any fun l => (g.laneVal 4 l 0).isNone) = false := by
    simp only [List.any_eq_false, Option.isNone_iff_eq_none]
    exact hvals
  simp only [State.qsData, ha, hm, hg, hearlier, hrun, hall, Bool.not_true, Bool.or_false, Bool.false_eq_true, if_false]
  rfl

end Sys2Proof.Machine

namespace Sys2Proof.Proofs
open Sys2Proof.Machine

/-- Settles O29: each clause's conditions are those that the step tests. -/
theorem valuesArrive : Obligations.ValuesArrive := by
  intro s
  refine ⟨fun id a lanes q n ha hreads hacq hrun hd hedge => ?_, fun id a lanes o ha hreads hacq hrun hd => ?_, fun gid sl res lanes hrun => ?_,
    fun id a m g ha hm hg hrun hfirst hvals => ?_⟩
  · intro m hm
    exact congrArg Host.Outcome.next (dataReturn_queue ha hreads hacq hrun hedge hm hd)
  · intro m hm
    refine congrArg Host.Outcome.next ((dataReturn_out ha hreads hacq hrun (edgeWaits_out hd) hm hd).trans ?_)
    congr 3
    funext x
    cases x.outs.find? fun y => y.id == o <;> rfl
  · exact congrArg Host.Outcome.next (if_neg (by rw [hrun]; decide))
  · exact congrArg Host.Outcome.next (qsData_takes ha hm hg hrun hfirst hvals)

end Sys2Proof.Proofs

/-!
SUPPORT. One unit of an engine, one bank of a transform, one unit of T stores, and a dirty line that is lost.
-/

namespace Sys2Proof.Machine

variable {s t u : State} {id n : Nat} {e e' : Eng} {x : UnitSt}

theorem eng?_id (h : s.eng? id = some e) : e.id = id := by
  simpa using List.find?_some h

/-! ## Copies and gathers -/

/-- A unit that is ready, whose source and destination meet no open access, is performed. -/
theorem unitTurn_ready (he : s.eng? id = some e) (hx : e.ready n = some x)
    (hsrc : e.ssp = false → s.engClear e (e.srcRow (n / 2 ^ 24) + (s.unitPart e n).1).toNat (s.unitPart e n).2 = true)
    (hdst : e.dsp = false → s.engClear e (e.dstRow (n / 2 ^ 24) + (s.unitPart e n).1).toNat (s.unitPart e n).2 = true) :
    s.unitTurn id n = ((s.engStart e).unitRun e x).engMisses id := by
  have hclear : ((!e.ssp && !s.engClear e (e.srcRow (n / 2 ^ 24) + (s.unitPart e n).1).toNat (s.unitPart e n).2) ||
      (!e.dsp && !s.engClear e (e.dstRow (n / 2 ^ 24) + (s.unitPart e n).1).toNat (s.unitPart e n).2)) = false := by
    simp only [Bool.or_eq_false_iff, Bool.and_eq_false_imp, Bool.not_eq_true', Bool.not_eq_false']
    exact ⟨hsrc, hdst⟩
  simp only [State.unitTurn, he, hx, hclear, Bool.false_eq_true, if_false]

theorem engineUnit_runs (he : s.eng? id = some e) (hk : e.kind.transform = false) (hrun : s.engRuns e = true)
    (hpart : (s.unitPart e n).2 ≠ 0) (hrow : n / 2 ^ 24 < e.rows) (hlog : e.logged = true → s.refillFails e.gid .a id = false) :
    s.engineUnit id n = (s.issueBefore e n).unitTurn id n := by
  have hfail : ¬ (e.logged && s.refillFails e.gid .a id) = true := by
    rw [Bool.and_eq_true]
    exact fun h => Bool.false_ne_true ((hlog h.1).symm.trans h.2)
  have hgo : ¬ (e.kind.transform || !s.engRuns e || decide ((s.unitPart e n).2 = 0) || !decide (n / 2 ^ 24 < e.rows)) = true := by
    simp only [hk, hrun, hpart, hrow, decide_true, decide_false, Bool.not_true, Bool.or_false, Bool.false_eq_true, not_false_eq_true]
  unfold State.engineUnit
  rw [he]
  dsimp only
  simp only [Bool.or_eq_true, decide_eq_true_eq] at hgo ⊢
  rw [if_neg hgo, if_neg hfail]

/-! ## Transforms -/

section
variable {b : Nat} (he : s.eng? id = some e) (hk : e.kind.transform = true) (hrun : s.engRuns e = true)
  (hlog : e.logged = true → s.refillFails e.gid .a id = false)
include he hk hrun hlog

theorem bankPart_spad (hd : e.dsp = true) (hdone : e.done.contains b = false) (hwords : s.bankWords e b ≠ []) :
    s.bankPart id b = (s.engStart e).bankSpad e b := by
  have hfail : (e.logged && s.refillFails e.gid .a id) = false := Bool.and_eq_false_imp.mpr hlog
  have hne : (s.bankWords e b).isEmpty = false := by
    rw [Bool.eq_false_iff, ne_eq, List.isEmpty_iff]
    exact hwords
  simp only [State.bankPart, he, hk, hrun, hd, hfail, hdone, hne, Bool.not_true, Bool.false_and, Bool.or_false, Bool.false_eq_true,
    if_false, if_true]

theorem bankPart_home (hd : e.dsp = false) (hclear : s.engClear e e.dst e.len = true) (hbank : s.bankClear e b = true)
    (he' : (s.unitsIssue id (s.unitsOf e)).eng? id = some e') (hus : (s.unitsIssue id (s.unitsOf e)).bankSectors e' b ≠ []) :
    s.bankPart id b = ((((s.unitsIssue id (s.unitsOf e)).bankSectors e' b).foldl (fun s u => s.bankSector id u)
      ((s.unitsIssue id (s.unitsOf e)).engStart e')).engMisses id) := by
  have hfail : (e.logged && s.refillFails e.gid .a id) = false := Bool.and_eq_false_imp.mpr hlog
  have hne : ((s.unitsIssue id (s.unitsOf e)).bankSectors e' b).isEmpty = false := by
    rw [Bool.eq_false_iff, ne_eq, List.isEmpty_iff]
    exact hus
  simp only [State.bankPart, he, hk, hrun, hd, hfail, hclear, hbank, he', hne, Bool.not_true, Bool.not_false, Bool.and_self, Bool.and_false,
    Bool.or_false, Bool.false_eq_true, if_false]

end

/-! ## Dirty lines -/

section
variable {die core line : Nat} {l : Line} (hdirty : l.isDirty = true) (hlost : s.lineLost l = true)
include hdirty hlost

theorem dropDirty_l1 (hl : findLine (s.core core).l1 line = some l) :
    s.dropDirty (.l1 core) line = (s.updCore core fun k => { k with l1 := dropLine k.l1 line }).dropRecord l := by
  simp only [State.dropDirty, hl, hdirty, hlost, Bool.and_self, if_true]

theorem dropDirty_rdc (hl : findLine (s.rdc die) line = some l) :
    s.dropDirty (.rdc die) line = (s.updRdc die fun rs => dropLine rs line).dropRecord l := by
  simp only [State.dropDirty, hl, hdirty, hlost, Bool.and_self, if_true]

theorem dropDirty_l2 (hl : findLine (s.l2Of die) line = some l) : s.dropDirty (.l2 die) line = s.evictL2 die l := by
  simp only [State.dropDirty, hl, hdirty, hlost, Bool.and_self, if_true]

theorem dropDirty_mdc (hl : findLine (s.mdcOf die) line = some l) : s.dropDirty (.mdc die) line = s.evictMdc die l := by
  simp only [State.dropDirty, hl, hdirty, hlost, Bool.and_self, if_true]

end

/-! ## T stores -/

/-- The bytes that the lanes `ls` of an STT write in a unit of its surface. -/
def unitBytes (f : Surf) (ls : List (Nat × LaneAcc)) : UnitWrite :=
  ls.flatMap fun x => x.2.data.mapIdx fun j b => (f.viewOfs (x.2.ia.toNat - f.base) % 256 + j, (b, none))

/-- The state after the unit of lanes `ls` has been written. -/
def State.unitWritten (u : State) (r : Req) (id : Nat) (ls : List (Nat × LaneAcc)) : State :=
  (((u.updCore r.core fun k =>
    { k with tcache := k.tcache.filter fun x => !(ls.map fun x => x.2.ia.toNat / 64).contains x.line }).updAcc id fun b =>
      { b with lanes := (b.lanes.zipIdx.filter fun x => !ls.any fun y => y.1 == x.2).map (·.1) }).endAcc id).logMisses id

theorem layoutWrite_unit {i st key : Nat} {a : Acc} {l : LaneAcc} {r : Req} {f : Surf} {ow : Id12} {pr : Bool} {ls : List (Nat × LaneAcc)}
    (ha : s.acc? id = some a) (hl : a.lanes[i]? = some l)
    (hr : s.accReq a l = some r) (hkind : a.kind = .store) (hpath : a.path = .t) (hst : l.st = .todo) (hqs : a.needQs = none)
    (hfatal : a.fatalLane = none) (hrun : s.runsGid a.gid = true)
    (hclear : ∀ x ∈ a.lanes, x.st.open = true → s.before a x.ia.toNat a.size = false)
    (hlog : a.logged = true → s.refillFails a.gid a.sl id = false) (hf : s.surfAt l.ia.toNat = some f)
    (hview : f.viewOfs (l.ia.toNat - f.base) = st) (hls : unitLanes a f (st / 256) = ls) (hbank : s.bankBusy a (f.base + st) = false)
    (htodo : ∀ x ∈ ls, x.2.st = .todo) (hgate : s.gateT r l.ia.toNat = (.go key ow pr, t))
    (hwrite : t.writeUnit f st (key - st % 256) (unitBytes f ls) ow = (none, u)) :
    s.layoutWrite id i = u.unitWritten r id ls := by
  have hbefore : (a.lanes.any fun x => x.st.open && s.before a x.ia.toNat a.size) = false := by
    simp only [List.any_eq_false, Bool.and_eq_true, not_and, Bool.not_eq_true]
    exact hclear
  have hfail : (a.logged && s.refillFails a.gid a.sl id) = false := Bool.and_eq_false_imp.mpr hlog
  have hall : (ls.any fun x => x.2.st != .todo) = false := by
    simp only [List.any_eq_false, bne_iff_ne, ne_eq, not_not]
    exact htodo
  unfold unitBytes at hwrite
  simp only [State.layoutWrite, ha, hl, hr, Option.bind_some, hkind, hpath, hst, hqs, hfatal, hrun, hbefore, decide_true, Bool.not_true,
    Option.isSome_none, Bool.or_false, Bool.false_eq_true, if_false, hfail, hf, hview, hls, hbank, hall, hgate, hwrite]
  rfl

end Sys2Proof.Machine

namespace Sys2Proof.Proofs
open Sys2Proof.Machine

/-- Settles O30: each clause's conditions are those that the step tests. -/
theorem unitsAct : Obligations.UnitsAct := by
  intro s
  refine ⟨?_, fun id b e he hk hrun hd hdone hlog hw => congrArg Host.Outcome.next (bankPart_spad he hk hrun hlog hd hdone hw), ?_,
    fun core line l hl hdirty hlost => congrArg Host.Outcome.next (dropDirty_l1 hdirty hlost hl),
    fun die line l hl hdirty hlost => congrArg Host.Outcome.next (dropDirty_rdc hdirty hlost hl),
    fun die line l hl hdirty hlost => congrArg Host.Outcome.next (dropDirty_l2 hdirty hlost hl),
    fun die line l hl hdirty hlost => congrArg Host.Outcome.next (dropDirty_mdc hdirty hlost hl), ?_⟩
  · intro id n e' e x he' hk hrun hpart hrow hlog t he hx p row hsrc hdst
    exact congrArg Host.Outcome.next ((engineUnit_runs he' hk hrun hpart hrow hlog).trans (unitTurn_ready he hx hsrc hdst))
  · intro id b e' e he' hk hrun hd hclear hbank hlog t he hus
    exact congrArg Host.Outcome.next (bankPart_home he' hk hrun hlog hd hclear hbank he hus)
  · intro id i a l r f key ow pr t u ha hl hr hkind hpath hst hqs hfatal hrun hclear hlog hf st ls hbank htodo hgate hwrite
    exact congrArg Host.Outcome.next
      (layoutWrite_unit ha hl hr hkind hpath hst hqs hfatal hrun hclear hlog hf rfl rfl hbank htodo hgate hwrite)

end Sys2Proof.Proofs

/-!
SUPPORT. The end of a team whose slices have all halted, held records and batches, deadlocks and stalls, once each may happen.
-/

namespace Sys2Proof.Machine

variable {s : State} {tid ctx : Nat}

/-- The team once its halt is complete. -/
def Team.halted (t : Team) : Team :=
  { t with life := .fatal, groups := t.groups.map fun (g : Group) => { g with life := .halted, a := g.a.stopSkid, c := g.c.stopSkid } }

section
variable {t : Team} (ht : s.team? tid = some t) (hlife : t.life = .halting) (hquiet : s.quiet t = true)
include ht hlife hquiet

theorem haltComplete_fill {die entry blk : Nat} (hfill : (s.updTeam tid fun _ => t.halted).filling? t.halted = some (die, entry, blk)) :
    let s2 := (s.updTeam tid fun _ => t.halted).writeErrors t.halted
      ((((s.updTeam tid fun _ => t.halted).launch? t.launch).map fun l => l.ltag.toNat).getD 0) 0
    let c := (t.halted.traps.head?.map fun r => r.cause.toNat).getD 0
    s.haltComplete tid = if c = 0x16 ∨ c = 0x17 ∨ c = 0x18 then s2.failFill die entry blk c 0 0 else s2.failFill die entry blk 0x16 3 c := by
  unfold Team.halted at hfill ⊢
  simp only [State.haltComplete, ht, hlife, hquiet, ne_eq, not_true_eq_false, Bool.not_true, Bool.false_eq_true, or_self, if_false, hfill]

variable (hfill : (s.updTeam tid fun _ => t.halted).filling? t.halted = none)
include hfill

/-- A team of no launch: a draw's, or a prompter's whose fill is over. -/
theorem haltComplete_noLaunch (hl : (s.updTeam tid fun _ => t.halted).launch? t.launch = none) :
    s.haltComplete tid = ((((s.updTeam tid fun _ => t.halted).writeErrors t.halted t.ltag.toNat 0).updTeam tid fun t =>
      { t with recorded := true }).settleFatal tid).failDraw t.halted := by
  unfold Team.halted at hfill hl ⊢
  simp only [State.haltComplete, ht, hlife, hquiet, ne_eq, not_true_eq_false, Bool.not_true, Bool.false_eq_true, or_self, if_false, hfill, hl]

theorem haltComplete_aborted {l : Launch} (hl : (s.updTeam tid fun _ => t.halted).launch? t.launch = some l) (ha : l.abort.isSome = true) :
    s.haltComplete tid = ((s.updTeam tid fun _ => t.halted).checkAbort l.lid).failDraw t.halted := by
  unfold Team.halted at hfill hl ⊢
  simp only [State.haltComplete, ht, hlife, hquiet, ne_eq, not_true_eq_false, Bool.not_true, Bool.false_eq_true, or_self, if_false, hfill, hl,
    ha, if_true]

theorem haltComplete_launch {l : Launch} (hl : (s.updTeam tid fun _ => t.halted).launch? t.launch = some l) (ha : l.abort = none) :
    let s2 := (((((s.updTeam tid fun _ => t.halted).writeErrors t.halted l.ltag.toNat 0).updTeam tid fun t =>
      { t with recorded := true }).settleFatal tid).updLaunch l.lid fun l => { l with fatal := true }).failDraw t.halted
    s.haltComplete tid = ((if s2.groupOf l = 0 then s2 else s2.abortFrom l.lid 0).checkLaunch l.lid).checkAbort l.lid := by
  unfold Team.halted at hfill hl ⊢
  simp only [State.haltComplete, ht, hlife, hquiet, ne_eq, not_true_eq_false, Bool.not_true, Bool.false_eq_true, or_self, if_false, hfill, hl,
    ha, Option.isSome_none]

end

theorem deferredTrap_fatal {id lane cause info : Nat} {a : Acc} (ha : s.acc? id = some a) (hf : a.fatalLane = some (lane, cause, info)) :
    s.deferredTrap id = (s.dropWork id).deferTrap a.gid a.sl cause info a.pc a.issuedAt := by
  simp only [State.deferredTrap, ha, hf]

theorem qdeadlock_running {t : Team} {g : Group} (ht : s.team? tid = some t) (hlife : t.life = .running)
    (hg : (t.groups.foldr (insertBy Group.grp) []).find? (fun g => s.deadlocked t g) = some g) :
    s.qdeadlock tid = (s.updGroup g.gid fun g => { g with qmaskf := g.qmask }).deadlockTrap g.gid
      (if g.a.live g.width = 0 then .c else .a) (g.servedCode .a + g.servedCode .c * 16) (g.slice .a).servedPc (g.slice .c).servedPc := by
  simp only [State.qdeadlock, ht, hg, hlife, ne_eq, not_true_eq_false, if_false]

theorem barrierStall_late {t : Team} {g : Group} {sl : Slice} {a : Arrival} (ht : s.team? tid = some t) (hlife : t.life = .running)
    (ha : (t.arrivals sl).head? = some a) (hg : (t.groups.foldr (insertBy Group.grp) []).find? (fun g => t.missing sl g != 0) = some g)
    (hbarto : (s.ctx t.ctx).barto ≠ 0) (hlate : a.at_.toNat + (s.ctx t.ctx).barto.toNat * 1000 ≤ s.time.toNat) :
    s.barrierStall tid sl = s.fatalTrap g.gid sl 0x1C (g.grp + sliceNum sl * 32) (g.slice sl).servedPc none 0 := by
  have hgo : ¬ ((s.ctx t.ctx).barto = 0 ∨ t.life ≠ .running ∨ s.time.toNat < a.at_.toNat + (s.ctx t.ctx).barto.toNat * 1000) := by
    rintro (h | h | h)
    · exact hbarto h
    · exact h hlife
    · exact absurd hlate (Nat.not_le.mpr h)
  simp only [State.barrierStall, ht, ha, hg, hgo, if_false]

end Sys2Proof.Machine

namespace Sys2Proof.Proofs
open Sys2Proof.Machine

/-- Settles O31: each clause's conditions are those that the step tests. -/
theorem trapsComplete : Obligations.TrapsComplete := by
  refine ⟨fun s tid t ht hlife hquiet => ?_, fun s => ⟨fun id a lane cause info ha hf => congrArg Host.Outcome.next (deferredTrap_fatal ha hf),
    fun ctx h hh hfit => ?_, fun ctx b hb hfit => ?_, fun tid t g ht hlife hg => congrArg Host.Outcome.next (qdeadlock_running ht hlife hg),
    fun tid sl t a g ht hlife ha hg hbarto hlate => congrArg Host.Outcome.next (barrierStall_late ht hlife ha hg hbarto hlate)⟩⟩
  · intro t' s1
    exact ⟨fun die entry blk hfill => congrArg Host.Outcome.next (haltComplete_fill ht hlife hquiet hfill),
      fun hfill hl => congrArg Host.Outcome.next (haltComplete_noLaunch ht hlife hquiet hfill hl),
      fun l hfill hl ha => congrArg Host.Outcome.next (haltComplete_aborted ht hlife hquiet hfill hl ha),
      fun l hfill hl ha => congrArg Host.Outcome.next (haltComplete_launch ht hlife hquiet hfill hl ha)⟩
  · refine congrArg Host.Outcome.next (?_ : s.retryError ctx = _)
    simp only [State.retryError, hh, hfit, if_true]
  · refine congrArg Host.Outcome.next (?_ : s.retryBatch ctx = _)
    simp only [State.retryBatch, hb, hfit, if_true]

end Sys2Proof.Proofs

/-!
SUPPORT. The steps of a migration, once each may happen.
-/

namespace Sys2Proof.Machine

variable {s : State} {h k : Nat} {m : Mig}

theorem migDoorbell_taken {v : Nat} (hbase : s.migBase h ≠ 0) (hdie : homeOf (s.migBase h) ≤ 3)
    (hroom : (v + 2 ^ 32 - s.migCons h) % 2 ^ 32 ≤ 64) : s.migDoorbell h v = s.setReg (migRegs h).1 ((migRegs h).2 + 8) 4 v := by
  unfold State.migDoorbell
  rw [if_neg]
  rintro (h0 | hd | hr)
  · exact hbase h0
  · exact absurd hdie (Nat.not_le.mpr hd)
  · exact absurd hroom (Nat.not_le.mpr hr)

section
variable {s1 : State} {bs : List Byte} (hk : (s.home h).migNext = k) (hbase : s.migBase h ≠ 0) (hnext : k ≠ s.migProd h)
  (hroom : (s.home h).migs.length < 8) (hs1 : (s.updHome h fun x => { x with migNext := (k + 1) % 2 ^ 32 }) = s1)
  (hbs : (s.hwRead (s.migAt h k) 32).getD (List.replicate 32 0) = bs)
include hk hbase hnext hroom hs1 hbs

/-- The next command of a home, once its checks have failed. -/
theorem migStart_error {st : Nat} (hcheck : s1.migCheck h k bs = .error st) : s.migStart h = s1.migEnd h k st := by
  simp only [State.migStart, hk, hbase, hnext, Nat.not_le.mpr hroom, or_self, if_false, hs1, hbs, hcheck]

/-- The next command of a home, once its checks have passed. -/
theorem migStart_ok {s2 : State} (hcheck : s1.migCheck h k bs = .ok m)
    (hs2 : (s1.memWrite m.leafAt (plain (leBytes 8 (s1.memNat m.leafAt 8 + 4)))).evictSpan m.newF (2 ^ m.bits) = s2) :
    s.migStart h = (s2.updHome h fun x => { x with migs := x.migs ++ [{ m with dirty := s2.migDue m }] }).copyLines h m
      (List.range (2 ^ (m.bits - 6))) := by
  simp only [State.migStart, hk, hbase, hnext, Nat.not_le.mpr hroom, or_self, if_false, hs1, hbs, hcheck, hs2]

end

theorem migRound_copied (hm : s.mig? h k = some m) (hreads : m.reads = []) (hacks : m.acks = []) (hfrozen : m.frozen = false) :
    s.migRound h k = if m.dirty.length ≤ m.thresh ∨ m.maxRnd ≤ m.round then s.updMig h k fun m => { m with frozen := true }
      else (s.updMig h k fun m => { m with dirty := [], round := m.round + 1 }).copyLines h m m.dirty := by
  simp only [State.migRound, hm, hreads, hacks, hfrozen, List.isEmpty_nil, Bool.not_true, Bool.false_eq_true, or_self, if_false]

theorem migDone_clean (hm : s.mig? h k = some m) (hreads : m.reads = []) (hacks : m.acks = []) (hfrozen : m.frozen = true)
    (hflying : s.migFlying m = false) (hdirty : m.dirty = []) :
    s.migDone h k = (((s.memWrite m.leafAt (plain (leBytes 8 (s.migLeaf m)))).retag m).updHome h fun x =>
      { x with tlb := x.tlb.filter fun t =>
          !(decide (t.base < m.page + 2 ^ m.bits) && decide (m.page < t.base + 2 ^ t.bits)) }).migEnd h k 1 := by
  simp only [State.migDone, hm, hreads, hacks, hfrozen, hflying, hdirty, List.isEmpty_nil, Bool.not_true, Bool.false_eq_true, or_self,
    if_false]

end Sys2Proof.Machine

namespace Sys2Proof.Proofs
open Sys2Proof.Machine

/-- Settles O32: each clause's conditions are those that the step tests. -/
theorem migrations : Obligations.Migrations := by
  intro s h hh
  refine ⟨fun v hbase hdie hroom => ?_, fun hbase hnext hroom => ?_,
    fun k m hm hreads hacks hfrozen => congrArg Host.Outcome.next (migRound_copied hm hreads hacks hfrozen),
    fun k m hm hreads hacks hfrozen hflying hdirty => ?_⟩
  · exact congrArg Host.Outcome.next ((if_pos hh).trans (migDoorbell_taken hbase hdie hroom))
  · intro k s1 bs
    have hexec : exec (.migrationCommandStart h) s = .next (s.migStart h) := congrArg Host.Outcome.next (if_pos hh)
    rw [hexec]
    exact ⟨fun m hcheck => congrArg Host.Outcome.next (migStart_ok rfl hbase hnext hroom rfl rfl hcheck rfl),
      fun st hcheck => congrArg Host.Outcome.next (migStart_error rfl hbase hnext hroom rfl rfl hcheck)⟩
  · exact congrArg Host.Outcome.next (migDone_clean hm hreads hacks hfrozen hflying hdirty)

end Sys2Proof.Proofs

/-!
SUPPORT. A write of an entry of a checked table, in each of its cases.
-/

namespace Sys2Proof.Machine

variable {s : State} {n : Nat} {bs : List Byte}

section
variable {die : Nat} (hdie : die ≤ 3) (hn : n ≤ 63) (hbase : s.reg die 8 8 ≠ 0) (hbs : s.hwRead (s.reg die 8 8 + 64 * n) 64 = some bs)
include hdie hn hbase hbs

theorem prtWrite_eq : s.prtWrite die n =
    let s1 := s.updHome die fun x => { x with prts := x.prts.filter fun q => q.entry != n }
    if bitN (fieldAt bs 0 8) 0 = false then s1
    else if s1.prtBad die bs (prtOf n bs) = true then
      s1.deviceRecord 0x10 (die * 64) (s1.stampOf (s.reg die 8 8 + 64 * n)) n (s.reg die 8 8 + 64 * n) 0
    else s1.updHome die fun x => { x with prts := x.prts ++ [prtOf n bs] } := by
  simp only [State.prtWrite, Nat.not_lt.mpr hdie, Nat.not_lt.mpr hn, hbase, or_self, if_false, hbs, Bool.not_eq_true']

end

theorem fillTimeout_over {die blk : Nat} {m : Merge} (hm : s.merge? die n blk = some m) (hp : m.prt.ptmo ≠ 0)
    (hover : m.since.toNat + m.prt.ptmo * 16000 ≤ s.time.toNat) : s.fillTimeout die n blk = s.failFill die n blk 0x16 4 0 := by
  simp only [State.fillTimeout, hm, hp, Nat.not_lt.mpr hover, or_self, if_false]

theorem surfBase_descs (s : State) (d : List (Nat × List Byte)) : ({ s with descs := d } : State).surfBase = s.surfBase := rfl

theorem stamp_descs (s : State) (d : List (Nat × List Byte)) (k : Nat) : ({ s with descs := d } : State).stamp k = s.stamp k := rfl

theorem surfWrite_eq {k : Nat} (hk : s.phys (s.surfBase + 64 * n) = some k)
    (hbs : s.hwRead (s.surfBase + 64 * n) 64 = some bs) (hbase : s.surfBase ≠ 0) :
    s.surfWrite n =
      let s1 : State := { s with descs := s.descs.filter fun d => d.1 != s.surfBase + 64 * n }
      if bitN (fieldAt bs 0 8) 0 = false then s1
      else if s1.surfBad n bs = true then s1.deviceRecord 0x13 (unitOf s.surfBase) (s.stamp (k / 65536)) n (s.surfBase + 64 * n) 0
      else { s1 with descs := (s.surfBase + 64 * n, bs) :: s1.descs } := by
  simp only [State.surfWrite, hk, hbs, Option.getD_some, surfBase_descs, stamp_descs, hbase, false_or, Bool.not_eq_true']

theorem ctxWrite_eq (hbase : s.ctxBase ≠ 0) (hbs : s.hwBytes (s.descAt n) 512 = bs) :
    s.ctxWrite n = if bitN (fieldAt bs 0 4) 31 = false then s.updCtx n fun c => { c with valid := false }
      else if (s.ctx n).valid = true then s
      else if descBad n bs = true ∨ s.ctxBusy n = true then
        s.deviceRecord 0x14 (unitOf s.ctxBase) (s.stampOf (s.descAt n)) n (s.descAt n) 0
      else s.acceptCtx n bs := by
  simp only [State.ctxWrite, hbase, if_false, hbs, Bool.not_eq_true']

theorem gfxWrite_eq (hbase : s.gfxBase ≠ 0) (hbs : s.hwBytes (s.gfxAt n) 64 = bs) :
    s.gfxWrite n = if bitN (fieldAt bs 0 8) 0 = false then { s with gfx := s.gfx.filter fun g => g.1 != n }
      else if (s.gfx.any fun g => g.1 == n) = true then s
      else if gfxBad bs = true then s.deviceRecord 0x14 (unitOf s.gfxBase) (s.stampOf (s.gfxAt n)) n (s.gfxAt n) 0
      else { s with gfx := s.gfx ++ [(n, bs)] } := by
  simp only [State.gfxWrite, hbase, if_false, hbs, Bool.not_eq_true']

end Sys2Proof.Machine

namespace Sys2Proof.Proofs
open Sys2Proof.Machine

/-- Settles O33: each clause takes one branch of the write of its table. -/
theorem checkedTables : Obligations.CheckedTables := by
  intro s n
  refine ⟨fun die bs hdie hn hbase hbs => ?_, fun die blk m hm hp hover => congrArg Host.Outcome.next (fillTimeout_over hm hp hover),
    fun k bs hk hbs hbase => ?_, fun hbase => ?_, fun hbase => ?_⟩
  · have hexec : exec (.prtEntryWrite die n) s = .next (s.prtWrite die n) := rfl
    rw [hexec, prtWrite_eq hdie hn hbase hbs]
    intro s1 v bad
    refine ⟨fun hv => congrArg _ (if_pos hv), fun hv hbad => congrArg _ ?_, fun hv hbad => congrArg _ ?_⟩
    · exact (if_neg (ne_false_of_eq_true hv)).trans (if_neg (ne_true_of_eq_false hbad))
    · exact (if_neg (ne_false_of_eq_true hv)).trans (if_pos hbad)
  · have hexec : exec (.surfaceDescriptorWrite n) s = .next (s.surfWrite n) := rfl
    rw [hexec, surfWrite_eq hk hbs hbase]
    intro s1 v
    refine ⟨fun hv => congrArg _ (if_pos hv), fun hv hbad => congrArg _ ?_, fun hv hbad => congrArg _ ?_⟩
    · exact (if_neg (ne_false_of_eq_true hv)).trans (if_neg (ne_true_of_eq_false hbad))
    · exact (if_neg (ne_false_of_eq_true hv)).trans (if_pos hbad)
  · have hexec : exec (.contextDescriptorWrite n) s = .next (s.ctxWrite n) := rfl
    rw [hexec, ctxWrite_eq hbase rfl]
    intro bs v
    refine ⟨fun hv => congrArg _ (if_pos hv), fun hv hvalid hbad hbusy => congrArg _ ?_, fun hv hvalid hbad => congrArg _ ?_⟩
    · refine (if_neg (ne_false_of_eq_true hv)).trans ((if_neg (ne_true_of_eq_false hvalid)).trans (if_neg ?_))
      exact fun h => h.elim (ne_true_of_eq_false hbad) (ne_true_of_eq_false hbusy)
    · exact (if_neg (ne_false_of_eq_true hv)).trans ((if_neg (ne_true_of_eq_false hvalid)).trans (if_pos (.inl hbad)))
  · have hexec : exec (.graphicsContextEntryWrite n) s = .next (s.gfxWrite n) := rfl
    rw [hexec, gfxWrite_eq hbase rfl]
    intro bs v held
    refine ⟨fun hv => congrArg _ (if_pos hv), fun hv hheld hbad => congrArg _ ?_, fun hv hheld hbad => congrArg _ ?_⟩
    · exact (if_neg (ne_false_of_eq_true hv)).trans
        ((if_neg (ne_true_of_eq_false hheld)).trans (if_neg (ne_true_of_eq_false hbad)))
    · exact (if_neg (ne_false_of_eq_true hv)).trans ((if_neg (ne_true_of_eq_false hheld)).trans (if_pos hbad))

end Sys2Proof.Proofs

/-!
SUPPORT. Kicks, the dispatcher's turn, ageing, reserved cores and deadline holds.
-/

namespace Sys2Proof.Machine

variable {s : State} {ctx lid lv : Nat} {l : Launch} {t : Turn}

/-! ## Messages and kicks -/

theorem once_fresh {h : MsgHdr} (hopen : s.linkOpen = true) (hnew : s.arrival h.slot h.seq = .fresh) (go : State → State) :
    s.once h go = go s := by
  simp only [State.once, hopen, hnew, Bool.not_true, Bool.false_eq_true, if_false]

theorem kickLaunches_invalid (h : s.ctxBase = 0 ∨ (s.ctx ctx).valid = false) : s.kickLaunches ctx = s := by
  have hno : s.ctxBase = 0 ∨ (!(s.ctx ctx).valid) = true := h.imp_right fun h => by rw [h]; rfl
  unfold State.kickLaunches
  dsimp only
  rw [if_pos hno]

theorem kickLaunches_valid (hbase : s.ctxBase ≠ 0) (hvalid : (s.ctx ctx).valid = true) :
    s.kickLaunches ctx =
      if 2 ^ (s.ctx ctx).lqlog < ringCount (s.descNat ctx 20) (s.ctx ctx).lqcons.toNat then
        s.deviceRecord 0x18 0 (s.ctx ctx).owner ctx 0 0
      else (List.range (ringCount (s.descNat ctx 20) (s.ctx ctx).lqcons.toNat)).foldl (fun (s' : State) i =>
        s'.takePacket ctx (((s.ctx ctx).lqcons.toNat + i) % 2 ^ 32)) s := by
  simp only [State.kickLaunches, hbase, hvalid, Bool.not_true, Bool.false_eq_true, or_self, if_false]

theorem ready_tested (s : State) (l : Launch) :
    (s.tested l).ready = (s.eventMet (s.tested l).wait0 (s.tested l).wval0 && s.eventMet (s.tested l).wait1 (s.tested l).wval1) := by
  unfold State.tested
  dsimp only
  split <;> rfl

/-! ## The dispatcher's turn -/

/-- A fold that takes an element or keeps what it has ends with one of the elements, or with what it began with. -/
theorem foldl_takes_mem {α : Type} {f : Option α → α → Option α} (hf : ∀ b x, f b x = some x ∨ f b x = b) (xs : List α) (b : Option α) :
    xs.foldl f b = b ∨ ∃ x ∈ xs, xs.foldl f b = some x := by
  induction xs generalizing b with
  | nil => exact .inl rfl
  | cons y xs ih =>
    rw [List.foldl_cons]
    rcases ih (f b y) with h | ⟨x, hx, h⟩
    · rcases hf b y with hy | hb
      · exact .inr ⟨y, List.mem_cons_self .., h.trans hy⟩
      · exact .inl (h.trans hb)
    · exact .inr ⟨x, List.mem_cons_of_mem _ hx, h⟩

theorem mem_of_foldl_takes {α : Type} {f : Option α → α → Option α} {xs : List α} {x : α} (h : xs.foldl f none = some x)
    (hf : ∀ b x, f b x = some x ∨ f b x = b) : x ∈ xs := by
  rcases foldl_takes_mem hf xs none with hnone | ⟨y, hy, hfold⟩
  · exact absurd (hnone.symm.trans h) nofun
  · cases hfold.symm.trans h
    exact hy

theorem turnOf_waiting (h : s.turnOf l = some t) : s.waiting l = true := by
  unfold State.turnOf at h
  by_cases hw : s.waiting l = true
  · exact hw
  · rw [if_pos (by simpa using hw)] at h
    cases h

/-- The turn of a level is of a launch of it that can place something. -/
theorem turnAt_some (h : s.turnAt lv = some (l, t)) : l ∈ s.launches ∧ l.lv = lv ∧ s.turnOf l = some t ∧ s.waiting l = true := by
  unfold State.turnAt at h
  dsimp only at h
  have hmem : (l, t) ∈ (s.launches.filter fun l => l.lv == lv).filterMap fun l => (s.turnOf l).map fun t => (l, t) := by
    refine mem_of_foldl_takes h fun b x => ?_
    cases b with
    | none => exact .inl rfl
    | some y =>
      dsimp only
      split
      · exact .inl rfl
      · exact .inr rfl
  obtain ⟨l', hl', hmap⟩ := List.mem_filterMap.mp hmem
  obtain ⟨t', ht', heq⟩ := Option.map_eq_some_iff.mp hmap
  cases heq
  obtain ⟨hin, hlv⟩ := List.mem_filter.mp hl'
  exact ⟨hin, by simpa using hlv, ht', turnOf_waiting ht'⟩

/-- The turn is of the highest level that has one. -/
theorem turn_highest {v : Nat} (hturn : s.turn = some (l, t)) (hat : s.turnAt lv = some (l, t)) (hv : lv < v) (hv24 : v < 24) :
    s.turnAt v = none := by
  obtain ⟨-, hlv, -⟩ := turnAt_some hat
  obtain ⟨above, w, below, hsplit, hw, hnone⟩ := List.findSome?_eq_some_iff.mp hturn
  obtain ⟨-, hlw, -⟩ := turnAt_some hw
  have hsorted : (List.range 24).reverse.Pairwise (fun a b => b < a) := by
    rw [List.pairwise_reverse]
    exact List.pairwise_lt_range
  rw [hsplit] at hsorted
  have hmem : v ∈ above ++ w :: below := by
    rw [← hsplit, List.mem_reverse, List.mem_range]
    exact hv24
  rcases List.mem_append.mp hmem with h | h
  · exact hnone v h
  · rcases List.mem_cons.mp h with rfl | h
    · omega
    · have := (List.pairwise_cons.mp (List.pairwise_append.mp hsorted).2.1).1 v h
      omega

/-! ## Ageing, reserved cores and deadlines -/

theorem lv_agedLaunch (hdl : l.dl = false) (hstep : (s.ctx l.ctx).agelim ≠ 0) (hlv : l.lv ≤ 21) (hw : s.waiting l = true)
    (hfill : ¬(l.kind.fills = true ∧ l.next ≠ 0)) :
    (s.agedLaunch l).lv = min 21 (l.lv + (s.time.toNat - l.since.toNat) / ((s.ctx l.ctx).agelim * 1000)) := by
  have hstep' : (s.ctx l.ctx).agelim * 1000 ≠ 0 := by omega
  unfold State.agedLaunch
  dsimp only
  split
  case isTrue h =>
    have hge : 21 ≤ l.lv := by
      rcases h with h | h | h | h | h
      · exact absurd h (ne_true_of_eq_false hdl)
      · exact absurd h hstep'
      · exact h
      · rw [hw] at h
        cases h
      · exact absurd h hfill
    rw [Nat.le_antisymm hlv hge, Nat.min_eq_left (Nat.le_add_right ..)]
  case isFalse =>
    unfold Launch.lv at hlv ⊢
    dsimp only
    generalize (s.time.toNat - l.since.toNat) / ((s.ctx l.ctx).agelim * 1000) = n
    omega

theorem placementReserve_keeps {c : Nat} {cs : List Nat} (hl : s.launch? lid = some l) (hw : s.waiting l = true) (hdl : l.dl = false)
    (hresv : l.resv = none) (hhigh : ∀ m ∈ s.launches, s.waiting m = true → m.lv ≤ l.lv) (hlong : l.waits.toNat + 100000 ≤ s.time.toNat)
    (hturn : s.turnOf l = none) (hfree : (s.without l.lv).turnOf l = some t) (hcores : t.cores = c :: cs) :
    s.placementReserve lid =
      ((c :: cs).foldl (fun (s : State) c => s.updCore c fun k => { k with kept := some lid }) s).updLaunch lid fun l =>
        { l with resv := some c } := by
  have hno : (s.launches.any fun m => s.waiting m && decide (l.lv < m.lv)) = false := by
    simp only [List.any_eq_false, Bool.and_eq_true, decide_eq_true_eq, not_and, Nat.not_lt]
    exact hhigh
  simp only [State.placementReserve, hl, hw, hdl, hresv, hno, Nat.not_lt.mpr hlong, hturn, hfree, Option.map_some, hcores, Bool.not_true,
    Option.isSome_none, Bool.false_eq_true, or_self, if_false]

theorem deadlineHold_starts (hl : s.launch? lid = some l) (hdl : l.dl = true) (hchecked : l.checked = true) (hholding : l.holding = false)
    (hstart : l.start ≤ (s.time.toNat : Int)) :
    s.deadlineHold lid = ((((l.cores.foldl (fun (u : State) c => u.updCore c fun k =>
      { k with dlHeld := k.dlHeld ++ [lid], heldAt := u.time }) s).updLaunch lid
        fun l => { l with holding := true }).stopCores l.cores none).abandonSpent).govern := by
  simp only [State.deadlineHold, hl, hdl, hchecked, hholding, Int.not_lt.mpr hstart, Bool.not_true, Bool.false_eq_true, or_self, if_false]

end Sys2Proof.Machine

namespace Sys2Proof.Proofs
open Sys2Proof.Machine

/-- Settles O34: a kick by its branches; the turn by the order of the levels. -/
theorem launching : Obligations.Launching := by
  refine ⟨fun s ctx => ⟨rfl, fun h hopen hnew => ⟨fun hk => ?_, fun hk => ?_⟩, kickLaunches_invalid, fun hbase hvalid => ?_, ?_⟩,
    fun s => ⟨fun l p hturn => ?_, fun lv l t hturn hat v hv hv24 => turn_highest hturn hat hv hv24, fun lv l t hat => turnAt_some hat,
      fun lid => rfl, fun l hdl hstep hlv hw hfill => lv_agedLaunch hdl hstep hlv hw hfill,
      fun lid l c cs t hl hw hdl hresv hhigh hlong hturn hfree hcores =>
        congrArg Host.Outcome.next (placementReserve_keeps hl hw hdl hresv hhigh hlong hturn hfree hcores),
      fun lid l hl hdl hchecked hholding hstart =>
        congrArg Host.Outcome.next (deadlineHold_starts hl hdl hchecked hholding hstart)⟩⟩
  · exact congrArg Host.Outcome.next ((once_fresh hopen hnew _).trans (if_neg (ne_true_of_eq_false hk)))
  · exact congrArg Host.Outcome.next ((once_fresh hopen hnew _).trans (if_pos hk))
  · intro cons n
    rw [kickLaunches_valid hbase hvalid]
    exact ⟨fun h => if_pos h, fun h => if_neg (Nat.not_lt.mpr h)⟩
  · intro l hl
    obtain ⟨l₀, -, rfl⟩ := List.mem_map.mp hl
    exact ready_tested s l₀
  · refine congrArg Host.Outcome.next (?_ : s.teamPlace = _)
    simp only [State.teamPlace, hturn]

end Sys2Proof.Proofs

/-!
SUPPORT. Restored teams, retired groups and granted blocks, once each may happen.
-/

namespace Sys2Proof.Machine

variable {s : State} {tid gid n : Nat} {t : Team} {g : Group}

theorem teamRestore_placing {l : Launch} {p : Spot} (ht : s.team? tid = some t) (hlife : t.life = .placing)
    (hturn : s.aged.turn = some (l, .back tid p)) : s.teamRestore tid = ((s.aged.served l).rebuild t p).placed l.lid := by
  simp only [State.teamRestore, ht, hturn, ne_eq, not_true_eq_false, if_false, hlife, if_true]

theorem teamRestore_stopped {l : Launch} {p : Spot} {seq : W32} {run units : Nat} (ht : s.team? tid = some t)
    (hlife : t.life = .stopped seq run units none) (hturn : s.aged.turn = some (l, .back tid p)) :
    s.teamRestore tid = (s.aged.served l).restoreTeam t p := by
  have hne : ¬ TeamLife.stopped seq run units none = .placing := nofun
  simp only [State.teamRestore, ht, hturn, ne_eq, not_true_eq_false, if_false, hlife, hne]

section
variable {p : Spot} {seq : W32} {run units : Nat} {bs : List Byte} {r : State} (hlife : t.life = .stopped seq run units none)
  (hbs : s.hwGet ((s.ctx t.ctx).savebase.toNat + run * 65536) t.imageLen = bs)
  (hr : (s.updCtx t.ctx fun c => { c with runs := c.runs.erase (run, units) }) = r)
include hlife hbs hr

theorem restoreTeam_refused (hbad : s.checkSaved t bs ≠ 0) : s.restoreTeam t p = r.refuseRestore t (s.checkSaved t bs) := by
  simp only [State.restoreTeam, hlife, hbs, hr, ne_eq, hbad, not_false_eq_true, if_true]

theorem restoreTeam_good (hgood : s.checkSaved t bs = 0) :
    s.restoreTeam t p = ((r.setSave ((r.save t.ctx).mark (fieldAt (bs.take 64) 4 4))).rebuild
      (t.fromBody ((s.ctx t.ctx).bodyOf (bs.take 64) ((bs.drop 64).take t.bodyLen))) p).placed t.launch := by
  simp only [State.restoreTeam, hlife, hbs, hr, ne_eq, hgood, not_true_eq_false, if_false]

end

section
variable (ht : s.teamOf? gid = some t) (hg : t.group? gid = some g) (hgreen : g.life = .green) (hlife : t.life = .running)
  (hdrained : s.drained gid = true)
include ht hg hgreen hlife hdrained

/-- The last group of its team to retire. -/
theorem groupRetire_last (hall : ∀ x ∈ t.groups, x.gid = gid) :
    s.groupRetire gid = (s.touchPixels t g).teamRetired t (min g.step t.minStep) := by
  have hlast : (t.groups.all fun x => x.gid == gid) = true := by
    simp only [List.all_eq_true, beq_iff_eq]
    exact hall
  simp only [State.groupRetire, ht, hg, hgreen, hlife, hdrained, ne_eq, not_true_eq_false, Bool.not_true, Bool.false_eq_true, or_self,
    if_false, hlast, if_true]

theorem groupRetire_other (hother : ∃ x ∈ t.groups, x.gid ≠ gid) :
    s.groupRetire gid = ((s.touchPixels t g).freeGroup g).updTeam t.id fun t =>
      { t with groups := t.groups.filter fun x => x.gid != gid, minStep := min t.minStep g.step } := by
  have hmore : (t.groups.all fun x => x.gid == gid) = false := by
    obtain ⟨x, hx, hne⟩ := hother
    rw [List.all_eq_false]
    exact ⟨x, hx, by simpa using hne⟩
  simp only [State.groupRetire, ht, hg, hgreen, hlife, hdrained, ne_eq, not_true_eq_false, Bool.not_true, Bool.false_eq_true, or_self,
    if_false, hmore]

end

theorem racqGrant_raised {r : State} (ht : s.teamOf? gid = some t) (hg : t.group? gid = some g) (hn : g.racq? = some n)
    (hlife : t.life.holds = true) (hr : s.raiseBlocks g (s.ctx t.ctx).owner n = some r) : s.racqGrant gid = r.wakeRacq gid := by
  simp only [State.racqGrant, ht, hg, Option.bind_some, hn, Option.map_some, hlife, if_true, hr, Option.getD_some]

theorem reserveGrant_lent {c lack : Nat} {qs : List Nat} (hidle : s.coreIdle c = true)
    (hg : ((s.coreGroups c).filter fun g => g.life == .resident).find? (fun g => g.racq?.isSome) = some g) (hn : g.racq? = some n)
    (hlack : (n - g.held - ((List.range (n - g.held + 1)).reverse.find? fun k =>
      (s.generalBlocks c g.width k g.ownSlot).isSome).getD 0) * quartersOf g.width = lack)
    (hroom : lack ≤ (s.core c).reserve) (hqs : takeQuarters (quartersOf g.width) (n - g.held) (s.usedQuarters c) = some qs) :
    s.reserveGrant c = (s.addBlocks g (((s.teamOf? g.gid).map fun t => (s.ctx t.ctx).owner).getD 0xFFF) qs lack).wakeRacq g.gid := by
  simp only [State.reserveGrant, hidle, Bool.not_true, Bool.false_eq_true, if_false, hg, hn, Option.getD_some, hlack,
    Nat.not_lt.mpr hroom, hqs]

end Sys2Proof.Machine

namespace Sys2Proof.Proofs
open Sys2Proof.Machine

/-- Settles O35: each clause's conditions are those that the step tests. -/
theorem teamsAndGroups : Obligations.TeamsAndGroups := by
  refine ⟨fun s tid t ht => ⟨fun l p hlife hturn => congrArg Host.Outcome.next (teamRestore_placing ht hlife hturn),
      fun l p seq run units hlife hturn => ?_⟩, fun s => ⟨fun gid => rfl, fun gid t g ht hg hgreen hlife hdrained =>
      ⟨fun hall => congrArg Host.Outcome.next (groupRetire_last ht hg hgreen hlife hdrained hall),
        fun hother => congrArg Host.Outcome.next (groupRetire_other ht hg hgreen hlife hdrained hother)⟩,
      fun gid t g n r ht hg hn hlife hr => congrArg Host.Outcome.next (racqGrant_raised ht hg hn hlife hr),
      fun c g n qs hidle hg hn => ?_⟩⟩
  · intro u c bs r
    have hrestore := teamRestore_stopped ht hlife hturn
    exact ⟨fun hbad => congrArg Host.Outcome.next (hrestore.trans (restoreTeam_refused hlife rfl rfl hbad)),
      fun hgood => congrArg Host.Outcome.next (hrestore.trans (restoreTeam_good hlife rfl rfl hgood))⟩
  · intro k owner free lack hroom hqs
    exact congrArg Host.Outcome.next (reserveGrant_lent hidle hg hn rfl hroom hqs)

end Sys2Proof.Proofs

/-!
SUPPORT. A state whose registers do not stand in order: a release there changes what SURFBASE reads, and with it the surface that a draw's
TARGET names.
-/

namespace Sys2Proof.Machine

/-- Registers out of order, so that the third byte of SURFBASE shows once the first byte of the count of lost records has become zero. -/
def shuffledRegs : Memory := [(0x10009, 0x10), (0x1004C, 0xFF), (0x1000A, 0x10)]

def plainKernel : Kernel :=
  { cmax := 1, cmin := 1, ablk := 1, grps := 1, gen := true, pair := false, width := 64, scr := 0, qd := [1, 1, 1, 1], mprim := 0, mvert := 0 }

/-- A tile pass with no invocation, which has touched the pixel at the origin. -/
def overPass : TilePass := { tile := 0, core := 0, base := 0, sub := 0, nextPrim := 0, touched := [0], team := none }

/-- A draw whose one tile pass is over, with another tile still to do. -/
def overDraw : Draw :=
  { did := 0, ctx := 0, pkt := 0, at_ := 0, bytes := [], stage := .tiles, header := none, mkern := plainKernel, fkern := plainKernel,
    launch := 0, takenAt := 0, frame := 0, outputs := [], pages := [], prims := [], lists := [(1, [])], binned := true,
    passes := [overPass], doneTiles := [], fatal := false }

/-- A dirty line of a page that is not mapped: the home drops it and counts a lost record. -/
def unmappedLine : Line :=
  { line := 0x8000, data := 0, valid := 1, dirty := 1, wide := false, owner := 0, prot := false, frame := 0, poison := [], writers := [] }

/-- The draw's TARGET is a surface of one pixel at IA 0, which is mapped; the core of its pass holds the dirty line. -/
def shuffled : State :=
  let s := (State.reset.updHome 0 fun h => { h with tlb := [{ base := 0, bits := 21, leaf := 3, at_ := 0 }] }).updCore 0 fun k =>
    { k with l1 := [unmappedLine] }
  { s with regs := shuffledRegs, descs := [(0x1000, [])], draws := [overDraw] }

/-- The step ends in a state in which `p` holds. -/
def outcome (o : Host.Outcome State Fault Refusal) (p : State → Bool) : Bool :=
  match o with
  | .next t => p t
  | _ => false

/-- The L2 of die 0 holds no line. -/
def l2Empty (s : State) : Bool := (s.l2Of 0).isEmpty

theorem shuffled_target : shuffled.targetOf? overDraw = some (surfOf 0 []) := by decide +kernel

/-- The write-out finds no TARGET any more, and writes no pixel. -/
theorem shuffled_writesNothing : outcome (exec (.tileWriteOut 0) shuffled) l2Empty = true := by decide +kernel

end Sys2Proof.Machine

namespace Sys2Proof.Proofs
open Sys2Proof.Machine

/-- Refutes O37: the statement has TARGET read before the release of a write-out, and the model reads it after. The two differ where the
registers do not stand in the order of their canonical form, which the statement does not ask for: the count of lost records, written in the
release, uncovers a byte of SURFBASE. -/
theorem not_drawing : ¬ Obligations.Drawing := by
  rintro ⟨-, -, h⟩
  obtain ⟨-, -, hwrite⟩ := h shuffled 0 overDraw (surfOf 0 []) rfl rfl shuffled_target overPass (by decide +kernel)
  have hx := congrArg (fun o => outcome o l2Empty) (hwrite (by decide +kernel) (by decide +kernel))
  exact absurd (hx.symm.trans shuffled_writesNothing) (by decide +kernel)

end Sys2Proof.Proofs

/-!
SUPPORT. The fields of an output, a write of its control register, and a change of HDCP, each in its cases.
-/

namespace Sys2Proof.Machine

variable {s : State} {v : Nat}

theorem fieldStart_begun {k : Int} {tf : Nat} (hen : s.viewEn v = true) (hnow : s.fieldNow v = some (k, tf)) :
    s.fieldStart v =
      let s1 := (s.updView v fun x => { x with nextField := BitVec.ofNat 64 (tf + 1), sel := bitN (s.viewReg v 0x10 4) 0 })
      let s2 := s1.setReg 0 (0x100034 + 0x40 * v) 4 (s1.viewReg v 0x34 4 + 1)
      let s3 := s2.owners.foldl (fun (s : State) o => s.latchOwner v tf o) s2
      let il := bitN (s3.viewReg v 0x1C 4) 30
      let s4 := s3.compose v fun y => !il || (y : Int) % 2 == k % 2
      let s5 := (s4.capturesAt v tf).foldl State.capture s4
      let s6 := s5.owners.foldl State.departures s5
      if (s6.fieldNow v).isSome then { s6 with due := s6.due ++ [.fieldStart v] } else s6 := by
  unfold State.fieldStart
  rw [if_neg (by rw [hen]; decide), hnow]

/-- What a write of an output's control register leaves in it. -/
def State.putControl (s : State) (v : Nat) (en il err : Bool) : State :=
  s.setReg 0 (0x10001C + 0x40 * v) 4 (boolNat en * 2 ^ 31 + boolNat il * 2 ^ 30 + boolNat err * 2 ^ 29)

theorem outputEnable_off {w : Nat} (hw : bitN w 31 = false) :
    s.outputEnable v w =
      let off := (s.putControl v false (bitN w 30) (bitN (s.viewReg v 0x1C 4) 29 && !bitN w 29)).emit v
      off.owners.foldl State.departures off := by
  unfold State.outputEnable
  dsimp only
  rw [if_pos (by rw [hw]; decide)]
  rfl

theorem outputEnable_refused {w : Nat} (hw : bitN w 31 = true) (hno : (s.bandwidth v (bitN w 30)).any (s.fitsBandwidth v) = false) :
    s.outputEnable v w = s.putControl v (bitN (s.viewReg v 0x1C 4) 31) (bitN (s.viewReg v 0x1C 4) 30) true := by
  unfold State.outputEnable
  dsimp only
  rw [if_neg (by rw [hw]; decide), if_neg (by rw [hno]; decide)]
  rfl

theorem outputEnable_on {w : Nat} (hw : bitN w 31 = true) (hfits : (s.bandwidth v (bitN w 30)).any (s.fitsBandwidth v) = true) :
    s.outputEnable v w =
      let put := s.putControl v true (bitN w 30) ((bitN (s.viewReg v 0x1C 4) 29 && !bitN w 29) || (decide (4 ≤ v) && s.senderBad (v - 4)))
      if bitN (s.viewReg v 0x1C 4) 31 = true then put
      else (put.setReg 0 (0x100034 + 0x40 * v) 4 0).updView v fun x => { x with nextField := s.time } := by
  unfold State.outputEnable
  dsimp only
  rw [if_neg (by rw [hw]; decide), if_pos hfits]
  rfl

theorem hdcpChange_same {active : Bool}
    (hsame : ((s.view v).hdcp && !active && decide (v ≤ 3) && (s.updView v fun x => { x with hdcp := active }).viewEn v) = false) :
    s.hdcpChange v active = s.updView v fun x => { x with hdcp := active } := by
  unfold State.hdcpChange
  dsimp only
  rw [if_neg (by rw [hsame]; decide)]

theorem hdcpChange_again {active : Bool}
    (hagain : ((s.view v).hdcp && !active && decide (v ≤ 3) && (s.updView v fun x => { x with hdcp := active }).viewEn v) = true) :
    s.hdcpChange v active =
      let s1 := s.updView v fun x => { x with hdcp := active }
      s1.freeW.2.compose v fun y => decide (s1.freeW.1.toNat % s1.freeW.2.viewH v ≤ y) := by
  unfold State.hdcpChange
  dsimp only
  rw [if_pos hagain]

end Sys2Proof.Machine

namespace Sys2Proof.Proofs
open Sys2Proof.Machine

/-- Settles O38: a field by its steps, and a write of the control register and a change of HDCP by their branches. -/
theorem outputs : Obligations.Outputs := by
  intro s v
  refine ⟨fun k tf hen hnow => congrArg Host.Outcome.next (fieldStart_begun hen hnow), fun w => ?_, fun active => ?_⟩
  · intro off was err put il err'
    refine ⟨fun hw => congrArg Host.Outcome.next (outputEnable_off hw), fun hw hno => ?_, fun b hw hb hfits => ?_⟩
    · refine congrArg Host.Outcome.next (outputEnable_refused hw ?_)
      cases hb : s.bandwidth v il with
      | none => rfl
      | some b => exact hno b hb
    · have hany : (s.bandwidth v il).any (s.fitsBandwidth v) = true := by
        rw [hb]
        exact hfits
      exact ⟨fun hwas => congrArg Host.Outcome.next ((outputEnable_on hw hany).trans (if_pos hwas)),
        fun hwas => congrArg Host.Outcome.next ((outputEnable_on hw hany).trans (if_neg (ne_true_of_eq_false hwas)))⟩
  · intro s1 again
    exact ⟨fun hsame => congrArg Host.Outcome.next (hdcpChange_same hsame),
      fun hagain => congrArg Host.Outcome.next (hdcpChange_again hagain)⟩

end Sys2Proof.Proofs

/-!
SUPPORT. Messages from endpoints: by their numbers, and what each kind does.
-/

namespace Sys2Proof.Machine

variable {s : State} {h : MsgHdr}

/-! ## The number of a message -/

theorem once_closed (hclosed : s.linkOpen = false) (go : State → State) : s.once h go = s := by
  simp only [State.once, hclosed, Bool.not_false, if_true]

section
variable (hopen : s.linkOpen = true) (go : State → State)
include hopen

theorem once_again (hn : s.arrival h.slot h.seq = .again) : s.once h go = go s := by
  simp only [State.once, hopen, hn, Bool.not_true, Bool.false_eq_true, if_false]

theorem once_dup (hn : s.arrival h.slot h.seq = .dup) : s.once h go = s.dupe h.slot h.seq := by
  simp only [State.once, hopen, hn, Bool.not_true, Bool.false_eq_true, if_false]

theorem once_far (hn : s.arrival h.slot h.seq = .far) : s.once h go = s := by
  simp only [State.once, hopen, hn, Bool.not_true, Bool.false_eq_true, if_false]

theorem once_unknown (hn : s.arrival h.slot h.seq = .unknown) : s.once h go = s.countDiscard (s.portFor h.slot) := by
  simp only [State.once, hopen, hn, Bool.not_true, Bool.false_eq_true, if_false]

end

/-! ## A message accepted before -/

/-- A change of a stream that leaves its slot. -/
theorem find?_updWhere_slot {xs : List Stream} {f : Stream → Stream} (hf : ∀ x, (f x).slot = x.slot) (n : Nat) :
    (updWhere xs (fun x => x.slot == n) f).find? (fun x => x.slot == n) = (xs.find? fun x => x.slot == n).map f := by
  have hslot : ∀ x : Stream, (if (x.slot == n) = true then f x else x).slot = x.slot := by
    intro x
    split
    · exact hf x
    · rfl
  rw [updWhere, List.find?_map]
  simp only [Function.comp_def, hslot]
  cases hfind : xs.find? fun x => x.slot == n with
  | none => rfl
  | some x => simp only [Option.map_some, List.find?_some hfind, if_true]

/-- The stream of a slot after a change of it: the stream as changed, or no stream. -/
theorem stream_updStream {f : Stream → Stream} (hf : ∀ x, (f x).slot = x.slot) (n : Nat) :
    (s.updStream n f).stream n = ((s.streams.find? fun x => x.slot == n).map f).getD (Stream.reset n) := by
  rw [State.stream, State.updStream, find?_updWhere_slot hf]

theorem unackd_dupe {slot : Nat} {seq : W32} {x : Stream} (hx : x ∈ (s.dupe slot seq).streams) (hslot : x.slot = slot) :
    x.unackd = true := by
  obtain ⟨y, -, rfl⟩ := List.mem_map.mp hx
  split at hslot
  · rw [if_pos ‹_›]
  case isFalse hne => exact absurd (beq_iff_eq.mpr hslot : (y.slot == slot) = true) hne

/-- A message that an acknowledgement sends again keeps all but its time. -/
theorem out_dupe {slot : Nat} {seq : W32} {m : Msg} (hm : m ∈ ((s.dupe slot seq).stream slot).out) :
    ∃ m' ∈ (s.stream slot).out, m = { m' with since := m.since } ∧
      (m'.sent = true → (∃ y ∈ (s.stream slot).stored, y.req = seq ∧ y.rsp = m'.seq) → m.since = s.time) := by
  unfold State.dupe at hm
  rw [stream_updStream (by exact fun _ => rfl)] at hm
  unfold State.stream
  cases hfind : s.streams.find? fun x => x.slot == slot with
  | none =>
    rw [hfind] at hm
    cases hm
  | some x =>
    rw [hfind] at hm
    obtain ⟨m', hm', rfl⟩ := List.mem_map.mp hm
    refine ⟨m', hm', ?_, ?_⟩
    · split <;> rfl
    · rintro hsent ⟨y, hy, hreq, hrsp⟩
      have hany : (m'.sent && x.stored.any fun y => y.req == seq && y.rsp == m'.seq) = true := by
        rw [hsent, Bool.true_and, List.any_eq_true]
        exact ⟨y, hy, by simp [hreq, hrsp]⟩
      rw [if_pos hany]

/-! ## What a message does -/

section
variable (hnew : s.arrival h.slot h.seq = .fresh)
include hnew

theorem recover_image {data : List Byte} (hghost : s.ghost = false) (hrec : s.urxia.recovery = true) :
    s.recover h data =
      if data ≠ [] then
        ({ s with urxia := { s.urxia with image := patch s.urxia.image h.addr.toNat data } } : State).respond h 7 0 []
      else if imageGood s.urxia.image then (s.respond h 7 0 []).acceptImage s.urxia.image
      else ({ s with urxia := { s.urxia with image := [] } } : State).respond h 7 3 [] := by
  unfold State.recover
  rw [if_neg (by rw [hghost, hrec]; decide), hnew]
  dsimp only
  cases data with
  | nil => rw [if_neg (not_not_intro rfl : ¬ ([] : List Byte) ≠ []), if_neg (by decide : ¬ (!([] : List Byte).isEmpty) = true)]
  | cons b bs => rw [if_pos (by rfl : (!(b :: bs).isEmpty) = true), if_pos (List.cons_ne_nil b bs)]

variable (hopen : s.linkOpen = true)
include hopen

theorem onceCfg_fresh (hcfg : (s.endpoint h.slot).cfg = true) (go : State → State) : s.onceCfg h go = go s := by
  rw [State.onceCfg, once_fresh hopen hnew, if_pos hcfg]

end

end Sys2Proof.Machine

namespace Sys2Proof.Proofs
open Sys2Proof.Machine

/-- Settles O39: by the number of the message, then by its kind. -/
theorem messages : Obligations.Messages := by
  refine ⟨fun s h go => ⟨fun hclosed => once_closed hclosed go, fun hopen => ⟨?_, fun hn => ⟨once_dup hopen go hn,
      fun x hx hslot => unackd_dupe hx hslot, fun m hm => out_dupe hm⟩, fun hn => once_far hopen go hn,
      fun hn => once_unknown hopen go hn⟩⟩, fun s h hnew => ⟨fun size hopen hcfg hgood => ?_, fun size hopen hcfg hgood => ?_,
      fun size v hopen hcfg => ?_, fun len bytes hghost hrec => congrArg Host.Outcome.next (recover_image hnew hghost hrec),
      fun cgid code hopen => ?_, fun cgid n hopen => ?_,
      fun st data hopen => congrArg Host.Outcome.next (once_fresh hopen hnew _)⟩⟩
  · rintro (hn | hn)
    · exact once_fresh hopen hn go
    · exact once_again hopen go hn
  · refine congrArg Host.Outcome.next ((onceCfg_fresh hnew hopen hcfg _).trans ?_)
    rw [if_neg (by rw [hgood]; decide)]
  · refine congrArg Host.Outcome.next ((onceCfg_fresh hnew hopen hcfg _).trans ?_)
    rw [if_pos (by rw [hgood]; decide)]
  · intro t
    refine congrArg Host.Outcome.next ((onceCfg_fresh hnew hopen hcfg _).trans ?_)
    cases cfgGood h.addr size <;> rfl
  · intro t
    refine congrArg Host.Outcome.next ((once_fresh hopen hnew _).trans ?_)
    simp only [State.isMember, Bool.and_eq_true, decide_eq_true_eq]
    rfl
  · intro t
    refine congrArg Host.Outcome.next ((once_fresh hopen hnew _).trans ?_)
    simp only [State.isMember, Bool.and_eq_true, decide_eq_true_eq]
    rfl

end Sys2Proof.Proofs

/-!
SUPPORT. READ, WRITE and ATOMIC of an endpoint that its home lets go.
-/

namespace Sys2Proof.Machine

variable {s t : State} {h : MsgHdr} {i : Instr} {key : Nat} {ow : Id12} {pr : Bool} {ia : Nat}

/-- A request with an owner that its home lets go is performed at its key. -/
theorem serve_go {type : Nat} {write : Bool} (how : (s.endpoint h.slot).owner ≠ 0xFFF) (hia : h.addr.toNat % 2 ^ 52 = ia)
    (hgate : s.gate (s.slotReq h.slot write) ia = (.go key ow pr, t)) (go : Req → Nat → Nat → State → State) :
    s.serve h i type write go = go (s.slotReq h.slot write) ia key t := by
  have hown : (s.slotReq h.slot write).owner ≠ 0xFFF := how
  simp only [State.serve, hown, if_false, hia, hgate]

section
variable (hopen : s.linkOpen = true) (hnew : s.arrival h.slot h.seq = .fresh) (how : (s.endpoint h.slot).owner ≠ 0xFFF)
  (hia : h.addr.toNat % 2 ^ 52 = ia)
include hopen hnew how hia

theorem vanarRead_go {count : Nat} (hcount : isPow2 count = true) (halign : h.addr.toNat % count = 0) (hap : inAperture ia = false)
    (hgate : s.gate (s.slotReq h.slot false) ia = (.go key ow pr, t)) :
    s.vanarRead h count i =
      if (anyPoison (t.homeRead ia key count).1).isSome then (t.homeRead ia key count).2.respond h 1 1 []
      else (t.homeRead ia key count).2.respond h 1 0 (values (t.homeRead ia key count).1) := by
  rw [State.vanarRead, once_fresh hopen hnew]
  simp only [hcount, halign, hia, hap, Bool.not_true, bne_self_eq_false, Bool.or_self, Bool.false_eq_true, if_false, serve_go how hia hgate]

theorem vanarWrite_go {data : List Byte} (hdata : data ≠ []) (hlen : ia % 256 + data.length ≤ 256)
    (hgate : s.gate (s.slotReq h.slot true) ia = (.go key ow pr, t)) :
    s.vanarWrite h data i = (t.homeWrite ia key (plain data)).accept h.slot h.seq := by
  have hown : (s.slotReq h.slot true).owner ≠ 0xFFF := how
  have hpos : ¬ data.length < 1 := by
    have := List.length_pos_iff.mpr hdata
    omega
  rw [State.vanarWrite, once_fresh hopen hnew]
  simp only [hia, hpos, Nat.not_lt.mpr hlen, hown, or_self, if_false, hgate]

section
variable {aop : BitVec 4} {ty : Ty} {v new : W64} (haop : aop.toNat ≤ 10) (hty : Encoding.aopTy aop.toNat ty = true)
  (halign : h.addr.toNat % ty.size = 0)
include haop hty halign

theorem vanarAtomic_go (hap : inAperture ia = false) (hgate : s.gate (s.slotReq h.slot true) ia = (.go key ow pr, t)) :
    s.vanarAtomic h aop ty v new i =
      if (anyPoison ((t.homeRead ia key ty.size).2.memRead (key / 8 * 8) 8)).isSome then (t.homeRead ia key ty.size).2.respond h 3 1 []
      else ((t.homeRead ia key ty.size).2.homeWrite ia key (plain (atomBytes aop.toNat ty
        (leBytes ty.size v.toNat ++ leBytes ty.size new.toNat) (values (t.homeRead ia key ty.size).1)))).respond h 3 0
          (leBytes 8 (leNat (values (t.homeRead ia key ty.size).1))) := by
  rw [State.vanarAtomic, once_fresh hopen hnew]
  simp only [Nat.not_lt.mpr haop, hty, halign, hia, hap, Bool.not_true, ne_eq, not_true_eq_false, Bool.false_eq_true, or_self, if_false,
    serve_go how hia hgate]

omit how in
theorem vanarAtomic_aperture (hap : inAperture ia = true) : s.vanarAtomic h aop ty v new i = s.respond h 3 1 [] := by
  rw [State.vanarAtomic, once_fresh hopen hnew]
  simp only [Nat.not_lt.mpr haop, hty, halign, hia, hap, Bool.not_true, ne_eq, not_true_eq_false, Bool.false_eq_true, or_self, if_false,
    if_true]

end

end

end Sys2Proof.Machine

namespace Sys2Proof.Proofs
open Sys2Proof.Machine

/-- Settles O40: a request that its home lets go is performed there. -/
theorem endpointRequests : Obligations.EndpointRequests := by
  intro s h scope ord key ow pr t hopen hnew how ia
  exact ⟨fun count hcount halign hap hgate => congrArg Host.Outcome.next (vanarRead_go hopen hnew how rfl hcount halign hap hgate),
    fun data hdata hlen hgate => congrArg Host.Outcome.next (vanarWrite_go hopen hnew how rfl hdata hlen hgate),
    fun aop ty v new haop hty halign hap hgate =>
      congrArg Host.Outcome.next (vanarAtomic_go hopen hnew how rfl haop hty halign hap hgate),
    fun aop ty v new haop hty halign hap => congrArg Host.Outcome.next (vanarAtomic_aperture hopen hnew rfl haop hty halign hap)⟩

end Sys2Proof.Proofs

/-!
SUPPORT. The streams: timeouts of what has been sent, ports, and pauses of the link partner.
-/

namespace Sys2Proof.Machine

variable {s : State} {slot : Nat} {seq : W32} {m : Msg}

theorem collectiveStepTimeout_over {cgid : BitVec 16} {member : Nat} (hlo : 1 ≤ member) (hhi : member ≤ 6)
    (hl : ∃ l ∈ s.launches, l.cgid = cgid ∧ l.abort.isSome = true ∧ l.abortAt.toNat + s.vtmo ≤ s.time.toNat) :
    exec (.collectiveStepTimeout cgid member) s = .next (s.memberStep cgid member 0) := by
  have hany : (s.launches.any fun l => l.cgid == cgid && l.abort.isSome && decide (l.abortAt.toNat + s.vtmo ≤ s.time.toNat)) = true := by
    obtain ⟨l, hl, hcg, habort, hover⟩ := hl
    rw [List.any_eq_true]
    exact ⟨l, hl, by rw [habort, decide_eq_true hover, beq_iff_eq.mpr hcg]; rfl⟩
  exact congrArg Host.Outcome.next (if_pos ⟨hlo, hhi, hany⟩)

theorem resend_due (hm : (s.stream slot).sent? seq = some m) (hleft : s.allFailed slot m = false)
    (hover : m.since.toNat + s.rto ≤ s.time.toNat) :
    s.resend slot seq =
      if m.tries < 2 then s.updStream slot fun x =>
        { x with out := updWhere x.out (fun y => y.seq == seq) fun y => { y with tries := y.tries + 1, since := s.time } }
      else s.failover slot m.port := by
  simp only [State.resend, hm, hleft, Nat.not_lt.mpr hover, Bool.false_eq_true, or_self, if_false]

section
variable {s1 : State} (hm : (s.stream slot).sent? seq = some m) (hfailed : s.allFailed slot m = true) (hrsp : m.rsp = false)
  (hcls : m.cls ≠ 0) (hover : m.since.toNat + s.vtmo ≤ s.time.toNat) (hs1 : (s.dropMsg slot seq).forgetRead slot seq = s1)
include hm hfailed hrsp hcls hover hs1

theorem pathFailure_acc {a : Acc} {i : Nat} {l : LaneAcc} (ha : findAcc s1.accs (.sent slot m.seq) = some (a, i, l)) :
    s.pathFailure slot seq =
      if a.kind = .store then (s1.loseStores [(a.gid, a.sl)] l.lane).dropLane a i else (s1.laneFails a i fatalLink).logMisses a.id := by
  simp only [State.pathFailure, hm, hfailed, hrsp, hcls, Nat.not_lt.mpr hover, Bool.not_true, Bool.false_eq_true, or_self, if_false, hs1, ha]

theorem pathFailure_unit {e : Eng} {u : UnitSt} (ha : findAcc s1.accs (.sent slot m.seq) = none)
    (hu : findUnit s1.engs (.sent slot m.seq) = some (e, u)) : s.pathFailure slot seq = s1.engFatal e fatalLink := by
  simp only [State.pathFailure, hm, hfailed, hrsp, hcls, Nat.not_lt.mpr hover, Bool.not_true, Bool.false_eq_true, or_self, if_false, hs1, ha,
    hu]

end

/-- Every stream of a list pumped in turn is every slot of them pumped in turn. -/
theorem foldl_pump (xs : List Stream) (s : State) : xs.foldl (fun s x => s.pump x.slot) s = (xs.map Stream.slot).foldl State.pump s :=
  List.foldl_map.symm

/-- A message once its port answers again. -/
def Msg.back (now : W64) (p : Nat) (m : Msg) : Msg :=
  if p ∈ m.failedPorts then
    { m with failedPorts := m.failedPorts.filter (· != p), since := now, port := if m.port ∈ m.failedPorts then p else m.port }
  else m

theorem probe_answered (p : Nat) :
    s.probe p true = (s.streams.map Stream.slot).foldl State.pump
      { s with ports := updAt s.ports p fun x => { x with up := true },
               streams := s.streams.map fun x => { x with failed := x.failed.filter (· != p), out := x.out.map (Msg.back s.time p) } } := by
  have hback : (fun m : Msg => if (!m.failedPorts.contains p) = true then m else
      { m with failedPorts := m.failedPorts.filter (· != p), since := s.time, port := if m.failedPorts.contains m.port then p else m.port }) =
      Msg.back s.time p := by
    funext m
    by_cases hp : p ∈ m.failedPorts
    · simp [Msg.back, hp]
    · simp [Msg.back, hp]
  unfold State.probe
  rw [if_neg (by decide)]
  dsimp only
  rw [hback, foldl_pump, List.map_map]
  rfl

end Sys2Proof.Machine

namespace Sys2Proof.Proofs
open Sys2Proof.Machine

/-- Settles O41: each timeout by its conditions; the ports by the streams' slots, which no step of a port changes. -/
theorem streams : Obligations.Streams := by
  intro s slot
  refine ⟨fun e accepted => rfl, fun hdue => congrArg Host.Outcome.next (if_pos hdue),
    fun cgid member hlo hhi hl => collectiveStepTimeout_over hlo hhi hl, fun seq m hm => ⟨fun hleft hover => ?_, ?_⟩, fun p => rfl,
    fun p => congrArg Host.Outcome.next (probe_answered p), fun p frame => rfl,
    fun p prio stop => congrArg Host.Outcome.next (foldl_pump s.streams _)⟩
  · have hresend := resend_due hm hleft hover
    exact ⟨fun h => congrArg Host.Outcome.next (hresend.trans (if_pos h)),
      fun h => congrArg Host.Outcome.next (hresend.trans (if_neg (Nat.not_lt.mpr h)))⟩
  · intro hfailed hrsp hcls hover s1
    exact ⟨fun a i l ha hk => congrArg Host.Outcome.next ((pathFailure_acc hm hfailed hrsp hcls hover rfl ha).trans (if_neg hk)),
      fun a i l ha hk => congrArg Host.Outcome.next ((pathFailure_acc hm hfailed hrsp hcls hover rfl ha).trans (if_pos hk)),
      fun e u ha hu => congrArg Host.Outcome.next (pathFailure_unit hm hfailed hrsp hcls hover rfl ha hu)⟩

end Sys2Proof.Proofs

/-!
SUPPORT. A measurement of the module's power, in its three cases.
-/

namespace Sys2Proof.Machine

variable {s : State} {watts p : Nat}

/-- The clusters with a new sample begun. -/
def State.sampled (s : State) : List Cluster := s.clusters.map fun k => { k with sampleEncores := 0 }

theorem limPower_clusters (s : State) (cs : List Cluster) : ({ s with clusters := cs } : State).limPower = s.limPower := rfl

theorem powerSample_over (hp : s.limPower = some p) (hover : p < watts) :
    s.powerSample watts =
      let s1 : State := { s with
        overload := s.overload + 1, calm := 0, clusters := s.sampled.map fun k => { k with gr := if 2 < k.gr then k.gr - 1 else k.gr } }
      (if 10 < s.overload + 1 ∧ (s.overload + 1) % 10 = 1 then s1.lowerCap else s1).govern := by
  unfold State.powerSample State.sampled
  dsimp only
  rw [limPower_clusters, hp]
  dsimp only
  rw [if_pos hover]

theorem powerSample_calm (hp : s.limPower = some p) (hcalm : watts * 100 < 95 * p) :
    s.powerSample watts =
      let s1 : State := { s with overload := 0, calm := s.calm + 1, clusters := s.sampled }
      (if 100 < s.calm + 1 ∧ (s.calm + 1) % 10 = 1 then s1.restoreStep else s1).govern := by
  have hunder : ¬ p < watts := by omega
  unfold State.powerSample State.sampled
  dsimp only
  rw [limPower_clusters, hp]
  dsimp only
  rw [if_neg hunder, if_pos hcalm]

theorem powerSample_between (hp : s.limPower = some p) (hle : watts ≤ p) (hge : 95 * p ≤ watts * 100) :
    s.powerSample watts = ({ s with overload := 0, calm := 0, clusters := s.sampled } : State).govern := by
  unfold State.powerSample State.sampled
  dsimp only
  rw [limPower_clusters, hp]
  dsimp only
  rw [if_neg (Nat.not_lt.mpr hle), if_neg (Nat.not_lt.mpr hge)]

end Sys2Proof.Machine

namespace Sys2Proof.Proofs
open Sys2Proof.Machine

/-- Settles O42: each clause takes one branch of its step. -/
theorem governor : Obligations.Governor := by
  intro s
  refine ⟨fun cl hstep => congrArg Host.Outcome.next (if_pos hstep), fun cl hstep => congrArg Host.Outcome.next (if_pos hstep),
    fun cl hstep => congrArg Host.Outcome.next (if_pos hstep), fun watts p hp => ?_, fun cl m i => rfl, fun cl => rfl, rfl, fun hover => ?_⟩
  · intro cs
    exact ⟨fun h => congrArg Host.Outcome.next (powerSample_over hp h), fun h => congrArg Host.Outcome.next (powerSample_calm hp h),
      fun hle hge => congrArg Host.Outcome.next (powerSample_between hp hle hge)⟩
  · intro best band t
    exact congrArg Host.Outcome.next (if_pos hover)

end Sys2Proof.Proofs

/-!
SUPPORT. Device memory whose listed bytes do not stand in order: a byte that another hides shows once that other is gone.
-/

namespace Sys2Proof.Machine

/-- Byte 3 stands behind a byte above the first GiB, and reads as unlisted. -/
def hiddenByte : State := { State.reset with mem := [(2 ^ 30, 1), (3, 1)] }

/-- GLCTL with ENTER set and one GiB to retain. -/
def retainOne : W32 := 0x41

theorem hiddenByte_reads : cellRead memDefault hiddenByte.flushL2.mem 3 = 0 := by decide +kernel

/-- In the ghost light it reads 1. -/
theorem hiddenByte_shows : outcome (exec (.ghostLightEnter retainOne) hiddenByte) (fun t => cellRead memDefault t.mem 3 == 1) = true := by
  decide +kernel

end Sys2Proof.Machine

namespace Sys2Proof.Proofs
open Sys2Proof.Machine

/-- Refutes O43: the statement asks for no canonical form, and where the listed bytes of device memory do not stand in order, the entry to the
ghost light uncovers a byte of the retained region that read as unlisted before. -/
theorem not_ghostLightAndStartUp : ¬ Obligations.GhostLightAndStartUp := by
  rintro ⟨h, -⟩
  obtain ⟨henter, -⟩ := h hiddenByte
  obtain ⟨-, hgo⟩ := henter retainOne (by decide +kernel) (by decide +kernel)
  obtain ⟨t, hexec, -, -, -, -, -, -, hread⟩ := hgo (by decide +kernel)
  have hthree : cellRead memDefault t.mem 3 = 1 := by
    have hshows := hiddenByte_shows
    rw [hexec] at hshows
    exact beq_iff_eq.mp hshows
  have hold := hread 3
  rw [if_pos (by decide +kernel), hthree, hiddenByte_reads] at hold
  exact absurd hold (by decide)

end Sys2Proof.Proofs

/-!
SUPPORT. The mailbox's operations, and a write of registers of an aperture.
-/

namespace Sys2Proof.Machine

variable {s : State}

/-- A slot of a home holds a key. -/
theorem any_key (keys : List (Nat × Nat)) (slot : Nat) : (keys.any fun k => k.1 == slot) = true ↔ slot ∈ keys.map (·.1) := by
  simp only [List.any_eq_true, beq_iff_eq, List.mem_map]

theorem keygen_eq (hat : s.mailboxAt 3 = true) :
    exec .keygen s = .next (
      if s.keyArg.1 = 0 ∨ 3 < s.keyArg.2 then s.mailboxDone 3 3
      else if ((s.home s.keyArg.2).keys.any fun k => k.1 == s.keyArg.1) = true then s.mailboxDone 3 4
      else (({ s with urxia := { s.urxia with keyUses := s.urxia.keyUses + 1 } } : State).updHome s.keyArg.2 fun x =>
        { x with keys := (s.keyArg.1, s.urxia.keyUses + 1) :: x.keys }).mailboxDone 3 0) :=
  congrArg Host.Outcome.next (if_neg (by rw [hat]; decide))

theorem keyclr_eq (hat : s.mailboxAt 4 = true) :
    exec .keyclr s = .next (
      if s.keyArg.1 = 0 ∨ 3 < s.keyArg.2 then s.mailboxDone 4 3
      else if (!(s.home s.keyArg.2).keys.any fun k => k.1 == s.keyArg.1) = true then s.mailboxDone 4 5
      else (s.updHome s.keyArg.2 fun x => { x with keys := x.keys.filter fun k => k.1 != s.keyArg.1 }).mailboxDone 4 0) :=
  congrArg Host.Outcome.next (if_neg (by rw [hat]; decide))

/-- A slot and a home that an operation on keys takes. -/
theorem keyArg_good {k h : Nat} (hk : k ≠ 0) (hh : h ≤ 3) : ¬ (k = 0 ∨ 3 < h) := by omega

theorem registerWrite_aperture {die off size : Nat} {v : W64} {bs : List Byte} {s0 s1 : State} (hdie : die ≤ 3) (hghost : s.ghost = false)
    (hoff : off < 2 ^ 24) (hbs : leBytes (min size 8) v.toNat = bs)
    (hs0 : (if touches off bs 8 8 then (s.storeRegs die off bs).loadPrts die else s.storeRegs die off bs) = s0)
    (hs1 : (if die = 0 then s0.checkSenders off bs.length else s0) = s1) :
    s.registerWrite die off size v =
      if die = 0 ∧ touches off bs 0x300000 4 then
        ({ s1 with due := s1.due ++ s.regSteps die off bs } : State).mailboxCommand (s.wordAfter 0 off bs 0x300000)
      else { s1 with due := s1.due ++ s.regSteps die off bs } := by
  have hne4 : die ≠ 4 := by omega
  have hne5 : die ≠ 5 := by omega
  have hgo : ¬ (3 < die ∨ s.ghost ∨ 2 ^ 24 ≤ off) := by
    rintro (h | h | h)
    · exact absurd hdie (Nat.not_le.mpr h)
    · exact absurd h (ne_true_of_eq_false hghost)
    · exact absurd hoff (Nat.not_lt.mpr h)
  unfold State.registerWrite
  dsimp only
  rw [if_neg hne4, if_neg hne5, if_neg hgo, hbs, hs0, hs1]

theorem timeSync_selected {r : TimeReport} (hopen : s.linkOpen = true) (hsel : s.timeSource = some r.source) :
    exec (.timeSync r) s = .next { s.passTime r.time with timeLocked := true } :=
  congrArg Host.Outcome.next (if_pos ⟨hopen, hsel⟩)

theorem timeSync_other {r : TimeReport} (hsel : s.timeSource ≠ some r.source) : exec (.timeSync r) s = .next s :=
  congrArg Host.Outcome.next (if_neg fun h => hsel h.2)

end Sys2Proof.Machine

namespace Sys2Proof.Proofs
open Sys2Proof.Machine

/-- Settles O44: each clause takes one branch of its step. -/
theorem platformRegisters : Obligations.PlatformRegisters := by
  intro s
  refine ⟨fun hat => congrArg Host.Outcome.next (if_neg (by rw [hat]; decide)),
    fun hat => congrArg Host.Outcome.next (if_neg (by rw [hat]; decide)), fun hat => ?_, fun hat => ?_, rfl,
    fun die off size v hdie hghost hoff => congrArg Host.Outcome.next (registerWrite_aperture hdie hghost hoff rfl rfl rfl),
    fun off size v => rfl, fun off size v => rfl,
    fun source t hopen => ⟨fun hsel => timeSync_selected hopen hsel, fun hsel => timeSync_other hsel⟩⟩
  · intro k
    rw [keygen_eq hat]
    refine ⟨fun hbad => congrArg _ (if_pos hbad), fun hk hh hin => congrArg _ ?_, fun hk hh hnot => congrArg _ ?_⟩
    · rw [if_neg (keyArg_good hk hh), if_pos ((any_key _ _).mpr hin)]
    · rw [if_neg (keyArg_good hk hh), if_neg (fun h => hnot ((any_key _ _).mp h))]
  · intro k
    rw [keyclr_eq hat]
    refine ⟨fun hbad => congrArg _ (if_pos hbad), fun hk hh hnot => congrArg _ ?_, fun hk hh hin => congrArg _ ?_⟩
    · rw [if_neg (keyArg_good hk hh), if_pos]
      rw [Bool.not_eq_true', Bool.eq_false_iff]
      exact fun h => hnot ((any_key _ _).mp h)
    · rw [if_neg (keyArg_good hk hh), if_neg]
      rw [Bool.not_eq_true', Bool.eq_false_iff]
      exact fun h => h ((any_key _ _).mpr hin)

end Sys2Proof.Proofs

/-!
SUPPORT. The canonical form of memory is kept: State, Ops, Home, Cache, Operands, Issue and Flags.
-/

namespace Sys2Proof.Machine

theorem wf_foldl {α : Type} {f : State → α → State} {l : List α} {s : State} (h : s.mem.wf = true)
    (hf : ∀ s x, s.mem.wf = true → (f s x).mem.wf = true) : (l.foldl f s).mem.wf = true := by
  induction l generalizing s with
  | nil => exact h
  | cons x l ih => exact ih (hf s x h)

theorem wf_foldl_snd {α β : Type} {f : β × State → α → β × State} {l : List α} {x : β × State} (h : x.2.mem.wf = true)
    (hf : ∀ x a, x.2.mem.wf = true → (f x a).2.mem.wf = true) : (l.foldl f x).2.mem.wf = true := by
  induction l generalizing x with
  | nil => exact h
  | cons a l ih => exact ih (hf x a h)

theorem wf_ite {c : Prop} [Decidable c] {x y : State} (hx : x.mem.wf = true) (hy : y.mem.wf = true) :
    (if c then x else y).mem.wf = true := by
  split
  · exact hx
  · exact hy

theorem wf_ite_snd {β : Type} {c : Prop} [Decidable c] {x y : β × State} (hx : x.2.mem.wf = true) (hy : y.2.mem.wf = true) :
    (if c then x else y).2.mem.wf = true := by
  split
  · exact hx
  · exact hy

theorem wf_of_eq {α : Type} {x : α × State} {a : α} {t : State} (h : x = (a, t)) (hx : x.2.mem.wf = true) : t.mem.wf = true := by
  subst h
  exact hx

theorem wf_of_eq_fst {α : Type} {x : State × α} {a : α} {t : State} (h : x = (t, a)) (hx : x.1.mem.wf = true) : t.mem.wf = true := by
  subst h
  exact hx

theorem wf_of_eq_snd {α β : Type} {x : α × β × State} {a : α} {b : β} {t : State} (h : x = (a, b, t)) (hx : x.2.2.mem.wf = true) :
    t.mem.wf = true := by
  subst h
  exact hx

theorem wf_ite_fst {β : Type} {c : Prop} [Decidable c] {x y : State × β} (hx : x.1.mem.wf = true) (hy : y.1.mem.wf = true) :
    (if c then x else y).1.mem.wf = true := by
  split
  · exact hx
  · exact hy

/-! ### State -/

theorem wf_reset : State.reset.mem.wf = true := rfl

/-! ### Ops -/

theorem wf_setReg {s : State} {die off n v : Nat} (hs : s.mem.wf = true) : (s.setReg die off n v).mem.wf = true := hs

theorem wf_updCore {s : State} {c : Nat} {f : Core → Core} (hs : s.mem.wf = true) : (s.updCore c f).mem.wf = true := hs

theorem wf_updHome {s : State} {h : Nat} {f : Home → Home} (hs : s.mem.wf = true) : (s.updHome h f).mem.wf = true := hs

theorem wf_updRdc {s : State} {d : Nat} {f : List Line → List Line} (hs : s.mem.wf = true) : (s.updRdc d f).mem.wf = true := hs

theorem wf_updCluster {s : State} {c : Nat} {f : Cluster → Cluster} (hs : s.mem.wf = true) : (s.updCluster c f).mem.wf = true := hs

theorem wf_updView {s : State} {v : Nat} {f : View → View} (hs : s.mem.wf = true) : (s.updView v f).mem.wf = true := hs

theorem wf_updTeam {s : State} {id : Nat} {f : Team → Team} (hs : s.mem.wf = true) : (s.updTeam id f).mem.wf = true := hs

theorem wf_updGroup {s : State} {gid : Nat} {f : Group → Group} (hs : s.mem.wf = true) : (s.updGroup gid f).mem.wf = true := hs

theorem wf_updSlice {s : State} {gid : Nat} {sl : Slice} {f : SliceSt → SliceSt}
    (hs : s.mem.wf = true) : (s.updSlice gid sl f).mem.wf = true := wf_updGroup hs

theorem wf_updFrag {s : State} {gid : Nat} {sl : Slice} {slot : Nat} {f : Frag → Frag}
    (hs : s.mem.wf = true) : (s.updFrag gid sl slot f).mem.wf = true := wf_updSlice hs

theorem wf_updAcc {s : State} {id : Nat} {f : Acc → Acc} (hs : s.mem.wf = true) : (s.updAcc id f).mem.wf = true := hs

theorem wf_updEng {s : State} {id : Nat} {f : Eng → Eng} (hs : s.mem.wf = true) : (s.updEng id f).mem.wf = true := hs

theorem wf_updLaunch {s : State} {id : Nat} {f : Launch → Launch} (hs : s.mem.wf = true) : (s.updLaunch id f).mem.wf = true := hs

theorem wf_updDraw {s : State} {id : Nat} {f : Draw → Draw} (hs : s.mem.wf = true) : (s.updDraw id f).mem.wf = true := hs

theorem wf_updCtx {s : State} {n : Nat} {f : Ctx → Ctx} (hs : s.mem.wf = true) : (s.updCtx n f).mem.wf = true := wf_ite hs hs

theorem wf_setSave {s : State} {x : SaveCtr} (hs : s.mem.wf = true) : (s.setSave x).mem.wf = true := hs

theorem wf_setOwner {s : State} {x : OwnerSt} (hs : s.mem.wf = true) : (s.setOwner x).mem.wf = true := hs

theorem wf_fresh {s : State} (hs : s.mem.wf = true) : s.fresh.2.mem.wf = true := hs

theorem wf_freeW {s : State} (hs : s.mem.wf = true) : s.freeW.2.mem.wf = true := hs

theorem wf_updStream {s : State} {n : Nat} {f : Stream → Stream} (hs : s.mem.wf = true) : (s.updStream n f).mem.wf = true := hs

theorem wf_pump {s : State} {slot : Nat} (hs : s.mem.wf = true) : (s.pump slot).mem.wf = true := wf_updStream hs

theorem wf_sendFor {s : State} {writers : List (Nat × Slice)} {slot cls : Nat} {rsp : Bool} {type : Nat} {tag : W32} {addr : W64}
    {body : List Byte}
    (hs : s.mem.wf = true) : (s.sendFor writers slot cls rsp type tag addr body).mem.wf = true :=
  wf_pump (wf_updStream (wf_ite (wf_updHome hs) hs))

theorem wf_send {s : State} {slot cls : Nat} {rsp : Bool} {type : Nat} {tag : W32} {addr : W64} {body : List Byte}
    (hs : s.mem.wf = true) : (s.send slot cls rsp type tag addr body).mem.wf = true := wf_sendFor hs

theorem wf_event {s : State} {kind who value : Nat} (hs : s.mem.wf = true) : (s.event kind who value).mem.wf = true :=
  wf_ite (wf_send hs) hs

theorem wf_fatalTrap {s : State} {gid : Nat} {sl : Slice} {cause info : Nat} {pc : W64} {resume : Option W64} {skid : W32}
    (hs : s.mem.wf = true) : (s.fatalTrap gid sl cause info pc resume skid).mem.wf = true := by
  unfold State.fatalTrap
  split
  · exact hs
  · split
    · exact hs
    · exact wf_updTeam hs

theorem wf_handledTrap {s : State} {gid : Nat} {sl : Slice} {slot cause info : Nat} {pc vec : W64}
    (hs : s.mem.wf = true) : (s.handledTrap gid sl slot cause info pc vec).mem.wf = true := wf_updSlice hs

theorem wf_takeTrap {s : State} {gid : Nat} {sl : Slice} {f : Frag} {ctx : Nat} {own : Bool} {cause info : Nat}
    (hs : s.mem.wf = true) : (s.takeTrap gid sl f ctx own cause info).mem.wf = true :=
  wf_ite (wf_ite (wf_handledTrap hs) (wf_fatalTrap hs)) (wf_fatalTrap hs)

theorem wf_trapReturn {s : State} {gid : Nat} {sl : Slice} {slot : Nat}
    (hs : s.mem.wf = true) : (s.trapReturn gid sl slot).mem.wf = true := wf_updSlice hs

/-! ### Home -/

theorem wf_spoil {s : State} {core line : Nat → Bool} (hs : s.mem.wf = true) : (s.spoil core line).mem.wf = true := hs

theorem wf_outdate {s : State} {line : Nat → Bool} (hs : s.mem.wf = true) : (s.outdate line).mem.wf = true := hs

theorem wf_sendWrite {s : State} {writers : List (Nat × Slice)} {slot cls type : Nat} {tag : W32} {ia n addr : Nat} {body : List Byte}
    (hs : s.mem.wf = true) : (s.sendWrite writers slot cls type tag ia n addr body).mem.wf = true := wf_sendFor (wf_outdate (wf_spoil hs))

theorem wf_setSeal {s : State} {lo hi k : Nat} (hs : s.mem.wf = true) : (s.setSeal lo hi k).mem.wf = true := hs

theorem wf_discardFrame {s : State} {frame : Nat} (hs : s.mem.wf = true) : (s.discardFrame frame).mem.wf = true := hs

theorem wf_lostRecord {s : State} (hs : s.mem.wf = true) : s.lostRecord.mem.wf = true := wf_setReg hs

theorem wf_deviceRecord {s : State} {kind unit : Nat} {owner : Id12} {info ia detail : Nat}
    (hs : s.mem.wf = true) : (s.deviceRecord kind unit owner info ia detail).mem.wf = true := by
  unfold State.deviceRecord
  have := @wf_lostRecord
  have := @wf_event
  have := @wf_setReg
  have := @wf_touch
  have := @wf_sendWrite
  have := @wf_put
  grind

theorem wf_poisonFlaw {s : State} {f : Nat} (hs : s.mem.wf = true) : (s.poisonFlaw f).mem.wf = true := hs

theorem wf_meetFlaws {s : State} {ia key n : Nat} (hs : s.mem.wf = true) : (s.meetFlaws ia key n).mem.wf = true :=
  wf_foldl hs fun _ _ hs => wf_deviceRecord (wf_poisonFlaw hs)

theorem wf_tableError {s : State} {key : Nat} (hs : s.mem.wf = true) : (s.tableError key).mem.wf = true :=
  wf_ite (wf_deviceRecord (wf_poisonFlaw hs)) hs

theorem wf_dropRecord {s : State} {l : Line} (hs : s.mem.wf = true) : (s.dropRecord l).mem.wf = true := wf_deviceRecord hs

theorem wf_backLine {s : State} {l : Line} {k : Nat} (hs : s.mem.wf = true) : (s.backLine l k).mem.wf = true :=
  wf_ite (wf_foldl hs fun _ _ hs => wf_memWrite hs) (wf_setSeal (wf_memWrite hs))

theorem wf_retireLine {s : State} {l : Line} (hs : s.mem.wf = true) : (s.retireLine l).mem.wf = true := by
  unfold State.retireLine
  split
  · exact hs
  · split
    · exact wf_backLine hs
    · exact wf_dropRecord hs

theorem wf_updL2 {s : State} {d : Nat} {f : List Line → List Line} (hs : s.mem.wf = true) : (s.updL2 d f).mem.wf = true := hs

theorem wf_updMdc {s : State} {d : Nat} {f : List Line → List Line} (hs : s.mem.wf = true) : (s.updMdc d f).mem.wf = true := hs

theorem wf_evictL2 {s : State} {d : Nat} {l : Line} (hs : s.mem.wf = true) : (s.evictL2 d l).mem.wf = true := wf_retireLine (wf_updL2 hs)

theorem wf_evictMdc {s : State} {d : Nat} {l : Line} (hs : s.mem.wf = true) : (s.evictMdc d l).mem.wf = true :=
  wf_retireLine (wf_updMdc hs)

theorem wf_openL2 {s : State} {ia key leaf : Nat} {full : Bool} (hs : s.mem.wf = true) : (s.openL2 ia key leaf full).mem.wf = true :=
  wf_ite (wf_foldl hs fun _ _ hs => wf_evictL2 hs) (wf_ite (wf_updL2 (wf_meetFlaws (wf_foldl hs fun _ _ hs => wf_evictL2 hs)))
      (wf_updL2 (wf_foldl hs fun _ _ hs => wf_evictL2 hs)))

theorem wf_openMdc {s : State} {ia key leaf : Nat} (hs : s.mem.wf = true) : (s.openMdc ia key leaf).mem.wf = true :=
  wf_ite (wf_foldl hs fun _ _ hs => wf_evictMdc hs) (wf_updMdc (wf_foldl hs fun _ _ hs => wf_evictMdc hs))

theorem wf_setFillState {s : State} {p : Prt} {b v : Nat} (hs : s.mem.wf = true) : (s.setFillState p b v).mem.wf = true := by
  unfold State.setFillState
  have := @wf_touch
  have := @wf_put
  grind

theorem wf_failRecord {s : State} {p : Prt} {b v : Nat} (hs : s.mem.wf = true) : (s.failRecord p b v).mem.wf = true := by
  unfold State.failRecord
  have := @wf_touch
  have := @wf_put
  grind

theorem wf_zeroBlock {s : State} {p : Prt} {b : Nat} (hs : s.mem.wf = true) : (s.zeroBlock p b).mem.wf = true := by
  unfold State.zeroBlock
  have := @wf_touch
  have := @wf_updHome
  have := @wf_setSeal
  have := @wf_memZero
  grind

theorem wf_startFill {s : State} {r : Req} {die : Nat} {p : Prt} {b : Nat}
    (hs : s.mem.wf = true) : (s.startFill r die p b).mem.wf = true := by
  unfold State.startFill
  have := @wf_fresh
  have := @wf_zeroBlock
  have := @wf_setFillState
  have := @wf_updHome
  grind

theorem wf_joinFill {s : State} {r : Req} {die entry b : Nat} (hs : s.mem.wf = true) : (s.joinFill r die entry b).mem.wf = true := by
  unfold State.joinFill
  split
  · exact hs
  · exact wf_updLaunch hs

theorem wf_zeroLate {s : State} {die : Nat} {p : Prt} {b : Nat} (hs : s.mem.wf = true) : (s.zeroLate die p b).mem.wf = true := by
  unfold State.zeroLate
  split
  · exact wf_ite hs (wf_updHome (wf_zeroBlock hs))
  · exact hs

theorem wf_fillGate {s : State} {r : Req} {die : Nat} {p : Prt} {b : Nat}
    (hs : s.mem.wf = true) : (s.fillGate r die p b).2.mem.wf = true := by
  unfold State.fillGate
  split
  · exact wf_ite_snd hs (wf_ite_snd hs (wf_startFill hs))
  · exact wf_ite_snd hs (wf_ite_snd hs (wf_joinFill hs))
  · exact hs
  · exact hs

theorem wf_gateLeaf {s : State} {r : Req} {ia base b leaf at_ : Nat} {cached : Bool}
    (hs : s.mem.wf = true) : (gateLeaf s r ia base b leaf at_ cached).2.mem.wf = true :=
  wf_ite_snd (wf_ite hs (wf_install hs)) (wf_ite_snd (wf_ite hs (wf_install hs)) (wf_ite hs (wf_install hs)))

theorem wf_gate {s : State} {r : Req} {ia : Nat} (hs : s.mem.wf = true) : (s.gate r ia).2.mem.wf = true := by
  unfold State.gate
  have := @wf_tableError
  have := @wf_fillGate
  have := @wf_gateLeaf
  have := @wf_zeroLate
  grind

theorem wf_homeRead {s : State} {ia key n : Nat} (hs : s.mem.wf = true) : (s.homeRead ia key n).2.mem.wf = true :=
  wf_ite_snd (wf_foldl hs fun _ _ hs => wf_openL2 hs) (wf_meetFlaws hs)

theorem wf_homePutRun {s : State} {ia key : Nat} {bs : List PByte} (hs : s.mem.wf = true) : (s.homePutRun ia key bs).mem.wf = true :=
  wf_ite (wf_put (wf_foldl hs fun _ _ hs => wf_openL2 hs)) (wf_put (wf_foldl hs fun _ _ hs => wf_ite hs (wf_setSeal (wf_memWrite hs))))

theorem wf_homeWrite {s : State} {ia key : Nat} {bs : List PByte} (hs : s.mem.wf = true) : (s.homeWrite ia key bs).mem.wf = true :=
  wf_foldl (wf_ite hs (wf_deviceRecord hs)) fun _ _ hs => wf_homePutRun hs

/-! ### Cache -/

theorem wf_writeHome {s : State} {l : Line} (hs : s.mem.wf = true) : (s.writeHome l).mem.wf = true := by
  unfold State.writeHome
  have := @wf_sendWrite
  have := @wf_dropRecord
  have := @wf_homeWrite
  have := @wf_foldl
  grind

theorem wf_openRdc {s : State} {d line : Nat} {o : Id12} {p : Bool} {f : Nat}
    (hs : s.mem.wf = true) : (s.openRdc d line o p f).mem.wf = true := by
  unfold State.openRdc
  split
  · exact wf_updRdc hs
  · exact wf_ite hs (wf_writeHome (wf_updRdc hs))

theorem wf_writePoc {s : State} {d : Nat} {l : Line} (hs : s.mem.wf = true) : (s.writePoc d l).mem.wf = true :=
  wf_ite hs (wf_ite (wf_writeHome hs) (wf_updRdc (wf_openRdc hs)))

theorem wf_pushL1 {s : State} {c : Nat} {sc : Scope} (hs : s.mem.wf = true) : (s.pushL1 c sc).mem.wf = true := by
  unfold State.pushL1
  split
  · exact hs
  · exact wf_updCore hs
  · exact wf_foldl (wf_updCore hs) fun _ _ hs => wf_writePoc hs

theorem wf_pushRdc {s : State} {d : Nat} (hs : s.mem.wf = true) : (s.pushRdc d).mem.wf = true :=
  wf_foldl (wf_updRdc hs) fun _ _ hs => wf_writeHome hs

theorem wf_release {s : State} {c : Nat} {sc : Scope} (hs : s.mem.wf = true) : (s.release c sc).mem.wf = true :=
  wf_ite (wf_pushRdc (wf_pushL1 hs)) (wf_pushL1 hs)

theorem wf_acquireRdc {s : State} {d : Nat} (hs : s.mem.wf = true) : (s.acquireRdc d).mem.wf = true := wf_updRdc hs

theorem wf_acquire {s : State} {c : Nat} {sc : Scope} (hs : s.mem.wf = true) : (s.acquire c sc).mem.wf = true :=
  wf_ite hs (wf_ite (wf_spoil (wf_acquireRdc (wf_updCore hs))) (wf_spoil (wf_updCore hs)))

theorem wf_dropSpan {s : State} {c lo n : Nat} {rdc : Bool} (hs : s.mem.wf = true) : (s.dropSpan c lo n rdc).mem.wf = true :=
  wf_ite (wf_foldl (wf_updRdc (wf_spoil (wf_foldl (wf_updCore hs) fun _ _ hs => wf_writePoc hs))) fun _ _ hs => wf_writeHome hs)
      (wf_spoil (wf_foldl (wf_updCore hs) fun _ _ hs => wf_writePoc hs))

theorem wf_flushSpan {s : State} {c lo n : Nat} (hs : s.mem.wf = true) : (s.flushSpan c lo n).mem.wf = true :=
  wf_foldl (wf_updCore (wf_foldl (wf_updRdc hs) fun _ _ hs => wf_writeHome hs)) fun _ _ hs => wf_writeHome hs

theorem wf_fetchHome {s : State} {r : Req} {line : Nat} (hs : s.mem.wf = true) : (s.fetchHome r line).2.mem.wf = true := by
  unfold State.fetchHome
  split
  next h1 =>
    have ht1 := wf_of_eq h1 (wf_gate hs)
    split
    next h2 =>
      have ht2 := wf_of_eq h2 (wf_homeRead ht1)
      exact ht2
  next h1 =>
    have ht1 := wf_of_eq h1 (wf_gate hs)
    exact ht1
  next h1 =>
    have ht1 := wf_of_eq h1 (wf_gate hs)
    exact ht1
  next h1 =>
    have ht1 := wf_of_eq h1 (wf_gate hs)
    exact ht1

theorem wf_fillRdc {s : State} {d line : Nat} {bs : List PByte} {o : Id12} {p : Bool} {f : Nat}
    (hs : s.mem.wf = true) : (s.fillRdc d line bs o p f).mem.wf = true := wf_updRdc (wf_openRdc hs)

theorem wf_fetchPoc {s : State} {r : Req} {d line : Nat} {sc : Scope}
    (hs : s.mem.wf = true) : (s.fetchPoc r d line sc).2.mem.wf = true := by
  unfold State.fetchPoc
  have := @wf_fetchHome
  have := @wf_fillRdc
  grind

theorem wf_evictForeign {s : State} {c line : Nat} {o : Id12} {p : Bool}
    (hs : s.mem.wf = true) : (s.evictForeign c line o p).mem.wf = true := by
  unfold State.evictForeign
  split
  · exact wf_ite hs (wf_writePoc (wf_updCore hs))
  · exact hs

theorem wf_fillL1 {s : State} {c line : Nat} {bs : List PByte} {o : Id12} {p : Bool} {f : Nat}
    (hs : s.mem.wf = true) : (s.fillL1 c line bs o p f).mem.wf = true := wf_updCore (wf_evictForeign hs)

theorem wf_readG {s : State} {r : Req} {c : Nat} {sc : Scope} {alloc : Bool} {ia n : Nat}
    (hs : s.mem.wf = true) : (s.readG r c sc alloc ia n).2.mem.wf = true := by
  unfold State.readG
  have := @wf_gate
  have := @wf_fetchPoc
  have := @wf_fillL1
  have := @wf_homeRead
  grind

theorem wf_readGot {s : State} {r : Req} {c : Nat} {sc : Scope} {sq alloc fresh : Bool} {ia n : Nat} {data : List PByte}
    (hs : s.mem.wf = true) : (s.readGot r c sc sq alloc fresh ia n data).2.mem.wf = true :=
  wf_ite_snd (wf_ite_snd hs (wf_ite_snd (wf_ite (wf_fillL1 (wf_ite (wf_fillRdc hs) hs)) (wf_ite (wf_fillRdc hs) hs)) (wf_ite
      (wf_fillRdc hs) hs))) hs

theorem wf_readKS {s : State} {r : Req} {c : Nat} {sc : Scope} {sampler alloc : Bool} {ia n : Nat}
    (hs : s.mem.wf = true) : (s.readKS r c sc sampler alloc ia n).2.mem.wf = true := by
  unfold State.readKS
  have := @wf_fetchPoc
  have := @wf_updCore
  grind

theorem wf_readKSGot {s : State} {r : Req} {c : Nat} {sc : Scope} {sampler alloc fresh : Bool} {ia n : Nat} {data : List PByte}
    (hs : s.mem.wf = true) : (s.readKSGot r c sc sampler alloc fresh ia n data).2.mem.wf = true :=
  wf_ite (wf_ite (wf_fillRdc hs) hs) (wf_updCore (wf_ite (wf_fillRdc hs) hs))

theorem wf_poisonedWrite {s : State} {r : Req} {ia : Nat} (hs : s.mem.wf = true) : (s.poisonedWrite r ia).mem.wf = true :=
  wf_deviceRecord hs

theorem wf_updateCopy {s : State} {c ia : Nat} {bs : List PByte} {o : Id12} {p : Bool}
    (hs : s.mem.wf = true) : (s.updateCopy c ia bs o p).mem.wf = true := by
  unfold State.updateCopy
  have := @wf_evictForeign
  have := @wf_updCore
  have := @wf_writePoc
  grind

theorem wf_updateRdcCopy {s : State} {d ia : Nat} {bs : List PByte} {o : Id12} {p : Bool}
    (hs : s.mem.wf = true) : (s.updateRdcCopy d ia bs o p).mem.wf = true := by
  unfold State.updateRdcCopy
  split
  · exact hs
  · exact wf_ite (wf_writeHome (wf_updRdc hs)) (wf_updRdc (wf_writeHome hs))

theorem wf_writeL1 {s : State} {by_ : List (Nat × Slice)} {c : Nat} {sc : Scope} {ia : Nat} {bs : List PByte} {o : Id12} {p : Bool}
    {f : Nat}
    (hs : s.mem.wf = true) : (s.writeL1 by_ c sc ia bs o p f).mem.wf = true := wf_updCore (wf_evictForeign hs)

theorem wf_writeRdc {s : State} {by_ : List (Nat × Slice)} {c ia : Nat} {bs : List PByte} {o : Id12} {p : Bool} {f : Nat}
    (hs : s.mem.wf = true) : (s.writeRdc by_ c ia bs o p f).mem.wf = true := wf_updRdc (wf_openRdc (wf_updateCopy hs))

theorem wf_writeG {s : State} {r : Req} {c : Nat} {sc : Scope} {ia : Nat} {bs : List PByte} (hs : s.mem.wf = true) :
    (s.writeG r c sc ia bs).2.mem.wf = true := by
  simp only [State.writeG]
  rcases (if inAperture ia || wide sc then none else s.l1Line _ c (ia / 64)) with _ | l
  · rcases (if inAperture ia || !wide sc || decide (3 < scopeNum sc) || homeOf ia == dieOf c then none
        else s.rdcLine _ (dieOf c) (ia / 64)) with _ | l
    · simp only [Option.map_none, Option.getD_none]
      have := @wf_gate
      have := @wf_poisonedWrite
      have := @wf_writeL1
      have := @wf_writeRdc
      have := @wf_updateCopy
      have := @wf_updateRdcCopy
      have := @wf_homeWrite
      grind
    · exact wf_writeRdc hs
  · exact wf_writeL1 hs

theorem wf_probedWrite {s : State} {r : Req} {c : Nat} {sc : Scope} {ia : Nat} {bs : List PByte}
    (hs : s.mem.wf = true) : (s.probedWrite r c sc ia bs).mem.wf = true := wf_ite (wf_writeL1 hs) (wf_writeRdc hs)

theorem wf_expelL1 {s : State} {c line : Nat} (hs : s.mem.wf = true) : (s.expelL1 c line).mem.wf = true := by
  unfold State.expelL1
  split
  · exact wf_writePoc (wf_updCore hs)
  · exact hs

theorem wf_expel {s : State} {c line : Nat} (hs : s.mem.wf = true) : (s.expel c line).mem.wf = true := by
  unfold State.expel
  have := @wf_expelL1
  have := @wf_writeHome
  have := @wf_updRdc
  grind

theorem wf_atomicDropped {s : State} {r : Req} {red : Bool} {ia : Nat} {old : List PByte} {q : Poison}
    (hs : s.mem.wf = true) : (s.atomicDropped r red ia old q).2.mem.wf = true := wf_ite (wf_deviceRecord hs) hs

theorem wf_atomicL1 {s : State} {r : Req} {red : Bool} {c : Nat} {sc : Scope} {ia n : Nat} {f : List Byte → List Byte} {l : Line}
    (hs : s.mem.wf = true) : (s.atomicL1 r red c sc ia n f l).2.mem.wf = true := by
  unfold State.atomicL1
  have := @wf_atomicDropped
  have := @wf_updCore
  grind

theorem wf_atomicG {s : State} {r : Req} {red : Bool} {c : Nat} {sc : Scope} {ia n : Nat} {f : List Byte → List Byte}
    (hs : s.mem.wf = true) : (s.atomicG r red c sc ia n f).2.mem.wf = true := by
  unfold State.atomicG
  have := @wf_atomicL1
  have := @wf_gate
  have := @wf_poisonedWrite
  have := @wf_fetchPoc
  have := @wf_fillL1
  have := @wf_expel
  have := @wf_homeRead
  have := @wf_homeWrite
  have := @wf_atomicDropped
  grind

/-! ### Operands -/

theorem wf_consume {s : State} {e : Env} {srcs : List SrcOp} (hs : s.mem.wf = true) : (s.consume e srcs).mem.wf = true :=
  wf_ite (wf_updSlice (wf_updGroup hs)) (wf_updGroup hs)

theorem wf_writeDst {s : State} {e : Env} {d : Opnd} {pair : Bool} {f : Nat → Nat}
    (hs : s.mem.wf = true) : (s.writeDst e d pair f).mem.wf = true := by
  unfold State.writeDst
  split
  · exact wf_updGroup hs
  · exact wf_updSlice hs

theorem wf_lateDst {s : State} {e : Env} {d : Opnd} {mat : Bool} {vals : List (Nat → Val)}
    (hs : s.mem.wf = true) : (s.lateDst e d mat vals).mem.wf = true := by
  unfold State.lateDst
  split
  · exact wf_updGroup hs
  · split
    next h1 =>
      have ht1 := wf_of_eq h1 (wf_fresh hs)
      exact wf_updSlice ht1

/-! ### Issue -/

/-- Every success of an effect leaves memory in its canonical form. -/
def okMem (c : Chk Eff) : Prop := ∀ r, c = .ok r → r.s.mem.wf = true

theorem okMem_ok {r : Eff} (h : r.s.mem.wf = true) : okMem (.ok r) := by
  rintro _ ⟨⟩
  exact h

theorem okMem_pure {r : Eff} (h : r.s.mem.wf = true) : okMem (pure r) := okMem_ok h

theorem okMem_on {s : State} (h : s.mem.wf = true) : okMem (pure (Eff.on s)) := okMem_ok h

theorem okMem_error {x : Stop} : okMem (.error x) := fun _ h => by simp only [reduceCtorEq] at h

theorem okMem_throw {x : Stop} : okMem (throw x) := okMem_error

theorem okMem_bind {α : Type} {m : Chk α} {f : α → Chk Eff} (h : ∀ a, m = .ok a → okMem (f a)) : okMem (m >>= f) := by
  cases m with
  | error x => exact okMem_error
  | ok a => exact h a rfl

theorem okMem_ite {c : Prop} [Decidable c] {x y : Chk Eff} (hx : okMem x) (hy : okMem y) : okMem (if c then x else y) := by
  split
  · exact hx
  · exact hy

/-- A check that is made in one case only, with what follows it in either. -/
theorem okMem_guarded {c : Prop} [Decidable c] {m : Chk Unit} {f : Unit → Chk Eff} (hf : ∀ r, okMem (f r)) :
    okMem (if c then m >>= f else f ()) :=
  okMem_ite (okMem_bind fun r _ => hf r) (hf ())

theorem wf_trapIn {s : State} {e : Env} {cause info : Nat} (hs : s.mem.wf = true) : (s.trapIn e cause info).mem.wf = true :=
  wf_takeTrap hs

theorem wf_idle {s : State} (hs : s.mem.wf = true) : s.idle.mem.wf = true := hs

theorem wf_begun {s : State} {e : Env} (hs : s.mem.wf = true) : (s.begun e).mem.wf = true := wf_updSlice (wf_idle hs)

theorem wf_refill {s : State} {gid : Nat} {sl : Slice} {n : Nat} (hs : s.mem.wf = true) : (s.refill gid sl n).mem.wf = true :=
  wf_ite (wf_fatalTrap hs) hs

theorem wf_trapped {s : State} {e : Env} {cause info : Nat} (hs : s.mem.wf = true) : (s.trapped e cause info).mem.wf = true :=
  wf_trapIn (wf_idle hs)

theorem wf_ended {s : State} {e : Env} {h : Hdr} {moved : Bool} {b : State}
    (hs : s.mem.wf = true) (hb : b.mem.wf = true) : (s.ended e h moved b).mem.wf = true := by
  unfold State.ended
  have := @wf_updSlice
  have := @wf_trapped
  grind

theorem wf_waits {s : State} {e : Env} {w : Wait} (hs : s.mem.wf = true) : (s.waits e w).mem.wf = true := wf_updFrag (wf_idle hs)

theorem wf_stays {s : State} {e : Env} {w : Wait} (hs : s.mem.wf = true) : (s.stays e w).mem.wf = true := wf_updFrag (wf_updSlice hs)

theorem okMem_runEff {i : Instr} {body : Env → State → Chk Eff} {e : Env} {s : State} (hs : s.mem.wf = true)
    (hb : ∀ e s, s.mem.wf = true → okMem (body e s)) : okMem (runEff i body e s) := by
  unfold runEff
  have := @okMem_bind
  have := @okMem_on
  have := @wf_begun
  grind

/-! ### Flags -/

theorem okMem_aluEff {d : Opnd} {pair : Bool} {srcs : List SrcOp} {f : List Nat → Nat} {e : Env} {s : State}
    (hs : s.mem.wf = true) : okMem (aluEff d pair srcs f e s) :=
  okMem_bind fun _ _ => okMem_bind fun _ _ => okMem_on (wf_writeDst (wf_consume hs))

theorem okMem_lateEff {d : Opnd} {pair : Bool} {srcs : List SrcOp} {f : List Nat → Nat} {e : Env} {s : State}
    (hs : s.mem.wf = true) : okMem (lateEff d pair srcs f e s) :=
  okMem_bind fun _ _ => okMem_bind fun _ _ => okMem_on (wf_lateDst (wf_consume hs))

end Sys2Proof.Machine

/-!
SUPPORT. The canonical form of memory is kept: Storage, Governor, Records, Team, Control, Owners, Layout and Access.
-/

namespace Sys2Proof.Machine

/-! ### Storage -/

theorem wf_stampQuarters {s : State} {c : Nat} {owner : Id12} {qs : List Nat}
    (hs : s.mem.wf = true) : (s.stampQuarters c owner qs).mem.wf = true := by
  unfold State.stampQuarters
  have := @wf_updCore
  have := @wf_foldl
  grind

theorem wf_addBlocks {s : State} {g : Group} {owner : Id12} {qs : List Nat} {fromReserve : Nat}
    (hs : s.mem.wf = true) : (s.addBlocks g owner qs fromReserve).mem.wf = true := wf_stampQuarters (wf_updCore (wf_updGroup hs))

theorem wf_raiseBlocks {s t : State} {g : Group} {owner : Id12} {n : Nat} (hs : s.mem.wf = true)
    (h : s.raiseBlocks g owner n = some t) : t.mem.wf = true := by
  unfold State.raiseBlocks at h
  split at h
  · cases h
    exact hs
  · obtain ⟨qs, -, rfl⟩ := Option.map_eq_some_iff.1 h
    exact wf_addBlocks hs

theorem wf_dropBlocks {s : State} {g : Group} {n : Nat} (hs : s.mem.wf = true) : (s.dropBlocks g n).mem.wf = true :=
  wf_ite hs (wf_updCore (wf_updGroup hs))

theorem wf_wakeRacq {s : State} {gid : Nat} (hs : s.mem.wf = true) : (s.wakeRacq gid).mem.wf = true := wf_updGroup hs

theorem wf_racqGrant {s : State} {gid : Nat} (hs : s.mem.wf = true) : (s.racqGrant gid).mem.wf = true := by
  unfold State.racqGrant
  split
  · exact hs
  · next t _ =>
    split
    · exact hs
    · next g n _ =>
      split
      · cases hr : s.raiseBlocks g (s.ctx t.ctx).owner n with
        | none => exact hs
        | some r => exact wf_wakeRacq (wf_raiseBlocks hs hr)
      · exact hs

/-! ### Governor -/

theorem wf_settleBusy {s : State} (hs : s.mem.wf = true) : s.settleBusy.mem.wf = true := hs

theorem wf_govern {s : State} (hs : s.mem.wf = true) : s.govern.mem.wf = true :=
  wf_settleBusy (wf_foldl hs fun _ _ hs => wf_updCluster hs)

theorem wf_clusterStep {s : State} {cl : Nat} {f : Cluster → Cluster} (hs : s.mem.wf = true) : (s.clusterStep cl f).mem.wf = true :=
  wf_settleBusy (wf_updCluster hs)

theorem wf_rampDone {s : State} {cl : Nat} (hs : s.mem.wf = true) : (s.rampDone cl).mem.wf = true := wf_ite (wf_clusterStep hs) hs

theorem wf_clockDone {s : State} {cl : Nat} (hs : s.mem.wf = true) : (s.clockDone cl).mem.wf = true := wf_ite (wf_clusterStep hs) hs

theorem wf_crossDone {s : State} {cl : Nat} (hs : s.mem.wf = true) : (s.crossDone cl).mem.wf = true := wf_ite (wf_clusterStep hs) hs

theorem wf_lowerCap {s : State} (hs : s.mem.wf = true) : s.lowerCap.mem.wf = true := wf_foldl hs fun _ _ hs => wf_updCluster hs

theorem wf_restoreStep {s : State} (hs : s.mem.wf = true) : s.restoreStep.mem.wf = true := wf_ite hs hs

theorem wf_powerSample {s : State} {watts : Nat} (hs : s.mem.wf = true) : (s.powerSample watts).mem.wf = true := by
  unfold State.powerSample
  dsimp only
  split
  · exact wf_govern hs
  · split
    · exact wf_govern (wf_ite (wf_lowerCap hs) hs)
    · split
      · exact wf_govern (wf_ite (wf_restoreStep hs) hs)
      · exact wf_govern hs

theorem wf_encoreAt {s : State} {cl : Nat} (hs : s.mem.wf = true) : (s.encoreAt cl).mem.wf = true := wf_govern (wf_updCluster hs)

theorem wf_setLimits {s : State} {fallback : Bool} {table band cap : Nat}
    (hs : s.mem.wf = true) : (s.setLimits fallback table band cap).mem.wf = true := by
  unfold State.setLimits
  have := @wf_setReg
  have := @wf_govern
  grind

theorem wf_fallback {s : State} (hs : s.mem.wf = true) : s.fallback.mem.wf = true :=
  wf_ite (wf_setLimits hs) (wf_deviceRecord (wf_setLimits hs))

theorem wf_applyReport {s : State} (hs : s.mem.wf = true) : s.applyReport.mem.wf = true := by
  unfold State.applyReport
  split
  · exact wf_fallback hs
  · split
    · exact wf_fallback hs
    · split
      · exact wf_fallback hs
      · exact wf_ite (wf_fallback hs) (wf_setLimits hs)

theorem wf_commitReport {s : State} (hs : s.mem.wf = true) : s.commitReport.mem.wf = true := wf_applyReport hs

/-! ### Records -/

theorem wf_hwWrite {s : State} {ia : Nat} {bs : List Byte} (hs : s.mem.wf = true) : (s.hwWrite ia bs).mem.wf = true := by
  unfold State.hwWrite
  have := @wf_touch
  have := @wf_sendWrite
  have := @wf_homeWrite
  grind

theorem wf_setDesc {s : State} {ctx off v : Nat} (hs : s.mem.wf = true) : (s.setDesc ctx off v).mem.wf = true := wf_hwWrite hs

theorem wf_putBatch {s : State} {ctx : Nat} {recs : List (List Byte)} (hs : s.mem.wf = true) : (s.putBatch ctx recs).mem.wf = true :=
  wf_event (wf_setDesc (wf_updCtx (wf_foldl hs fun _ _ hs => wf_hwWrite hs)))

theorem wf_faultBatch {s : State} {ctx acc : Nat} {recs : List (List Byte)} (hs : s.mem.wf = true) :
    (s.faultBatch ctx acc recs).mem.wf = true := by
  unfold State.faultBatch
  split
  · exact hs
  · split
    · exact wf_putBatch hs
    · exact hs

theorem wf_retryBatch {s : State} {ctx : Nat} (hs : s.mem.wf = true) : (s.retryBatch ctx).mem.wf = true := by
  unfold State.retryBatch
  split
  · split
    · exact wf_putBatch hs
    · exact hs
  · exact hs

theorem wf_freeWalks {s : State} (hs : s.mem.wf = true) : s.freeWalks.mem.wf = true := hs

theorem wf_dropWork {s : State} {id : Nat} (hs : s.mem.wf = true) : (s.dropWork id).mem.wf = true := wf_freeWalks hs

theorem wf_checkLog {s : State} {gid : Nat} {sl : Slice} {id : Nat} {pc : W64}
    (hs : s.mem.wf = true) : (s.checkLog gid sl id pc).mem.wf = true := by
  unfold State.checkLog
  split
  · exact wf_ite hs (wf_fatalTrap (wf_dropWork hs))
  · exact hs

theorem wf_putError {s : State} {ctx : Nat} {body : List Byte} (hs : s.mem.wf = true) : (s.putError ctx body).mem.wf = true :=
  wf_event (wf_setDesc (wf_updCtx (wf_hwWrite hs)))

/-! ### Team -/

theorem wf_freeGroup {s : State} {g : Group} (hs : s.mem.wf = true) : (s.freeGroup g).mem.wf = true := wf_updCore hs

theorem wf_endTeam {s : State} {t : Team} (hs : s.mem.wf = true) : (s.endTeam t).mem.wf = true := by
  unfold State.endTeam
  split
  · exact wf_govern (wf_freeWalks (wf_updCtx (wf_foldl hs fun _ _ hs => wf_freeGroup hs)))
  · exact wf_govern (wf_freeWalks (wf_foldl hs fun _ _ hs => wf_freeGroup hs))

theorem wf_wakeBlock {s : State} {die entry blk : Nat} (hs : s.mem.wf = true) : (s.wakeBlock die entry blk).mem.wf = true := wf_updHome hs

theorem wf_leaveFilling {s : State} {die : Nat} {m : Merge} (hs : s.mem.wf = true) : (s.leaveFilling die m).mem.wf = true :=
  wf_wakeBlock (wf_updHome hs)

theorem wf_failFill {s : State} {die entry blk cause sub code : Nat}
    (hs : s.mem.wf = true) : (s.failFill die entry blk cause sub code).mem.wf = true := by
  unfold State.failFill
  split
  · exact wf_leaveFilling (wf_deviceRecord (wf_setFillState (wf_failRecord (wf_foldl hs fun _ _ hs => wf_endTeam hs))))
  · exact hs

theorem wf_raiseEvent {s : State} {ia : Nat} (hs : s.mem.wf = true) : (s.raiseEvent ia).mem.wf = true := by
  unfold State.raiseEvent
  have := @wf_touch
  have := @wf_homeRead
  have := @wf_hwWrite
  grind

theorem wf_testReady {s : State} (hs : s.mem.wf = true) : s.testReady.mem.wf = true := hs

theorem wf_signal {s : State} {ev : Nat} (hs : s.mem.wf = true) : (s.signal ev).mem.wf = true :=
  wf_ite hs (wf_testReady (wf_raiseEvent hs))

theorem wf_writeStatus {s : State} {at_ status ovr resume : Nat} {signal : W64}
    (hs : s.mem.wf = true) : (s.writeStatus at_ status ovr resume signal).mem.wf = true := wf_signal (wf_hwWrite (wf_hwWrite hs))

theorem wf_dropLaunch {s : State} {l : Launch} (hs : s.mem.wf = true) : (s.dropLaunch l).mem.wf = true := wf_ite (wf_govern hs) hs

theorem wf_passTime {s : State} {t : W64} (hs : s.mem.wf = true) : (s.passTime t).mem.wf = true := hs

theorem wf_completeLaunch {s : State} {l : Launch} {status resume : Nat}
    (hs : s.mem.wf = true) : (s.completeLaunch l status resume).mem.wf = true := by
  unfold State.completeLaunch
  split
  · exact wf_writeStatus (wf_dropLaunch hs)
  · exact wf_dropLaunch hs

theorem wf_checkLaunch {s : State} {lid : Nat} (hs : s.mem.wf = true) : (s.checkLaunch lid).mem.wf = true := by
  unfold State.checkLaunch
  split
  · exact hs
  · exact wf_ite hs (wf_ite (wf_ite (wf_completeLaunch hs) hs) (wf_ite (wf_completeLaunch hs) hs))

theorem wf_endDraw {s : State} {d : Draw} {status : Nat} (hs : s.mem.wf = true) : (s.endDraw d status).mem.wf = true :=
  wf_signal (wf_hwWrite hs)

theorem wf_checkDraw {s : State} {k : TeamKind} (hs : s.mem.wf = true) : (s.checkDraw k).mem.wf = true := by
  unfold State.checkDraw
  split
  · exact wf_ite (wf_endDraw hs) hs
  · exact hs

theorem wf_failDraw {s : State} {t : Team} (hs : s.mem.wf = true) : (s.failDraw t).mem.wf = true := by
  unfold State.failDraw
  split
  · exact wf_checkDraw (wf_updDraw hs)
  · exact hs

theorem wf_touchPixels {s : State} {t : Team} {g : Group} (hs : s.mem.wf = true) : (s.touchPixels t g).mem.wf = true := by
  unfold State.touchPixels
  split
  · exact wf_updDraw hs
  · exact hs

theorem wf_freePass {s : State} {t : Team} (hs : s.mem.wf = true) : (s.freePass t).mem.wf = true := by
  unfold State.freePass
  split
  · exact wf_updDraw hs
  · exact hs

theorem wf_countStep {s : State} {lid step : Nat} (hs : s.mem.wf = true) : (s.countStep lid step).mem.wf = true := wf_updLaunch hs

theorem wf_teamRetired {s : State} {t : Team} {step : Nat} (hs : s.mem.wf = true) : (s.teamRetired t step).mem.wf = true :=
  wf_checkDraw (wf_checkLaunch (wf_updLaunch (wf_countStep (wf_freePass (wf_endTeam hs)))))

theorem wf_haltTeam {s : State} {t : Team} {cause info : Nat} (hs : s.mem.wf = true) : (s.haltTeam t cause info).mem.wf = true := by
  unfold State.haltTeam
  split
  · exact hs
  · split
    · exact hs
    · exact hs
    · exact wf_fatalTrap hs

theorem wf_haltAt {s : State} {t : Team} {life : TeamLife} {g : Group} {sl : Slice} {cause info : Nat} {pc : W64}
    (hs : s.mem.wf = true) : (s.haltAt t life g sl cause info pc).mem.wf = true := by
  unfold State.haltAt
  split
  · exact wf_updTeam (wf_updCtx hs)
  · exact wf_updTeam hs

theorem wf_haltStanding {s : State} {t : Team} {info : Nat} (hs : s.mem.wf = true) : (s.haltStanding t info).mem.wf = true := by
  unfold State.haltStanding
  split
  · exact wf_endTeam hs
  · exact wf_haltAt hs

theorem wf_abortLaunch {s : State} {lid : Nat} {ext : Bool} {code : Nat}
    (hs : s.mem.wf = true) : (s.abortLaunch lid ext code).mem.wf = true := by
  unfold State.abortLaunch
  split
  · exact hs
  · exact wf_ite hs (wf_foldl (wf_updLaunch hs) fun _ _ hs => wf_ite (wf_haltTeam hs) (wf_haltStanding hs))

theorem wf_sendAbort {s : State} {cgid : BitVec 16} {code : Nat} (hs : s.mem.wf = true) : (s.sendAbort cgid code).mem.wf = true :=
  wf_foldl hs fun _ _ hs => wf_send hs

theorem wf_writeErrors {s : State} {t : Team} {ltag step : Nat} (hs : s.mem.wf = true) :
    (s.writeErrors t ltag step).mem.wf = true := by
  unfold State.writeErrors
  refine wf_foldl hs ?_
  intro s r hs
  generalize (s.errorFits t.ctx && !s.records.any (fun h => h.ctx == t.ctx)) = fits
  cases fits
  · exact hs
  · exact wf_putError hs

theorem wf_settleFatal {s : State} {tid : Nat} (hs : s.mem.wf = true) : (s.settleFatal tid).mem.wf = true := by
  unfold State.settleFatal
  split
  · exact hs
  · exact wf_ite (wf_ite hs (wf_endTeam (wf_countStep hs))) hs

theorem wf_checkAbort {s : State} {lid : Nat} (hs : s.mem.wf = true) : (s.checkAbort lid).mem.wf = true := by
  unfold State.checkAbort
  have := @wf_updLaunch
  have := @wf_send
  have := @wf_writeErrors
  have := @wf_settleFatal
  have := @wf_updTeam
  have := @wf_completeLaunch
  have := @wf_foldl
  grind

theorem wf_abortFrom {s : State} {lid code : Nat} (hs : s.mem.wf = true) : (s.abortFrom lid code).mem.wf = true := by
  unfold State.abortFrom
  split
  · exact hs
  · exact wf_ite (wf_abortLaunch hs) (wf_foldl (wf_foldl (wf_sendAbort hs) fun _ _ hs => wf_abortLaunch hs) fun _ _ hs => wf_checkAbort
      hs)

theorem wf_haltComplete {s : State} {tid : Nat} (hs : s.mem.wf = true) : (s.haltComplete tid).mem.wf = true := by
  unfold State.haltComplete
  have := @wf_updTeam
  have := @wf_writeErrors
  have := @wf_failFill
  have := @wf_failDraw
  have := @wf_settleFatal
  have := @wf_checkAbort
  have := @wf_updLaunch
  have := @wf_abortFrom
  have := @wf_checkLaunch
  grind

theorem wf_retryError {s : State} {ctx : Nat} (hs : s.mem.wf = true) : (s.retryError ctx).mem.wf = true := by
  unfold State.retryError
  split
  · split
    · exact wf_settleFatal (wf_putError hs)
    · exact hs
  · exact hs

theorem wf_deferTrap {s : State} {gid : Nat} {sl : Slice} {cause info : Nat} {pc : W64} {issuedAt : Nat}
    (hs : s.mem.wf = true) : (s.deferTrap gid sl cause info pc issuedAt).mem.wf = true := by
  unfold State.deferTrap
  split
  · exact hs
  · split
    · exact hs
    · exact wf_ite (wf_fatalTrap hs) (wf_ite hs (wf_updSlice (wf_haltAt hs)))

theorem wf_deferredTrap {s : State} {id : Nat} (hs : s.mem.wf = true) : (s.deferredTrap id).mem.wf = true := by
  unfold State.deferredTrap
  split
  · exact hs
  · split
    · exact hs
    · exact wf_deferTrap (wf_dropWork hs)

theorem wf_barrierSync {s : State} {t : Team} (hs : s.mem.wf = true) : (s.barrierSync t).mem.wf = true :=
  wf_foldl (wf_foldl hs fun _ _ hs => wf_release hs) fun _ _ hs => wf_acquire hs

theorem wf_checkBarrier {s : State} {tid : Nat} {sl : Slice} (hs : s.mem.wf = true) : (s.checkBarrier tid sl).mem.wf = true := by
  unfold State.checkBarrier
  split
  · exact hs
  · exact wf_ite (wf_foldl (wf_updTeam (wf_barrierSync hs)) fun _ _ hs => wf_refill hs) hs

theorem wf_passMesh {s : State} {t : Team} {g : Group} (hs : s.mem.wf = true) : (s.passMesh t g).mem.wf = true := by
  unfold State.passMesh
  split
  · exact wf_updDraw (wf_ite (wf_updGroup hs) hs)
  · exact hs

theorem wf_deadlockTrap {s : State} {gid : Nat} {sl : Slice} {info : Nat} {pcA pcC : W64}
    (hs : s.mem.wf = true) : (s.deadlockTrap gid sl info pcA pcC).mem.wf = true := by
  unfold State.deadlockTrap
  split
  · exact wf_updSlice (wf_fatalTrap hs)

theorem wf_greenRoom {s : State} {gid : Nat} (hs : s.mem.wf = true) : (s.greenRoom gid).mem.wf = true := by
  unfold State.greenRoom
  have := @wf_updGroup
  have := @wf_passMesh
  have := @wf_failFill
  have := @wf_deadlockTrap
  grind

theorem wf_afterExit {s : State} {gid : Nat} (hs : s.mem.wf = true) : (s.afterExit gid).mem.wf = true := by
  unfold State.afterExit
  have := @wf_updGroup
  have := @wf_greenRoom
  have := @wf_checkBarrier
  grind

theorem wf_groupRetire {s : State} {gid : Nat} (hs : s.mem.wf = true) : (s.groupRetire gid).mem.wf = true := by
  unfold State.groupRetire
  split
  · exact hs
  · split
    · exact hs
    · exact wf_ite hs (wf_ite (wf_teamRetired (wf_touchPixels hs)) (wf_updTeam (wf_freeGroup (wf_touchPixels hs))))

/-! ### Control -/

theorem okMem_transfer {e : Env} {s : State} {taken : Lanes} {npc tgt jn : W64}
    (hs : s.mem.wf = true) : okMem (transfer e s taken npc tgt jn) := by
  unfold transfer
  split
  · exact okMem_on hs
  · split
    · exact okMem_bind fun _ _ => okMem_pure (wf_updSlice hs)
    · split
      next h1 =>
        have ht1 := wf_of_eq h1 (wf_fresh hs)
        exact okMem_bind fun _ _ => okMem_bind fun _ _ => okMem_pure (wf_updSlice ht1)

theorem wf_link {s : State} {e : Env} {b : Opnd} (hs : s.mem.wf = true) : (s.link e b).mem.wf = true := wf_updSlice hs

theorem okMem_braEff {m : MB} {e : Env} {s : State} (hs : s.mem.wf = true) : okMem (braEff m e s) := okMem_transfer hs

theorem okMem_brxEff {a : Opnd} {m : MB} {e : Env} {s : State} (hs : s.mem.wf = true) : okMem (brxEff a m e s) :=
  okMem_bind fun _ _ => okMem_bind fun _ _ => okMem_transfer hs

theorem okMem_callEff {b : Opnd} {m : MB} {e : Env} {s : State} (hs : s.mem.wf = true) : okMem (callEff b m e s) :=
  okMem_transfer (wf_link hs)

theorem okMem_callxEff {a b : Opnd} {e : Env} {s : State} (hs : s.mem.wf = true) : okMem (callxEff a b e s) :=
  okMem_bind fun _ _ => okMem_transfer (wf_link hs)

theorem okMem_retEff {a : Opnd} {e : Env} {s : State} (hs : s.mem.wf = true) : okMem (retEff a e s) :=
  okMem_bind fun _ _ => okMem_transfer hs

theorem wf_leave {s : State} {e : Env} (hs : s.mem.wf = true) : (s.leave e).mem.wf = true := wf_afterExit (wf_updSlice hs)

theorem okMem_brqEff {a b : Opnd} {m : MB} {e : Env} {s : State} (hs : s.mem.wf = true) : okMem (brqEff a b m e s) := by
  unfold brqEff
  have := @wf_consume
  have := @okMem_transfer
  have := @okMem_bind
  have := @okMem_ok
  have := @okMem_pure
  have := @okMem_error
  have := @okMem_throw
  grind [Eff.on]

theorem okMem_pushbEff {d a : Opnd} {tag : BitVec 4} {e : Env} {s : State} (hs : s.mem.wf = true) : okMem (pushbEff d a tag e s) :=
  okMem_bind fun _ _ => okMem_on (wf_updGroup hs)

theorem okMem_qdiscEff {a : Opnd} {e : Env} {s : State} (hs : s.mem.wf = true) : okMem (qdiscEff a e s) :=
  okMem_bind fun _ _ => okMem_on (wf_consume hs)

theorem okMem_racqEff {d a : Opnd} {tryIt : Bool} {e : Env} {s : State} (hs : s.mem.wf = true) : okMem (racqEff d a tryIt e s) := by
  unfold racqEff
  have := @wf_updSlice
  have := @wf_raiseBlocks
  have := @okMem_bind
  have := @okMem_ok
  have := @okMem_pure
  have := @okMem_error
  have := @okMem_throw
  grind [Eff.on]

theorem okMem_rrelEff {a : Opnd} {e : Env} {s : State} (hs : s.mem.wf = true) : okMem (rrelEff a e s) :=
  okMem_bind fun _ _ => okMem_bind fun _ _ => okMem_on (wf_dropBlocks hs)

/-! ### Owners -/

theorem wf_surfWrite {s : State} {i : Nat} (hs : s.mem.wf = true) : (s.surfWrite i).mem.wf = true := by
  unfold State.surfWrite
  split
  · exact hs
  · exact wf_ite hs (wf_ite (wf_deviceRecord hs) hs)

theorem wf_refuse {s : State} {ctx n : Nat} (hs : s.mem.wf = true) : (s.refuse ctx n).mem.wf = true := wf_updCtx hs

/-! ### Layout -/

theorem wf_mdGate {s : State} {ia : Nat} (hs : s.mem.wf = true) : (s.mdGate ia).2.mem.wf = true := by
  unfold State.mdGate
  split
  · exact wf_touch hs
  · exact hs
  · exact hs
  · exact hs
  · exact wf_tableError hs

theorem wf_mdRecord {s : State} {ia : Nat} {owner : Id12} (hs : s.mem.wf = true) : (s.mdRecord ia owner).mem.wf = true :=
  wf_deviceRecord hs

theorem wf_mdRead {s : State} {ia key leaf : Nat} (hs : s.mem.wf = true) : (s.mdRead ia key leaf).2.2.mem.wf = true := by
  unfold State.mdRead
  have := @wf_mdRecord
  have := @wf_poisonFlaw
  have := @wf_openMdc
  have := @wf_foldl
  have := @wf_foldl_snd
  grind

theorem wf_unitBytes {s : State} {f : Surf} {st n : Nat} {fetch : State → Nat → Nat → Except Gate (List PByte) × State}
    (hs : s.mem.wf = true) (hf : ∀ s a b, s.mem.wf = true → (fetch s a b).2.mem.wf = true) :
    (s.unitBytes f st n fetch).2.mem.wf = true := by
  unfold State.unitBytes
  split
  · exact hf _ _ _ hs
  · split
    case h_1 g s1 h1 => have := @wf_mdGate; grind
    case h_2 km leaf s1 h1 =>
      have h1 : s1.mem.wf = true := by have := @wf_mdGate; grind
      split
      case h_1 b s2 h2 => have := @wf_mdRead; grind
      case h_2 code b s2 h2 =>
        have h2 : s2.mem.wf = true := by have := @wf_mdRead; grind
        split
        case h_1 g s3 h3 => grind
        case h_2 stored s3 h3 =>
          have h3 : s3.mem.wf = true := by grind
          split
          · exact h3
          · have := @wf_mdRecord
            grind

theorem wf_storedAtHome {s : State} {f : Surf} {st n : Nat} (hs : s.mem.wf = true) : (s.storedAtHome f st n).2.mem.wf = true := by
  unfold State.storedAtHome
  split
  · exact hs
  · split
    next h1 =>
      have ht1 := wf_of_eq h1 (wf_homeRead hs)
      exact ht1

theorem wf_viewLine {s : State} {f : Surf} {line : Nat} (hs : s.mem.wf = true) : (s.viewLine f line).2.mem.wf = true := by
  unfold State.viewLine
  have := @wf_unitBytes
  have := @wf_storedAtHome
  have := @wf_foldl
  have := @wf_foldl_snd
  grind

theorem wf_readT {s : State} {r : Req} {c : Nat} {sc : Scope} {alloc : Bool} {ia n : Nat}
    (hs : s.mem.wf = true) : (s.readT r c sc alloc ia n).2.mem.wf = true := by
  unfold State.readT
  have := @wf_gate
  have := @wf_viewLine
  have := @wf_updCore
  grind

theorem wf_storedAtPoc {s : State} {r : Req} {d : Nat} {sc : Scope} {f : Surf} {st n : Nat}
    (hs : s.mem.wf = true) : (s.storedAtPoc r d sc f st n).2.mem.wf = true := by
  unfold State.storedAtPoc
  have := @wf_fetchPoc
  have := @wf_foldl
  have := @wf_foldl_snd
  grind

theorem wf_readS {s : State} {r : Req} {c : Nat} {sc : Scope} {ia n : Nat}
    (hs : s.mem.wf = true) : (s.readS r c sc ia n).2.mem.wf = true := by
  unfold State.readS
  have := @wf_readKS
  have := @wf_gate
  have := @wf_unitBytes
  have := @wf_storedAtPoc
  have := @wf_updCore
  grind

theorem wf_writeRuns {s : State} {ia key : Nat} {w : UnitWrite} (hs : s.mem.wf = true) : (s.writeRuns ia key w).mem.wf = true :=
  wf_foldl hs fun _ _ hs => wf_homeWrite hs

theorem wf_encodeUnit {s : State} {f : Surf} {st key km : Nat} {lost : Bool} {content : List PByte}
    (hs : s.mem.wf = true) : (s.encodeUnit f st key km lost content).mem.wf = true :=
  wf_ite (wf_homeWrite (wf_ite (wf_ite hs (wf_homeWrite hs)) (wf_ite hs (wf_homeWrite hs)))) (wf_homeWrite (wf_ite (wf_ite hs
      (wf_homeWrite hs)) (wf_ite hs (wf_homeWrite hs))))

theorem wf_writeUnit {s : State} {f : Surf} {st key : Nat} {w : UnitWrite} {owner : Id12}
    (hs : s.mem.wf = true) : (s.writeUnit f st key w owner).2.mem.wf = true := by
  unfold State.writeUnit
  have := @wf_writeRuns
  have := @wf_mdGate
  have := @wf_mdRead
  have := @wf_mdRecord
  have := @wf_encodeUnit
  have := @wf_homeWrite
  have := @wf_homeRead
  have := @wf_deviceRecord
  grind

/-! ### Access -/

theorem wf_performLane {s : State} {r : Req} {a : Acc} {l : LaneAcc} (hs : s.mem.wf = true) : (s.performLane r a l).2.mem.wf = true := by
  unfold State.performLane
  split
  · split
    · exact wf_readKS hs
    · exact wf_readT hs
    · exact wf_readG (wf_ite (wf_ite (wf_expelL1 hs) (wf_expel hs)) hs)
  · exact wf_ite_snd (wf_readKS hs) (wf_readS hs)
  · exact wf_writeG hs
  · exact wf_atomicG hs

theorem wf_gateT {s : State} {r : Req} {ia : Nat} (hs : s.mem.wf = true) : (s.gateT r ia).2.mem.wf = true := by
  unfold State.gateT
  split
  · exact hs
  · split
    next h1 =>
      have ht1 := wf_of_eq h1 (wf_gate hs)
      exact ht1
    next h1 =>
      have ht1 := wf_of_eq h1 (wf_gate hs)
      exact ht1
    · exact wf_gate hs

theorem wf_releaseFor {s : State} {e : Env} {sc : Scope} (hs : s.mem.wf = true) : (s.releaseFor e sc).1.mem.wf = true := by
  unfold State.releaseFor
  split
  · exact hs
  · exact wf_release hs

theorem okMem_withRelease {s : State} {e : Env} {sc : Scope} {k : State → Chk Eff} (hs : s.mem.wf = true)
    (hk : ∀ s, s.mem.wf = true → okMem (k s)) : okMem (s.withRelease e sc k) := by
  unfold State.withRelease
  split
  · exact okMem_error
  · have := @okMem_pure
    have := @wf_releaseFor
    have := @wf_stays
    grind

/-- The effect of a memory instruction, after the release that its order may ask for. -/
theorem okMem_released {c : Prop} [Decidable c] {s : State} {e : Env} {sc : Scope} {go : State → Chk Eff} (hs : s.mem.wf = true)
    (hg : ∀ s, s.mem.wf = true → okMem (go s)) : okMem (if c then s.withRelease e sc go else go s) :=
  okMem_ite (okMem_withRelease hs hg) (hg s hs)

theorem wf_reserve {s : State} {e : Env} {id : Nat} {d : Opnd} {n : Nat} {counted : Option Path} {lanes : Nat → Lanes}
    (hs : s.mem.wf = true) : (s.reserve e id d n counted lanes).1.mem.wf = true := by
  unfold State.reserve
  split
  · exact wf_updGroup hs
  · split
    next h1 =>
      have ht1 := wf_of_eq h1 (wf_fresh hs)
      exact wf_updSlice ht1

end Sys2Proof.Machine

/-!
SUPPORT. The canonical form of memory is kept: Memory, Barriers, Sampler, Requests, Engines, Homes and Power.
-/

namespace Sys2Proof.Machine

/-! ### Memory -/

theorem wf_addAcc {s : State} {a : Acc} (hs : s.mem.wf = true) : (s.addAcc a).mem.wf = true := hs

theorem okMem_loadEff {p : Path} {rights : Window → Bool} {d a b : Opnd} {m : MM} {e : Env} {s : State}
    (hs : s.mem.wf = true) : okMem (loadEff p rights d a b m e s) := by
  unfold loadEff
  have := @wf_fresh
  have := @wf_consume
  have := @wf_reserve
  have := @wf_addAcc
  have := @okMem_bind
  have := @okMem_ok
  have := @okMem_pure
  have := @okMem_error
  have := @okMem_throw
  grind [Eff.on]

theorem okMem_storeEff {p : Path} {rights : Window → Bool} {d a b : Opnd} {m : MM} {e : Env} {s : State}
    (hs : s.mem.wf = true) : okMem (storeEff p rights d a b m e s) := by
  unfold storeEff
  iterate 7 refine okMem_bind fun _ _ => ?_
  exact okMem_released hs fun s hs => okMem_on (wf_addAcc (wf_fresh (wf_consume hs)))

theorem okMem_atomEff {d : Option Opnd} {a b : Opnd} {m : MM} {e : Env} {s : State} (hs : s.mem.wf = true) :
    okMem (atomEff d a b m e s) := by
  unfold atomEff
  iterate 6 refine okMem_bind fun _ _ => ?_
  refine okMem_guarded fun _ => okMem_bind fun _ _ => okMem_released hs fun s hs => ?_
  exact okMem_on (wf_addAcc (wf_ite_fst (wf_reserve (wf_fresh hs)) (wf_fresh hs)))

theorem wf_writeLoaded {s : State} {e : Env} {d : Opnd} {regs : Nat} {v : Nat → List Val}
    (hs : s.mem.wf = true) : (s.writeLoaded e d regs v).mem.wf = true := by
  unfold State.writeLoaded
  split
  · exact wf_updGroup hs
  · exact wf_updSlice hs

theorem okMem_ldspEff {d a b : Opnd} {m : MM} {e : Env} {s : State} (hs : s.mem.wf = true) : okMem (ldspEff d a b m e s) :=
  okMem_bind fun _ _ => okMem_bind fun _ _ => okMem_bind fun _ _ => okMem_bind fun _ _ => okMem_bind fun _ _ => okMem_bind fun _ _ =>
      okMem_bind fun _ _ => okMem_on (wf_writeLoaded (wf_consume hs))

theorem okMem_stspEff {d a b : Opnd} {m : MM} {e : Env} {s : State} (hs : s.mem.wf = true) : okMem (stspEff d a b m e s) := by
  unfold stspEff
  iterate 8 refine okMem_bind fun _ _ => ?_
  refine okMem_guarded fun _ => okMem_released hs fun s hs => okMem_on (wf_updCore (wf_consume hs))

theorem okMem_atspEff {d a b : Opnd} {m : MM} {e : Env} {s : State} (hs : s.mem.wf = true) : okMem (atspEff d a b m e s) := by
  unfold atspEff
  iterate 9 refine okMem_bind fun _ _ => ?_
  refine okMem_guarded fun _ => okMem_released hs fun s hs => okMem_ite ?_ (okMem_on (wf_foldl (wf_updCore hs) fun s x hs => ?_))
  · split
    · exact okMem_on (wf_writeLoaded (wf_updCore hs))
    · exact okMem_on (wf_lateDst (wf_updCore hs))
  · split
    · exact wf_deviceRecord hs
    · exact hs

theorem wf_prefetch {s : State} {e : Env} {alloc : Bool} {size va : Nat}
    (hs : s.mem.wf = true) : (s.prefetch e alloc size va).mem.wf = true := by
  unfold State.prefetch
  have := @wf_gate
  have := @wf_readG
  have := @wf_send
  grind

theorem okMem_pfxEff {a b : Opnd} {m : MM} {e : Env} {s : State} (hs : s.mem.wf = true) : okMem (pfxEff a b m e s) :=
  okMem_bind fun _ _ => okMem_bind fun _ _ => okMem_on (wf_foldl (wf_consume hs) fun _ _ hs => wf_prefetch hs)

theorem okMem_fenceEff {sc : Scope} {o : Order} {e : Env} {s : State} (hs : s.mem.wf = true) : okMem (fenceEff sc o e s) := by
  unfold fenceEff
  have := @wf_acquire
  have := @okMem_withRelease
  have := @okMem_bind
  have := @okMem_ok
  have := @okMem_pure
  have := @okMem_error
  have := @okMem_throw
  grind [Eff.on]

theorem wf_pathInval {s : State} {sc : Scope} {c : Nat} {dst : BitVec 4}
    (hs : s.mem.wf = true) : (s.pathInval sc c dst).mem.wf = true :=
  wf_ite (wf_spoil (wf_foldl (wf_ite (wf_foldl hs fun _ _ hs => wf_updCore hs) (wf_spoil
      (wf_foldl hs fun _ _ hs => wf_updCore hs))) fun _ _ hs => wf_acquireRdc hs)) (wf_ite (wf_foldl hs fun _ _ hs => wf_updCore hs)
      (wf_spoil (wf_foldl hs fun _ _ hs => wf_updCore hs)))

theorem okMem_pfenceEff {sc : Scope} {src dst : BitVec 4} {e : Env} {s : State}
    (hs : s.mem.wf = true) : okMem (pfenceEff sc src dst e s) :=
  okMem_bind fun _ _ => okMem_bind fun _ _ => okMem_withRelease (wf_ite (wf_pushL1 hs) hs) (fun _ hs => okMem_on (wf_pathInval hs))

/-! ### Barriers -/

theorem okMem_synctEff {sw : Bool} {e : Env} {s : State} (hs : s.mem.wf = true) : okMem (synctEff sw e s) :=
  okMem_bind fun _ _ => okMem_bind fun _ _ => okMem_pure (wf_checkBarrier (wf_updTeam (wf_updFrag hs)))

theorem wf_barStep {s : State} {core at_ : Nat} {f : BarObj → BarObj} (hs : s.mem.wf = true) : (s.barStep core at_ f).mem.wf = true :=
  wf_updCore hs

theorem wf_landBytes {s : State} {team core off n : Nat} (hs : s.mem.wf = true) : (s.landBytes team core off n).mem.wf = true := by
  unfold State.landBytes
  split
  · exact wf_barStep hs
  · exact hs

theorem wf_status {s : State} {e : Env} {d : Opnd} {v : Nat} (hs : s.mem.wf = true) : (s.status e d v).mem.wf = true := by
  unfold State.status
  split
  · exact wf_writeDst hs
  · exact wf_writeDst hs
  · exact hs

theorem okMem_mbinitEff {a b : Opnd} {e : Env} {s : State} (hs : s.mem.wf = true) : okMem (mbinitEff a b e s) := by
  unfold mbinitEff
  have := @wf_barStep
  have := @okMem_bind
  have := @okMem_ok
  have := @okMem_pure
  have := @okMem_error
  have := @okMem_throw
  grind [Eff.on]

theorem okMem_mbUpdate {d : Opnd} {off : Nat} {rel : Bool} {f : BarObj → BarObj} {e : Env} {s : State}
    (hs : s.mem.wf = true) : okMem (mbUpdate d off rel f e s) :=
  okMem_ite (okMem_bind fun _ _ => okMem_bind fun _ _ => okMem_withRelease hs (fun _ hs => okMem_on (wf_status (wf_barStep hs))))
      (okMem_on (wf_status (wf_barStep hs)))

theorem okMem_mbarvEff {d a b : Opnd} {rlx : Bool} {e : Env} {s : State} (hs : s.mem.wf = true) : okMem (mbarvEff d a b rlx e s) := by
  unfold mbarvEff
  have := @okMem_mbUpdate
  have := @okMem_bind
  have := @okMem_ok
  have := @okMem_pure
  have := @okMem_error
  have := @okMem_throw
  grind [Eff.on]

theorem okMem_mbexpEff {d a b : Opnd} {rlx arv : Bool} {e : Env} {s : State}
    (hs : s.mem.wf = true) : okMem (mbexpEff d a b rlx arv e s) := by
  unfold mbexpEff
  have := @okMem_mbUpdate
  have := @okMem_bind
  have := @okMem_ok
  have := @okMem_pure
  have := @okMem_error
  have := @okMem_throw
  grind [Eff.on]

theorem okMem_mbwaitEff {a b : Opnd} {e : Env} {s : State} (hs : s.mem.wf = true) : okMem (mbwaitEff a b e s) := by
  unfold mbwaitEff
  have := @wf_acquire
  have := @okMem_bind
  have := @okMem_ok
  have := @okMem_pure
  have := @okMem_error
  have := @okMem_throw
  grind [Eff.on]

theorem okMem_mbtestEff {d a b : Opnd} {e : Env} {s : State} (hs : s.mem.wf = true) : okMem (mbtestEff d a b e s) := by
  unfold mbtestEff
  have := @wf_acquire
  have := @wf_status
  have := @okMem_bind
  have := @okMem_ok
  have := @okMem_pure
  have := @okMem_error
  have := @okMem_throw
  grind [Eff.on]

/-! ### Sampler -/

theorem wf_sampState {s : State} {e : Env} {sc : Scope} {ssi : Nat} (hs : s.mem.wf = true) : (s.sampState e sc ssi).2.mem.wf = true := by
  unfold State.sampState
  have := @wf_readKS
  grind

theorem wf_sampResume {s : State} {a : Acc} {i : Nat} {c : Ctx} {bs : List PByte}
    (hs : s.mem.wf = true) : (s.sampResume a i c bs).mem.wf = true := by
  unfold State.sampResume
  split
  · exact hs
  · split
    · exact wf_ite (wf_updAcc hs) (wf_refuse (wf_updAcc hs))

theorem okMem_sampEff {smp : Bool} {d a b : Opnd} {m : MSmp} {e : Env} {s : State}
    (hs : s.mem.wf = true) : okMem (sampEff smp d a b m e s) := by
  unfold sampEff
  refine okMem_bind fun vs _ => ?_
  extract_lets u v h frame mm
  have hst : (if smp then s.sampState e m.scope m.ssi.toNat else (.refused, s)).2.mem.wf = true := by
    split
    · exact wf_sampState hs
    · exact hs
  split
  next st s1 h1 =>
  rw [h1] at hst
  refine okMem_bind fun _ _ => ?_
  extract_lets src acc refused go
  have hg : ∀ r, okMem (go r) := fun r => by
    iterate 7 refine okMem_bind fun _ _ => ?_
    refine okMem_on (wf_addAcc (wf_reserve ?_))
    split
    · exact wf_fresh hst
    · exact wf_refuse (wf_fresh hst)
  split
  · exact okMem_bind fun r _ => hg r
  · exact hg ()

/-! ### Requests -/

theorem wf_logMisses {s : State} {id : Nat} (hs : s.mem.wf = true) : (s.logMisses id).mem.wf = true := by
  unfold State.logMisses
  split
  · exact hs
  · split
    · exact hs
    · split
      · exact wf_ite hs hs
      · split
        · exact wf_ite hs hs
        · split
          next h1 =>
            have ht1 := wf_of_eq h1 (wf_fresh hs)
            exact wf_ite hs (wf_checkLog (wf_faultBatch (wf_updAcc ht1)))

theorem wf_setLane {s : State} {id i : Nat} {st : LaneSt} (hs : s.mem.wf = true) : (s.setLane id i st).mem.wf = true := wf_updAcc hs

theorem wf_keepLogged {s : State} {id : Nat} (hs : s.mem.wf = true) : (s.keepLogged id).mem.wf = true := by
  unfold State.keepLogged
  split
  · exact hs
  · exact wf_ite hs (wf_checkLog (wf_updAcc hs))

theorem wf_endAcc {s : State} {id : Nat} (hs : s.mem.wf = true) : (s.endAcc id).mem.wf = true := by
  unfold State.endAcc
  split
  · exact hs
  · exact wf_ite hs (wf_updSlice hs)

theorem wf_dropLane {s : State} {a : Acc} {i : Nat} (hs : s.mem.wf = true) : (s.dropLane a i).mem.wf = true := wf_endAcc (wf_updAcc hs)

theorem wf_laneDone {s : State} {a : Acc} {i : Nat} {r : Req} {bytes : List PByte}
    (hs : s.mem.wf = true) : (s.laneDone a i r bytes).mem.wf = true := by
  unfold State.laneDone
  have := @wf_sampResume
  have := @wf_setLane
  have := @wf_acquire
  have := @wf_dropLane
  grind

theorem wf_laneFails {s : State} {a : Acc} {i info : Nat} (hs : s.mem.wf = true) : (s.laneFails a i info).mem.wf = true :=
  wf_freeWalks (wf_updAcc (wf_setLane hs))

theorem wf_laneBlocked {s : State} {a : Acc} {i : Nat} {r : Req} {g : Gate}
    (hs : s.mem.wf = true) : (s.laneBlocked a i r g).mem.wf = true := by
  unfold State.laneBlocked
  split
  · exact wf_ite (wf_setLane hs) (wf_laneFails hs)
  · exact wf_laneFails hs
  · exact wf_keepLogged (wf_setLane hs)
  · exact wf_keepLogged (wf_setLane hs)
  · split
    · exact wf_failFill hs
    · exact wf_setLane hs
  · exact wf_setLane hs

theorem wf_sendLane {s : State} {a : Acc} {i slot addr n : Nat} {line : Bool}
    (hs : s.mem.wf = true) : (s.sendLane a i slot addr n line).mem.wf = true := by
  unfold State.sendLane
  have := @wf_setLane
  have := @wf_sendWrite
  have := @wf_send
  grind

theorem wf_startWalk {s : State} {a i ia : Nat} (hs : s.mem.wf = true) : (s.startWalk a i ia).mem.wf = true := wf_setLane (wf_updHome hs)

theorem wf_endWalk {s : State} {a ia : Nat} (hs : s.mem.wf = true) : (s.endWalk a ia).mem.wf = true := wf_updHome hs

theorem wf_performAt {s : State} {a : Acc} {i : Nat} {l : LaneAcc} {r : Req}
    (hs : s.mem.wf = true) : (s.performAt a i l r).mem.wf = true := by
  unfold State.performAt
  have := @wf_performLane
  have := @wf_laneDone
  have := @wf_sendLane
  have := @wf_laneBlocked
  grind

theorem wf_homeAccess {s : State} {id i : Nat} (hs : s.mem.wf = true) : (s.homeAccess id i).mem.wf = true := by
  unfold State.homeAccess
  split
  · exact hs
  · split
    · split
      · exact hs
      · split
        · exact wf_logMisses (wf_setLane hs)
        · split
          · exact hs
          · split
            · exact wf_ite (wf_fatalTrap (wf_dropWork hs)) (wf_ite (wf_setLane hs) (wf_ite (wf_startWalk hs) (wf_logMisses
                (wf_performAt hs))))
            · exact wf_logMisses (wf_performAt (wf_endWalk hs))
            · exact hs
    · exact hs

theorem wf_walkSlotFree {s : State} {id : Nat} (hs : s.mem.wf = true) : (s.walkSlotFree id).mem.wf = true := by
  unfold State.walkSlotFree
  split
  · exact hs
  · split
    · exact hs
    · exact wf_ite (wf_startWalk hs) hs

theorem wf_reissue {s : State} {id i : Nat} (hs : s.mem.wf = true) : (s.reissue id i).mem.wf = true := by
  unfold State.reissue
  split
  · exact hs
  · split
    · split
      · exact wf_setLane hs
      · exact hs
    · exact wf_updEng hs

theorem wf_fillRetry {s : State} {id i : Nat} (hs : s.mem.wf = true) : (s.fillRetry id i).mem.wf = true := by
  unfold State.fillRetry
  split
  · exact wf_setLane hs
  · exact wf_updEng hs

theorem wf_restart {s : State} {p : Nat → LaneSt → Bool} (hs : s.mem.wf = true) : (s.restart p).mem.wf = true := hs

theorem wf_peerResolved {s : State} {slot ia : Nat} (hs : s.mem.wf = true) : (s.peerResolved slot ia).mem.wf = true := by
  unfold State.peerResolved
  have := @wf_restart
  grind

theorem wf_dataReturn {s : State} {id : Nat} {lanes : Lanes} (hs : s.mem.wf = true) : (s.dataReturn id lanes).mem.wf = true := by
  unfold State.dataReturn
  split
  · exact hs
  · split
    · exact hs
    · split
      · exact wf_ite hs (wf_endAcc (wf_updAcc (wf_updGroup hs)))
      · exact wf_ite hs (wf_endAcc (wf_updAcc (wf_updSlice hs)))
      · exact wf_ite hs (wf_endAcc (wf_updAcc hs))

theorem wf_varlatWrite {s : State} {gid : Nat} {sl : Slice} {res : Nat} {lanes : Lanes}
    (hs : s.mem.wf = true) : (s.varlatWrite gid sl res lanes).mem.wf = true := wf_ite hs (wf_updSlice hs)

theorem wf_qsData {s : State} {id : Nat} (hs : s.mem.wf = true) : (s.qsData id).mem.wf = true := by
  unfold State.qsData
  split
  · exact hs
  · split
    · exact wf_ite hs (wf_updAcc (wf_updGroup hs))
    · exact hs

theorem wf_dropDirty {s : State} {c : CacheId} {line : Nat} (hs : s.mem.wf = true) : (s.dropDirty c line).mem.wf = true := by
  unfold State.dropDirty
  split
  · split
    · exact wf_ite (wf_dropRecord (wf_updCore hs)) hs
    · exact hs
  · split
    · exact wf_ite (wf_dropRecord (wf_updRdc hs)) hs
    · exact hs
  · split
    · exact wf_ite (wf_evictL2 hs) hs
    · exact hs
  · split
    · exact wf_ite (wf_evictMdc hs) hs
    · exact hs

theorem wf_unitBlocks {s : State} {a : Acc} {ls : List (Nat × LaneAcc)} {r : Req} {g : Gate}
    (hs : s.mem.wf = true) : (s.unitBlocks a ls r g).mem.wf = true := by
  unfold State.unitBlocks
  split
  · exact wf_laneBlocked hs
  · exact wf_logMisses (wf_foldl hs fun _ _ hs => wf_laneBlocked hs)

theorem wf_layoutWrite {s : State} {id i : Nat} (hs : s.mem.wf = true) : (s.layoutWrite id i).mem.wf = true := by
  unfold State.layoutWrite
  split
  · exact hs
  · split
    · split
      · exact hs
      · split
        · exact wf_fatalTrap (wf_dropWork hs)
        · split
          · exact wf_laneBlocked hs
          · dsimp only
            split
            · exact hs
            · split
              case h_1 key ow prot t ht =>
                have ht : t.mem.wf = true := by have := @wf_gateT; grind
                split
                case h_1 g t' ht' => exact wf_unitBlocks (by have := @wf_writeUnit; grind)
                case h_2 t' ht' => exact wf_logMisses (wf_endAcc (wf_updAcc (wf_updCore (by have := @wf_writeUnit; grind))))
              case h_2 g t _ ht => exact wf_unitBlocks (by have := @wf_gateT; grind)
    · exact hs

/-! ### Engines -/

theorem wf_spadPut {s : State} {team core : Nat} {o : Int} {bs : List PByte}
    (hs : s.mem.wf = true) : (s.spadPut team core o bs).mem.wf = true := by
  unfold State.spadPut
  split
  · exact hs
  · exact wf_updCore hs

theorem wf_engRead {s : State} {e : Eng} {ia n : Nat} (hs : s.mem.wf = true) : (s.engRead e ia n).2.mem.wf = true := by
  unfold State.engRead
  have := @wf_readG
  have := @wf_foldl
  have := @wf_foldl_snd
  grind

theorem wf_engWrite {s : State} {e : Eng} {ia : Nat} {bs : List PByte} (hs : s.mem.wf = true) : (s.engWrite e ia bs).2.mem.wf = true := by
  unfold State.engWrite
  have := @wf_gate
  have := @wf_homeWrite
  have := @wf_poisonedWrite
  grind

theorem wf_engMisses {s : State} {id : Nat} (hs : s.mem.wf = true) : (s.engMisses id).mem.wf = true := by
  unfold State.engMisses
  split
  · exact hs
  · split
    · exact wf_ite hs hs
    · split
      next h1 =>
        have ht1 := wf_of_eq h1 (wf_fresh hs)
        exact wf_ite hs (wf_checkLog (wf_faultBatch (wf_updEng ht1)))

theorem wf_setUnit {s : State} {id : Nat} {u : UnitSt} (hs : s.mem.wf = true) : (s.setUnit id u).mem.wf = true := wf_updEng hs

theorem wf_endEng {s : State} {e : Eng} (hs : s.mem.wf = true) : (s.endEng e).mem.wf = true := wf_updCore hs

theorem wf_engFatal {s : State} {e : Eng} {info : Nat} (hs : s.mem.wf = true) : (s.engFatal e info).mem.wf = true :=
  wf_deferTrap (wf_endEng hs)

theorem wf_engUnspilled {s : State} {e : Eng} (hs : s.mem.wf = true) : (s.engUnspilled e).mem.wf = true := wf_fatalTrap (wf_endEng hs)

theorem wf_engInval {s : State} {e : Eng} (hs : s.mem.wf = true) : (s.engInval e).mem.wf = true := by
  unfold State.engInval
  split
  · exact hs
  · split
    · exact wf_dropSpan hs

theorem wf_unitsDone {s : State} {id : Nat} {us : List Nat} {bytes : Nat}
    (hs : s.mem.wf = true) : (s.unitsDone id us bytes).mem.wf = true := by
  unfold State.unitsDone
  have := @wf_updEng
  have := @wf_endEng
  have := @wf_landBytes
  have := @wf_engInval
  grind

theorem wf_engLogs {s : State} {e : Eng} (hs : s.mem.wf = true) : (s.engLogs e).mem.wf = true := wf_ite hs (wf_checkLog hs)

theorem wf_unitBlocked {s : State} {e : Eng} {u : UnitSt} {g : Gate} (hs : s.mem.wf = true) : (s.unitBlocked e u g).mem.wf = true := by
  unfold State.unitBlocked
  split
  · exact wf_ite (wf_setUnit hs) (wf_engFatal hs)
  · exact wf_engFatal hs
  · exact wf_engLogs (wf_setUnit hs)
  · exact wf_engLogs (wf_setUnit hs)
  · split
    · exact wf_failFill hs
    · exact hs
  · exact hs

theorem wf_engSend {s : State} {e : Eng} {u : UnitSt} {slot addr ia : Nat} {bs : List Byte}
    (hs : s.mem.wf = true) : (s.engSend e u slot addr ia bs).mem.wf = true := wf_setUnit (wf_sendWrite hs)

theorem wf_unitWrite {s : State} {e : Eng} {n fuel : Nat} {u : UnitSt} (hs : s.mem.wf = true) :
    (s.unitWrite e n fuel u).mem.wf = true := by
  induction fuel generalizing s u with
  | zero => exact hs
  | succ fuel ih =>
    unfold State.unitWrite
    have := @wf_unitsDone
    have := @wf_spadPut
    have := @wf_engWrite
    have := @wf_engSend
    have := @wf_unitBlocked
    grind

theorem wf_unitRun {s : State} {e : Eng} {u : UnitSt} (hs : s.mem.wf = true) : (s.unitRun e u).mem.wf = true := by
  unfold State.unitRun
  have := @wf_unitWrite
  have := @wf_engRead
  have := @wf_setUnit
  have := @wf_send
  have := @wf_unitBlocked
  grind

theorem wf_unitGot {s : State} {e : Eng} {u : UnitSt} {data : List Byte} (hs : s.mem.wf = true) : (s.unitGot e u data).mem.wf = true := by
  unfold State.unitGot
  have := @wf_readGot
  have := @wf_unitWrite
  have := @wf_foldl
  have := @wf_foldl_snd
  grind

theorem wf_unitAcked {s : State} {e : Eng} {u : UnitSt} (hs : s.mem.wf = true) : (s.unitAcked e u).mem.wf = true := by
  unfold State.unitAcked
  split
  · exact wf_unitWrite hs

theorem wf_engStart {s : State} {e : Eng} (hs : s.mem.wf = true) : (s.engStart e).mem.wf = true := by
  unfold State.engStart
  split
  · exact hs
  · split
    · exact wf_updEng (wf_ite hs (wf_flushSpan hs))

theorem wf_unitProbe {s : State} {e : Eng} {x : UnitSt} (hs : s.mem.wf = true) : (s.unitProbe e x).mem.wf = true := by
  unfold State.unitProbe
  have := @wf_gate
  have := @wf_unitBlocked
  grind

theorem wf_unitsIssue {s : State} {id : Nat} {us : List Nat} (hs : s.mem.wf = true) : (s.unitsIssue id us).mem.wf = true := by
  induction us generalizing s with
  | nil => exact hs
  | cons u us ih =>
    unfold State.unitsIssue
    split
    · exact hs
    · split
      · exact ih hs
      · split
        · exact ih (wf_unitProbe hs)
        · exact hs

theorem wf_issueBefore {s : State} {e : Eng} {u : Nat} (hs : s.mem.wf = true) : (s.issueBefore e u).mem.wf = true := wf_unitsIssue hs

theorem wf_unitTurn {s : State} {id u : Nat} (hs : s.mem.wf = true) : (s.unitTurn id u).mem.wf = true := by
  unfold State.unitTurn
  split
  · exact hs
  · split
    · exact wf_engMisses hs
    · split
      · exact wf_ite (wf_engMisses (wf_unitProbe hs)) (wf_engMisses (wf_unitRun (wf_engStart hs)))

theorem wf_engineUnit {s : State} {id u : Nat} (hs : s.mem.wf = true) : (s.engineUnit id u).mem.wf = true := by
  unfold State.engineUnit
  split
  · exact hs
  · exact wf_ite hs (wf_ite (wf_engUnspilled hs) (wf_unitTurn (wf_issueBefore hs)))

theorem wf_transformSector {s : State} {e : Eng} {ia n : Nat} (hs : s.mem.wf = true) : (s.transformSector e ia n).2.mem.wf = true := by
  unfold State.transformSector
  have := @wf_gate
  have := @wf_homeRead
  have := @wf_homeWrite
  have := @wf_poisonedWrite
  grind

theorem wf_bankSector {s : State} {id : Nat} {u : UnitSt} (hs : s.mem.wf = true) : (s.bankSector id u).mem.wf = true := by
  unfold State.bankSector
  split
  · exact hs
  · split
    · split
      next h1 =>
        have ht1 := wf_of_eq h1 (wf_transformSector hs)
        exact wf_unitsDone ht1
      next h1 =>
        have ht1 := wf_of_eq h1 (wf_transformSector hs)
        exact wf_unitBlocked ht1
      · exact hs

theorem wf_bankSpad {s : State} {e : Eng} {b : Nat} (hs : s.mem.wf = true) : (s.bankSpad e b).mem.wf = true := by
  unfold State.bankSpad
  have := @wf_spadPut
  have := @wf_freeW
  have := @wf_unitsDone
  have := @wf_foldl
  grind

theorem wf_bankPart {s : State} {id b : Nat} (hs : s.mem.wf = true) : (s.bankPart id b).mem.wf = true := by
  unfold State.bankPart
  have := @wf_engUnspilled
  have := @wf_bankSpad
  have := @wf_engStart
  have := @wf_unitsIssue
  have := @wf_engMisses
  have := @wf_bankSector
  have := @wf_foldl
  grind

theorem wf_addLocks {s : State} {core holder : Nat} {rs : List (Bool × List Span)}
    (hs : s.mem.wf = true) : (s.addLocks core holder rs).mem.wf = true := wf_updCore hs

theorem okMem_engEff {n : Nat} {kind : List Nat → List W32 → EngKind} {a : Opnd} {b : Option Opnd} {m : MEng} {e : Env} {s : State}
    (hs : s.mem.wf = true) : okMem (engEff n kind a b m e s) := by
  unfold engEff
  iterate 6 refine okMem_bind fun _ _ => ?_
  refine okMem_ite (okMem_bind fun _ _ => okMem_on hs) ?_
  iterate 7 refine okMem_bind fun _ _ => ?_
  exact okMem_on (wf_addLocks (wf_fresh hs))

/-! ### Homes -/

theorem okMem_parkAt {s : State} {e : Env} {w : Wait} (hs : s.mem.wf = true) : okMem (s.parkAt e w) := okMem_pure (wf_stays hs)

theorem wf_issueMiss {s : State} {e : Env} {write : Bool} {page : Nat} {ms : List Missed}
    (hs : s.mem.wf = true) : (s.issueMiss e write page ms).mem.wf = true := by
  unfold State.issueMiss
  split
  next h1 =>
    have ht1 := wf_of_eq h1 (wf_fresh hs)
    exact wf_faultBatch ht1

theorem okMem_issueBlock {s : State} {e : Env} {write : Bool} {lane : Nat} {ms : List Missed} {g : Gate}
    (hs : s.mem.wf = true) : okMem (s.issueBlock e write lane ms g) := by
  unfold State.issueBlock
  split
  · exact okMem_ite (okMem_parkAt (wf_issueMiss hs)) okMem_error
  · exact okMem_error
  · exact okMem_parkAt hs
  · exact okMem_parkAt hs
  · exact okMem_parkAt hs
  · exact okMem_error
  · split
    · exact okMem_pure (wf_failFill hs)
    · exact okMem_error
  · exact okMem_error
  · exact okMem_error
  · exact okMem_error

theorem okMem_answer {s : State} {e : Env} {r : Req} {va ia : Nat} {k : Nat → State → Chk Eff} (hs : s.mem.wf = true)
    (hk : ∀ n s, s.mem.wf = true → okMem (k n s)) : okMem (s.answer e r va ia k) := by
  unfold State.answer
  have := @wf_gate
  have := @okMem_issueBlock
  grind

theorem okMem_withList {s : State} {e : Env} {va : Nat} {w : Window} {k : Nat → WorkList → State → Chk Eff} (hs : s.mem.wf = true)
    (hk : ∀ n l s, s.mem.wf = true → okMem (k n l s)) : okMem (s.withList e va w k) := by
  unfold State.withList
  dsimp only
  split
  · exact okMem_error
  · refine okMem_bind fun _ _ => okMem_answer hs fun key s hs => ?_
    have hr := wf_homeRead (ia := w.iaOf va) (key := key) (n := 64) (wf_expel (c := e.g.core) (line := w.iaOf va / 64) hs)
    split
    · exact okMem_error
    · split
      · exact hk _ _ _ hr
      · exact okMem_error

theorem okMem_withItems {s : State} {e : Env} {w : Window} {l : WorkList} {k0 : Nat} {lanes : List Nat} {write : Bool}
    {k : State → Chk Eff} (hs : s.mem.wf = true) (hk : ∀ s, s.mem.wf = true → okMem (k s)) :
    okMem (s.withItems e w l k0 lanes write k) := by
  unfold State.withItems
  refine okMem_bind fun _ _ => okMem_bind fun _ _ => ?_
  dsimp only
  split
  · exact okMem_issueBlock (wf_gate hs)
  · exact hk s hs

theorem wf_putItems {s : State} {e : Env} {w : Window} {l : WorkList} {items : List (Nat × Nat)}
    (hs : s.mem.wf = true) : (s.putItems e w l items).mem.wf = true := wf_foldl hs fun _ _ hs => wf_writeG hs

theorem wf_getItems {s : State} {e : Env} {w : Window} {l : WorkList} {lanes : List Nat}
    (hs : s.mem.wf = true) : (s.getItems e w l lanes).2.mem.wf = true := by
  unfold State.getItems
  have := @wf_readG
  have := @wf_foldl
  have := @wf_foldl_snd
  grind

theorem wf_putList {s : State} {ia key : Nat} {l : WorkList} (hs : s.mem.wf = true) : (s.putList ia key l).mem.wf = true :=
  wf_homeWrite hs

theorem wf_statusBits {s : State} {e : Env} {d : Opnd} {m : Lanes} (hs : s.mem.wf = true) : (s.statusBits e d m).mem.wf = true := by
  unfold State.statusBits
  split
  · exact wf_updSlice hs
  · exact hs

theorem okMem_wlpushEff {d a b : Opnd} {e : Env} {s : State} (hs : s.mem.wf = true) : okMem (wlpushEff d a b e s) := by
  unfold wlpushEff
  iterate 7 refine okMem_bind fun _ _ => ?_
  refine okMem_withRelease hs fun s hs => okMem_withList hs fun key l s hs => ?_
  dsimp only
  split
  · exact okMem_on (wf_statusBits (wf_consume hs))
  · exact okMem_withItems hs fun s hs => okMem_on (wf_statusBits (wf_putList (wf_putItems (wf_consume hs))))

theorem okMem_wlpopEff {d a b : Opnd} {e : Env} {s : State} (hs : s.mem.wf = true) : okMem (wlpopEff d a b e s) := by
  unfold wlpopEff
  iterate 6 refine okMem_bind fun _ _ => ?_
  refine okMem_withList hs fun key l s hs => okMem_withItems hs fun s hs => okMem_on (wf_acquire (wf_statusBits ?_))
  split
  · exact wf_putList (wf_getItems hs)
  · exact wf_updSlice (wf_putList (wf_getItems hs))

theorem okMem_wlquietEff {d a b : Opnd} {e : Env} {s : State} (hs : s.mem.wf = true) : okMem (wlquietEff d a b e s) := by
  unfold wlquietEff
  iterate 6 refine okMem_bind fun _ _ => ?_
  exact okMem_withRelease hs fun s hs => okMem_withList hs fun key l s hs => okMem_on (wf_acquire (wf_status (wf_putList hs)))

theorem okMem_filldoneEff {d : Opnd} {e : Env} {s : State} (hs : s.mem.wf = true) : okMem (filldoneEff d e s) := by
  unfold filldoneEff
  split
  · exact okMem_on (wf_status hs)
  · split
    · exact okMem_on (wf_status hs)
    · iterate 4 refine okMem_bind fun _ _ => ?_
      exact okMem_withRelease hs fun s hs => okMem_on (wf_status (wf_leaveFilling (wf_setFillState hs)))

theorem okMem_fillfailEff {d a : Opnd} {e : Env} {s : State} (hs : s.mem.wf = true) : okMem (fillfailEff d a e s) := by
  unfold fillfailEff
  split
  · exact okMem_bind fun _ _ => okMem_pure (wf_failFill hs)
  · exact okMem_bind fun _ _ => okMem_on (wf_status hs)

theorem wf_evictBlock {s : State} {die : Nat} {p : Prt} {b : Nat} (hs : s.mem.wf = true) : (s.evictBlock die p b).2.mem.wf = true := by
  unfold State.evictBlock
  split
  · exact hs
  · exact hs
  · exact wf_ite_snd hs (wf_zeroBlock (wf_setFillState (wf_ite (wf_failRecord hs) hs)))

theorem okMem_previctEff {d a : Opnd} {e : Env} {s : State} (hs : s.mem.wf = true) : okMem (previctEff d a e s) := by
  unfold previctEff
  have := @wf_evictBlock
  have := @wf_status
  have := @okMem_withRelease
  have := @okMem_bind
  have := @okMem_ok
  have := @okMem_pure
  have := @okMem_error
  have := @okMem_throw
  grind [Eff.on]

theorem okMem_fillqEff {d a : Opnd} {e : Env} {s : State} (hs : s.mem.wf = true) : okMem (fillqEff d a e s) := by
  unfold fillqEff
  have := @wf_status
  have := @okMem_bind
  have := @okMem_ok
  have := @okMem_pure
  have := @okMem_error
  have := @okMem_throw
  grind [Eff.on]

theorem okMem_cstepEff {a b : Opnd} {bar : BitVec 6} {e : Env} {s : State} (hs : s.mem.wf = true) : okMem (cstepEff a b bar e s) := by
  unfold cstepEff
  refine okMem_bind fun vs _ => ?_
  refine okMem_ite ?_ ?_
  · iterate 3 refine okMem_bind fun _ _ => ?_
    exact okMem_withRelease hs fun s hs => okMem_on (wf_updGroup hs)
  · iterate 2 refine okMem_bind fun _ _ => ?_
    extract_lets k held place
    have hp : ∀ x, okMem (place x) := fun x => by
      iterate 2 refine okMem_bind fun _ _ => ?_
      extract_lets rs s' waiting go
      have hs' : s'.mem.wf = true := wf_ite hs (wf_addLocks hs)
      have hg : ∀ r, okMem (go r) := fun r => by
        refine okMem_ite (okMem_parkAt hs') (okMem_withRelease hs' fun s hs => ?_)
        exact okMem_on (wf_updCore (wf_landBytes (wf_updGroup hs)))
      exact okMem_ite (okMem_bind fun r _ => hg r) (okMem_bind fun r _ => hg r)
    exact okMem_ite (okMem_bind fun x _ => hp x) (okMem_bind fun x _ => hp x)

theorem okMem_cabortEff {a : Opnd} {e : Env} {s : State} (hs : s.mem.wf = true) : okMem (cabortEff a e s) :=
  okMem_bind fun _ _ => okMem_on (wf_abortFrom hs)

/-! ### Power -/

theorem wf_requestLevel {s : State} {ctx req : Nat} (hs : s.mem.wf = true) : (s.requestLevel ctx req).2.mem.wf = true := by
  unfold State.requestLevel
  have := @wf_updCtx
  have := @wf_govern
  grind

theorem okMem_splEff {d a : Opnd} {e : Env} {s : State} (hs : s.mem.wf = true) : okMem (splEff d a e s) := by
  unfold splEff
  have := @wf_requestLevel
  have := @wf_status
  have := @okMem_bind
  have := @okMem_ok
  have := @okMem_pure
  have := @okMem_error
  have := @okMem_throw
  grind [Eff.on]

theorem okMem_gplEff {d : Opnd} {wait : Bool} {e : Env} {s : State} (hs : s.mem.wf = true) : okMem (gplEff d wait e s) :=
  okMem_bind fun _ _ => okMem_bind fun _ _ => okMem_on (wf_writeDst hs)

end Sys2Proof.Machine

/-!
SUPPORT. The canonical form of memory is kept: Launches, Consent, Placement, Preemption, Cycle, Errors and Migration.
-/

namespace Sys2Proof.Machine

/-! ### Launches -/

theorem wf_acceptCtx {s : State} {n : Nat} {bs : List Byte} (hs : s.mem.wf = true) : (s.acceptCtx n bs).mem.wf = true :=
  wf_setSave (wf_updCtx hs)

theorem wf_ctxWrite {s : State} {n : Nat} (hs : s.mem.wf = true) : (s.ctxWrite n).mem.wf = true :=
  wf_ite hs (wf_ite (wf_updCtx hs) (wf_ite hs (wf_ite (wf_deviceRecord hs) (wf_acceptCtx hs))))

theorem wf_remoteRead {s : State} {slot addr : Nat} {owner : Id12} {reader : Nat} {sc : Scope}
    (hs : s.mem.wf = true) : (s.remoteRead slot addr owner reader sc).2.mem.wf = true := by
  unfold State.remoteRead
  have := @wf_send
  grind

theorem wf_remoteCode {s : State} {slot addr : Nat} {owner : Id12}
    (hs : s.mem.wf = true) : (s.remoteCode slot addr owner).2.mem.wf = true := wf_remoteRead hs

theorem wf_readHeader {s : State} {ctx level : Nat} {entry : W64}
    (hs : s.mem.wf = true) : (s.readHeader ctx level entry).2.mem.wf = true := by
  unfold State.readHeader
  have := @wf_fresh
  have := @wf_faultBatch
  have := @wf_gate
  have := @wf_homeRead
  have := @wf_remoteCode
  grind

theorem wf_admitLaunch {s : State} {lid : Nat} (hs : s.mem.wf = true) : (s.admitLaunch lid).mem.wf = true := by
  unfold State.admitLaunch
  have := @wf_readHeader
  have := @wf_updLaunch
  have := @wf_completeLaunch
  grind

theorem wf_takePacket {s : State} {ctx k : Nat} (hs : s.mem.wf = true) : (s.takePacket ctx k).mem.wf = true := by
  unfold State.takePacket
  split
  next h1 =>
    have ht1 := wf_of_eq h1 (wf_fresh hs)
    exact wf_admitLaunch (wf_setDesc (wf_updCtx ht1))

theorem wf_kickLaunches {s : State} {ctx : Nat} (hs : s.mem.wf = true) : (s.kickLaunches ctx).mem.wf = true := by
  unfold State.kickLaunches
  generalize ringCount _ _ = n
  extract_lets c cons
  split
  · exact hs
  · split
    · exact wf_deviceRecord hs
    · exact wf_foldl hs fun s i hs => wf_takePacket hs

theorem wf_admitPrompter {s : State} {l : Launch} (hs : s.mem.wf = true) : (s.admitPrompter l).mem.wf = true := by
  unfold State.admitPrompter
  split
  · split
    next h1 =>
      have ht1 := wf_of_eq h1 (wf_readHeader hs)
      exact wf_ite (wf_failFill hs) (wf_updLaunch ht1)
    next h1 =>
      have ht1 := wf_of_eq h1 (wf_readHeader hs)
      exact wf_ite (wf_failFill hs) ht1
    next h1 =>
      have ht1 := wf_of_eq h1 (wf_readHeader hs)
      exact wf_ite (wf_failFill hs) (wf_failFill ht1)
    next h1 =>
      have ht1 := wf_of_eq h1 (wf_readHeader hs)
      exact wf_ite (wf_failFill hs) (wf_ite (wf_failFill ht1) (wf_updLaunch ht1))
  · exact hs

theorem wf_readHeaders {s : State} (hs : s.mem.wf = true) : s.readHeaders.mem.wf = true := by
  unfold State.readHeaders
  have := @wf_failFill
  have := @wf_admitPrompter
  have := @wf_admitLaunch
  have := @wf_foldl
  grind

theorem wf_wakeHeaders {s : State} {lo hi : Nat} (hs : s.mem.wf = true) : (s.wakeHeaders lo hi).mem.wf = true := by
  unfold State.wakeHeaders
  have := @wf_admitPrompter
  have := @wf_admitLaunch
  have := @wf_foldl
  grind

/-! ### Consent -/

theorem wf_grant {s : State} {o : Id12} {h w1 w2 w3 start : Nat}
    (hs : s.mem.wf = true) : (s.grant o h w1 w2 w3 start).2.mem.wf = true := by
  unfold State.grant
  split
  · exact hs
  · split
    next h1 =>
      have ht1 := wf_of_eq h1 (wf_freeW hs)
      exact ht1

theorem okMem_grantEff {d a : Opnd} {e : Env} {s : State} (hs : s.mem.wf = true) : okMem (grantEff d a e s) := by
  unfold grantEff
  have := @wf_grant
  have := @wf_status
  have := @okMem_bind
  have := @okMem_ok
  have := @okMem_pure
  have := @okMem_error
  have := @okMem_throw
  grind [Eff.on]

theorem wf_revoke {s : State} {o : Id12} {i : Nat} (hs : s.mem.wf = true) : (s.revoke o i).2.mem.wf = true := by
  unfold State.revoke
  split
  · exact hs
  · exact wf_ite_snd hs (wf_ite_snd hs hs)

theorem okMem_revokeEff {d a : Opnd} {e : Env} {s : State} (hs : s.mem.wf = true) : okMem (revokeEff d a e s) := by
  unfold revokeEff
  have := @wf_revoke
  have := @wf_status
  have := @okMem_bind
  have := @okMem_ok
  have := @okMem_pure
  have := @okMem_error
  have := @okMem_throw
  grind [Eff.on]

theorem okMem_passqEff {d a : Opnd} {e : Env} {s : State} (hs : s.mem.wf = true) : okMem (passqEff d a e s) :=
  okMem_bind fun _ _ => okMem_on (wf_updSlice hs)

theorem okMem_ownqEff {d a b : Opnd} {e : Env} {s : State} (hs : s.mem.wf = true) : okMem (ownqEff d a b e s) :=
  okMem_bind fun _ _ => okMem_bind fun _ _ => okMem_on (wf_writeDst hs)

theorem wf_depart {s : State} {o : Id12} {f : QFrame} (hs : s.mem.wf = true) : (s.depart o f).mem.wf = true := by
  unfold State.depart
  have := @wf_hwWrite
  grind

theorem wf_departures {s : State} {o : OwnerSt} (hs : s.mem.wf = true) : (s.departures o).mem.wf = true :=
  wf_foldl (wf_setOwner hs) fun _ _ hs => wf_depart hs

theorem wf_present {s : State} {o : Id12} {handle : W32} {target : W64}
    (hs : s.mem.wf = true) : (s.present o handle target).mem.wf = true := by
  unfold State.present
  have := @wf_setOwner
  have := @wf_depart
  have := @wf_departures
  grind

theorem okMem_presentEff {d a b : Opnd} {e : Env} {s : State} (hs : s.mem.wf = true) : okMem (presentEff d a b e s) := by
  unfold presentEff
  iterate 5 refine okMem_bind fun _ _ => ?_
  refine okMem_withRelease hs fun s hs => ?_
  dsimp only
  split
  · exact okMem_on (wf_status hs)
  · split
    · exact okMem_parkAt hs
    · exact okMem_on (wf_status (wf_present hs))

/-! ### Placement -/

theorem wf_claimScratch {s : State} {c base n : Nat} {owner : Id12}
    (hs : s.mem.wf = true) : (s.claimScratch c base n owner).mem.wf = true := wf_updCore hs

theorem wf_claimQueues {s : State} {c : Nat} {owner : Id12} {us : List Nat}
    (hs : s.mem.wf = true) : (s.claimQueues c owner us).mem.wf = true := wf_updCore hs

theorem wf_startCaches {s : State} {c : Nat} (hs : s.mem.wf = true) : (s.startCaches c).mem.wf = true := wf_updCore hs

theorem wf_freeWords {s : State} {n : Nat} (hs : s.mem.wf = true) : (s.freeWords n).2.mem.wf = true := hs

theorem wf_newGroup {s : State} {team core grp : Nat} {k : Kernel} {owner : Id12} {entry : W64} {param : List W32} {lanes : Lanes}
    {f : GroupFit}
    (hs : s.mem.wf = true) : (s.newGroup team core grp k owner entry param lanes f).2.mem.wf = true := by
  unfold State.newGroup
  have := @wf_fresh
  have := @wf_stampQuarters
  have := @wf_claimQueues
  have := @wf_freeWords
  grind

theorem wf_newGroups {s : State} {team : Nat} {p : Spot} {k : Kernel} {owner : Id12} {entry : W64} {param : List W32}
    {lanes : Nat → Option Lanes}
    (hs : s.mem.wf = true) : (s.newGroups team p k owner entry param lanes).2.mem.wf = true := by
  unfold State.newGroups
  have := @wf_newGroup
  have := @wf_foldl
  have := @wf_foldl_snd
  grind

theorem wf_placed {s : State} {lid : Nat} (hs : s.mem.wf = true) : (s.placed lid).mem.wf = true := wf_updLaunch hs

theorem wf_placeTeam {s : State} {l : Launch} {p : Spot} (hs : s.mem.wf = true) : (s.placeTeam l p).mem.wf = true := by
  unfold State.placeTeam
  have := @wf_fresh
  have := @wf_claimScratch
  have := @wf_startCaches
  have := @wf_newGroups
  have := @wf_govern
  have := @wf_placed
  have := @wf_updLaunch
  have := @wf_foldl
  grind

theorem wf_groupCleared {s : State} {gid : Nat} (hs : s.mem.wf = true) : (s.groupCleared gid).mem.wf = true := wf_updGroup hs

/-! ### Preemption -/

theorem wf_takeRun {s : State} {t : Team} (hs : s.mem.wf = true) : (s.takeRun t).mem.wf = true := wf_updCtx (wf_setSave hs)

theorem wf_hwPut {s : State} {ia : Nat} {bs : List Byte} (hs : s.mem.wf = true) : (s.hwPut ia bs).mem.wf = true :=
  wf_foldl hs fun _ _ hs => wf_hwWrite hs

theorem wf_waitsAgain {s b : State} {lid : Nat} (hs : s.mem.wf = true) (hb : b.mem.wf = true) : (s.waitsAgain b lid).mem.wf = true :=
  wf_ite hs (wf_updLaunch hs)

theorem wf_drainWrites {s : State} {t : Team} (hs : s.mem.wf = true) : (s.drainWrites t).mem.wf = true :=
  wf_foldl hs fun _ _ hs => wf_foldl hs fun _ _ hs => wf_ite (wf_layoutWrite hs) (wf_homeAccess hs)

theorem wf_abandonLoads {s : State} {t : Team} (hs : s.mem.wf = true) : (s.abandonLoads t).mem.wf = true := wf_freeWalks hs

theorem wf_dropLocks {s : State} {t : Team} (hs : s.mem.wf = true) : (s.dropLocks t).mem.wf = true := hs

theorem wf_trapFatal {s : State} {t : Team} (hs : s.mem.wf = true) : (s.trapFatal t).mem.wf = true :=
  wf_foldl hs fun _ _ hs => wf_deferredTrap hs

theorem wf_stopTeam {s : State} {t : Team} {hold : Option (Nat × Nat)} (hs : s.mem.wf = true) : (s.stopTeam t hold).mem.wf = true := by
  unfold State.stopTeam
  have := @wf_trapFatal
  have := @wf_drainWrites
  have := @wf_updTeam
  have := @wf_abandonLoads
  have := @wf_release
  have := @wf_takeRun
  have := @wf_hwPut
  have := @wf_dropLocks
  have := @wf_freeGroup
  have := @wf_govern
  have := @wf_waitsAgain
  have := @wf_foldl
  grind

theorem wf_stopCores {s : State} {cores : List Nat} {hold : Option (Nat × Nat)}
    (hs : s.mem.wf = true) : (s.stopCores cores hold).mem.wf = true := by
  unfold State.stopCores
  have := @wf_stopTeam
  have := @wf_haltTeam
  have := @wf_foldl
  grind

theorem wf_ctxImage {s : State} {ctx status : Nat} (hs : s.mem.wf = true) : (s.ctxImage ctx status).mem.wf = true :=
  wf_event (wf_deviceRecord hs)

theorem wf_rebuild {s : State} {t : Team} {p : Spot} (hs : s.mem.wf = true) : (s.rebuild t p).mem.wf = true := by
  unfold State.rebuild
  have := @wf_claimQueues
  have := @wf_stampQuarters
  have := @wf_claimScratch
  have := @wf_updCore
  have := @wf_updTeam
  have := @wf_addLocks
  have := @wf_govern
  have := @wf_acquire
  have := @wf_foldl
  have := @wf_foldl_snd
  grind

theorem wf_refuseRestore {s : State} {t : Team} {status : Nat} (hs : s.mem.wf = true) : (s.refuseRestore t status).mem.wf = true :=
  wf_ctxImage (wf_haltTeam (wf_updTeam hs))

theorem wf_restoreTeam {s : State} {t : Team} {p : Spot} (hs : s.mem.wf = true) : (s.restoreTeam t p).mem.wf = true := by
  unfold State.restoreTeam
  split
  · exact wf_ite (wf_refuseRestore (wf_updCtx hs)) (wf_placed (wf_rebuild (wf_setSave (wf_updCtx hs))))
  · exact hs

theorem wf_endPass {s : State} {did : Nat} {p : TilePass} {fin : Bool} (hs : s.mem.wf = true) : (s.endPass did p fin).mem.wf = true :=
  wf_updDraw hs

theorem wf_dropPass {s : State} {d : Draw} {p : TilePass} (hs : s.mem.wf = true) : (s.dropPass d p).mem.wf = true := by
  unfold State.dropPass
  split
  · exact wf_endPass (wf_updCore (wf_endTeam hs))
  · exact wf_endPass (wf_updCore hs)

theorem wf_abandonSpent {s : State} (hs : s.mem.wf = true) : s.abandonSpent.mem.wf = true :=
  wf_foldl hs fun _ _ hs => wf_foldl hs fun _ _ hs => wf_ite (wf_dropPass hs) hs

theorem wf_deadlineHold {s : State} {lid : Nat} (hs : s.mem.wf = true) : (s.deadlineHold lid).mem.wf = true := by
  unfold State.deadlineHold
  split
  · exact hs
  · exact wf_ite hs (wf_govern (wf_abandonSpent (wf_stopCores (wf_updLaunch (wf_foldl hs fun _ _ hs => wf_updCore hs)))))

theorem wf_preempt {s : State} {issuer ctx n : Nat} (hs : s.mem.wf = true) : (s.preempt issuer ctx n).2.mem.wf = true :=
  wf_abandonSpent (wf_stopCores (wf_foldl hs fun _ _ hs => wf_updCore hs))

theorem okMem_preemptEff {d a b : Opnd} {e : Env} {s : State} (hs : s.mem.wf = true) : okMem (preemptEff d a b e s) := by
  unfold preemptEff
  have := @wf_status
  have := @wf_preempt
  have := @okMem_parkAt
  have := @okMem_bind
  have := @okMem_ok
  have := @okMem_pure
  have := @okMem_error
  have := @okMem_throw
  grind [Eff.on]

theorem wf_releaseHold {s : State} {issuer ctx : Nat} (hs : s.mem.wf = true) : (s.releaseHold issuer ctx).2.mem.wf = true := by
  unfold State.releaseHold
  have := @wf_waitsAgain
  have := @wf_foldl
  have := @wf_foldl_snd
  grind

theorem okMem_preemptRelEff {d a : Opnd} {e : Env} {s : State} (hs : s.mem.wf = true) : okMem (preemptRelEff d a e s) := by
  unfold preemptRelEff
  have := @wf_releaseHold
  have := @wf_status
  have := @okMem_bind
  have := @okMem_ok
  have := @okMem_pure
  have := @okMem_error
  have := @okMem_throw
  grind [Eff.on]

theorem okMem_onceReached {s : State} {e : Env} {write : Bool} {r : Reached} {fail go : State → Chk Eff} (hs : s.mem.wf = true)
    (hf : ∀ s, s.mem.wf = true → okMem (fail s)) (hg : ∀ s, s.mem.wf = true → okMem (go s)) :
    okMem (s.onceReached e write r fail go) := by
  unfold State.onceReached
  have := @okMem_parkAt
  have := @wf_issueMiss
  grind

theorem wf_putPieces {s : State} {e : Env} {va : Nat} {bs : List Byte} {ps : List Piece}
    (hs : s.mem.wf = true) : (s.putPieces e va bs ps).2.mem.wf = true := by
  unfold State.putPieces
  have := @wf_expel
  have := @wf_gate
  have := @wf_homeWrite
  have := @wf_sendWrite
  have := @wf_foldl
  have := @wf_foldl_snd
  grind

theorem wf_detach {s : State} {t : Team} (hs : s.mem.wf = true) : (s.detach t).mem.wf = true := by
  unfold State.detach
  split
  · exact wf_updTeam (wf_updCtx (wf_setSave hs))
  · exact wf_checkLaunch (wf_endTeam (wf_countStep (wf_setSave hs)))

theorem wf_saved {s : State} {e : Env} {d a : Opnd} {t : Team} (hs : s.mem.wf = true) : (s.saved e d a t).mem.wf = true :=
  wf_status (wf_updSlice (wf_detach hs))

theorem okMem_csaveEff {d a : Opnd} {e : Env} {s : State} (hs : s.mem.wf = true) : okMem (csaveEff d a e s) := by
  unfold csaveEff
  refine okMem_bind fun v _ => ?_
  extract_lets va tell old
  have ht : ∀ n s, s.mem.wf = true → okMem (tell n s) := fun n s hs => okMem_on (wf_status hs)
  split
  · exact ht 1 s hs
  · refine okMem_ite (ht 4 s hs) (okMem_ite (ht 3 s hs) (okMem_ite (ht 2 s hs) (okMem_ite (ht 4 s hs) ?_)))
    refine okMem_ite (okMem_on (wf_saved hs)) ?_
    split
    next r s1 h1 =>
    have h1 : s1.mem.wf = true := by have := @wf_putPieces; grind
    refine okMem_onceReached h1 (ht 4) fun s hs => ?_
    exact okMem_ite (okMem_on (wf_saved hs)) (okMem_parkAt hs)

theorem wf_askPieces {s : State} {e : Env} {ps : List Piece} (hs : s.mem.wf = true) : (s.askPieces e ps).2.mem.wf = true := by
  unfold State.askPieces
  have := @wf_gate
  have := @wf_remoteRead
  have := @wf_foldl
  have := @wf_foldl_snd
  grind

theorem wf_getPieces {s : State} {e : Env} {ps : List Piece} (hs : s.mem.wf = true) : (s.getPieces e ps).2.2.mem.wf = true := by
  unfold State.getPieces
  refine List.foldlRecOn (motive := fun acc : Reached × List Byte × State => acc.2.2.mem.wf = true) ps _ hs fun acc ha p _ => ?_
  dsimp only
  split
  · exact ha
  · have := @wf_gate
    have := @wf_homeRead
    have := @wf_remoteRead
    grind

theorem wf_crest {s : State} {bs : List Byte} (hs : s.mem.wf = true) : (s.crest bs).2.mem.wf = true := by
  unfold State.crest
  have := @wf_ctxImage
  have := @wf_waitsAgain
  have := @wf_updTeam
  have := @wf_setSave
  grind

theorem okMem_crestEff {d a : Opnd} {e : Env} {s : State} (hs : s.mem.wf = true) : okMem (crestEff d a e s) := by
  unfold crestEff
  iterate 3 refine okMem_bind fun _ _ => ?_
  refine okMem_ite (okMem_on (wf_status hs)) ?_
  extract_lets ps s'
  have hv : s' = ps.foldl (fun s p => s.expel e.g.core (p.ia / 64)) s := rfl
  clear_value s'
  have he : s'.mem.wf = true := hv ▸ wf_foldl hs fun s p hs => wf_expel hs
  split
  next all s1 h1 =>
  have h1 : s1.mem.wf = true := by have := @wf_askPieces; grind
  refine okMem_ite (okMem_parkAt h1) ?_
  split
  next r bs s2 h2 =>
  have h2 : s2.mem.wf = true := by have := @wf_getPieces; grind
  refine okMem_onceReached ?_ (fun s hs => okMem_on (wf_status hs)) fun s hs => ?_
  · split
    · exact h2
    · exact h2
  · split
    next st s3 h3 => exact okMem_on (wf_status (by have := @wf_crest; grind))

/-! ### Cycle -/

theorem wf_reserveGrant {s : State} {c : Nat} (hs : s.mem.wf = true) : (s.reserveGrant c).mem.wf = true := by
  unfold State.reserveGrant
  have := @wf_wakeRacq
  have := @wf_addBlocks
  grind

theorem wf_switchIf {s : State} {gid : Nat} {sl : Slice} {due : Team → Group → Bool}
    (hs : s.mem.wf = true) : (s.switchIf gid sl due).mem.wf = true := by
  unfold State.switchIf
  split
  · exact hs
  · split
    · exact hs
    · exact wf_ite (wf_updSlice hs) hs

theorem wf_fetchSwitch {s : State} {gid : Nat} {sl : Slice} (hs : s.mem.wf = true) : (s.fetchSwitch gid sl).mem.wf = true :=
  wf_switchIf hs

theorem wf_steer {s : State} {gid : Nat} {sl : Slice} (hs : s.mem.wf = true) : (s.steer gid sl).mem.wf = true := wf_switchIf hs

theorem wf_steered {s : State} {core : Nat} (hs : s.mem.wf = true) : (s.steered core).mem.wf = true :=
  wf_foldl hs fun _ _ hs => wf_steer (wf_steer hs)

theorem wf_issueCycle {s : State} {core : Nat} (hs : s.mem.wf = true) : (s.issueCycle core).mem.wf = true :=
  wf_steered (wf_foldl (wf_abandonSpent (wf_passTime hs)) fun _ _ hs => wf_refill (wf_refill hs))

theorem wf_codePiece {s : State} {w : Issuer} {x : Team × Group × Frag} {va n : Nat}
    (hs : s.mem.wf = true) : (s.codePiece w x va n).2.mem.wf = true := by
  unfold State.codePiece
  have := @wf_gate
  have := @wf_homeRead
  have := @wf_remoteCode
  have := @wf_failFill
  grind

theorem wf_codeWord {s : State} {w : Issuer} {x : Team × Group × Frag} {va : Nat}
    (hs : s.mem.wf = true) : (s.codeWord w x va).2.mem.wf = true := by
  unfold State.codeWord
  have := @wf_codePiece
  have := @wf_foldl
  have := @wf_foldl_snd
  grind

theorem wf_sendCode {s : State} {core : Nat} {c : CodeSlot} (hs : s.mem.wf = true) : (s.sendCode core c).mem.wf = true :=
  wf_foldl hs fun _ _ hs => wf_ite (wf_updCore hs) (wf_ite (wf_updCore hs) hs)

theorem wf_fillWord {s : State} {w : Issuer} {x : Team × Group × Frag} {va : Nat}
    (hs : s.mem.wf = true) : (s.fillWord w x va).2.mem.wf = true := by
  unfold State.fillWord
  have := @wf_codeWord
  have := @wf_sendCode
  grind

theorem wf_fillLine {s : State} {w : Issuer} {x : Team × Group × Frag} {va : Nat}
    (hs : s.mem.wf = true) : (s.fillLine w x va).mem.wf = true := by
  unfold State.fillLine
  have := @wf_fillWord
  have := @wf_foldl
  grind

theorem wf_icacheFill {s : State} {gid : Nat} {sl : Slice} (hs : s.mem.wf = true) : (s.icacheFill gid sl).mem.wf = true := by
  unfold State.icacheFill
  split
  · exact hs
  · split
    · exact hs
    · split
      · exact hs
      · dsimp only
        split
        · exact hs
        · split
          case h_1 w' t ht => exact wf_fillLine (by have := @wf_fillWord; grind)
          case h_2 t ht => have := @wf_fillWord; grind
          case h_3 v t ht => exact wf_updFrag (by have := @wf_fillWord; grind)
          case h_4 c i t ht => exact wf_trapIn (by have := @wf_fillWord; grind)
          case h_5 va ia page b t ht =>
            have ht : t.mem.wf = true := by have := @wf_fillWord; grind
            split
            · exact wf_trapIn ht
            · exact wf_updFrag (wf_faultBatch (wf_fresh ht))

theorem wf_barrierStall {s : State} {tid : Nat} {sl : Slice} (hs : s.mem.wf = true) : (s.barrierStall tid sl).mem.wf = true := by
  unfold State.barrierStall
  split
  · exact hs
  · split
    · exact wf_ite hs (wf_fatalTrap hs)
    · exact hs

theorem wf_qdeadlock {s : State} {tid : Nat} (hs : s.mem.wf = true) : (s.qdeadlock tid).mem.wf = true := by
  unfold State.qdeadlock
  split
  · exact hs
  · split
    · exact hs
    · exact wf_ite hs (wf_deadlockTrap (wf_updGroup hs))

/-! ### Errors -/

theorem wf_updCached {s : State} {c : CacheId} {f : List Line → List Line} (hs : s.mem.wf = true) : (s.updCached c f).mem.wf = true := by
  unfold State.updCached
  split
  · exact wf_updCore hs
  · exact wf_updRdc hs
  · exact wf_updL2 hs
  · exact wf_updMdc hs

theorem wf_evict {s : State} {c : CacheId} {line : Nat} (hs : s.mem.wf = true) : (s.evict c line).mem.wf = true := by
  unfold State.evict
  split
  · exact hs
  · split
    · exact wf_writePoc (wf_updCore hs)
    · exact wf_writeHome (wf_updRdc hs)
    · exact wf_evictL2 hs
    · exact wf_evictMdc hs

theorem wf_countError {s : State} {die ia : Nat} (hs : s.mem.wf = true) : (s.countError die ia).mem.wf = true := wf_setReg hs

theorem wf_lineRecord {s : State} {c : CacheId} {kind : Nat} {l : Line} {ia : Nat}
    (hs : s.mem.wf = true) : (s.lineRecord c kind l ia).mem.wf = true := by
  unfold State.lineRecord
  split
  · exact hs
  · exact wf_deviceRecord hs

theorem wf_dataError {s : State} {c : CacheId} {line g : Nat} (hs : s.mem.wf = true) : (s.dataError c line g).mem.wf = true := by
  unfold State.dataError
  split
  · exact hs
  · exact wf_ite (wf_lineRecord (wf_updCached hs)) (wf_countError (wf_updCached hs))

theorem wf_tagError {s : State} {c : CacheId} {line : Nat} (hs : s.mem.wf = true) : (s.tagError c line).mem.wf = true := by
  unfold State.tagError
  split
  · exact hs
  · exact wf_lineRecord (wf_updCached hs)

theorem wf_countCore {s : State} {c : Nat} (hs : s.mem.wf = true) : (s.countCore c).mem.wf = true := wf_updCore hs

theorem wf_storageError {s : State} {hard : Bool} {site : ErrorSite}
    (hs : s.mem.wf = true) : (s.storageError hard site).mem.wf = true := by
  unfold State.storageError
  split
  · exact wf_ite hs (wf_ite (wf_ite hs hs) (wf_countError hs))
  · exact wf_ite hs (wf_ite (wf_dataError hs) (wf_ite (wf_countError hs) hs))
  · split
    · exact hs
    · exact wf_ite (wf_tagError hs) hs
  · exact wf_updCore hs
  · exact wf_ite hs (wf_ite (wf_updCore hs) (wf_countCore hs))
  · exact wf_ite (wf_updSlice hs) (wf_countCore hs)
  · exact wf_ite (wf_updSlice hs) (wf_countCore hs)
  · exact wf_ite (wf_updGroup hs) (wf_countCore hs)

/-! ### Migration -/

theorem wf_migDoorbell {s : State} {h v : Nat} (hs : s.mem.wf = true) : (s.migDoorbell h v).mem.wf = true :=
  wf_ite (wf_deviceRecord hs) (wf_setReg hs)

theorem wf_migAdvance {s : State} {h n : Nat} (hs : s.mem.wf = true) : (s.migAdvance h n).mem.wf = true := by
  induction n generalizing s with
  | zero => exact hs
  | succ n ih =>
    unfold State.migAdvance
    dsimp only
    split
    · exact hs
    · exact ih (wf_event (wf_setReg (wf_updHome hs)))

theorem wf_migEnd {s : State} {h k status : Nat} (hs : s.mem.wf = true) : (s.migEnd h k status).mem.wf = true :=
  wf_migAdvance (wf_updHome (wf_hwWrite hs))

theorem wf_updMig {s : State} {h k : Nat} {f : Mig → Mig} (hs : s.mem.wf = true) : (s.updMig h k f).mem.wf = true := wf_updHome hs

theorem wf_putLine {s : State} {h : Nat} {m : Mig} {ln : Nat} {bs : List PByte}
    (hs : s.mem.wf = true) : (s.putLine h m ln bs).mem.wf = true := wf_ite (wf_setSeal (wf_memWrite hs)) (wf_updMig (wf_send hs))

theorem wf_oldLine {s : State} {m : Mig} {ln : Nat} (hs : s.mem.wf = true) : (s.oldLine m ln).2.mem.wf = true := by
  unfold State.oldLine
  have := @wf_poisonFlaw
  have := @wf_deviceRecord
  have := @wf_foldl
  have := @wf_foldl_snd
  grind

theorem wf_copyLine {s : State} {h : Nat} {m : Mig} {ln : Nat} (hs : s.mem.wf = true) : (s.copyLine h m ln).mem.wf = true := by
  unfold State.copyLine
  split
  next h1 =>
    have ht1 := wf_of_eq h1 (wf_oldLine hs)
    exact wf_ite (wf_putLine ht1) (wf_updMig (wf_send hs))

theorem wf_copyLines {s : State} {h : Nat} {m : Mig} {ls : List Nat} (hs : s.mem.wf = true) : (s.copyLines h m ls).mem.wf = true :=
  wf_foldl hs fun _ _ hs => wf_copyLine hs

theorem wf_evictSpan {s : State} {key n : Nat} (hs : s.mem.wf = true) : (s.evictSpan key n).mem.wf = true :=
  wf_ite hs (wf_foldl (wf_foldl hs fun _ _ hs => wf_evictMdc hs) fun _ _ hs => wf_evictL2 hs)

theorem wf_retag {s : State} {m : Mig} (hs : s.mem.wf = true) : (s.retag m).mem.wf = true := hs

theorem wf_migStart {s : State} {h : Nat} (hs : s.mem.wf = true) : (s.migStart h).mem.wf = true := by
  unfold State.migStart
  have := @wf_updHome
  have := @wf_migEnd
  have := @wf_evictSpan
  have := @wf_memWrite
  have := @wf_copyLines
  grind

theorem wf_migRound {s : State} {h k : Nat} (hs : s.mem.wf = true) : (s.migRound h k).mem.wf = true := by
  unfold State.migRound
  split
  · exact hs
  · exact wf_ite hs (wf_ite (wf_updMig hs) (wf_copyLines (wf_updMig hs)))

theorem wf_migDone {s : State} {h k : Nat} (hs : s.mem.wf = true) : (s.migDone h k).mem.wf = true := by
  unfold State.migDone
  split
  · exact hs
  · exact wf_ite hs (wf_ite (wf_copyLines (wf_updMig hs)) (wf_migEnd (wf_updHome (wf_retag (wf_memWrite hs)))))

theorem wf_prtWrite {s : State} {die n : Nat} (hs : s.mem.wf = true) : (s.prtWrite die n).mem.wf = true := by
  unfold State.prtWrite
  have := @wf_updHome
  have := @wf_deviceRecord
  grind

theorem wf_loadPrts {s : State} {die : Nat} (hs : s.mem.wf = true) : (s.loadPrts die).mem.wf = true :=
  wf_foldl (wf_updHome hs) fun _ _ hs => wf_prtWrite hs

theorem wf_fillTimeout {s : State} {die entry blk : Nat} (hs : s.mem.wf = true) : (s.fillTimeout die entry blk).mem.wf = true := by
  unfold State.fillTimeout
  split
  · exact wf_ite hs (wf_failFill hs)
  · exact hs

end Sys2Proof.Machine

/-!
SUPPORT. The canonical form of memory is kept: Vanar, Graphics, Composition, Platform and System.
-/

namespace Sys2Proof.Machine

/-! ### Vanar -/

theorem wf_accept {s : State} {slot : Nat} {seq : W32} (hs : s.mem.wf = true) : (s.accept slot seq).mem.wf = true := wf_updStream hs

theorem wf_countDiscard {s : State} {port : Nat} (hs : s.mem.wf = true) : (s.countDiscard port).mem.wf = true := hs

theorem wf_dupe {s : State} {slot : Nat} {seq : W32} (hs : s.mem.wf = true) : (s.dupe slot seq).mem.wf = true := wf_updStream hs

theorem wf_once {s : State} {h : MsgHdr} {go : State → State} (hs : s.mem.wf = true)
    (hg : ∀ s, s.mem.wf = true → (go s).mem.wf = true) : (s.once h go).mem.wf = true := by
  unfold State.once
  have := @wf_dupe
  have := @wf_countDiscard
  grind

theorem wf_respond {s : State} {h : MsgHdr} {type status : Nat} {data : List Byte}
    (hs : s.mem.wf = true) : (s.respond h type status data).mem.wf = true := wf_send (wf_updStream (wf_accept hs))

theorem wf_deferMsg {s : State} {h : MsgHdr} {i : Instr} {type die entry blk : Nat}
    (hs : s.mem.wf = true) : (s.deferMsg h i type die entry blk).mem.wf = true :=
  wf_ite (wf_respond hs) (wf_updHome (wf_updStream (wf_accept hs)))

theorem wf_serve {s : State} {h : MsgHdr} {i : Instr} {type : Nat} {write : Bool} {go : Req → Nat → Nat → State → State}
    (hs : s.mem.wf = true) (hg : ∀ r a k s, s.mem.wf = true → (go r a k s).mem.wf = true) :
    (s.serve h i type write go).mem.wf = true := by
  unfold State.serve
  have := @wf_gate
  have := @wf_deferMsg
  have := @wf_respond
  have := @wf_poisonedWrite
  grind

theorem wf_vanarRead {s : State} {h : MsgHdr} {count : Nat} {i : Instr}
    (hs : s.mem.wf = true) : (s.vanarRead h count i).mem.wf = true := by
  unfold State.vanarRead
  have := @wf_once
  have := @wf_respond
  have := @wf_serve
  have := @wf_homeRead
  grind

theorem wf_deferWrite {s : State} {h : MsgHdr} {i : Instr} {die entry blk : Nat}
    (hs : s.mem.wf = true) : (s.deferWrite h i die entry blk).mem.wf = true := wf_ite hs (wf_updHome hs)

theorem wf_vanarWrite {s : State} {h : MsgHdr} {data : List Byte} {i : Instr}
    (hs : s.mem.wf = true) : (s.vanarWrite h data i).mem.wf = true := by
  unfold State.vanarWrite
  have := @wf_once
  have := @wf_accept
  have := @wf_gate
  have := @wf_homeWrite
  have := @wf_deferWrite
  have := @wf_poisonedWrite
  grind

theorem wf_vanarAtomic {s : State} {h : MsgHdr} {aop : BitVec 4} {ty : Ty} {v new : W64} {i : Instr}
    (hs : s.mem.wf = true) : (s.vanarAtomic h aop ty v new i).mem.wf = true := by
  unfold State.vanarAtomic
  have := @wf_once
  have := @wf_respond
  have := @wf_serve
  have := @wf_homeRead
  have := @wf_homeWrite
  grind

theorem wf_onceCfg {s : State} {h : MsgHdr} {go : State → State} (hs : s.mem.wf = true)
    (hg : ∀ s, s.mem.wf = true → (go s).mem.wf = true) : (s.onceCfg h go).mem.wf = true :=
  wf_once hs fun s hs => by
    split
    · exact hg s hs
    · exact hs

theorem wf_abortGroup {s : State} {cgid : BitVec 16} {code : Nat} (hs : s.mem.wf = true) : (s.abortGroup cgid code).mem.wf = true :=
  wf_foldl (wf_foldl hs fun _ _ hs => wf_abortLaunch hs) fun _ _ hs => wf_checkAbort hs

theorem wf_memberStep {s : State} {cgid : BitVec 16} {member : Nat} {v : W32}
    (hs : s.mem.wf = true) : (s.memberStep cgid member v).mem.wf = true :=
  wf_foldl (wf_foldl (wf_ite hs hs) fun _ _ hs => wf_updLaunch hs) fun _ _ hs => wf_checkAbort hs

theorem wf_laneAnswer {s : State} {a : Acc} {i : Nat} {l : LaneAcc} {slot : Nat} {tag : W32} {fresh : Bool} {status : Nat}
    {data : List Byte}
    (hs : s.mem.wf = true) : (s.laneAnswer a i l slot tag fresh status data).mem.wf = true := by
  unfold State.laneAnswer
  have := @wf_readKSGot
  have := @wf_readGot
  have := @wf_laneDone
  have := @wf_probedWrite
  have := @wf_homeAccess
  have := @wf_setLane
  have := @wf_laneFails
  grind

theorem wf_unitAnswer {s : State} {e : Eng} {u : UnitSt} {slot : Nat} {tag : W32} {status : Nat} {data : List Byte}
    (hs : s.mem.wf = true) : (s.unitAnswer e u slot tag status data).mem.wf = true :=
  wf_ite (wf_ite (wf_engMisses (wf_unitGot hs)) (wf_setUnit hs)) (wf_ite (wf_setUnit hs) (wf_ite (wf_ite (wf_engMisses
      (wf_setUnit hs)) (wf_engFatal hs)) (wf_engFatal hs)))

theorem wf_migAnswer {s : State} {h : Nat} {m : Mig} {tag : W32} {status : Nat} {data : List Byte}
    (hs : s.mem.wf = true) : (s.migAnswer h m tag status data).mem.wf = true := by
  unfold State.migAnswer
  split
  · exact hs
  · exact wf_ite (wf_putLine (wf_updMig hs)) (wf_ite (wf_copyLine (wf_updMig hs)) (wf_deviceRecord (wf_putLine (wf_updMig hs))))

theorem wf_prefetchGot {s : State} {p : Prefetch} {fresh : Bool} {status : Nat} {data : List Byte}
    (hs : s.mem.wf = true) : (s.prefetchGot p fresh status data).mem.wf = true := wf_ite (wf_readGot hs) hs

theorem wf_forgetRead {s : State} {slot : Nat} {tag : W32} (hs : s.mem.wf = true) : (s.forgetRead slot tag).mem.wf = true := hs

theorem wf_vanarResponse {s : State} {h : MsgHdr} {status : Nat} {data : List Byte}
    (hs : s.mem.wf = true) : (s.vanarResponse h status data).mem.wf = true := by
  unfold State.vanarResponse
  have := @wf_forgetRead
  have := @wf_setLane
  have := @wf_logMisses
  have := @wf_laneAnswer
  have := @wf_setUnit
  have := @wf_unitAnswer
  have := @wf_prefetchGot
  have := @wf_migAnswer
  grind

theorem wf_writeAcked {s : State} {slot : Nat} {tag : W32} (hs : s.mem.wf = true) : (s.writeAcked slot tag).mem.wf = true := by
  unfold State.writeAcked
  have := @wf_logMisses
  have := @wf_laneDone
  have := @wf_engMisses
  have := @wf_unitAcked
  have := @wf_setUnit
  have := @wf_updMig
  grind

theorem wf_dropMsg {s : State} {slot : Nat} {seq : W32} (hs : s.mem.wf = true) : (s.dropMsg slot seq).mem.wf = true :=
  wf_pump (wf_updStream hs)

theorem wf_ackOne {s : State} {slot : Nat} {m : Msg} (hs : s.mem.wf = true) : (s.ackOne slot m).mem.wf = true :=
  wf_ite (wf_writeAcked (wf_updStream (wf_dropMsg hs))) (wf_updStream (wf_dropMsg hs))

theorem wf_failover {s : State} {slot p : Nat} (hs : s.mem.wf = true) : (s.failover slot p).mem.wf = true :=
  wf_ite hs (wf_ite (wf_deviceRecord (wf_pump (wf_updStream hs))) (wf_pump (wf_updStream hs)))

theorem wf_resend {s : State} {slot : Nat} {seq : W32} (hs : s.mem.wf = true) : (s.resend slot seq).mem.wf = true := by
  unfold State.resend
  split
  · exact hs
  · exact wf_ite hs (wf_ite (wf_updStream hs) (wf_failover hs))

theorem wf_linkDown {s : State} {p : Nat} (hs : s.mem.wf = true) : (s.linkDown p).mem.wf = true :=
  wf_foldl hs fun _ _ hs => wf_failover hs

theorem wf_probe {s : State} {p : Nat} {answered : Bool} (hs : s.mem.wf = true) : (s.probe p answered).mem.wf = true :=
  wf_ite hs (wf_foldl hs fun _ _ hs => wf_pump hs)

theorem wf_loseStores {s : State} {by_ : List (Nat × Slice)} {lane : Nat}
    (hs : s.mem.wf = true) : (s.loseStores by_ lane).mem.wf = true := hs

theorem wf_loseImage {s : State} {slot : Nat} {seq : W32} (hs : s.mem.wf = true) : (s.loseImage slot seq).mem.wf = true := hs

theorem wf_pathFailure {s : State} {slot : Nat} {seq : W32} (hs : s.mem.wf = true) : (s.pathFailure slot seq).mem.wf = true := by
  unfold State.pathFailure
  have := @wf_forgetRead
  have := @wf_dropMsg
  have := @wf_dropLane
  have := @wf_loseStores
  have := @wf_logMisses
  have := @wf_laneFails
  have := @wf_engFatal
  have := @wf_loseImage
  have := @wf_updMig
  have := @wf_migAnswer
  grind

theorem wf_partnerPause {s : State} {port prio : Nat} {stop : Bool}
    (hs : s.mem.wf = true) : (s.partnerPause port prio stop).mem.wf = true := wf_foldl hs fun _ _ hs => wf_pump hs

/-! ### Graphics -/

theorem wf_gfxWrite {s : State} {ctx : Nat} (hs : s.mem.wf = true) : (s.gfxWrite ctx).mem.wf = true :=
  wf_ite hs (wf_ite hs (wf_ite hs (wf_ite (wf_deviceRecord hs) hs)))

theorem wf_admitDraw {s : State} {did : Nat} (hs : s.mem.wf = true) : (s.admitDraw did).mem.wf = true := by
  unfold State.admitDraw
  have := @wf_endDraw
  have := @wf_updDraw
  have := @wf_readHeader
  grind

theorem wf_wakeDraws {s : State} {lo hi : Nat} (hs : s.mem.wf = true) : (s.wakeDraws lo hi).mem.wf = true := by
  unfold State.wakeDraws
  have := @wf_admitDraw
  have := @wf_foldl
  grind

theorem wf_takeDraw {s : State} {ctx k ring log : Nat} (hs : s.mem.wf = true) : (s.takeDraw ctx k ring log).mem.wf = true := by
  unfold State.takeDraw
  split
  next h1 =>
    have ht1 := wf_of_eq h1 (wf_fresh hs)
    exact wf_admitDraw (wf_hwWrite ht1)

theorem wf_kickDraws {s : State} {ctx : Nat} (hs : s.mem.wf = true) : (s.kickDraws ctx).mem.wf = true := by
  unfold State.kickDraws
  split
  · exact hs
  · generalize ringCount _ _ = n
    extract_lets c log cons
    split
    · exact hs
    · split
      · exact wf_deviceRecord hs
      · exact wf_foldl hs fun s i hs => wf_takeDraw hs

theorem wf_kick {s : State} {ctx : Nat} (hs : s.mem.wf = true) : (s.kick ctx).mem.wf = true :=
  wf_testReady (wf_kickDraws (wf_kickLaunches hs))

theorem wf_packetStart {s : State} {ctx : Nat} (hs : s.mem.wf = true) : (s.packetStart ctx).mem.wf = true := by
  unfold State.packetStart
  have := @wf_admitDraw
  have := @wf_updDraw
  have := @wf_fresh
  grind

theorem wf_fillPage {s : State} {owner : Id12} {i : Nat} {bs : List Byte}
    (hs : s.mem.wf = true) : (s.fillPage owner i bs).mem.wf = true := wf_hwPut (wf_ite hs (wf_hwPut hs))

theorem wf_bin {s : State} {did : Nat} (hs : s.mem.wf = true) : (s.bin did).mem.wf = true := by
  unfold State.bin
  have := @wf_endDraw
  have := @wf_endTeam
  have := @wf_fillPage
  have := @wf_fresh
  have := @wf_updDraw
  have := @wf_foldl
  grind

theorem wf_updPass {s : State} {did tile : Nat} {f : TilePass → TilePass}
    (hs : s.mem.wf = true) : (s.updPass did tile f).mem.wf = true := wf_updDraw hs

theorem wf_touchUnit {s : State} {f : Surf} {st : Nat} (hs : s.mem.wf = true) : (s.touchUnit f st).mem.wf = true :=
  wf_ite (wf_touch (wf_touch hs)) (wf_touch hs)

theorem wf_pixelBytes {s : State} {f : Surf} {prot : Bool} {x y : Nat}
    (hs : s.mem.wf = true) : (s.pixelBytes f prot x y).2.mem.wf = true := by
  unfold State.pixelBytes
  have := @wf_unitBytes
  have := @wf_touchUnit
  have := @wf_storedAtHome
  grind

theorem wf_startPass {s : State} {d : Draw} {f : Surf} {tile c base : Nat}
    (hs : s.mem.wf = true) : (s.startPass d f tile c base).mem.wf = true := by
  unfold State.startPass
  have := @wf_claimScratch
  have := @wf_startCaches
  have := @wf_pixelBytes
  have := @wf_updCore
  have := @wf_updDraw
  have := @wf_foldl
  grind

theorem wf_startInvocation {s : State} {l : Launch} {d : Draw} {f : Surf} {p : TilePass} {used : List Nat}
    {fit : Option (List GroupFit × Nat)} (hs : s.mem.wf = true) : (s.startInvocation l d f p used fit).mem.wf = true := by
  rcases fit with _ | ⟨fits, base⟩
  · exact wf_updPass hs
  · refine wf_govern (wf_updPass ?_)
    refine wf_foldl_snd (wf_claimScratch (wf_acquire (wf_release (wf_fresh hs)))) ?_
    intro _ _ hs
    dsimp only
    exact wf_newGroup hs

theorem wf_putPixel {s : State} {f : Surf} {x y : Nat} {bs : List PByte} {owner : Id12}
    (hs : s.mem.wf = true) : (s.putPixel f x y bs owner).mem.wf = true := by
  unfold State.putPixel
  have := @wf_touchUnit
  have := @wf_writeUnit
  grind

theorem wf_writeOut {s : State} {did : Nat} (hs : s.mem.wf = true) : (s.writeOut did).mem.wf = true := by
  unfold State.writeOut
  have := @wf_dropPass
  have := @wf_release
  have := @wf_putPixel
  have := @wf_endPass
  have := @wf_endDraw
  have := @wf_foldl
  grind

theorem wf_dropPasses {s : State} {cores : List Nat} (hs : s.mem.wf = true) : (s.dropPasses cores).mem.wf = true :=
  wf_foldl hs fun _ _ hs => wf_foldl hs fun _ _ hs => wf_ite (wf_dropPass hs) hs

theorem wf_abandonPass {s : State} {did : Nat} (hs : s.mem.wf = true) : (s.abandonPass did).mem.wf = true := by
  unfold State.abandonPass
  split
  · exact hs
  · split
    · exact hs
    · exact wf_dropPass hs

/-! ### Composition -/

theorem wf_storedForView {s : State} {f : Surf} {st n : Nat} (hs : s.mem.wf = true) : (s.storedForView f st n).2.mem.wf = true := by
  unfold State.storedForView
  split
  · exact wf_ite_snd (wf_storedAtHome hs) hs
  · exact hs

theorem wf_emit {s : State} {v : Nat} (hs : s.mem.wf = true) : (s.emit v).mem.wf = true := wf_updView hs

theorem wf_compose {s : State} {v : Nat} {line : Nat → Bool} (hs : s.mem.wf = true) : (s.compose v line).mem.wf = true :=
  wf_ite (wf_setReg (wf_emit (wf_updView hs))) (wf_emit (wf_updView hs))

theorem wf_latchOwner {s : State} {v tf : Nat} {o : OwnerSt} (hs : s.mem.wf = true) : (s.latchOwner v tf o).mem.wf = true := by
  unfold State.latchOwner
  split
  · exact hs
  · exact wf_updView (wf_setOwner hs)

theorem wf_capture {s : State} {d : Draw} (hs : s.mem.wf = true) : (s.capture d).mem.wf = true := by
  unfold State.capture
  split
  · exact wf_endDraw (wf_ite (wf_setReg (wf_foldl hs fun _ _ hs => wf_foldl hs fun _ _ hs => wf_putPixel hs))
      (wf_foldl hs fun _ _ hs => wf_foldl hs fun _ _ hs => wf_putPixel hs))
  · exact wf_endDraw hs

theorem wf_fieldStart {s : State} {v : Nat} (hs : s.mem.wf = true) : (s.fieldStart v).mem.wf = true := by
  unfold State.fieldStart
  split
  · exact hs
  · split
    · exact hs
    · exact wf_ite (wf_foldl (wf_foldl (wf_compose (wf_foldl (wf_setReg
        (wf_updView hs)) fun _ _ hs => wf_latchOwner hs)) fun _ _ hs => wf_capture hs) fun _ _ hs => wf_departures hs) (wf_foldl
        (wf_foldl (wf_compose (wf_foldl (wf_setReg (wf_updView hs)) fun _ _ hs => wf_latchOwner hs)) fun _ _ hs => wf_capture hs) fun _
        _ hs => wf_departures hs)

theorem wf_checkSenders {s : State} {off n : Nat} (hs : s.mem.wf = true) : (s.checkSenders off n).mem.wf = true :=
  wf_foldl hs fun _ _ hs => wf_emit (wf_setReg hs)

theorem wf_outputEnable {s : State} {v w : Nat} (hs : s.mem.wf = true) : (s.outputEnable v w).mem.wf = true :=
  wf_ite (wf_foldl (wf_emit (wf_setReg hs)) fun _ _ hs => wf_departures hs) (wf_ite (wf_ite (wf_setReg hs) (wf_updView (wf_setReg
      (wf_setReg hs)))) (wf_setReg hs))

theorem wf_hdcpChange {s : State} {v : Nat} {active : Bool} (hs : s.mem.wf = true) : (s.hdcpChange v active).mem.wf = true := by
  unfold State.hdcpChange
  have := @wf_updView
  have := @wf_freeW
  have := @wf_compose
  grind

/-! ### Platform -/

theorem wf_storeRegs {s : State} {die off : Nat} {bs : List Byte} (hs : s.mem.wf = true) :
    (s.storeRegs die off bs).mem.wf = true := by
  induction bs generalizing s off with
  | nil => exact hs
  | cons b bs ih =>
    rw [State.storeRegs]
    apply ih
    split <;> exact hs

theorem wf_mailboxCommand {s : State} {w : Nat} (hs : s.mem.wf = true) : (s.mailboxCommand w).mem.wf = true := by
  unfold State.mailboxCommand
  have := @wf_setReg
  grind

theorem wf_i3cWrite {s : State} {off : Nat} {bs : List Byte} (hs : s.mem.wf = true) : (s.i3cWrite off bs).mem.wf = true :=
  wf_ite hs (wf_ite hs hs)

theorem wf_registerWrite {s : State} {die off size : Nat} {v : W64}
    (hs : s.mem.wf = true) : (s.registerWrite die off size v).mem.wf = true :=
  wf_ite (wf_i3cWrite hs) (wf_ite hs (wf_ite hs (wf_ite (wf_mailboxCommand (wf_ite (wf_checkSenders (wf_ite (wf_loadPrts
      (wf_storeRegs hs)) (wf_storeRegs hs))) (wf_ite (wf_loadPrts (wf_storeRegs hs)) (wf_storeRegs hs)))) (wf_ite (wf_checkSenders
      (wf_ite (wf_loadPrts (wf_storeRegs hs)) (wf_storeRegs hs))) (wf_ite (wf_loadPrts (wf_storeRegs hs)) (wf_storeRegs hs))))))

theorem wf_flushL2 {s : State} (hs : s.mem.wf = true) : s.flushL2.mem.wf = true :=
  wf_foldl hs fun _ _ hs => wf_foldl (wf_foldl hs fun _ _ hs => wf_evictMdc hs) fun _ _ hs => wf_evictL2 hs

theorem wf_intoGhost {s : State} {v : Nat} (hs : s.mem.wf = true) : (s.intoGhost v).mem.wf = true := by
  unfold State.intoGhost
  generalize State.reset = r
  have hf := wf_flushL2 hs
  generalize s.flushL2 = t at hf ⊢
  refine wf_setReg ?_
  exact ok_filter (m := t.mem) hf

theorem wf_ghostEnter {s : State} {v : Nat} (hs : s.mem.wf = true) : (s.ghostEnter v).mem.wf = true :=
  wf_ite hs (wf_ite (wf_intoGhost hs) (wf_setReg hs))

theorem wf_assertWake {s : State} {reason : Byte} (hs : s.mem.wf = true) : (s.assertWake reason).mem.wf = true := wf_ite hs hs

theorem wf_substitute {s : State} {unit ia : Nat} (hs : s.mem.wf = true) : (s.substitute unit ia).mem.wf = true := wf_deviceRecord hs

theorem wf_haltOn {s : State} {cores : List Nat} (hs : s.mem.wf = true) : (s.haltOn cores).mem.wf = true :=
  wf_foldl hs fun _ _ hs => wf_haltTeam hs

theorem wf_clusterWorn {s : State} {die clu : Nat} (hs : s.mem.wf = true) : (s.clusterWorn die clu).mem.wf = true :=
  wf_ite (wf_haltOn (wf_updCluster (wf_stopCores (wf_dropPasses hs)))) (wf_substitute (wf_stopCores (wf_dropPasses hs)))

theorem wf_spareLane {s : State} {u : WearUnit} (hs : s.mem.wf = true) : (s.spareLane u).mem.wf = true := by
  unfold State.spareLane
  split
  · exact hs
  · split
    · exact wf_linkDown (wf_substitute hs)
    · exact wf_substitute hs

theorem wf_wear {s : State} {u : WearUnit} (hs : s.mem.wf = true) : (s.wear u).mem.wf = true := by
  unfold State.wear
  have := @wf_deviceRecord
  have := @wf_clusterWorn
  have := @wf_spareLane
  grind

theorem wf_mailboxDone {s : State} {op status : Nat} (hs : s.mem.wf = true) : (s.mailboxDone op status).mem.wf = true :=
  wf_setReg (wf_setReg hs)

theorem wf_putBuf {s : State} {bs : List Byte} (hs : s.mem.wf = true) : (s.putBuf bs).mem.wf = true := hs

theorem wf_failStep {s : State} {step unit : Nat} {slots : List Nat}
    (hs : s.mem.wf = true) : (s.failStep step unit slots).mem.wf = true := hs

theorem wf_acceptImage {s : State} {fw : List Byte} (hs : s.mem.wf = true) : (s.acceptImage fw).mem.wf = true := hs

theorem wf_refuseImage {s : State} (hs : s.mem.wf = true) : s.refuseImage.mem.wf = true := wf_failStep hs

theorem wf_verifyImage {s : State} {fw : List Byte} (hs : s.mem.wf = true) : (s.verifyImage fw).mem.wf = true :=
  wf_ite (wf_acceptImage hs) (wf_refuseImage hs)

theorem wf_trainMemory {s : State} (hs : s.mem.wf = true) : s.trainMemory.mem.wf = true := wf_foldl hs fun _ _ hs => wf_substitute hs

theorem wf_startGovernor {s : State} (hs : s.mem.wf = true) : s.startGovernor.mem.wf = true := wf_ite (wf_applyReport hs) (wf_govern hs)

theorem wf_startPorts {s : State} (hs : s.mem.wf = true) : s.startPorts.mem.wf = true := by
  unfold State.startPorts
  split
  next h1 =>
    have ht1 := wf_of_eq h1 (wf_freeW hs)
    exact ht1

theorem wf_startUp {s : State} {ok : Bool} (hs : s.mem.wf = true) : (s.startUp ok).mem.wf = true := by
  unfold State.startUp
  split
  · exact hs
  · split
    next h1 =>
      have ht1 := wf_of_eq h1 (wf_freeW hs)
      split
      · exact wf_verifyImage hs
      · exact wf_ite (wf_trainMemory hs) (wf_failStep ht1)
      · exact wf_ite (wf_startGovernor hs) (wf_failStep ht1)
      · exact wf_ite (wf_startPorts hs) (wf_failStep ht1)
      · exact hs

theorem wf_recover {s : State} {h : MsgHdr} {data : List Byte} (hs : s.mem.wf = true) : (s.recover h data).mem.wf = true := by
  unfold State.recover
  split
  · exact wf_ite (wf_onceCfg hs (fun _ hs => wf_respond hs)) hs
  · split
    · exact wf_ite (wf_respond hs) (wf_ite (wf_acceptImage (wf_respond hs)) (wf_respond hs))
    · exact wf_dupe hs
    · exact wf_countDiscard hs
    · exact hs

/-! ### System -/

theorem okMem_emitvEff {a b : Opnd} {cnt : BitVec 2} {word : BitVec 4} {e : Env} {s : State}
    (hs : s.mem.wf = true) : okMem (emitvEff a b cnt word e s) := okMem_bind fun _ _ => okMem_bind fun _ _ => okMem_on (wf_updGroup hs)

theorem okMem_emitpEff {a b : Opnd} {e : Env} {s : State} (hs : s.mem.wf = true) : okMem (emitpEff a b e s) :=
  okMem_bind fun _ _ => okMem_bind fun _ _ => okMem_on (wf_updGroup hs)

theorem okMem_meshendEff {a b : Opnd} {e : Env} {s : State} (hs : s.mem.wf = true) : okMem (meshendEff a b e s) :=
  okMem_bind fun _ _ => okMem_on (wf_updGroup hs)

theorem okMem_tldEff {d a : Opnd} {ty : Ty} {nvec : BitVec 4} {e : Env} {s : State}
    (hs : s.mem.wf = true) : okMem (tldEff d a ty nvec e s) := by
  unfold tldEff
  have := @wf_writeLoaded
  have := @okMem_bind
  have := @okMem_ok
  have := @okMem_pure
  have := @okMem_error
  have := @okMem_throw
  grind [Eff.on]

theorem okMem_tstoEff {d a : Opnd} {ty : Ty} {nvec : BitVec 4} {e : Env} {s : State}
    (hs : s.mem.wf = true) : okMem (tstoEff d a ty nvec e s) := by
  unfold tstoEff
  have := @wf_updCore
  have := @wf_foldl
  have := @okMem_bind
  have := @okMem_ok
  have := @okMem_pure
  have := @okMem_error
  have := @okMem_throw
  grind [Eff.on]

theorem okMem_discEff {e : Env} {s : State} (hs : s.mem.wf = true) : okMem (discEff e s) := by
  unfold discEff
  split
  · exact okMem_pure (wf_leave (wf_updGroup hs))
  · exact okMem_pure (wf_leave hs)

theorem wf_launchKick {s : State} {c : Ctx} {n : Nat} (hs : s.mem.wf = true) : (s.launchKick c n).2.mem.wf = true := wf_ite_snd hs hs

theorem okMem_launchEff {d a : Opnd} {e : Env} {s : State} (hs : s.mem.wf = true) : okMem (launchEff d a e s) := by
  unfold launchEff
  have := @wf_launchKick
  have := @wf_status
  have := @okMem_withRelease
  have := @okMem_bind
  have := @okMem_ok
  have := @okMem_pure
  have := @okMem_error
  have := @okMem_throw
  grind [Eff.on]

theorem okMem_getsEff {d : Opnd} {idx : BitVec 9} {w64 : Bool} {e : Env} {s : State}
    (hs : s.mem.wf = true) : okMem (getsEff d idx w64 e s) := okMem_bind fun _ _ => okMem_on (wf_writeDst hs)

theorem wf_sysWrite {s : State} {e : Env} {i v : Nat} (hs : s.mem.wf = true) : (s.sysWrite e i v).mem.wf = true := by
  unfold State.sysWrite
  split
  · exact wf_updCtx hs
  · exact wf_updSlice hs
  · exact wf_updGroup hs
  · exact wf_updGroup hs
  · exact wf_requestLevel hs
  · exact wf_updCtx hs
  · exact wf_updCtx hs
  · exact wf_updCtx hs
  · exact wf_updGroup hs
  · exact wf_ite (wf_updCtx hs) hs

theorem okMem_setsEff {a : Opnd} {idx : BitVec 9} {w64 : Bool} {e : Env} {s : State}
    (hs : s.mem.wf = true) : okMem (setsEff a idx w64 e s) :=
  okMem_bind fun _ _ => okMem_bind fun _ _ => okMem_bind fun _ _ => okMem_on (wf_sysWrite hs)

theorem okMem_tretEff {e : Env} {s : State} (hs : s.mem.wf = true) : okMem (tretEff e s) :=
  okMem_bind fun _ _ => okMem_bind fun _ _ => okMem_pure (wf_trapReturn hs)

theorem wf_dropEntries {s : State} {h lo hi : Nat} (hs : s.mem.wf = true) : (s.dropEntries h lo hi).mem.wf = true := wf_updHome hs

theorem wf_wakeRange {s : State} {lo hi : Nat} (hs : s.mem.wf = true) : (s.wakeRange lo hi).mem.wf = true :=
  wf_wakeDraws (wf_wakeHeaders hs)

theorem wf_invalidate {s : State} {h lo hi : Nat} (hs : s.mem.wf = true) : (s.invalidate h lo hi).mem.wf = true :=
  wf_ite (wf_wakeRange (wf_dropEntries hs)) hs

theorem okMem_iainvGo {ia : Nat} {range : Nat × Nat} {e : Env} {s : State} (hs : s.mem.wf = true) : okMem (iainvGo ia range e s) :=
  okMem_bind fun _ _ => okMem_bind fun _ _ => okMem_withRelease hs (fun _ hs => okMem_on (wf_ite (wf_invalidate hs) hs))

theorem okMem_iainvEff {a b : Opnd} {e : Env} {s : State} (hs : s.mem.wf = true) : okMem (iainvEff a b e s) :=
  okMem_bind fun _ _ => okMem_iainvGo hs

theorem okMem_iainvAllEff {a : Opnd} {e : Env} {s : State} (hs : s.mem.wf = true) : okMem (iainvAllEff a e s) :=
  okMem_bind fun _ _ => okMem_iainvGo hs

end Sys2Proof.Machine

/-!
SUPPORT. The canonical form of memory is kept: Turns, Enabled, Float, Integer, Lanes, Matrix and Picks.
-/

namespace Sys2Proof.Machine

/-! ### Turns -/

theorem wf_levelAging {s : State} {lid : Nat} (hs : s.mem.wf = true) : (s.levelAging lid).mem.wf = true := wf_updLaunch hs

theorem wf_aged {s : State} (hs : s.mem.wf = true) : s.aged.mem.wf = true := hs

theorem wf_served {s : State} {l : Launch} (hs : s.mem.wf = true) : (s.served l).mem.wf = true := hs

theorem wf_teamPlace {s : State} (hs : s.mem.wf = true) : s.teamPlace.mem.wf = true := by
  unfold State.teamPlace
  have := @wf_aged
  have := @wf_readHeaders
  have := @wf_placeTeam
  have := @wf_served
  grind

theorem wf_teamRestore {s : State} {tid : Nat} (hs : s.mem.wf = true) : (s.teamRestore tid).mem.wf = true := by
  unfold State.teamRestore
  have := @wf_aged
  have := @wf_placed
  have := @wf_rebuild
  have := @wf_served
  have := @wf_restoreTeam
  grind

theorem wf_passStart {s : State} {did tile c : Nat} (hs : s.mem.wf = true) : (s.passStart did tile c).mem.wf = true := by
  unfold State.passStart
  have := @wf_aged
  have := @wf_placed
  have := @wf_startPass
  have := @wf_served
  grind

theorem wf_invocation {s : State} {did : Nat} (hs : s.mem.wf = true) : (s.invocation did).mem.wf = true := by
  unfold State.invocation
  have := @wf_aged
  have := @wf_placed
  have := @wf_startInvocation
  have := @wf_served
  grind

theorem wf_without {s : State} {lv : Nat} (hs : s.mem.wf = true) : (s.without lv).mem.wf = true := hs

theorem wf_placementReserve {s : State} {lid : Nat} (hs : s.mem.wf = true) : (s.placementReserve lid).mem.wf = true := by
  unfold State.placementReserve
  split
  · exact hs
  · split
    · exact hs
    · split
      · exact wf_updLaunch (wf_foldl hs fun _ _ hs => wf_updCore hs)
      · exact hs

/-! ### Enabled -/

theorem wf_quietMove {s : State} {mv : Move} (hs : s.mem.wf = true) : (s.quietMove mv).mem.wf = true := by
  unfold State.quietMove
  split
  · exact hs
  · exact wf_evict hs
  · exact wf_updCore hs
  · exact wf_updCore hs
  · exact wf_updHome hs
  · exact wf_storageError hs

/-! ### Float -/

theorem okMem_flt2Eff {d a b : Opnd} {m : MA} {y : Exact → Exact → Exact} {e : Env} {s : State}
    (hs : s.mem.wf = true) : okMem (flt2Eff d a b m y e s) := okMem_aluEff hs

theorem okMem_flt1Eff {d b : Opnd} {m : MA} {f : Nat → Nat} {e : Env} {s : State}
    (hs : s.mem.wf = true) : okMem (flt1Eff d b m f e s) := okMem_aluEff hs

theorem okMem_fmaEff {d a b : Opnd} {m : MF} {e : Env} {s : State} (hs : s.mem.wf = true) : okMem (fmaEff d a b m e s) := okMem_aluEff hs

theorem okMem_minMaxEff {d a b : Opnd} {m : MA} {max : Bool} {e : Env} {s : State}
    (hs : s.mem.wf = true) : okMem (minMaxEff d a b m max e s) := okMem_aluEff hs

theorem okMem_approxEff {d b : Opnd} {m : MA} {fn : Approx} {e : Env} {s : State}
    (hs : s.mem.wf = true) : okMem (approxEff d b m fn e s) := okMem_lateEff hs

/-! ### Integer -/

theorem okMem_int2Eff {d a b : Opnd} {m : MA} {y : Int → Int → Int} {e : Env} {s : State}
    (hs : s.mem.wf = true) : okMem (int2Eff d a b m y e s) := okMem_aluEff hs

theorem okMem_int1Eff {d b : Opnd} {m : MA} {y : Int → Int} {e : Env} {s : State}
    (hs : s.mem.wf = true) : okMem (int1Eff d b m y e s) := okMem_aluEff hs

theorem okMem_logic2Eff {d a b : Opnd} {m : MA} {f : Nat → Nat → Nat} {e : Env} {s : State}
    (hs : s.mem.wf = true) : okMem (logic2Eff d a b m f e s) := okMem_aluEff hs

theorem okMem_logic1Eff {d b : Opnd} {m : MA} {pair : Bool} {f : Nat → Nat} {e : Env} {s : State}
    (hs : s.mem.wf = true) : okMem (logic1Eff d b m pair f e s) := okMem_aluEff hs

theorem okMem_shiftEff {d a b : Opnd} {m : MA} {f : Nat → Nat → Nat} {e : Env} {s : State}
    (hs : s.mem.wf = true) : okMem (shiftEff d a b m f e s) := okMem_aluEff hs

theorem okMem_addrEff {d a b : Opnd} {m : MA} {f : Nat → Nat → Nat} {e : Env} {s : State}
    (hs : s.mem.wf = true) : okMem (addrEff d a b m f e s) := okMem_aluEff hs

theorem wf_writeMask {s : State} {e : Env} {d : Opnd} {m : Nat → Nat} (hs : s.mem.wf = true) : (s.writeMask e d m).mem.wf = true :=
  wf_writeDst hs

theorem okMem_pmovEff {d b : Opnd} {m : MA} {e : Env} {s : State} (hs : s.mem.wf = true) : okMem (pmovEff d b m e s) := by
  unfold pmovEff
  split
  · exact okMem_ok (wf_writeMask hs)
  · exact okMem_bind fun _ _ => okMem_on (wf_writeDst hs)
  · exact okMem_aluEff hs
  · exact okMem_aluEff hs

/-! ### Lanes -/

theorem okMem_voteEff {d b : Opnd} {m : MA} {e : Env} {s : State} (hs : s.mem.wf = true) : okMem (voteEff d b m e s) :=
  okMem_ite (okMem_bind fun _ _ => okMem_on (wf_writeMask hs)) (okMem_ok (wf_writeDst hs))

theorem okMem_redxEff {scan : Bool} {d b : Opnd} {m : MA} {e : Env} {s : State}
    (hs : s.mem.wf = true) : okMem (redxEff scan d b m e s) :=
  okMem_bind fun _ _ => okMem_bind fun _ _ => okMem_on (wf_lateDst (wf_consume hs))

theorem okMem_electEff {d : Opnd} {e : Env} {s : State} (hs : s.mem.wf = true) : okMem (electEff d e s) := by
  unfold electEff
  split
  · exact okMem_ok (wf_writeDst hs)
  · exact okMem_bind fun _ _ => okMem_bind fun _ _ => okMem_on (wf_writeDst hs)

theorem okMem_matchEff {d b : Opnd} {m : MA} {e : Env} {s : State} (hs : s.mem.wf = true) : okMem (matchEff d b m e s) :=
  okMem_bind fun _ _ => okMem_bind fun _ _ => okMem_ite (okMem_on (wf_lateDst (wf_consume hs))) (okMem_on (wf_lateDst (wf_consume hs)))

/-! ### Matrix -/

theorem okMem_mmaEff {d a b : Opnd} {m : MX} {e : Env} {s : State} (hs : s.mem.wf = true) : okMem (mmaEff d a b m e s) :=
  okMem_bind fun _ _ => okMem_bind fun _ _ => okMem_on (wf_lateDst hs)

theorem okMem_mmdEff {d a b : Opnd} {m : MX} {e : Env} {s : State} (hs : s.mem.wf = true) : okMem (mmdEff d a b m e s) :=
  okMem_bind fun _ _ => okMem_bind fun _ _ => okMem_bind fun _ _ => okMem_on (wf_lateDst hs)

theorem okMem_hadEff {d a : Opnd} {hadn : BitVec 2} {hadk : BitVec 5} {e : Env} {s : State}
    (hs : s.mem.wf = true) : okMem (hadEff d a hadn hadk e s) := okMem_bind fun _ _ => okMem_bind fun _ _ => okMem_on (wf_lateDst hs)

theorem okMem_qntEff {d a b : Opnd} {e : Env} {s : State} (hs : s.mem.wf = true) : okMem (qntEff d a b e s) :=
  okMem_bind fun _ _ => okMem_bind fun _ _ => okMem_on (wf_lateDst hs)

theorem okMem_cbldEff {a : Opnd} {e : Env} {s : State} (hs : s.mem.wf = true) : okMem (cbldEff a e s) :=
  okMem_bind fun _ _ => okMem_on (wf_updGroup hs)

/-! ### Picks -/

theorem wf_counts {s : State} {w : Issuer} (hs : s.mem.wf = true) : (s.counts w).mem.wf = true := by
  unfold State.counts
  split
  · exact hs
  · exact wf_updFrag hs

theorem wf_takeInput {s : State} {i : Instr} {r : List Instr} (hs : s.mem.wf = true) : (s.takeInput i r).mem.wf = true := hs

end Sys2Proof.Machine

/-!
SUPPORT. The canonical form of memory is kept by every instruction and event, and so by every step.
-/

namespace Sys2Proof.Machine

/-- The next state, where there is one, has its memory in the canonical form. -/
def okNext (o : Host.Outcome State Fault Refusal) : Prop := ∀ t, o = .next t → t.mem.wf = true

theorem okNext_next {t : State} (h : t.mem.wf = true) : okNext (.next t) := by
  rintro _ ⟨⟩
  exact h

theorem okNext_run {i : Instr} {h : Hdr} {body : Env → State → Chk Eff} {s : State} (hs : s.mem.wf = true)
    (hb : ∀ e s, s.mem.wf = true → okMem (body e s)) : okNext (runInstr i h body s) := by
  intro t ht
  obtain ⟨e, -, h⟩ := runInstr_cases ht
  rcases h with ⟨c, n, rfl⟩ | ⟨w, rfl⟩ | ⟨-, -, rfl⟩ | ⟨r, -, hr, rfl⟩
  · exact wf_trapped hs
  · exact wf_waits hs
  · exact wf_ended (wf_begun hs) hs
  · exact wf_ended (hb e _ (wf_begun hs) r hr) hs

theorem okMem_iteFn {c : Prop} [Decidable c] {f g : Env → State → Chk Eff} {e : Env} {s : State} (hf : okMem (f e s))
    (hg : okMem (g e s)) : okMem ((if c then f else g) e s) := by
  split
  · exact hf
  · exact hg

theorem okNext_kick {k : Kick} {s : State} (hs : s.mem.wf = true) : okNext (exec (.kick k) s) := by
  refine okNext_next ?_
  cases k with
  | own ctx => exact wf_kick hs
  | message h ctx => exact wf_once hs fun s hs => wf_ite (wf_kick (wf_accept hs)) hs

theorem okNext_cfgwrite {h : MsgHdr} {size : Nat} {value : W64} {s : State} (hs : s.mem.wf = true) :
    okNext (exec (.cfgwrite h size value) s) := by
  refine okNext_next (wf_onceCfg hs fun s hs => ?_)
  have ha := wf_accept (slot := h.slot) (seq := h.seq) hs
  exact wf_ite ha ha

theorem okNext_exec {i : Instr} {s : State} (hs : s.mem.wf = true) : okNext (exec i s) := by
  cases i with
  | nop _ => exact okNext_run hs fun _ _ hs => okMem_on hs
  | bra _ _ => exact okNext_run hs fun _ _ hs => okMem_braEff hs
  | brx _ _ _ => exact okNext_run hs fun _ _ hs => okMem_brxEff hs
  | call _ _ _ => exact okNext_run hs fun _ _ hs => okMem_callEff hs
  | callx _ _ _ _ => exact okNext_run hs fun _ _ hs => okMem_callxEff hs
  | ret _ _ => exact okNext_run hs fun _ _ hs => okMem_retEff hs
  | exitL _ => exact okNext_run hs fun _ _ hs => okMem_pure (wf_leave hs)
  | brq _ _ _ _ => exact okNext_run hs fun _ _ hs => okMem_brqEff hs
  | pushb _ _ _ _ => exact okNext_run hs fun _ _ hs => okMem_pushbEff hs
  | qpush _ _ _ => exact okNext_run hs fun _ _ hs => okMem_aluEff hs
  | qpop _ _ _ _ => exact okNext_run hs fun _ _ hs => okMem_iteFn (okMem_qdiscEff hs) (okMem_aluEff hs)
  | qsync _ _ => exact okNext_run hs fun _ _ hs => okMem_bind fun _ _ => okMem_on hs
  | slip _ _ => exact okNext_run hs fun _ _ hs => okMem_bind fun _ _ => okMem_bind fun _ _ => okMem_on hs
  | waitc _ _ _ => exact okNext_run hs fun _ _ hs => okMem_bind fun _ _ => okMem_bind fun _ _ => okMem_on hs
  | waitall _ _ => exact okNext_run hs fun _ _ hs => okMem_guarded fun _ => okMem_bind fun _ _ => okMem_on hs
  | trap _ _ => exact okNext_run hs fun _ _ hs => okMem_error
  | bkpt _ _ => exact okNext_run hs fun _ _ hs => okMem_error
  | racq _ _ _ _ => exact okNext_run hs fun _ _ hs => okMem_racqEff hs
  | rrel _ _ => exact okNext_run hs fun _ _ hs => okMem_rrelEff hs
  | iadd _ _ _ _ _ => exact okNext_run hs fun _ _ hs => okMem_int2Eff hs
  | isub _ _ _ _ _ => exact okNext_run hs fun _ _ hs => okMem_int2Eff hs
  | imul _ _ _ _ _ => exact okNext_run hs fun _ _ hs => okMem_int2Eff hs
  | imulh _ _ _ _ _ => exact okNext_run hs fun _ _ hs => okMem_int2Eff hs
  | imad _ _ _ _ _ => exact okNext_run hs fun _ _ hs => okMem_aluEff hs
  | imin _ _ _ _ _ => exact okNext_run hs fun _ _ hs => okMem_int2Eff hs
  | imax _ _ _ _ _ => exact okNext_run hs fun _ _ hs => okMem_int2Eff hs
  | iabs _ _ _ _ => exact okNext_run hs fun _ _ hs => okMem_int1Eff hs
  | ineg _ _ _ _ => exact okNext_run hs fun _ _ hs => okMem_int1Eff hs
  | andB _ _ _ _ _ => exact okNext_run hs fun _ _ hs => okMem_logic2Eff hs
  | orB _ _ _ _ _ => exact okNext_run hs fun _ _ hs => okMem_logic2Eff hs
  | xorB _ _ _ _ _ => exact okNext_run hs fun _ _ hs => okMem_logic2Eff hs
  | notB _ _ _ _ => exact okNext_run hs fun _ _ hs => okMem_logic1Eff hs
  | lop3 _ _ _ _ _ => exact okNext_run hs fun _ _ hs => okMem_aluEff hs
  | shl _ _ _ _ _ => exact okNext_run hs fun _ _ hs => okMem_shiftEff hs
  | shr _ _ _ _ _ => exact okNext_run hs fun _ _ hs => okMem_shiftEff hs
  | sar _ _ _ _ _ => exact okNext_run hs fun _ _ hs => okMem_shiftEff hs
  | rot _ _ _ _ _ => exact okNext_run hs fun _ _ hs => okMem_shiftEff hs
  | bfe _ _ _ _ _ => exact okNext_run hs fun _ _ hs => okMem_aluEff hs
  | bfi _ _ _ _ _ => exact okNext_run hs fun _ _ hs => okMem_aluEff hs
  | popc _ _ _ _ => exact okNext_run hs fun _ _ hs => okMem_logic1Eff hs
  | clz _ _ _ _ => exact okNext_run hs fun _ _ hs => okMem_logic1Eff hs
  | brev _ _ _ _ => exact okNext_run hs fun _ _ hs => okMem_logic1Eff hs
  | isetp _ _ _ _ _ => exact okNext_run hs fun _ _ hs => okMem_aluEff hs
  | sel _ _ _ _ _ => exact okNext_run hs fun _ _ hs => okMem_aluEff hs
  | mov _ _ _ _ => exact okNext_run hs fun _ _ hs => okMem_logic1Eff hs
  | movi _ _ _ => exact okNext_run hs fun _ _ hs => okMem_aluEff hs
  | lea _ _ _ _ _ => exact okNext_run hs fun _ _ hs => okMem_addrEff hs
  | aadd _ _ _ _ _ => exact okNext_run hs fun _ _ hs => okMem_addrEff hs
  | plop _ _ _ _ _ => exact okNext_run hs fun _ _ hs => okMem_aluEff hs
  | pmov _ _ _ _ => exact okNext_run hs fun _ _ hs => okMem_pmovEff hs
  | fadd _ _ _ _ _ => exact okNext_run hs fun _ _ hs => okMem_flt2Eff hs
  | fsub _ _ _ _ _ => exact okNext_run hs fun _ _ hs => okMem_flt2Eff hs
  | fmul _ _ _ _ _ => exact okNext_run hs fun _ _ hs => okMem_flt2Eff hs
  | ffma _ _ _ _ _ => exact okNext_run hs fun _ _ hs => okMem_fmaEff hs
  | fmin _ _ _ _ _ => exact okNext_run hs fun _ _ hs => okMem_minMaxEff hs
  | fmax _ _ _ _ _ => exact okNext_run hs fun _ _ hs => okMem_minMaxEff hs
  | fsetp _ _ _ _ _ => exact okNext_run hs fun _ _ hs => okMem_aluEff hs
  | fclass _ _ _ _ => exact okNext_run hs fun _ _ hs => okMem_flt1Eff hs
  | frnd _ _ _ _ => exact okNext_run hs fun _ _ hs => okMem_flt1Eff hs
  | ffrc _ _ _ _ => exact okNext_run hs fun _ _ hs => okMem_flt1Eff hs
  | fdiv _ _ _ _ _ => exact okNext_run hs fun _ _ hs => okMem_lateEff hs
  | fsqrt _ _ _ _ => exact okNext_run hs fun _ _ hs => okMem_lateEff hs
  | frcp _ _ _ _ => exact okNext_run hs fun _ _ hs => okMem_approxEff hs
  | frsq _ _ _ _ => exact okNext_run hs fun _ _ hs => okMem_approxEff hs
  | fex2 _ _ _ _ => exact okNext_run hs fun _ _ hs => okMem_approxEff hs
  | flg2 _ _ _ _ => exact okNext_run hs fun _ _ hs => okMem_approxEff hs
  | fsin _ _ _ _ => exact okNext_run hs fun _ _ hs => okMem_approxEff hs
  | fcos _ _ _ _ => exact okNext_run hs fun _ _ hs => okMem_approxEff hs
  | ftanh _ _ _ _ => exact okNext_run hs fun _ _ hs => okMem_approxEff hs
  | hadd2 _ _ _ _ _ => exact okNext_run hs fun _ _ hs => okMem_flt2Eff hs
  | hmul2 _ _ _ _ _ => exact okNext_run hs fun _ _ hs => okMem_flt2Eff hs
  | hfma2 _ _ _ _ _ => exact okNext_run hs fun _ _ hs => okMem_fmaEff hs
  | hmin2 _ _ _ _ _ => exact okNext_run hs fun _ _ hs => okMem_minMaxEff hs
  | hmax2 _ _ _ _ _ => exact okNext_run hs fun _ _ hs => okMem_minMaxEff hs
  | fdot2 _ _ _ _ _ => exact okNext_run hs fun _ _ hs => okMem_aluEff hs
  | idot4 _ _ _ _ _ => exact okNext_run hs fun _ _ hs => okMem_aluEff hs
  | cvt _ _ _ _ => exact okNext_run hs fun _ _ hs => okMem_aluEff hs
  | pack _ _ _ _ _ => exact okNext_run hs fun _ _ hs => okMem_iteFn (okMem_aluEff hs) (okMem_aluEff hs)
  | prmt _ _ _ _ _ => exact okNext_run hs fun _ _ hs => okMem_aluEff hs
  | vote _ _ _ _ => exact okNext_run hs fun _ _ hs => okMem_voteEff hs
  | redx _ _ _ _ => exact okNext_run hs fun _ _ hs => okMem_redxEff hs
  | scan _ _ _ _ => exact okNext_run hs fun _ _ hs => okMem_redxEff hs
  | elect _ _ => exact okNext_run hs fun _ _ hs => okMem_electEff hs
  | matchL _ _ _ _ => exact okNext_run hs fun _ _ hs => okMem_matchEff hs
  | ldq _ _ _ _ _ => exact okNext_run hs fun _ _ hs => okMem_loadEff hs
  | ldr _ _ _ _ _ => exact okNext_run hs fun _ _ hs => okMem_loadEff hs
  | st _ _ _ _ _ => exact okNext_run hs fun _ _ hs => okMem_storeEff hs
  | ldk _ _ _ _ _ => exact okNext_run hs fun _ _ hs => okMem_loadEff hs
  | ldt _ _ _ _ _ => exact okNext_run hs fun _ _ hs => okMem_loadEff hs
  | stt _ _ _ _ _ => exact okNext_run hs fun _ _ hs => okMem_storeEff hs
  | ldsp _ _ _ _ _ => exact okNext_run hs fun _ _ hs => okMem_ldspEff hs
  | stsp _ _ _ _ _ => exact okNext_run hs fun _ _ hs => okMem_stspEff hs
  | atom _ _ _ _ _ => exact okNext_run hs fun _ _ hs => okMem_atomEff hs
  | red _ _ _ _ => exact okNext_run hs fun _ _ hs => okMem_atomEff hs
  | atsp _ _ _ _ _ => exact okNext_run hs fun _ _ hs => okMem_atspEff hs
  | pfx _ _ _ _ => exact okNext_run hs fun _ _ hs => okMem_pfxEff hs
  | fence _ _ => exact okNext_run hs fun _ _ hs => okMem_fenceEff hs
  | pfence _ _ _ _ => exact okNext_run hs fun _ _ hs => okMem_pfenceEff hs
  | smp _ _ _ _ _ => exact okNext_run hs fun _ _ hs => okMem_sampEff hs
  | sld _ _ _ _ _ => exact okNext_run hs fun _ _ hs => okMem_sampEff hs
  | xformZero _ _ _ => exact okNext_run hs fun _ _ hs => okMem_engEff hs
  | xformFill _ _ _ => exact okNext_run hs fun _ _ hs => okMem_engEff hs
  | xformTranspose _ _ _ => exact okNext_run hs fun _ _ hs => okMem_engEff hs
  | synct _ => exact okNext_run hs fun _ _ hs => okMem_synctEff hs
  | mbinit _ _ _ => exact okNext_run hs fun _ _ hs => okMem_mbinitEff hs
  | mbarv _ _ _ _ _ => exact okNext_run hs fun _ _ hs => okMem_mbarvEff hs
  | mbexp _ _ _ _ _ _ => exact okNext_run hs fun _ _ hs => okMem_mbexpEff hs
  | mbwait _ _ _ => exact okNext_run hs fun _ _ hs => okMem_mbwaitEff hs
  | mbtest _ _ _ _ => exact okNext_run hs fun _ _ hs => okMem_mbtestEff hs
  | bcopy _ _ _ => exact okNext_run hs fun _ _ hs => okMem_engEff hs
  | bcopy2 _ _ _ => exact okNext_run hs fun _ _ hs => okMem_engEff hs
  | bgath _ _ _ _ => exact okNext_run hs fun _ _ hs => okMem_engEff hs
  | wlpush _ _ _ _ => exact okNext_run hs fun _ _ hs => okMem_wlpushEff hs
  | wlpop _ _ _ _ => exact okNext_run hs fun _ _ hs => okMem_wlpopEff hs
  | wlquiet _ _ _ _ => exact okNext_run hs fun _ _ hs => okMem_wlquietEff hs
  | filldone _ _ => exact okNext_run hs fun _ _ hs => okMem_filldoneEff hs
  | fillfail _ _ _ => exact okNext_run hs fun _ _ hs => okMem_fillfailEff hs
  | previct _ _ _ => exact okNext_run hs fun _ _ hs => okMem_previctEff hs
  | fillq _ _ _ => exact okNext_run hs fun _ _ hs => okMem_fillqEff hs
  | cstep _ _ _ _ => exact okNext_run hs fun _ _ hs => okMem_cstepEff hs
  | cabort _ _ => exact okNext_run hs fun _ _ hs => okMem_cabortEff hs
  | mma _ _ _ _ _ => exact okNext_run hs fun _ _ hs => okMem_mmaEff hs
  | mmd _ _ _ _ _ => exact okNext_run hs fun _ _ hs => okMem_mmdEff hs
  | had _ _ _ _ _ => exact okNext_run hs fun _ _ hs => okMem_hadEff hs
  | qnt _ _ _ _ => exact okNext_run hs fun _ _ hs => okMem_qntEff hs
  | cbld _ _ => exact okNext_run hs fun _ _ hs => okMem_cbldEff hs
  | spl _ _ _ => exact okNext_run hs fun _ _ hs => okMem_splEff hs
  | gpl _ _ _ => exact okNext_run hs fun _ _ hs => okMem_gplEff hs
  | grant _ _ _ => exact okNext_run hs fun _ _ hs => okMem_grantEff hs
  | revoke _ _ _ => exact okNext_run hs fun _ _ hs => okMem_revokeEff hs
  | passq _ _ _ => exact okNext_run hs fun _ _ hs => okMem_passqEff hs
  | emitv _ _ _ _ _ => exact okNext_run hs fun _ _ hs => okMem_emitvEff hs
  | emitp _ _ _ => exact okNext_run hs fun _ _ hs => okMem_emitpEff hs
  | meshend _ _ _ => exact okNext_run hs fun _ _ hs => okMem_meshendEff hs
  | tld _ _ _ _ _ => exact okNext_run hs fun _ _ hs => okMem_tldEff hs
  | tsto _ _ _ _ _ => exact okNext_run hs fun _ _ hs => okMem_tstoEff hs
  | disc _ => exact okNext_run hs fun _ _ hs => okMem_discEff hs
  | ownq _ _ _ _ => exact okNext_run hs fun _ _ hs => okMem_ownqEff hs
  | launch _ _ _ => exact okNext_run hs fun _ _ hs => okMem_launchEff hs
  | gets _ _ _ _ => exact okNext_run hs fun _ _ hs => okMem_getsEff hs
  | sets _ _ _ _ => exact okNext_run hs fun _ _ hs => okMem_setsEff hs
  | tret _ => exact okNext_run hs fun _ _ hs => okMem_tretEff hs
  | preempt _ _ _ _ => exact okNext_run hs fun _ _ hs => okMem_preemptEff hs
  | preemptRel _ _ _ => exact okNext_run hs fun _ _ hs => okMem_preemptRelEff hs
  | csave _ _ _ => exact okNext_run hs fun _ _ hs => okMem_csaveEff hs
  | crest _ _ _ => exact okNext_run hs fun _ _ hs => okMem_crestEff hs
  | iainv _ _ _ => exact okNext_run hs fun _ _ hs => okMem_iainvEff hs
  | iainvAll _ _ => exact okNext_run hs fun _ _ hs => okMem_iainvAllEff hs
  | present _ _ _ _ => exact okNext_run hs fun _ _ hs => okMem_presentEff hs
  | teamHaltComplete _ => exact okNext_next (wf_haltComplete hs)
  | deferredTrap _ => exact okNext_next (wf_deferredTrap hs)
  | errorRingRetry _ => exact okNext_next (wf_retryError hs)
  | homeAccess _ _ => exact okNext_next (wf_homeAccess hs)
  | walkSlotFree _ => exact okNext_next (wf_walkSlotFree hs)
  | faultBatchRetry _ => exact okNext_next (wf_retryBatch hs)
  | replayReissue _ _ => exact okNext_next (wf_reissue hs)
  | loadDataReturn _ _ => exact okNext_next (wf_dataReturn hs)
  | varlatResultWrite _ _ _ _ => exact okNext_next (wf_varlatWrite hs)
  | qsStoreData _ => exact okNext_next (wf_qsData hs)
  | dirtyWriteDropped _ _ => exact okNext_next (wf_dropDirty hs)
  | layoutTWrite _ _ => exact okNext_next (wf_layoutWrite hs)
  | transformBankPart _ _ => exact okNext_next (wf_bankPart hs)
  | engineUnitDone _ _ => exact okNext_next (wf_engineUnit hs)
  | migprodWrite _ _ => exact okNext_next (wf_ite (wf_migDoorbell hs) hs)
  | migrationCommandStart _ => exact okNext_next (wf_ite (wf_migStart hs) hs)
  | migrationRoundEnd _ _ => exact okNext_next (wf_migRound hs)
  | migrationFreezeDone _ _ => exact okNext_next (wf_migDone hs)
  | prtEntryWrite _ _ => exact okNext_next (wf_prtWrite hs)
  | fillRequestRetry _ _ => exact okNext_next (wf_fillRetry hs)
  | hostFillRetry _ _ => exact okNext_next (wf_restart hs)
  | fillTimeout _ _ _ => exact okNext_next (wf_fillTimeout hs)
  | surfaceDescriptorWrite _ => exact okNext_next (wf_surfWrite hs)
  | contextDescriptorWrite _ => exact okNext_next (wf_ctxWrite hs)
  | kick _ => exact okNext_kick hs
  | teamPlace => exact okNext_next (wf_teamPlace hs)
  | levelAging _ => exact okNext_next (wf_levelAging hs)
  | placementReserve _ => exact okNext_next (wf_placementReserve hs)
  | deadlineHold _ => exact okNext_next (wf_deadlineHold hs)
  | teamRestore _ => exact okNext_next (wf_teamRestore hs)
  | groupCleared _ => exact okNext_next (wf_groupCleared hs)
  | groupRetire _ => exact okNext_next (wf_groupRetire hs)
  | qdeadlock _ => exact okNext_next (wf_qdeadlock hs)
  | barrierStall _ _ => exact okNext_next (wf_barrierStall hs)
  | emergencyReserveGrant _ => exact okNext_next (wf_reserveGrant hs)
  | racqGrant _ => exact okNext_next (wf_racqGrant hs)
  | issueCycle _ => exact okNext_next (wf_issueCycle hs)
  | fetchSlotSwitch _ _ => exact okNext_next (wf_fetchSwitch hs)
  | icacheFill _ _ => exact okNext_next (wf_icacheFill hs)
  | graphicsContextEntryWrite _ => exact okNext_next (wf_gfxWrite hs)
  | graphicsPacketStart _ => exact okNext_next (wf_packetStart hs)
  | binning _ => exact okNext_next (wf_bin hs)
  | tilePassStart _ _ _ => exact okNext_next (wf_passStart hs)
  | tileInvocationStart _ => exact okNext_next (wf_invocation hs)
  | tileWriteOut _ => exact okNext_next (wf_writeOut hs)
  | tilePassAbandon _ => exact okNext_next (wf_abandonPass hs)
  | fieldStart _ => exact okNext_next (wf_fieldStart hs)
  | outputEnable _ _ => exact okNext_next (wf_outputEnable hs)
  | hdcpStateChange _ _ => exact okNext_next (wf_hdcpChange hs)
  | vanarRead _ _ _ _ => exact okNext_next (wf_vanarRead hs)
  | vanarWrite _ _ _ _ => exact okNext_next (wf_vanarWrite hs)
  | vanarAtomic _ _ _ _ _ _ _ => exact okNext_next (wf_vanarAtomic hs)
  | cfgread _ _ => exact okNext_next (wf_onceCfg hs fun s hs => wf_ite (wf_respond hs) (wf_respond hs))
  | cfgwrite _ _ _ => exact okNext_cfgwrite hs
  | recovery _ _ _ => exact okNext_next (wf_recover hs)
  | vanarAbort _ _ _ => exact okNext_next (wf_once hs fun s hs => wf_ite (wf_abortGroup (wf_accept hs)) (wf_accept hs))
  | vanarStep _ _ _ => exact okNext_next (wf_once hs fun s hs => wf_ite (wf_memberStep (wf_accept hs)) (wf_accept hs))
  | vanarResponse _ _ _ => exact okNext_next (wf_once hs fun s hs => wf_vanarResponse (wf_accept hs))
  | ack _ _ _ => exact okNext_next (wf_foldl hs fun s m hs => wf_ackOne hs)
  | ackDue _ => exact okNext_next (wf_ite (wf_updStream hs) hs)
  | collectiveStepTimeout _ _ => exact okNext_next (wf_ite (wf_memberStep hs) hs)
  | resendTimeout _ _ => exact okNext_next (wf_resend hs)
  | pathFailureTimeout _ _ => exact okNext_next (wf_pathFailure hs)
  | linkDown _ => exact okNext_next (wf_linkDown hs)
  | portProbe _ _ => exact okNext_next (wf_probe hs)
  | voltageRampDone _ => exact okNext_next (wf_rampDone hs)
  | fclkChangeDone _ => exact okNext_next (wf_clockDone hs)
  | clockCrossingDone _ => exact okNext_next (wf_crossDone hs)
  | powerSample _ => exact okNext_next (wf_powerSample hs)
  | stallSample _ _ _ => exact okNext_next (wf_updCluster hs)
  | timingErrorEncore _ => exact okNext_next (wf_encoreAt hs)
  | commit => exact okNext_next (wf_commitReport hs)
  | coolReportMissing => exact okNext_next (wf_ite (wf_fallback hs) hs)
  | ghostLightEnter _ => exact okNext_next (wf_ghostEnter hs)
  | wakePhraseDetect => exact okNext_next (wf_assertWake hs)
  | ghostLightTimeout => exact okNext_next (wf_ite hs (wf_assertWake hs))
  | wakeack => exact okNext_next hs
  | wake _ => exact okNext_next (wf_ite hs hs)
  | wearThreshold _ => exact okNext_next (wf_wear hs)
  | startUp _ => exact okNext_next (wf_startUp hs)
  | attest => exact okNext_next (wf_ite hs (wf_mailboxDone (wf_putBuf hs)))
  | cert => exact okNext_next (wf_ite hs (wf_mailboxDone (wf_setReg (wf_putBuf hs))))
  | keygen => exact okNext_next (wf_ite hs (wf_ite (wf_mailboxDone hs) (wf_ite (wf_mailboxDone hs) (wf_mailboxDone (wf_updHome hs)))))
  | keyclr => exact okNext_next (wf_ite hs (wf_ite (wf_mailboxDone hs) (wf_ite (wf_mailboxDone hs) (wf_mailboxDone (wf_updHome hs)))))
  | raslostClear => exact okNext_next (wf_setReg hs)
  | registerWrite _ _ _ _ => exact okNext_next (wf_registerWrite hs)
  | peerPageResolved _ _ => exact okNext_next (wf_peerResolved hs)
  | vanarFrameDiscard _ => exact okNext_next (wf_ite (wf_countDiscard hs) hs)
  | priorityPause _ _ _ => exact okNext_next (wf_partnerPause hs)
  | timeSync r => exact okNext_next (wf_ite (wf_passTime (s := s) (t := r.time) hs) hs)

theorem wf_fetched {s t : State} {w : Issuer} (hs : s.mem.wf = true) (h : s.fetch w = .other t) : t.mem.wf = true := by
  unfold State.fetch at h
  split at h
  · cases h
  · extract_lets e stop at h
    have hstop : ∀ r, stop r = .other t → t.mem.wf = true := by
      rintro (⟨c, n⟩ | v) hr
      · cases hr
        exact wf_trapIn hs
      · cases hr
        exact wf_updFrag hs
    clear_value stop
    split at h
    · exact hstop _ h
    · split at h
      · exact hstop _ h
      · split at h
        · exact hstop _ h
        · split at h
          · cases h
          · split at h
            · exact hstop _ h
            · cases h

theorem okNext_issueStep {w : Issuer} {s : State} (hs : s.mem.wf = true) : okNext (issueStep w s) := by
  unfold issueStep
  split
  · exact okNext_next hs
  next t h => exact okNext_next (wf_fetched hs h)
  · exact okNext_exec hs

theorem wf_tried {s t : State} {w : Issuer} (hs : s.mem.wf = true) (h : s.tried w = some t) : t.mem.wf = true := by
  unfold State.tried at h
  split at h
  next u hu =>
    split at h
    · cases h
      exact okNext_issueStep hs _ hu
    · cases h
  · cases h

theorem wf_offer {x : List Issuer × State} {w : Issuer} (hs : x.2.mem.wf = true) : (State.offer x w).2.mem.wf = true := by
  unfold State.offer
  split
  · exact hs
  · split
    next s h => exact wf_tried hs h
    · exact wf_ite_snd hs hs

theorem wf_choose {s : State} (hs : s.mem.wf = true) : s.choose.mem.wf = true :=
  wf_foldl (wf_foldl_snd hs fun _ _ hs => wf_offer hs) fun _ _ hs => wf_counts hs

theorem okNext_moveStep {m : Option Move} {s : State} (hs : s.mem.wf = true) : okNext (moveStep m s) := by
  unfold moveStep
  split
  · exact okNext_exec hs
  · exact okNext_next (wf_quietMove hs)
  · exact okNext_next hs

theorem okNext_step {s : State} (hs : s.mem.wf = true) : okNext (step s) := by
  unfold step
  split
  · exact okNext_exec hs
  · split
    · exact okNext_issueStep hs
    · split
      · exact okNext_next (wf_choose hs)
      · split
        · exact okNext_exec (wf_takeInput hs)
        · exact okNext_moveStep hs

end Sys2Proof.Machine

namespace Sys2Proof.Proofs
open Sys2Proof.Machine

/-- Settles O58: the step's cases are those of `step`, each of which runs an instruction or event of `exec` or moves the device quietly. -/
theorem stepKeepsMemory : Obligations.StepKeepsMemory := fun _ t hs h => okNext_step hs t h

end Sys2Proof.Proofs
